-- ==== Sys2Proof/Word.lean ====
section
/-!
DEFINITION. The word types of the module (00_scope.md R7): bytes, 16-bit, 32-bit and 64-bit words, lane and task numbers.
-/
namespace Sys2Proof

/-- One byte. -/
abbrev Byte := BitVec 8

/-- A 16-bit field (TAG, FRAME_ID, ...). -/
abbrev Half := BitVec 16

/-- A 32-bit word: a literal, an image word, a payload word. -/
abbrev Word := BitVec 32

/-- A 64-bit word: a time, a signature, a mask. -/
abbrev Dword := BitVec 64

/-- Lane 0 to 2 (R15). -/
abbrev LaneId := Fin 3

/-- Task T0 to T7 (R76). -/
abbrev TaskId := Fin 8

/-- A Boolean as a bit of a field. -/
def bit (b : Bool) : Nat := if b then 1 else 0

/-- Saturating count: one more, stopping at `top`. -/
def satInc (top n : Nat) : Nat := if n < top then n + 1 else n

/-- Saturating sum at `top`. -/
def satAdd (top n k : Nat) : Nat := min top (n + k)

end Sys2Proof
end

