-- ==== Sys2Proof/Syntax.lean ====
section
/-!
DEFINITION. The commands of the module: one constructor of `Instr` per row of spec/opcode_table.json, with the operands
the row's rule names, and the small types the operands use.

A row of the command catalogue (R319) stands for that command arriving at a port in a correct packet; its operands are
the port, the TAG and the payload's fields. A raw packet, correct or not, arrives by WRITE_CMD and is checked by
COMMAND_TAKEN. A row that is an event carries what the event brings from outside (a frame, a sample, a measured value).
Operands with a default value stand last; the default only shortens the writing of the common case, and every value of
such an operand has its meaning.
-/
namespace Sys2Proof

/-- The two ports that carry commands: the host port and the maintenance slot (R225). -/
inductive Port where
  | host | maint
  deriving DecidableEq, Repr

/-- The two Floe channels (R187). -/
inductive Chan where
  | a | b
  deriving DecidableEq, Repr

/-- The two CAN channels (R366). -/
inductive CanCh where
  | can1 | can2
  deriving DecidableEq, Repr

/-- A vote record as one lane presents it (R127). -/
structure VRec where
  kind : BitVec 4
  tag  : Half
  data : Dword
  deriving DecidableEq, Repr

/-- How a vote of the lanes over a start-up result went: all serving lanes equal, one in the minority with the XOR of its DATA and the
voted DATA, or no two equal (R121, R141, R275, R395). -/
inductive Agreement where
  | all | minority (lane : LaneId) (xor : Dword) | none
  deriving DecidableEq, Repr

/-- What the check of a bank at a start finds (R107, R386): its CRCs recomputed, and at a power-on start its NAND validity record. -/
inductive BankCheck where
  | pass | litCrc | descCrc | validity
  deriving DecidableEq, Repr

/-- What wakes the module from DORMANT (R397). -/
inductive WakeSource where
  | hostSelect | can (ch : CanCh)
  deriving DecidableEq, Repr

/-- A fault that a lane detects on itself while it evaluates: an uncorrectable ECC error in a literal fetch, a literal that breaks
R40 to R46, an uncorrectable ECC error in image SRAM (R75, R138). -/
inductive EvalFault where
  | literalEcc | badLiteral | imageEcc
  deriving DecidableEq, Repr

/-- The kinds of CAN error that R384 LEC names, and a lost arbitration. -/
inductive CanError where
  | stuff | form | ack | bit1 | bit0 | crc | arbitration
  deriving DecidableEq, Repr

/-- Where a CAN error is met, as far as ISO 11898-1 counts it otherwise: in the frame; a stuff error of a transmitter in the
arbitration field whose recessive stuff bit reads dominant; while an active error flag or an overload flag is sent; as a dominant bit
after that flag, or each further run of eight; a dominant bit seen while a passive error flag is sent after a missing ACK. -/
inductive CanPhase where
  | frame | arbitrationStuff | inFlag | afterFlag | passiveFlag
  deriving DecidableEq, Repr

/-- What becomes of a frame that the MAC writes to its receive ring: stored, no place in the ring, or stored with an uncorrectable ECC
error that the lanes read as poison (R340, R343). -/
inductive RingFate where
  | stored | full | poisoned
  deriving DecidableEq, Repr

/-- A CAN frame on the bus (R374 W1, W2 and data). -/
structure CanFrame where
  ide  : Bool
  rtr  : Bool
  id   : BitVec 29
  fdf  : Bool
  brs  : Bool
  esi  : Bool
  dlc  : BitVec 4
  data : List Byte
  deriving DecidableEq, Repr

/-- One command or event of the module. -/
inductive Instr where
  -- host-port transactions (R303 to R306)
  | writeCmd (bytes : List Byte)
  | readResp (nbytes : Nat)
  | readStat
  | invalidTransaction (clocks : Nat) (code : Byte)
  -- mailbox (R311 to R318, R225)
  | commandTaken (p : Port) (poisoned : Bool := false)
  | completionQueued (p : Port)
  | restartCommandAction
  | maintFragmentReceive (payload : List Byte)
  -- identity, status, registers
  | ident (p : Port) (tag : Half)
  | status (p : Port) (tag : Half) (block : Byte) (first count : Word)
  | regPeek (p : Port) (tag : Half) (addr : Word) (count : Half)
  -- module state commands (R332)
  | rstWarmArm (p : Port) (tag : Half)
  | rstWarmExecute (p : Port) (tag : Half) (token : Word)
  | rstColdArm (p : Port) (tag : Half)
  | rstColdExecute (p : Port) (tag : Half) (token : Word)
  | pwrDormantArm (p : Port) (tag : Half)
  | pwrDormantExecute (p : Port) (tag : Half) (token : Word)
  | testEnterArm (p : Port) (tag : Half)
  | testEnterExecute (p : Port) (tag : Half) (token : Word)
  | testExitArm (p : Port) (tag : Half)
  | testExitExecute (p : Port) (tag : Half) (token : Word)
  -- configuration
  | taskCfg (p : Port) (tag : Half) (task : BitVec 3) (record : Word)
  | taskCfgArm (p : Port) (tag : Half) (task : BitVec 3) (record : Word)
  | taskCfgExecute (p : Port) (tag : Half) (token : Word) (task : BitVec 3) (record : Word)
  | ioCfg (p : Port) (tag : Half) (record : List Word)
  | timeSet (p : Port) (tag : Half) (setRate setTime : Bool) (time : Dword) (rate : Word)
  | timeSetSyncPoints (p : Port) (tag : Half) (sp0 sp1 sp2 sp3 : Word)
  -- programs
  | prgLoad (p : Port) (tag : Half) (first : Bool) (offset : Word) (data : List Byte)
  | prgVerify (p : Port) (tag : Half)
  | verifyComplete (nandEqual : Bool)
  | prgActivateArm (p : Port) (tag : Half) (litCrc descCrc : Dword)
  | prgActivateExecute (p : Port) (tag : Half) (token : Word) (litCrc descCrc : Dword)
  -- firmware
  | fwStage (p : Port) (tag : Half) (first last : Bool) (offset : Word) (data : List Byte)
  | fwActivateArm (p : Port) (tag : Half)
  | fwActivateExecute (p : Port) (tag : Half) (token : Word)
  -- image and host inputs
  | imgRead (p : Port) (tag : Half) (task : BitVec 3) (addr length : Word)
  | hinWrite (p : Port) (tag : Half) (first count : Word) (data : List Byte)
  -- Ice Core, FCU, lock-outs
  | iceOpen (p : Port) (tag : Half) (minSev : BitVec 4) (nand : Bool) (origin : BitVec 2) (startSeq : Word)
  | iceRead (p : Port) (tag : Half) (count : Byte) (eccFailed : List Word)
  | fcuRead (p : Port) (tag : Half) (first : Byte) (count : BitVec 9)
  | fcuAck (p : Port) (tag : Half) (all : Bool) (source : Byte)
  | fcuForce (p : Port) (tag : Half) (fclass : BitVec 3) (pattern : BitVec 2) (source : Byte)
  | lockArm (p : Port) (tag : Half) (kind index : Byte)
  | lockReset (p : Port) (tag : Half) (kind index : Byte) (token : Word)
  -- twin
  | twinCfg (p : Port) (tag : Half) (record : List Word)
  | twinSplitArm (p : Port) (tag : Half)
  | twinSplitExecute (p : Port) (tag : Half) (token : Word)
  | twinJoinArm (p : Port) (tag : Half)
  | twinJoinExecute (p : Port) (tag : Half) (token : Word)
  -- Floe
  | floeCfg (p : Port) (tag : Half) (record : List Word)
  | floeCfgArm (p : Port) (tag : Half) (record : List Word)
  | floeCfgExecute (p : Port) (tag : Half) (token : Word) (record : List Word)
  | floeSched (p : Port) (tag : Half) (mode : BitVec 2) (first last : Bool) (offset : Word) (entries : List Word)
  | floeSchedClear (p : Port) (tag : Half) (mode : BitVec 2)
  | floeModereq (p : Port) (tag : Half) (mode : BitVec 2)
  | modereqTimeout
  -- fabric
  | arbCfg (p : Port) (tag : Half) (record : List Word)
  | arbCounters (p : Port) (tag : Half) (clear : Bool)
  | cvuRun (p : Port) (tag : Half) (descriptors : List Word) (data : List Byte)
  | cvuChainComplete (poisoned : List Nat) (corrected : Nat := 0)
  -- CAN commands
  | canCfg (p : Port) (tag : Half) (ch : CanCh) (record : List Word)
  | canSend (p : Port) (tag : Half) (ch : CanCh) (buf : BitVec 6) (resume oneShot : Bool) (w2 w3 : Word)
      (data : List Byte)
  | canSendAbort (p : Port) (tag : Half) (ch : CanCh) (buf : BitVec 6)
  | canSendResume (p : Port) (tag : Half) (ch : CanCh) (buf : BitVec 6)
  | canRead (p : Port) (tag : Half) (ch : CanCh) (first count : Byte) (newOnly : Bool) (cutOff : Bool := false)
  -- Rime arming
  | rimeArmArm (p : Port) (tag : Half)
  | rimeArmExecute (p : Port) (tag : Half) (token : Word)
  -- starts and supply
  | powerOnStart (rimeAgrees iceAgrees logAgrees : Bool)
  | firmwareSlotCheck (pass0 pass1 pass2 fwMarkAgrees : Bool)
  | fwUpdateBoot (sig0 sig1 sig2 : Bool) (copyBad0 copyBad1 copyBad2 : Bool)
  | selftestComplete (logicOk memoryOk guardOk : Bool) (wrap0Ok wrap1Ok wrapTwinOk : Bool) (reintOk : Bool)
  | startupReached (bank0 bank1 : BankCheck) (retentive : Agreement) (locksAgree actBankAgrees homeAgrees : Bool)
  | serviceEntry
  | undervoltage (mv : Word)
  | supplyRestored (mv : Word)
  | brownout (storeMv : Word := 0)
  | overvoltageDisconnect (mv : Word)
  | overvoltageReconnect (mv : Word := 0)
  | laneRailsLost
  | laneRailWindowFault (lane : LaneId) (mv : Half := 0)
  | laneRailsCommonMode
  | dormantWake (src : WakeSource)
  | freeze (stopCycles : BitVec 4)
  -- JTAG (R403)
  | tapReset
  | extest (shiftIn : Dword)
  | samplePreload (shiftIn : Dword)
  | idcode
  | clamp
  | highz
  | idread
  | rimeStat
  | rimeSel (value : Word)
  | rimeRead
  | bypass (shiftIn : Bool) (code : Byte := 0xFF)
  -- rounds and tasks
  | roundStart
  | taskRelease (t : TaskId)
  | sliceCopyComplete (t : TaskId)
  | evaluationStart (t : TaskId) (fault : Option (LaneId × EvalFault))
  | taskYield (t : TaskId)
  | taskEnd (t : TaskId) (endTime : Dword) (backlog : Option LaneId)
  | deadlineInstant (t : TaskId) (literal : Word)
  | framCommitComplete (failed : Option LaneId)
  | activationBoundary
  | activationNoBoundary
  | actConfirmTimeout
  -- Floe events
  | frameTransmit (slot : Nat) (lateA lateB : Int) (poisonA poisonB : Bool := false)
  | frameReceive (ch : Chan) (arrival : Dword) (fcsOk : Bool) (frame : List Byte) (fate : RingFate := .stored)
  | correctionPoint
  | listenTimerExpiry
  | coldstartReceive (ch : Chan) (arrival : Dword) (frame : List Byte) (fcsOk : Bool := true)
  | coldstartDecision
  | coldstartTimeout
  | integrateTimeout
  | passiveTimeout
  | linkUp (ch : Chan)
  | linkDown (ch : Chan) (inFrame : Bool := false)
  | channelSilent (ch : Chan)
  | echoMissing (ch : Chan)
  | modeSwitch
  -- twin link
  | helloSend
  | hello (receipt : Dword) (msg : List Byte) (restarted : Bool := false)
  | actfwd (msg : List Byte)
  | actprop (msg : List Byte)
  | actconf (msg : List Byte)
  | insig (msg : List Byte)
  | inslice (msg : List Byte)
  | twcmp (msg : List Byte)
  | stsig (msg : List Byte)
  | splitreq (msg : List Byte)
  | splitack (msg : List Byte)
  | splitackTimeout
  | splitBoundary
  | splitNoBoundary
  | joinreq (msg : List Byte)
  | joinack (msg : List Byte)
  | joinackTimeout
  | stateblkSend
  | stateblk (msg : List Byte)
  | joinend (msg : List Byte)
  | joinabort (msg : List Byte)
  | joinNoEntry
  | joinRetry
  | agreeTimeout (t : TaskId)
  -- voting and lanes
  | voteRecord (r0 r1 r2 : VRec) (votersAgree parityOk : Bool) (inPath : Bool := false)
  | laneWatchdogExpiry (lane : LaneId)
  | reintResetElapsed (lane : LaneId)
  | reintTestComplete (lane : LaneId) (passed : Bool)
  | reintBulkCopyDone (lane : LaneId)
  | reintDeltaEmpty (lane : LaneId)
  | reintGapsExhausted (lane : LaneId)
  | scanStep
  -- local I/O
  | quenchEvaluation
  | inputSample (microamps : List (Nat × Nat))
  | fieldSupplySample (mv1 mv2 : Nat)
  | outputReadbackSample (mvMa : List (Nat × Nat))
  | testPulseStart (k : Fin 16)
  | testPulseEnd (k : Fin 16) (readOff : Bool) (fell : BitVec 16)
  | discriminationEnd (g : Fin 2) (readOn : Bool)
  | outputOverload (k : Fin 16) (ma : Nat)
  | ovlClear (k : Fin 16)
  | openLoad (k : Fin 16)
  | feedbackFault (k : Fin 16)
  | guardBeat (sincePrevUs : Nat)
  | guardHbEqual
  | guardTimeout
  -- sync points, faults, recorder
  | syncPointFire (k : Fin 4)
  | faultRaised (source : Byte) (rails : BitVec 2) (code : BitVec 3) (detail : Word)
  | faultEnd (source : Byte) (ms : Word)
  | iceRecordStore
  | nandPageWrite (failed : Option LaneId)
  -- fabric events
  | arbiterDecision (waits : List (Option Nat))
  | crossingResync (x : Fin 17) (discarded : Nat)
  | pulseTransfer (x : Fin 17) (pulses : Nat)
  | onlineTestStep (ok : Bool)
  -- CAN events
  | canFrameReceive (ch : CanCh) (frame : CanFrame) (sof : Word)
  | canTxComplete (ch : CanCh) (buf : Fin 64) (sof : Word) (loopDelayNs : Word)
  | canCollision (ch : CanCh) (buf : Fin 64)
  | canBusOff (ch : CanCh)
  | canBoHoldExpiry (ch : CanCh)
  | canBusOffRecovery (ch : CanCh)
  | canProtocolException (ch : CanCh)
  | canLockTimeout (ch : CanCh) (buf : Fin 64)
  | canWake (ch : CanCh) (frame : Option CanFrame := none)
  | canBusError (ch : CanCh) (err : CanError) (transmitting : Bool) (buf : Fin 64) (phase : CanPhase := .frame)
  | canIntegration (ch : CanCh)
  deriving DecidableEq, Repr

end Sys2Proof
end

