-- ==== Sys2Proof/Decode.lean ====
section
/-!
DEFINITION. Reading a command from the table's bits. The table of this block gives no row any bits: every row has the bits
"all" and no encoding, so no word spells a command.
-/
namespace Sys2Proof

/-- The command that a word spells by the table's bits: none, since no row of the table gives bits. -/
def decodeTableWord (_nbits _w : Nat) : Option Instr := none

end Sys2Proof
end

