-- ==== Sys2Proof/Machine/Bits.lean ====
section
/-!
DEFINITION. Byte order, bit fields and the check codes: most significant byte first (R7), CRC-64 (R68), CRC-32C (R310),
the CVU's other codes (R358), the CRC-8 of Rime words (R407) and the keyed safety code (R197: AES-CMAC, FIPS 197 and
NIST SP 800-38B).
-/
namespace Sys2Proof.Machine

/-- Field [hi:lo] of a word, as a number (R7: bit 0 is the least significant bit). -/
def fld {w : Nat} (x : BitVec w) (hi lo : Nat) : Nat := (x.toNat >>> lo) % 2 ^ (hi + 1 - lo)

/-- Bit i of a word. -/
def tst {w : Nat} (x : BitVec w) (i : Nat) : Bool := x.getLsbD i

/-- A number placed at bit `lo` of a 32-bit word. -/
def at32 (lo n : Nat) : Word := BitVec.ofNat 32 (n <<< lo)

/-- A Boolean placed at a bit of a 32-bit word. -/
def flag (i : Nat) (b : Bool) : Word := if b then at32 i 1 else 0

/-- The bytes of an n-byte number, most significant first (R7). -/
def beBytes : Nat → Nat → List Byte
  | 0, _ => []
  | n + 1, x => BitVec.ofNat 8 (x >>> (8 * n)) :: beBytes n x

/-- The number of a byte string, most significant first. -/
def beNat (bs : List Byte) : Nat := bs.foldl (fun a b => a * 256 + b.toNat) 0

def wordBytes (w : Word) : List Byte := beBytes 4 w.toNat

def dwordBytes (w : Dword) : List Byte := beBytes 8 w.toNat

def wordsBytes (ws : List Word) : List Byte := ws.flatMap wordBytes

/-- Bytes `off` to `off + n - 1`; bytes past the end read 0. -/
def slice (bs : List Byte) (off n : Nat) : List Byte :=
  let t := (bs.drop off).take n
  t ++ List.replicate (n - t.length) 0

/-- The number in n bytes at an offset. -/
def beAt (bs : List Byte) (off n : Nat) : Nat := beNat (slice bs off n)

/-- Word number i of a byte string. -/
def wordAt (bs : List Byte) (i : Nat) : Word := BitVec.ofNat 32 (beAt bs (4 * i) 4)

/-- The 64-bit value in words i and i + 1, word i holding bits [63:32]. -/
def dwordAt (bs : List Byte) (i : Nat) : Dword := BitVec.ofNat 64 (beAt bs (4 * i) 8)

/-- The 64-bit value of two words of a word list. -/
def dwordOf (hi lo : Word) : Dword := hi ++ lo

def hiWord (x : Dword) : Word := BitVec.ofNat 32 (x.toNat >>> 32)

def loWord (x : Dword) : Word := BitVec.ofNat 32 x.toNat

/-- Word number i of a word list, 0 past its end. -/
def nth (ws : List Word) (i : Nat) : Word := ws.getD i 0

/-- The words of a byte string whose length is a multiple of 4. -/
def bytesWords (bs : List Byte) : List Word := (List.range (bs.length / 4)).map (wordAt bs)

/-- n rounded up to a multiple of m. -/
def roundUp (m n : Nat) : Nat := (n + m - 1) / m * m

/-- ⌈a ÷ b⌉ (b > 0). -/
def ceilDiv (a b : Nat) : Nat := (a + b - 1) / b

/-- a ÷ b rounded to the nearest integer, an exact half away from zero (R211). -/
def roundHalfAway (a : Int) (b : Nat) : Int :=
  let q : Int := ((2 * a.natAbs + b) / (2 * b) : Nat)
  if a < 0 then -q else q

/-- An integer in two's complement. -/
def twos (w : Nat) (x : Int) : BitVec w := BitVec.ofInt w x

/-! ### Ethernet frames, without preamble and frame check sequence (R156, R192) -/

/-- Destination, source, EtherType, payload, and padding to the minimum of 46 bytes. -/
def ethFrame (dst src type : Nat) (payload : List Byte) : List Byte :=
  beBytes 6 dst ++ beBytes 6 src ++ beBytes 2 type ++ payload ++ List.replicate (46 - payload.length) 0

/-- The payload of a frame of an EtherType, padding included. A tagged frame has another EtherType there. The addresses are ignored. -/
def ethPayload (type : Nat) (frame : List Byte) : Option (List Byte) :=
  if 14 ≤ frame.length ∧ beAt frame 12 2 = type then some (frame.drop 14) else none

/-- Source address of a node: 02-46-4C-00-0h-hh (R192). -/
def nodeAddress (node : Nat) : Nat := 0x02464C000000 + node

/-! ### Reflected CRCs (R68, R310, R358): the register shifts right, so the polynomial stands bit-reversed -/

def crcBit {w : Nat} (poly r : BitVec w) : BitVec w := if r.getLsbD 0 then (r >>> 1) ^^^ poly else r >>> 1

def crcBits {w : Nat} (poly : BitVec w) : Nat → BitVec w → BitVec w
  | 0, r => r
  | n + 1, r => crcBits poly n (crcBit poly r)

def crcByte {w : Nat} (poly r : BitVec w) (b : Byte) : BitVec w := crcBits poly 8 (r ^^^ b.setWidth w)

/-- Folds bytes into a reflected CRC register. -/
def crcFold {w : Nat} (poly r : BitVec w) (bs : List Byte) : BitVec w := bs.foldl (crcByte poly) r

/-- 0x42F0_E1EB_A9EA_3693 bit-reversed (R68). -/
def crc64Poly : Dword := 0xC96C5795D7870F42

/-- 0x1EDC_6F41 bit-reversed (R310). -/
def crc32cPoly : Word := 0x82F63B78

/-- 0x04C1_1DB7 bit-reversed (R358). -/
def crc32Poly : Word := 0xEDB88320

/-- CRC-64 register folding (R68), without the final XOR. -/
def crc64Fold (r : Dword) (bs : List Byte) : Dword := crcFold crc64Poly r bs

/-- The register at the start (R68). -/
def crc64Init : Dword := BitVec.allOnes 64

/-- CRC-64 of a byte string (R68). -/
def crc64 (bs : List Byte) : Dword := crc64Fold crc64Init bs ^^^ BitVec.allOnes 64

/-- CRC-32C of a byte string (R310). -/
def crc32c (bs : List Byte) : Word := crcFold crc32cPoly (BitVec.allOnes 32) bs ^^^ BitVec.allOnes 32

/-! ### Unreflected CRCs -/

def crcMsbBit {w : Nat} (poly r : BitVec w) : BitVec w := if r.getMsbD 0 then (r <<< 1) ^^^ poly else r <<< 1

def crcMsbBits {w : Nat} (poly : BitVec w) : Nat → BitVec w → BitVec w
  | 0, r => r
  | n + 1, r => crcMsbBits poly n (crcMsbBit poly r)

def crcMsbByte {w : Nat} (poly r : BitVec w) (b : Byte) : BitVec w :=
  crcMsbBits poly 8 (r ^^^ (b.setWidth w <<< (w - 8)))

/-- CRC-16-CCITT folding, polynomial 0x1021 (R358). -/
def crc16Fold (r : BitVec 16) (bs : List Byte) : BitVec 16 := bs.foldl (crcMsbByte 0x1021) r

/-- CRC-8, polynomial 0x07, initial value 0 (R407). -/
def crc8 (bs : List Byte) : Byte := bs.foldl (crcMsbByte 0x07) 0

/-! ### AES-128 and AES-CMAC (R197) -/

/-- Multiplication by x in GF(2^8) (FIPS 197, 4.2.1). -/
def xtime (a : Byte) : Byte := if a.getMsbD 0 then (a <<< 1) ^^^ 0x1B else a <<< 1

/-- Multiplication in GF(2^8), bits of b from the least significant. -/
def gmul : Nat → Byte → Byte → Byte
  | 0, _, _ => 0
  | n + 1, a, b => (if b.getLsbD 0 then a else 0) ^^^ gmul n (xtime a) (b >>> 1)

def gsq (a : Byte) : Byte := gmul 8 a a

/-- The multiplicative inverse a^254, 0 for 0 (FIPS 197, 5.1.1). -/
def ginv (a : Byte) : Byte :=
  let a2 := gsq a
  let a3 := gmul 8 a2 a
  let a6 := gsq a3
  let a7 := gmul 8 a6 a
  let a14 := gsq a7
  let a15 := gmul 8 a14 a
  let a30 := gsq a15
  let a31 := gmul 8 a30 a
  let a62 := gsq a31
  let a63 := gmul 8 a62 a
  let a126 := gsq a63
  let a127 := gmul 8 a126 a
  gsq a127

/-- The S-box: inverse, then the affine map (FIPS 197, 5.1.1). -/
def sbox (a : Byte) : Byte :=
  let b := ginv a
  b ^^^ b.rotateLeft 1 ^^^ b.rotateLeft 2 ^^^ b.rotateLeft 3 ^^^ b.rotateLeft 4 ^^^ 0x63

/-- One round of the key schedule on the 16 bytes of a round key (FIPS 197, 5.2). -/
def nextRoundKey (rcon : Byte) (k : List Byte) : List Byte :=
  let w (i : Nat) : List Byte := (k.drop (4 * i)).take 4
  let x (a b : List Byte) : List Byte := List.zipWith (· ^^^ ·) a b
  let t := ((w 3).drop 1 ++ (w 3).take 1).map sbox
  let t := x t [rcon, 0, 0, 0]
  let w0 := x (w 0) t
  let w1 := x (w 1) w0
  let w2 := x (w 2) w1
  let w3 := x (w 3) w2
  w0 ++ w1 ++ w2 ++ w3

/-- ShiftRows on the column-major state (FIPS 197, 5.1.2). -/
def shiftRows (st : List Byte) : List Byte :=
  [0, 5, 10, 15, 4, 9, 14, 3, 8, 13, 2, 7, 12, 1, 6, 11].map (st.getD · 0)

def mixColumn (c : List Byte) : List Byte :=
  let a := c.getD 0 0
  let b := c.getD 1 0
  let d := c.getD 2 0
  let e := c.getD 3 0
  [xtime a ^^^ (xtime b ^^^ b) ^^^ d ^^^ e, a ^^^ xtime b ^^^ (xtime d ^^^ d) ^^^ e,
   a ^^^ b ^^^ xtime d ^^^ (xtime e ^^^ e), (xtime a ^^^ a) ^^^ b ^^^ d ^^^ xtime e]

def mixColumns (st : List Byte) : List Byte :=
  (List.range 4).flatMap fun i => mixColumn ((st.drop (4 * i)).take 4)

/-- Rounds 1 to 10 with the running round key and its rcon; round 10 has no MixColumns. -/
def aesRounds : Nat → Byte → List Byte → List Byte → List Byte
  | 0, _, _, st => st
  | n + 1, rcon, k, st =>
    let k := nextRoundKey rcon k
    let st := shiftRows (st.map sbox)
    let st := if n = 0 then st else mixColumns st
    aesRounds n (xtime rcon) k (List.zipWith (· ^^^ ·) st k)

/-- AES-128 of one 16-byte block. -/
def aes128 (key blk : List Byte) : List Byte := aesRounds 10 1 key (List.zipWith (· ^^^ ·) blk key)

/-- A 128-bit string shifted left by one, with the constant of NIST SP 800-38B. -/
def cmacDouble (b : List Byte) : List Byte :=
  let x := BitVec.ofNat 128 (beNat b)
  let y := if x.getMsbD 0 then (x <<< 1) ^^^ 0x87 else x <<< 1
  beBytes 16 y.toNat

/-- The CBC chain over n full blocks, then the masked last block. -/
def cmacChain (key last : List Byte) : Nat → List Byte → List Byte → List Byte
  | 0, _, c => aes128 key (List.zipWith (· ^^^ ·) c last)
  | n + 1, m, c => cmacChain key last n (m.drop 16) (aes128 key (List.zipWith (· ^^^ ·) c (m.take 16)))

/-- The AES-CMAC tag of a message (NIST SP 800-38B, 6.2). -/
def aesCmac (key : BitVec 128) (m : List Byte) : List Byte :=
  let kb := beBytes 16 key.toNat
  let k1 := cmacDouble (aes128 kb (List.replicate 16 0))
  let k2 := cmacDouble k1
  let n := max 1 (ceilDiv m.length 16)
  let tail := m.drop (16 * (n - 1))
  let last := if tail.length = 16 then List.zipWith (· ^^^ ·) tail k1
    else List.zipWith (· ^^^ ·) (slice (tail ++ [0x80]) 0 16) k2
  cmacChain kb last (n - 1) m (List.replicate 16 0)

/-- The keyed safety code: the most significant 64 bits of the tag (R197). -/
def keyedScode (key : BitVec 128) (m : List Byte) : Dword := BitVec.ofNat 64 (beNat ((aesCmac key m).take 8))

end Sys2Proof.Machine
end

