-- ==== Sys2Proof/Config.lean ====
section
/-!
DEFINITION. What one module is built with (identity "as built", R322) and the free values: constants without a body, so
that no proof can see what they are (log entries 4 and 5).
-/
namespace Sys2Proof.Config

/-- The n-th free value: a value that an instruction's rule leaves open. `State.freeCtr` counts the values drawn. -/
opaque freeValue : Nat → BitVec 64

/-- Module serial number, as built (R322 SERIAL). -/
opaque serial : BitVec 64

/-- Safety device lot code, 7 ASCII characters, as built (R322 LOT). -/
opaque lot : BitVec 56

/-- Wafer number, as built (R322 WAFER). -/
opaque wafer : BitVec 8

/-- Die X position, as built (R322 DIE_X). -/
opaque dieX : BitVec 6

/-- Die Y position, as built (R322 DIE_Y). -/
opaque dieY : BitVec 6

/-- True for a BLV-7340-F, false for a BLV-7340-C (R3, R322 VARIANT). -/
opaque isVariantF : Bool

/-- Firmware version a module leaves the factory with (R322 FW_VERSION); its major version is 3 by R1. -/
opaque factoryFwVersion : BitVec 24

/-- Anti-rollback fuses blown at the factory (R322 ANTI_ROLLBACK), 0 to 64. -/
opaque factoryRollback : Fin 65

/-- Length of the boundary register in bits (R403: per the BSDL file, not in the manual). -/
opaque boundaryLen : Nat

/-- What the n-th capture of the boundary register gives (R403: per the BSDL file, not in the manual). -/
opaque boundary : Nat → BitVec 64

/-- A word of a Rime chain whose layout the manual does not give (R408): freeze, chain, word index. -/
opaque chainWord : Nat → Nat → Nat → BitVec 32

end Sys2Proof.Config
end

