-- ==== Sys2Proof/Machine/State.lean ====
section
/-!
DEFINITION. The state of the module as plain data, the ways a step can stop, and the state right after reset.

`State.reset` is the state that a power-on start of a module as it left the factory leaves (the column "After cold
restart" of every field map holds after cold restart and after power-on start; R324 gives MSTATE 0x1, BOOT).
-/
namespace Sys2Proof.Machine

/-- A sparse memory: strictly rising addresses, no entry equal to what an unlisted address reads as (0). -/
abbrev Mem := List (Nat × Byte)

/-- A sparse table by number. -/
abbrev Tbl (α : Type) := List (Nat × α)

/-- Module states (R30), coded as in R324. -/
inductive MState where
  | off | boot | selftest | startup | service | test | recovery | hold | dormant | safe | frozen
  deriving DecidableEq, Repr

/-! ### Ice Core (R290 to R297) -/

/-- An Ice Core record (R290); SEQ is 0 until the Ice Core assigns it. -/
structure IceRec where
  seq  : Word
  time : Dword
  code : Half
  sev  : Nat
  src  : Nat
  p0   : Word
  p1   : Word
  p2   : Word
  p3   : Word
  deriving DecidableEq, Repr

/-- One port's cursor (R296). -/
structure Cursor where
  pos    : Word
  nand   : Bool
  minSev : Nat
  deriving DecidableEq, Repr

structure Ice where
  /-- inbound queue, oldest first (R294) -/
  inbound   : List IceRec
  /-- records held at their source while the Ice Core is gated in DORMANT (R357) -/
  held      : List IceRec
  /-- SRAM store, ascending SEQ -/
  store     : List IceRec
  /-- NAND ring, ascending SEQ -/
  ring      : List IceRec
  /-- NAND queue, oldest first, with the 1 ms counter at the store (R295) -/
  nandQueue : List (IceRec × Nat)
  /-- the SEQ the next stored record takes -/
  nextSeq   : Word
  drops     : Nat
  ndrops    : Nat
  hostCur   : Option Cursor
  maintCur  : Option Cursor
  /-- persistence to NAND stopped until the next restart (R279, R283) -/
  stopped   : Bool
  deriving DecidableEq, Repr

/-! ### Fault collection (R277 to R288) -/

/-- One FCU source (R286 entry, R288 force bit). -/
structure FcuSource where
  /-- accepted pattern, rail 1 in bit 1 -/
  rail       : BitVec 2
  /-- the source's real pattern (R288) -/
  real       : BitVec 2
  /-- the forced pattern and its class code -/
  force      : Option (BitVec 2 × BitVec 3)
  unack      : BitVec 4
  lastClass  : Nat
  lastBroken : Bool
  lastEsc    : Bool
  count      : Nat
  lastSeq    : Word
  /-- 1 ms counter when ACTIVE became 1 -/
  activeMs   : Nat
  deriving DecidableEq, Repr

structure Fcu where
  sources     : Tbl FcuSource
  faults      : Nat
  escalations : Nat
  broken      : Nat
  deriving DecidableEq, Repr

/-! ### FRAM (R120, R274, R395) -/

/-- One journal record (R120): task, COMMIT_SEQ, CONT, and the changed bytes by home-copy address. -/
structure Journal where
  task    : Nat
  seq     : Nat
  cont    : Bool
  entries : List (Nat × Byte)
  deriving DecidableEq, Repr

/-- A lock-out record (R274); LK_CRC is computed from the rest. -/
structure LockRec where
  kind   : Byte
  index  : Byte
  cause  : Half
  iceSeq : Word
  time   : Dword
  source : Byte
  deriving DecidableEq, Repr

structure Fram where
  home       : Mem
  rbFirst    : Nat
  rbCount    : Nat
  rwFirst    : Nat
  rwCount    : Nat
  commitSeq  : Nat
  /-- records to write; the first is the one being written -/
  waiting    : List Journal
  /-- records of a set whose last record is not yet written -/
  partialSet : List Journal
  /-- next COMMIT_SEQ -/
  nextCommit : Nat
  locks      : List LockRec
  startCount : Nat
  startKind  : Byte
  startCause : Byte
  iceMark    : Word
  /-- FW_MARK: an activation is pending; FW_VERSION and ROLLBACK of the staged image (R395) -/
  fwMark     : Option (Word × Nat)
  rimeMark   : Option (Dword × BitVec 4)
  deriving DecidableEq, Repr

/-! ### Lanes and voters (R124 to R152) -/

inductive LaneState where
  | serving | reset | test | copy | delta | entry | locked
  deriving DecidableEq, Repr

/-- A fingerprint (R141): KIND and the XOR of all 84 bits for a minority (KIND, TAG, DATA), else KIND 0 and the cause. -/
structure Fingerprint where
  kind  : BitVec 4
  /-- XOR bits [83:80], the KINDs -/
  kx    : BitVec 4
  hi    : Half
  lo    : Dword
  cause : Byte
  deriving DecidableEq, Repr

structure LaneSt where
  st         : LaneState
  lock       : Bool
  lastCause  : Byte
  /-- the last three exclusions, newest first: 1 ms counter and fingerprint (R142) -/
  history    : List (Nat × Fingerprint)
  /-- 1 ms counters of reintegration starts in the last 60 minutes (R142) -/
  reintMs    : List Nat
  exclTotal  : Nat
  lastExclMs : Nat
  fp         : Fingerprint
  /-- COPY: blocks of the bulk pass not yet copied at the instant `copyFrom` (R147, R151) -/
  dirty      : Nat
  /-- COPY: CD7 cycle count up to which `dirty` has been brought -/
  copyFrom   : Nat
  /-- blocks written after their copy began (R147) -/
  marked     : List Nat
  /-- image SRAM and FRAM of a lane that does not serve; a serving lane holds the image and the FRAM of the State (R15, R16, R147) -/
  img        : Mem
  ownFram    : Fram
  /-- idle gaps passed in DELTA (R145) -/
  gaps       : Nat
  /-- TAG of the next record (R127) -/
  tag        : Half
  /-- lane diagnostic block (R326) -/
  lpEcc      : Nat
  sramEcc    : Nat
  nandRetry  : Nat
  framRetry  : Nat
  railMv     : Nat
  deriving DecidableEq, Repr

structure Voter where
  /-- KINDs whose latest record was not passed on (R17, R130, R131): what waits for such a record does not take place -/
  lost       : List Nat
  /-- the lane masked last: its records already in the vote path still vote (R139) -/
  lastMasked : Option Nat
  hbA        : Bool
  hbB        : Bool
  hbRun      : Bool
  /-- the heartbeat stopped and waits for a restart (R150) -/
  hbStopped  : Bool
  selftestN  : Nat
  /-- every self-test since the previous toggle passed (R150) -/
  selftestOk : Bool
  /-- 1 ms counter of the latest self-test -/
  selftestMs : Nat
  minor0     : Nat
  minor1     : Nat
  minor2     : Nat
  scanSweeps : Nat
  scanChunk  : Nat
  /-- round of the latest scan step (R136: one per round) -/
  scanRound  : Option Nat
  /-- the restore signature presented before STARTUP (R135) -/
  restoreSig : Dword
  deriving DecidableEq, Repr

/-! ### Time base (R92 to R102) -/

/-- A steered count of network time (R92, R94); the slew is held in sixteenths of a nanosecond. -/
structure Clock where
  ns     : Dword
  frac   : Word
  rate   : Word
  slew16 : Int
  deriving DecidableEq, Repr

/-- A sync point (R101, R102). -/
structure SyncPoint where
  cfg    : Word
  time   : Dword
  pend   : Bool
  miss   : Nat
  deriving DecidableEq, Repr

structure TimeBase where
  tb        : Clock
  sync      : BitVec 2
  compLimit : Word
  sp        : Vector SyncPoint 4
  /-- integration counter (R211), running in LISTEN, COLDSTART and INTEGRATE once set -/
  integ     : Clock
  integRun  : Bool
  /-- the 1 ms counter of R142 and its CD7 cycles within the millisecond -/
  ms        : Nat
  msCyc     : Nat
  /-- CAN_TS and its CD7 cycles within the microsecond (R378) -/
  canTs     : Word
  canCyc    : Nat
  /-- round of the latest PINNED record while TB_RATE stays pinned, and the same of the integration counter (R95) -/
  pinRound  : Option Nat
  pinInteg  : Option Nat
  deriving DecidableEq, Repr

/-! ### Program banks (R66, R104 to R116) -/

inductive BankSt where
  | empty | loading | loaded | verifying | valid | invalid | active
  deriving DecidableEq, Repr

structure Bank where
  st       : BankSt
  failCode : Half
  /-- bytes of the .nkp file, in order; LOADED_BYTES is their number while the load count stands -/
  file     : List Byte
  loaded   : Nat
  owner    : Port
  /-- port and TAG of the pending PRG.VERIFY -/
  verify   : Option (Port × Half)
  slots    : List Nat
  deriving DecidableEq, Repr

/-- A scheduled or proposed activation (R109 to R117). -/
structure Activation where
  bank      : Bool
  roundA    : Nat
  /-- the port and TAG that wait for the completion; none at a twin that only follows -/
  client    : Option (Port × Half)
  /-- ACT_SCHED: the activation is scheduled (R117) -/
  confirmed : Bool
  /-- follower: the confirmation has been sent and round a + 2 has not started (R117) -/
  sent      : Bool
  litCrc    : Dword
  descCrc   : Dword
  deriving DecidableEq, Repr

structure Prog where
  bank0   : Bank
  bank1   : Bank
  /-- ACT_BANK (R112, R395): the bank that is ACTIVE -/
  actBank : Option Bool
  sched   : Option Activation
  /-- the boundary has passed and the remap, which follows the input agreement, is still to come: the old bank (R112) -/
  remapFrom : Option (Option Bank)
  /-- a switch at a boundary whose completion waits for the first task end in the new bank: port and TAG, round, TB_NS (R108,
  R119) -/
  report  : Option ((Port × Half) × Nat × Dword)
  deriving DecidableEq, Repr

/-! ### Tasks (R76 to R91) -/

/-- A publication (R85): the round in which its frames are sent (R27), whether its cycle was agreed (R173), the frames by FRAME_ID. -/
structure Pub where
  round  : Nat
  /-- release round of the cycle (R178) -/
  rel    : Nat
  agreed : Bool
  frames : List (Nat × List Byte)
  deriving DecidableEq, Repr

/-- A cycle in progress. -/
structure Cycle where
  release  : Dword
  relRound : Nat
  slice    : List Byte
  /-- FRAME_IDs of the DATA receive buffers in the slice -/
  dataIds  : List Nat
  inSig    : Option Dword
  /-- ROLE of the own INSIG (R165) -/
  role     : Bool
  /-- the partner's INSIG: ROLE and signature (R170) -/
  peerSig  : Option (Bool × Dword)
  /-- an agreed cycle, or not yet, or unagreed (R171) -/
  agreed   : Bool
  unagreed : Bool
  /-- bytes of INSLICE received so far (R170) -/
  adopted  : List Byte
  started  : Bool
  paused   : Bool
  /-- literal offset within the segment -/
  pc       : Nat
  /-- running CRC register of the evaluation signature (R135) -/
  sig      : Dword
  overrun  : Bool
  /-- the boundary at which the task yields next, in literals (R81) -/
  yieldAt  : List Nat
  /-- key slot of the frames that the cycle publishes (R197) -/
  keySel   : Bool
  deriving DecidableEq, Repr

structure TaskSt where
  cfg        : Word
  /-- stopped under R86: EN cleared in SERVICE, or task lock-out -/
  stopped    : Bool
  /-- a stopped task has passed a would-be release (R86) -/
  gone       : Bool
  cycles     : Nat
  overruns   : Nat
  maxEndUs   : Nat
  pubSeq     : Word
  latchTime  : Dword
  /-- the next evaluation is the first after a restart, a warm restart, an activation (R41, R54, R123) -/
  first      : Bool
  warm       : Bool
  newprg     : Bool
  run        : Option Cycle
  prevOver   : Bool
  prevInSig  : Dword
  prevEval   : Dword
  /-- reference schedule (R81): slots executed while ready -/
  refReady   : Bool
  refPos     : Nat
  /-- publications handed to the MACs whose round has not passed, oldest first (R27, R85) -/
  pubs       : List Pub
  /-- own comparison of the latest cycle (R175): release round, OVERRUN, OUT_SIG, EVAL_SIG, PUB_SEQ -/
  ownCmp     : Option (Nat × Bool × Dword × Dword × Word)
  peerCmp    : Option (Nat × Bool × Dword × Dword)
  /-- own and partner input signature of the cycle in `ownCmp` (R180) -/
  cmpIn      : Option (Dword × Dword)
  shadowDiff : Bool
  deriving DecidableEq, Repr

/-- A controller status record (R237). -/
structure OcStatus where
  lastOk  : Nat
  lastSeq : Word
  lost    : Bool
  never   : Bool
  ocState : BitVec 4
  valid   : Bool
  lossCnt : Nat
  /-- the frame received last was ALT of its receive buffer (R200, R238) -/
  fromAlt : Bool
  deriving DecidableEq, Repr

/-- An element a program activation introduced, whose previous-value bits are loaded at the next evaluation (R54, R114). -/
inductive Fresh where
  | timer (i : Nat) | counter (i : Nat) | edge (i : Nat)
  deriving DecidableEq, Repr

structure Tasks where
  t        : Vector TaskSt 8
  /-- SERVICE origin round (R22, R168) -/
  origin   : Nat
  /-- network time to which the reference schedule has been advanced, in ns -/
  refNow   : Nat
  /-- segments that the reference schedule has completed and the lanes have not, in its order: task, and the yield boundary or none
  for the END (R81, R82) -/
  order    : List (Nat × Option Nat)
  /-- tasks whose cycle the lanes have ended ahead of the reference schedule (R83) -/
  ahead    : List Nat
  /-- 0: TASK.CFG may set EN; 1: refused until the next restart (R77) -/
  enLocked : Bool
  oc       : Tbl OcStatus
  newEls   : List Fresh
  deriving DecidableEq, Repr

/-! ### Twin pair (R153 to R186) -/

inductive PState where
  | single | alone | paired | silent | joining | shadow | removed
  deriving DecidableEq, Repr

/-- The latest accepted partner HELLO (R159). -/
structure PeerHello where
  health  : Word
  txTime  : Dword
  receipt : Dword
  litCrc  : Dword
  descCrc : Dword
  cfgCrc  : Dword
  round   : Nat
  deriving DecidableEq, Repr

/-- A split in progress (R178). -/
structure Split where
  mine   : Bool
  roundS : Nat
  client : Option (Port × Half)
  acked  : Bool
  deriving DecidableEq, Repr

/-- A join in progress (R181 to R183). -/
structure Join where
  /-- this twin is the one that joins -/
  mine    : Bool
  roundP  : Nat
  client  : Option (Port × Half)
  acked   : Bool
  /-- state the joining twin came from -/
  cameFrom : PState
  /-- serving twin: round of its JOINACK; blocks whose stream has not started; the block being sent and its next quarter -/
  ackRound : Nat
  unsent  : List Nat
  cur     : Option (Nat × Nat)
  /-- blocks written after their stream started (R183) -/
  marked  : List Nat
  /-- joining twin: quarters received, and the journal slots received -/
  quarters : Nat
  journal : Mem
  /-- T0 boundaries seen since the bulk pass (R179) -/
  tries   : Nat
  entryRound : Option Nat
  /-- joining twin: origin round and scan position of the copied runtime record (R182) -/
  origin  : Nat
  scan    : Nat
  deriving DecidableEq, Repr

structure Twin where
  w0        : Word
  w1        : Word
  /-- the record in force since the last restart -/
  liveW0    : Word
  liveW1    : Word
  ps        : PState
  silentCause : Byte
  /-- from the accepted beacon: LEADER, EPOCH, MISS_A, MISS_B (R162) -/
  leaderSeen : BitVec 2
  epochSeen : Half
  missA     : Bool
  missB     : Bool
  /-- LEADER of the roles in force (R164) -/
  roles     : BitVec 2
  linkOk    : Bool
  /-- a HELLO was accepted in this round, and in the last completed rounds -/
  helloNow  : Bool
  helloRuns : Nat
  delayNs   : Int
  offsetNs  : Int
  offsetBad : Nat
  peer      : Option PeerHello
  txSeq     : Word
  rxSeq     : Option Word
  /-- messages queued for the twin link, in sending order: priority, and header and body with MSEQ 0 (R158) -/
  txQueue   : List (Nat × List Byte)
  split     : Option Split
  join      : Option Join
  /-- round of the split boundary at which this twin became SHADOW (R178) -/
  shadowRound : Nat
  /-- 1 ms counter before which an automatic join is not retried (R167) -/
  retryMs   : Nat
  adopt     : Nat
  agreeMiss : Nat
  cmpMismatch : Nat
  cmpMiss   : Nat
  scodeFail : Nat
  linkRej   : Nat
  mseqGap   : Nat
  lastDivMs : Nat
  hasDiv    : Bool
  /-- own and partner scan or remap signature: WKIND, WID, ROUND, SIG (R175) -/
  ownSt     : Option (Byte × Byte × Word × Dword)
  peerSt    : Option (Byte × Byte × Word × Dword)
  shCycles  : Nat
  shIn      : Nat
  shOut     : Nat
  deriving DecidableEq, Repr

/-! ### Floe (R187 to R226) -/

inductive FState where
  | down | listen | coldstart | integrate | sync | passive
  deriving DecidableEq, Repr

/-- A receive buffer (R199): PRIMARY and ALT payloads. -/
structure RxBuf where
  primary : List Byte
  alt     : Option (List Byte)
  altCh   : Chan
  /-- channel of PRIMARY -/
  prCh    : Chan
  deriving DecidableEq, Repr

/-- A received COLDSTART awaiting its decision (R216). -/
structure ColdRx where
  node       : Nat
  firstRound : Word
  mode       : BitVec 2
  sentNs     : Dword
  deriving DecidableEq, Repr

/-- One load of a schedule mode in progress (R205, R337). -/
structure SchedLoad where
  owner   : Port
  entries : List Word
  deriving DecidableEq, Repr

structure FloeChan where
  linkUp    : Bool
  ok        : Bool
  txOff     : Bool
  goodRounds : Nat
  badRounds : Nat
  echoMissRounds : Nat
  /-- in this round: the accepted beacon, a valid beacon, a counted sync frame, the echo of the own STATUS frame -/
  beaconNow : Bool
  heardNow  : Bool
  syncNow   : Bool
  echoNow   : Bool
  /-- deviation of the echo of the own STATUS frame in this round -/
  ownDev    : Option Int
  silentRaised : Bool
  rxOk      : Nat
  rxFcs     : Nat
  rxScode   : Nat
  rxSeq     : Nat
  rxAge     : Nat
  rxWin     : Nat
  dupMm     : Nat
  guardCut  : Nat
  echoMiss  : Nat
  txFrames  : Nat
  ringOvf   : Nat
  deriving DecidableEq, Repr

structure Floe where
  /-- configuration record W0 to W3, stored and in force (R189) -/
  cfg       : List Word
  live      : List Word
  /-- schedules stored and in force, 4 words an entry (R204) -/
  sched     : Vector (Option (List Word)) 4
  liveSched : Vector (Option (List Word)) 4
  loads     : Tbl SchedLoad
  fstate    : FState
  mode      : BitVec 2
  swPend    : Bool
  modeNext  : BitVec 2
  switchRound : Word
  /-- MODE_CUR of a beacon that differs (R220), adopted at the next round start -/
  slip      : Option (BitVec 2)
  /-- key slot used for sending now, and from the next round (R197) -/
  keyCur    : Bool
  keyNext   : Bool
  round     : Nat
  chA       : FloeChan
  chB       : FloeChan
  rx        : Tbl RxBuf
  /-- last received SEQ by key (R200) -/
  seqHist   : Tbl Word
  beaconRank : Nat
  mismatch  : Bool
  /-- deviations that count in this round: slot, channel, dev (R209) -/
  devs      : List (Nat × Chan × Int)
  /-- fault-tolerant midpoint of the round, values used, own deviations (R210, R212, R226) -/
  ftm       : Int
  syncUsed  : Nat
  ownDevA   : Int
  ownDevB   : Int
  passiveCnt : Nat
  coldCnt   : Nat
  passiveRounds : Option Nat
  passiveGood : Nat
  passiveMs : List Nat
  integGood : Nat
  integRounds : Nat
  syncNext  : Bool
  /-- CD7 cycle count and KEY_NEXT of the latest idle beacon (R214, R215) -/
  idleCyc   : Option Nat
  idleKey   : Bool
  coldA     : Option ColdRx
  coldB     : Option ColdRx
  /-- the cold start adopted: first round, and whether it loads the time base -/
  coldTake  : Option (Word × Bool)
  mreq      : Option (BitVec 2 × Port × Half × Nat)
  /-- SEQ of the latest frame sent that is not a DATA frame (R194) -/
  nodeSeq   : Word
  /-- nothing more is sent in this round (R212, R220) -/
  mute      : Bool
  /-- MODE_SLIP of R220 -/
  modeSlip  : Nat
  /-- the selected key slot was found empty and its fault raised (R197) -/
  keyEmpty  : Bool
  dupFrame  : Half
  dupRounds : Tbl Nat
  /-- Ethernet frames the module has put on the wire in this round, as far as the guardian let them (R192, R217): slot, channel, whether
  the FCS is right, bytes -/
  sent      : List (Nat × Chan × Bool × List Byte)
  /-- payloads of MAINT frames received whose fragments have not been taken (R225) -/
  maintRx   : List (List Byte)
  deriving DecidableEq, Repr

/-! ### Local I/O (R246 to R276) -/

inductive InClass where
  | off | on | brk | undef
  deriving DecidableEq, Repr

structure InSt where
  cand    : InClass
  count   : Nat
  target  : Nat
  cls     : InClass
  raw     : InClass
  n       : Nat
  /-- samples since the first sample that left the filtered class (R253) -/
  bounce  : Option Nat
  /-- N_req of the latest accepted changes since the history restarted -/
  hist    : List Nat
  evtSupp : Nat
  evtMs   : Option Nat
  pinMs   : Option Nat
  ua      : Nat
  deriving DecidableEq, Repr

inductive FsState where
  | missing | low | ok | over
  deriving DecidableEq, Repr

structure FsSt where
  st   : FsState
  mv   : Nat
  /-- consecutive samples toward the state named -/
  cand : FsState
  run  : Nat
  /-- the supply was OK at the sample before the latest: its group follows its commands (R265) -/
  lagOk : Bool
  deriving DecidableEq, Repr

structure OutSt where
  /-- command as last published (R257) -/
  cmd      : Bool
  /-- the command in force (R257), and the CD7 cycle count of its latest change -/
  command  : Bool
  cmdCyc   : Nat
  rbOn     : Bool
  rbOff    : Bool
  ovl      : Bool
  openLd   : Bool
  failOn   : Bool
  fbFault  : Bool
  pulse    : Bool
  ma       : Nat
  /-- consecutive samples ON when commanded off, and OFF when commanded on -/
  onRun    : Nat
  offRun   : Nat
  deriving DecidableEq, Repr

structure RuleSt where
  active : Bool
  cond   : Bool
  /-- REL_IN was seen at a valid OFF while COND was 0 -/
  relOff : Bool
  deriving DecidableEq, Repr

/-- The output guard (R267, R268). -/
structure Guard where
  tripped   : Bool
  /-- consecutive accepted beats since the trip -/
  accepted  : Nat
  trips     : Nat
  lastBeatMs : Nat
  deriving DecidableEq, Repr

/-- The acknowledge press (R276): start of a press in progress, and the finished press. -/
structure Ack where
  startMs  : Option Nat
  /-- start, end; the groups whose conditions held throughout -/
  done     : Option (Nat × Nat × Bool × Bool)
  g1Held   : Bool
  g2Held   : Bool
  deriving DecidableEq, Repr

/-- A COS record (R255). -/
structure CosRec where
  input : Nat
  cls   : InClass
  seq   : Word
  time  : Dword
  deriving DecidableEq, Repr

structure Io where
  cfg     : List Word
  live    : List Word
  inputs  : Vector InSt 32
  outs    : Vector OutSt 16
  rules   : Vector RuleSt 16
  fs1     : FsSt
  fs2     : FsSt
  guard   : Guard
  gen1    : Bool
  gen2    : Bool
  /-- the output under discrimination of each group (R262) -/
  disc1   : Option Nat
  disc2   : Option Nat
  cos     : List CosRec
  cosLost : Nat
  cosSeq  : Word
  ack     : Ack
  deriving DecidableEq, Repr

/-! ### Ports (R304 to R338) -/

/-- An operation that answered PENDING (R313). -/
structure PendOp where
  opcode : Half
  tag    : Half
  deriving DecidableEq, Repr

/-- A token (R317): opcode, payload it is bound to without PHASE and TOKEN, value, 1 ms counter of the arm response. -/
structure Token where
  opcode : Half
  bound  : List Word
  value  : Word
  ms     : Nat
  deriving DecidableEq, Repr

/-- A maintenance packet in progress (R224, R225): PKT_ID, FRAG_CNT, the next FRAG, PKT_LEN, the round of the last
fragment and the bytes so far. -/
structure FragSt where
  pktId  : Half
  cnt    : Nat
  next   : Nat
  pktLen : Nat
  round  : Nat
  bytes  : List Byte
  deriving DecidableEq, Repr

structure PortSt where
  cmds    : List (List Byte)
  resps   : List (List Byte)
  pend    : List PendOp
  /-- completions that wait for a place (R314) -/
  waiting : List (List Byte)
  tokens  : List Token
  prevToken : Word
  crcErr  : Nat
  frameErr : Nat
  cmdOvf  : Nat
  respReread : Nat
  commands : Nat
  /-- maintenance slot: a packet in progress -/
  frags   : Option FragSt
  /-- maintenance slot: fragment of the oldest response sent next, and PKT_ID -/
  txFrag  : Nat
  txPkt   : Half
  deriving DecidableEq, Repr

/-- An IMG.READ that waits for its copy (R328). -/
structure ImgWait where
  port   : Port
  tag    : Half
  task   : Nat
  addr   : Nat
  length : Nat
  deriving DecidableEq, Repr

/-- The restart or state change that follows an OK response (R318). -/
inductive Action where
  | rstWarm | rstCold | testExit | fwActivate | dormant | lockReset
  deriving DecidableEq, Repr

structure HostIf where
  host    : PortSt
  maint   : PortSt
  imgs    : List ImgWait
  /-- actions of R318 to come, in the order of their commands: action, port whose response it waits on, responses ahead of it in the
  mailbox, 1 ms counter when it was queued -/
  actions : List (Action × Port × Nat × Nat)
  /-- what the last read transaction gave the host on HIO -/
  hio     : List Byte
  /-- 0: first half of the host-input buffer in force; 1: second (R343) -/
  hinHalf : Bool
  deriving DecidableEq, Repr

/-! ### Firmware and Snowbank (R333, R399) -/

inductive SnowSt where
  | empty | staging | staged
  deriving DecidableEq, Repr

structure Firmware where
  version  : Word
  fuses    : Nat
  /-- the active slot of each lane; none: the factory image, whose bytes the spec does not give (R388, R399) -/
  slots    : Vector (Option (List Byte)) 3
  snow     : SnowSt
  image    : List Byte
  owner    : Port
  deriving DecidableEq, Repr

/-- Keys: registers and wrapped copies (R390). -/
structure Keys where
  reg0  : Option (BitVec 128)
  reg1  : Option (BitVec 128)
  regT  : Option (BitVec 128)
  wrap0 : Option (BitVec 128)
  wrap1 : Option (BitVec 128)
  wrapT : Option (BitVec 128)
  /-- a key slot loaded in SERVICE, in force from the next round start (R190) -/
  next0 : Option (BitVec 128)
  next1 : Option (BitVec 128)
  deriving DecidableEq, Repr

/-! ### Fabric (R340 to R364) -/

structure ArbReq where
  waitNow   : Option Nat
  aged      : Bool
  pinMs     : Option Nat
  grants    : Nat
  waitTotal : Nat
  waitMax   : Nat
  deriving DecidableEq, Repr

structure Crossing where
  notReady : Bool
  ovf      : Bool
  xdrop    : Nat
  ovfMs    : Option Nat
  deriving DecidableEq, Repr

/-- A CVU chain accepted and not yet ended (R361). -/
structure Chain where
  port  : Port
  tag   : Half
  descs : List Word
  data  : List Byte
  /-- source bytes of each descriptor, as they stood when the chain took their areas; none before it starts -/
  snap  : Option (List (List Byte))
  /-- the descriptor in progress, as far as STATUS has shown it -/
  stage : Nat
  deriving DecidableEq, Repr

structure Fabric where
  arbRec   : List Word
  arbLive  : List Word
  reqs     : Vector ArbReq 12
  decisions : Nat
  winner   : Option Nat
  eccCorr  : Nat
  eccUncorr : Nat
  xs       : Vector Crossing 17
  chains   : List Chain
  cvuRuns  : Nat
  cvuMism  : Nat
  cvuBytes : Nat
  bistPos  : Nat
  deriving DecidableEq, Repr

/-! ### CAN (R366 to R385) -/

inductive CState where
  | stopped | active | passive | busOff | busOffHold | sleep
  deriving DecidableEq, Repr

/-- What waits for the frame in progress on a channel: a record to load, or the end of its part in the bus (R367, R382, R385). -/
inductive CanWait where
  | load (record : List Word) | stop
  deriving DecidableEq, Repr

structure CanSt where
  /-- record W0 to W7 and filters F0 to F127 -/
  cfg      : List Word
  st       : CState
  /-- waits for 11 recessive bits (R367, R373) -/
  integrating : Bool
  /-- stopped by a class 3 until the next restart (R380) -/
  halted   : Bool
  lec      : BitVec 3
  tec      : Nat
  recv     : Nat
  rxOk     : Nat
  txOk     : Nat
  rxLost   : Nat
  lockTo   : Nat
  busOffCnt : Nat
  collSusp : Nat
  protExc  : Nat
  tdcMeas  : Word
  /-- transmit buffers whose frame is not retried: sent with ONE_SHOT, or withdrawn while on the bus (bit b: buffer b) -/
  oneShot  : Dword
  /-- the transmit buffer whose frame may be on the bus -/
  cur      : Option Nat
  wait     : Option CanWait
  deriving DecidableEq, Repr

/-! ### JTAG and Rime (R403 to R408) -/

structure Jtag where
  ir       : Byte
  /-- what the instruction register last shifted out: its capture value (R403) -/
  irOut    : Byte
  /-- the data register last shifted out, and its length in bits -/
  tdo      : BitVec 384
  tdoLen   : Nat
  boundary : Dword
  /-- RIME_SEL: chain and word pointer -/
  chain    : Byte
  ptr      : Nat
  /-- once-read chains already shifted out, by chain: words read -/
  onceRead : Tbl Nat
  /-- the Rime status register at the freeze -/
  stat     : Dword
  /-- the model's own: number of the freeze among the free values -/
  frozenAt : Nat
  deriving DecidableEq, Repr

/-! ### Power -/

structure Power where
  /-- the converter's input switch is closed (R418) -/
  swClosed : Bool
  /-- the brownout path has run; a warm restart follows on restoration (R31) -/
  brownout : Bool
  /-- a CAN transceiver raises its wake request (R357, R381) -/
  wakeReq  : Bool
  /-- an overvoltage has opened the switch since HOLD was entered (R419) -/
  overvolt : Bool
  deriving DecidableEq, Repr

/-! ### The state -/

structure State where
  /-- commands waiting, first in, first out -/
  pending  : List Instr
  mstate   : MState
  /-- the state HOLD was entered from (R31, R324) -/
  holdFrom : MState
  /-- the safety device is held in reset and FAULT shows this code (R388, R389, R432) -/
  resetHold : Option Nat
  /-- SELFTEST has passed and the start goes on to its last steps (R386) -/
  testsDone : Bool
  /-- the start in progress leaves Dormant (R397) -/
  fromDormant : Bool
  power    : Power
  mem      : Mem
  xsram    : Mem
  tb       : TimeBase
  lanes    : Vector LaneSt 3
  voter    : Voter
  fcu      : Fcu
  ice      : Ice
  prog     : Prog
  tasks    : Tasks
  fram     : Fram
  twin     : Twin
  floe     : Floe
  io       : Io
  hif      : HostIf
  fw       : Firmware
  keys     : Keys
  fabric   : Fabric
  can1     : CanSt
  can2     : CanSt
  jtag     : Jtag
  rimeArmed : Bool
  /-- the MAINT_EN strap (R413) -/
  maintEn  : Bool
  /-- the model's own: free values drawn (DESIGN CHOICE, log entry 4) -/
  freeCtr  : Nat
  deriving DecidableEq, Repr

/-! ### How a step can stop -/

/-- The faults of a step. There are none: a fault of the module is part of its state (FCU, SAFE, lock-out records), and
every command ends in a next state. -/
inductive Fault where
  deriving DecidableEq, Repr

/-- The refusals of a step. -/
inductive Refusal where
  /-- raised by `exec` for a row of the table that has no meaning yet; safe, since nothing can be proved of it -/
  | notModelled (mnemonic : String)
  deriving DecidableEq, Repr

/-! ### Fresh values: what each part holds after a cold restart or a power-on start, factory records where it is class K -/

def Clock.fresh : Clock := { ns := 0, frac := 0, rate := 0, slew16 := 0 }

def SyncPoint.fresh : SyncPoint := { cfg := 0, time := 0, pend := false, miss := 0 }

def TimeBase.fresh : TimeBase :=
  { tb := .fresh, sync := 0, compLimit := 858993, sp := Vector.replicate 4 .fresh, integ := .fresh, integRun := false,
    ms := 0, msCyc := 0, canTs := 0, canCyc := 0, pinRound := none,
    pinInteg := none }

def Fingerprint.zero : Fingerprint := { kind := 0, kx := 0, hi := 0, lo := 0, cause := 0 }

def Fram.fresh : Fram :=
  { home := [], rbFirst := 0, rbCount := 0, rwFirst := 0, rwCount := 0, commitSeq := 0, waiting := [], partialSet := [],
    nextCommit := 1, locks := [], startCount := 1, startKind := 1, startCause := 0, iceMark := 1, fwMark := none,
    rimeMark := none }

def LaneSt.fresh : LaneSt :=
  { st := .serving, lock := false, lastCause := 0, history := [], reintMs := [], exclTotal := 0, lastExclMs := 0,
    fp := .zero, dirty := 0, copyFrom := 0, marked := [], img := [], ownFram := .fresh, gaps := 0, tag := 0, lpEcc := 0, sramEcc := 0, nandRetry := 0, framRetry := 0, railMv := 0 }

def Voter.fresh : Voter :=
  { lost := [], lastMasked := none, hbA := false, hbB := true, hbRun := false, hbStopped := false, selftestN := 0, selftestOk := true, selftestMs := 0,
    minor0 := 0, minor1 := 0, minor2 := 0, scanSweeps := 0, scanChunk := 0, scanRound := none,
    restoreSig := 0 }

def FcuSource.fresh : FcuSource :=
  { rail := 1, real := 1, force := none, unack := 0, lastClass := 0, lastBroken := false, lastEsc := false, count := 0,
    lastSeq := 0, activeMs := 0 }

def Fcu.fresh : Fcu := { sources := [], faults := 0, escalations := 0, broken := 0 }

def Ice.fresh : Ice :=
  { inbound := [], held := [], store := [], ring := [], nandQueue := [], nextSeq := 1, drops := 0, ndrops := 0, hostCur := none,
    maintCur := none, stopped := false }

def Bank.fresh : Bank :=
  { st := .empty, failCode := 0, file := [], loaded := 0, owner := .host, verify := none, slots := List.replicate 8 0 }

def Prog.fresh : Prog := { bank0 := .fresh, bank1 := .fresh, actBank := none, sched := none, remapFrom := none, report := none }

/-- Factory task record: EN 0, PERIOD_MS 100, DEADLINE_MS 100 (R76). -/
def TaskSt.fresh : TaskSt :=
  { cfg := 0x00640064, stopped := false, gone := false, cycles := 0, overruns := 0, maxEndUs := 0, pubSeq := 0, latchTime := 0,
    first := true, warm := false, newprg := false, run := none, prevOver := false, prevInSig := 0, prevEval := 0,
    refReady := false, refPos := 0, pubs := [], ownCmp := none, peerCmp := none,
    cmpIn := none, shadowDiff := false }

def Tasks.fresh : Tasks :=
  { t := Vector.replicate 8 .fresh, origin := 0, refNow := 0, order := [], ahead := [], enLocked := false, oc := [], newEls := [] }

def OcStatus.fresh : OcStatus :=
  { lastOk := 0, lastSeq := 0, lost := true, never := true, ocState := 0, valid := false, lossCnt := 0, fromAlt := false }

/-- Factory twin record: TWIN_ID 0b00, PAIR_ID 0x0001, AGREE_TO_US 5,000 (R153). -/
def Twin.fresh : Twin :=
  { w0 := 0x00000001, w1 := 0x13880000, liveW0 := 0x00000001, liveW1 := 0x13880000, ps := .single, silentCause := 0,
    leaderSeen := 0, epochSeen := 0, missA := false, missB := false, roles := 0, linkOk := false, helloNow := false,
    helloRuns := 0, delayNs := 0, offsetNs := 0, offsetBad := 0, peer := none, txSeq := 0, rxSeq := none, txQueue := [],
    split := none, join := none, shadowRound := 0, retryMs := 0, adopt := 0, agreeMiss := 0, cmpMismatch := 0, cmpMiss := 0,
    scodeFail := 0, linkRej := 0, mseqGap := 0, lastDivMs := 0, hasDiv := false, ownSt := none, peerSt := none,
    shCycles := 0, shIn := 0, shOut := 0 }

def FloeChan.fresh : FloeChan :=
  { linkUp := false, ok := false, txOff := false, goodRounds := 0, badRounds := 0, echoMissRounds := 0,
    beaconNow := false, heardNow := false, syncNow := false, echoNow := false, ownDev := none, silentRaised := false, rxOk := 0, rxFcs := 0,
    rxScode := 0, rxSeq := 0, rxAge := 0, rxWin := 0, dupMm := 0, guardCut := 0, echoMiss := 0, txFrames := 0,
    ringOvf := 0 }

/-- Factory Floe record W0 to W3 (R189): ROUND_MS 10, AGE_MAX_MS 500, NET_ID 1, every other field 0. -/
def floeFactory : List Word := [0x00028000, 0x000001F4, 0x00000001, 0x00000000]

def Floe.fresh : Floe :=
  { cfg := floeFactory, live := floeFactory, sched := Vector.replicate 4 none, liveSched := Vector.replicate 4 none,
    loads := [], fstate := .down, mode := 0, swPend := false, modeNext := 0, switchRound := 0, slip := none,
    keyCur := false, keyNext := false, round := 0, chA := .fresh, chB := .fresh, rx := [], seqHist := [],
    beaconRank := 0, mismatch := false, devs := [], ftm := 0, syncUsed := 0, ownDevA := 0, ownDevB := 0,
    passiveCnt := 0, coldCnt := 0, passiveRounds := none, passiveGood := 0, passiveMs := [], integGood := 0,
    integRounds := 0, syncNext := false, idleCyc := none, idleKey := false, coldA := none, coldB := none,
    coldTake := none, mreq := none, nodeSeq := 0, mute := false, modeSlip := 0, keyEmpty := false, dupFrame := 0, dupRounds := [], sent := [], maintRx := [] }

/-- Factory I/O record (R246): GUARD_TO_MS 20; every input EN 1, ADAPT 1, FILT_MAX 32, FILT_MIN 2; outputs unused; rules
without conditions. -/
def ioFactory : List Word :=
  0x00000014 :: List.replicate 32 0x90200002 ++ List.replicate 16 0 ++ List.replicate 64 0

/-- A filter at the start of a restart: candidate UNDEF, count 0, filtered class UNDEF, N at FILT_MAX (R252, R253). -/
def InSt.fresh (filtMax : Nat) : InSt :=
  { cand := .undef, count := 0, target := filtMax, cls := .undef, raw := .undef, n := filtMax, bounce := none, hist := [],
    evtSupp := 0, evtMs := none, pinMs := none, ua := 0 }

def FsSt.fresh : FsSt := { st := .missing, mv := 0, cand := .missing, run := 0, lagOk := false }

def OutSt.fresh : OutSt :=
  { cmd := false, command := false, cmdCyc := 0, rbOn := false, rbOff := false, ovl := false, openLd := false,
    failOn := false, fbFault := false, pulse := false, ma := 0, onRun := 0, offRun := 0 }

/-- A rule after a restart: a latching rule starts active (R271). -/
def RuleSt.fresh (latch : Bool) : RuleSt := { active := latch, cond := false, relOff := false }

def Guard.fresh : Guard := { tripped := true, accepted := 0, trips := 0, lastBeatMs := 0 }

def Ack.fresh : Ack := { startMs := none, done := none, g1Held := false, g2Held := false }

def Io.fresh : Io :=
  { cfg := ioFactory, live := ioFactory, inputs := Vector.replicate 32 (.fresh 32), outs := Vector.replicate 16 .fresh,
    rules := Vector.replicate 16 (.fresh false), fs1 := .fresh, fs2 := .fresh, guard := .fresh, gen1 := false,
    gen2 := false, disc1 := none, disc2 := none, cos := [], cosLost := 0, cosSeq := 0, ack := .fresh }

def PortSt.fresh : PortSt :=
  { cmds := [], resps := [], pend := [], waiting := [], tokens := [], prevToken := 0, crcErr := 0, frameErr := 0,
    cmdOvf := 0, respReread := 0, commands := 0, frags := none, txFrag := 0, txPkt := 0 }

def HostIf.fresh : HostIf :=
  { host := .fresh, maint := .fresh, imgs := [], actions := [], hio := [], hinHalf := false }

def Firmware.fresh : Firmware :=
  { version := (3#8 ++ Config.factoryFwVersion), fuses := Config.factoryRollback.val, slots := Vector.replicate 3 none,
    snow := .empty, image := [], owner := .host }

def Keys.fresh : Keys :=
  { reg0 := none, reg1 := none, regT := none, wrap0 := none, wrap1 := none, wrapT := none, next0 := none,
    next1 := none }

/-- The arbiter's factory record (R346, R347): INTERVAL 6, AGE_STEP 64, then RANK, AGE_TOP, BURST of each requester. -/
def arbFactory : List Word :=
  [6, 64, 0x110F, 0x110F, 0x110F, 0x0007, 0x0007, 0x090F, 0x220F, 0x2B04, 0x2B04, 0x340F, 0x1A01, 0x3F3F]

def ArbReq.fresh : ArbReq :=
  { waitNow := none, aged := false, pinMs := none, grants := 0, waitTotal := 0, waitMax := 0 }

def Crossing.fresh : Crossing := { notReady := false, ovf := false, xdrop := 0, ovfMs := none }

def Fabric.fresh : Fabric :=
  { arbRec := arbFactory, arbLive := arbFactory, reqs := Vector.replicate 12 .fresh, decisions := 0, winner := none,
    eccCorr := 0, eccUncorr := 0, xs := Vector.replicate 17 .fresh, chains := [], cvuRuns := 0, cvuMism := 0,
    cvuBytes := 0, bistPos := 0 }

def CanSt.fresh : CanSt :=
  { cfg := List.replicate 136 0, st := .stopped, integrating := false, halted := false, lec := 0, tec := 0, recv := 0,
    rxOk := 0, txOk := 0, rxLost := 0, lockTo := 0, busOffCnt := 0, collSusp := 0, protExc := 0, tdcMeas := 0,
    oneShot := 0, cur := none, wait := none }

def Jtag.fresh : Jtag :=
  { ir := 0x02, irOut := 1, tdo := 0, tdoLen := 0, boundary := 0, chain := 0, ptr := 0, onceRead := [], stat := 0, frozenAt := 0 }

/-- The supply input in range. -/
def Power.fresh : Power := { swClosed := true, brownout := false, wakeReq := false, overvolt := false }

/-- The RESTART record of a power-on start (R293). -/
def restartRec (time : Dword) (kind cause : Word) : IceRec :=
  { seq := 0, time := time, code := 0x0202, sev := 2, src := 0xFFF, p0 := kind, p1 := cause, p2 := 0, p3 := 0 }

/-- The STATE record of the change from OFF to BOOT (R293). -/
def firstStateRec : IceRec :=
  { seq := 0, time := 0, code := 0x0201, sev := 1, src := 0xFFF, p0 := 0, p1 := 1, p2 := 0, p3 := 0 }

/-- The module right after a power-on start, as it left the factory (R31: OFF to BOOT). -/
def State.reset : State :=
  { pending := [], mstate := .boot, holdFrom := .off, resetHold := none, testsDone := false, fromDormant := false,
    power := .fresh, mem := [], xsram := [], tb := .fresh, lanes := Vector.replicate 3 .fresh, voter := .fresh,
    fcu := .fresh, ice := { Ice.fresh with inbound := [restartRec 0 1 0, firstStateRec] },
    prog := .fresh, tasks := .fresh, fram := .fresh, twin := .fresh, floe := .fresh, io := .fresh,
    hif := .fresh, fw := .fresh, keys := .fresh, fabric := .fresh, can1 := .fresh, can2 := .fresh, jtag := .fresh,
    rimeArmed := false, maintEn := false, freeCtr := 0 }

end Sys2Proof.Machine
end

