-- ==== Sys2Proof/Machine/Mem.lean ====
section
/-!
DEFINITION. Operations over the sparse memories (image SRAM R35, Exchange SRAM R340, FRAM home copy R120) and over tables by
number. An unlisted address reads 0: every class V item is 0 after a restart (R10, R122).
-/
namespace Sys2Proof.Machine

/-! ### Sparse memory in canonical form -/

/-- The byte at an address. -/
def memRead : Mem → Nat → Byte
  | [], _ => 0
  | (a, b) :: m, x => if a = x then b else memRead m x

/-- One byte written; a zero removes the entry. -/
def memWrite : Mem → Nat → Byte → Mem
  | [], x, v => if v = 0 then [] else [(x, v)]
  | (a, b) :: m, x, v =>
    if x < a then if v = 0 then (a, b) :: m else (x, v) :: (a, b) :: m
    else if x = a then if v = 0 then m else (x, v) :: m
    else (a, b) :: memWrite m x v

/-- Addresses from `lo` on, strictly rising, and no zero byte. -/
def Memory.wfFrom : Nat → Mem → Bool
  | _, [] => true
  | lo, (a, b) :: m => decide (lo ≤ a) && decide (b ≠ 0) && Memory.wfFrom (a + 1) m

/-- The canonical form: equal memories are equal lists. -/
def Memory.wf (m : Mem) : Bool := Memory.wfFrom 0 m

/-- Consecutive bytes written in ascending order. -/
def memWriteBytes : Mem → Nat → List Byte → Mem
  | m, _, [] => m
  | m, x, v :: vs => memWriteBytes (memWrite m x v) (x + 1) vs

/-- n consecutive bytes. -/
def memBytes (m : Mem) (x n : Nat) : List Byte := (List.range n).map fun i => memRead m (x + i)

/-- A 16-bit value, most significant byte first (R7). -/
def memHalf (m : Mem) (x : Nat) : Half := memRead m x ++ memRead m (x + 1)

/-- A 32-bit word, most significant byte first (R7). -/
def memWord (m : Mem) (x : Nat) : Word := memHalf m x ++ memHalf m (x + 2)

def memWriteWord (m : Mem) (x : Nat) (w : Word) : Mem := memWriteBytes m x (wordBytes w)

/-- Only the entries an address predicate keeps. -/
def memKeep (p : Nat → Bool) (m : Mem) : Mem := m.filter fun e => p e.1

/-- The bytes of [lo, lo + n) set to 0. -/
def memClear (m : Mem) (lo n : Nat) : Mem := memKeep (fun a => decide (a < lo ∨ lo + n ≤ a)) m

/-- The bytes of [lo, lo + n) of one memory put in place of those of another. -/
def memReplace (old new : Mem) (lo n : Nat) : Mem :=
  memKeep (fun a => decide (a < lo)) old ++ memKeep (fun a => decide (lo ≤ a ∧ a < lo + n)) new ++
    memKeep (fun a => decide (lo + n ≤ a)) old

/-- The addresses at which two memories differ. -/
def memDiff (m n : Mem) : List Nat :=
  ((m.filter fun e => memRead n e.1 != e.2) ++ (n.filter fun e => memRead m e.1 != e.2)).map (·.1)

/-! ### Tables by number, ascending -/

def Tbl.find {α : Type} : Tbl α → Nat → Option α
  | [], _ => none
  | (k, v) :: t, x => if k = x then some v else Tbl.find t x

def Tbl.getD {α : Type} (t : Tbl α) (x : Nat) (d : α) : α := (Tbl.find t x).getD d

def Tbl.put {α : Type} : Tbl α → Nat → α → Tbl α
  | [], x, v => [(x, v)]
  | (k, w) :: t, x, v =>
    if x < k then (x, v) :: (k, w) :: t else if x = k then (x, v) :: t else (k, w) :: Tbl.put t x v

def Tbl.del {α : Type} (t : Tbl α) (x : Nat) : Tbl α := t.filter fun e => e.1 ≠ x

/-- A number put into an ascending list without repeats. -/
def insertNat (x : Nat) : List Nat → List Nat
  | [] => [x]
  | y :: ys => if x < y then x :: y :: ys else if x = y then y :: ys else y :: insertNat x ys

/-- Ascending, without repeats. -/
def sortNats (l : List Nat) : List Nat := l.foldl (fun a x => insertNat x a) []

/-! ### Vectors by number -/

/-- Element i, the default past the end. -/
def vget {α : Type} {n : Nat} (v : Vector α n) (d : α) (i : Nat) : α := v[i]?.getD d

/-- Element i changed, nothing past the end. -/
def vmod {α : Type} {n : Nat} (v : Vector α n) (i : Nat) (f : α → α) : Vector α n :=
  if h : i < n then v.set i (f v[i]) else v

/-! ### Lists -/

/-- Element i of a list replaced, nothing past the end. -/
def lset {α : Type} (l : List α) (i : Nat) (x : α) : List α := l.set i x

/-- The last n elements of a list. -/
def lastN {α : Type} (n : Nat) (l : List α) : List α := l.drop (l.length - n)

end Sys2Proof.Machine
end

