-- ==== Sys2Proof/Machine/Bank.lean ====
section
/-!
DEFINITION. A program bank read as the bytes of its .nkp file (R66): header fields (R67), table entries (R69), literals
(R39, R40) and their slots (R73, R74), and the process image addressed by element (R34, R35).
-/
namespace Sys2Proof.Machine

/-! ### Header (R67) -/

/-- Header word n. -/
def Bank.hdr (b : Bank) (n : Nat) : Nat := (wordAt b.file n).toNat

def Bank.nlkVersion (b : Bank) : Nat := b.hdr 2
def Bank.programVersion (b : Bank) : Nat := b.hdr 4
def Bank.litCount (b : Bank) : Nat := b.hdr 5
def Bank.descLen (b : Bank) : Nat := b.hdr 6
def Bank.taskOff (b : Bank) (n : Nat) : Nat := b.hdr (8 + 2 * n)
def Bank.taskLen (b : Bank) (n : Nat) : Nat := b.hdr (9 + 2 * n)
def Bank.timerCount (b : Bank) : Nat := b.hdr 24
def Bank.counterCount (b : Bank) : Nat := b.hdr 25
def Bank.edgeCount (b : Bank) : Nat := b.hdr 26
def Bank.claimCount (b : Bank) : Nat := b.hdr 27
def Bank.claimEntries (b : Bank) : Nat := b.hdr 28
def Bank.lookupCount (b : Bank) : Nat := b.hdr 29
def Bank.lookupWords (b : Bank) : Nat := b.hdr 30
def Bank.hinCount (b : Bank) : Nat := b.hdr 31
def Bank.constFirst (b : Bank) : Nat := b.hdr 32
def Bank.constCount (b : Bank) : Nat := b.hdr 33
def Bank.rbFirst (b : Bank) : Nat := b.hdr 34
def Bank.rbCount (b : Bank) : Nat := b.hdr 35
def Bank.rwFirst (b : Bank) : Nat := b.hdr 36
def Bank.rwCount (b : Bank) : Nat := b.hdr 37
def Bank.objTab (b : Bank) : Nat := b.hdr 49
def Bank.objLen (b : Bank) : Nat := b.hdr 50
def Bank.lioTab (b : Bank) : Nat := b.hdr 51
def Bank.lioLen (b : Bank) : Nat := b.hdr 52
def Bank.litCrc (b : Bank) : Dword := dwordAt b.file 60
def Bank.descCrc (b : Bank) : Dword := dwordAt b.file 62

/-- A word of the file at a byte offset. -/
def Bank.word (b : Bank) (off : Nat) : Nat := beAt b.file off 4

/-! ### Tables (R69) -/

def Bank.timerPreset (b : Bank) (i : Nat) : Nat := b.word (b.hdr 40 + 8 * i)
def Bank.timerId (b : Bank) (i : Nat) : Nat := b.word (b.hdr 40 + 8 * i + 4)
def Bank.counterPreset (b : Bank) (i : Nat) : Nat := b.word (b.hdr 41 + 8 * i)
def Bank.counterId (b : Bank) (i : Nat) : Nat := b.word (b.hdr 41 + 8 * i + 4)
def Bank.edgeId (b : Bank) (i : Nat) : Nat := b.word (b.hdr 42 + 4 * i)
def Bank.claimFirst (b : Bank) (g : Nat) : Nat := b.word (b.hdr 43 + 8 * g)
def Bank.claimSizeWord (b : Bank) (g : Nat) : Nat := b.word (b.hdr 43 + 8 * g + 4)
def Bank.claimSize (b : Bank) (g : Nat) : Nat := b.claimSizeWord g % 128
def Bank.claimEntry (b : Bank) (e : Nat) : Nat := b.word (b.hdr 44 + 4 * e) % 2 ^ 23

/-- The resources of a claim set, in entry order. -/
def Bank.claimSet (b : Bank) (g : Nat) : List Nat :=
  ((List.range (b.claimSize g)).filter fun i => decide (b.claimFirst g + i < b.claimEntries)).map fun i =>
    b.claimEntry (b.claimFirst g + i)

def Bank.lookupOffset (b : Bank) (i : Nat) : Nat := b.word (b.hdr 45 + 16 * i)
def Bank.lookupInfo (b : Bank) (i : Nat) : Nat := b.word (b.hdr 45 + 16 * i + 4)
def Bank.lookupIsMatch (b : Bank) (i : Nat) : Bool := decide (2 ^ 31 ≤ b.lookupInfo i)
def Bank.lookupLength (b : Bank) (i : Nat) : Nat := b.lookupInfo i % 2 ^ 17
def Bank.lookupDefault (b : Bank) (i : Nat) : Nat := b.word (b.hdr 45 + 16 * i + 8)
def Bank.lookupData (b : Bank) (w : Nat) : Nat := b.word (b.hdr 46 + 4 * w)
def Bank.constValue (b : Bank) (i : Nat) : Nat := b.word (b.hdr 47 + 4 * i)
def Bank.hinWord (b : Bank) (k : Nat) : Nat := b.word (b.hdr 48 + 4 * k)
def Bank.hinTask (b : Bank) (k : Nat) : Nat := b.hinWord k / 2 ^ 28 % 8
def Bank.hinVar (b : Bank) (k : Nat) : Nat := b.hinWord k % 2 ^ 23

/-- An entry of the local I/O map (R248): W0 and W1; all zero without a map. -/
def Bank.lio (b : Bank) (e : Nat) : Word × Word :=
  if b.lioLen = 512 then (BitVec.ofNat 32 (b.word (b.lioTab + 8 * e)), BitVec.ofNat 32 (b.word (b.lioTab + 8 * e + 4)))
  else (0, 0)

/-! ### Literals (R39, R40) -/

structure Lit where
  op  : Nat
  neg : Bool
  mod : Nat
  idx : Nat
  deriving DecidableEq, Repr

def litOf (w : Nat) : Lit :=
  { op := w / 2 ^ 28 % 16, neg := decide (w / 2 ^ 27 % 2 = 1), mod := w / 2 ^ 23 % 16, idx := w % 2 ^ 23 }

/-- The word of literal k of the literal area. -/
def Bank.litWord (b : Bank) (k : Nat) : Nat := b.word (b.descLen + 4 * k)

/-- The literals of the segment of a task, in order. -/
def Bank.segment (b : Bank) (n : Nat) : List Lit :=
  (List.range (b.taskLen n)).map fun k => litOf (b.litWord (b.taskOff n + k))

/-- ARG literals a literal must be followed by (R40). -/
def argCount (l : Lit) : Nat :=
  match l.op with
  | 0x3 | 0x4 | 0x7 | 0x8 | 0x9 | 0xB => 1
  | 0xA => 2
  | _ => 0

def isHead (l : Lit) : Bool := decide (0x5 ≤ l.op ∧ l.op ≤ 0xB)

/-- Operand parts a head takes (R40). -/
def partCount (l : Lit) : Nat :=
  match l.op with
  | 0x6 => 2
  | 0x8 => if l.mod = 2 then 3 else 2
  | _ => 1

/-- An operand with its ARG literal, where it has one. -/
structure Operand where
  lit : Lit
  arg : Option Lit
  deriving DecidableEq, Repr

/-- An equation (R44): head, its ARGs, the operands of its parts, and its number of literals. -/
structure Equation where
  head  : Lit
  args  : List Lit
  parts : List (List Operand)
  size  : Nat
  deriving DecidableEq, Repr

/-- Adds an operand to the last part. -/
def addOperand (o : Operand) : List (List Operand) → List (List Operand)
  | [] => [[o]]
  | [p] => [p ++ [o]]
  | p :: ps => p :: addOperand o ps

/-- Reads operands up to the next head or END; gives the parts and the number of literals read (R44, R45). -/
def readParts : List Lit → List (List Operand) → Nat → List (List Operand) × Nat
  | [], ps, n => (ps, n)
  | l :: rest, ps, n =>
    if isHead l || l.op == 0xE then (ps, n)
    else if l.op = 0xC then readParts rest (ps ++ [[]]) (n + 1)
    else if l.op = 0x3 ∨ l.op = 0x4 then
      match rest with
      | [] => (addOperand { lit := l, arg := none } ps, n + 1)
      | a :: rest' => readParts rest' (addOperand { lit := l, arg := some a } ps) (n + 2)
    else readParts rest (addOperand { lit := l, arg := none } ps) (n + 1)

/-- The equation at the front of a list of literals. -/
def readEquation (h : Lit) (rest : List Lit) : Equation :=
  let k := argCount h
  let (ps, n) := readParts (rest.drop k) [[]] 0
  { head := h, args := rest.take k, parts := ps, size := 1 + k + n }

/-- All equations of a segment with their literal offsets; the fuel is the number of literals. -/
def readEquations : Nat → List Lit → Nat → List (Nat × Equation)
  | 0, _, _ => []
  | _, [], _ => []
  | fuel + 1, h :: rest, pc =>
    if isHead h then
      let e := readEquation h rest
      (pc, e) :: readEquations fuel ((h :: rest).drop e.size) (pc + e.size)
    else []

def Bank.equations (b : Bank) (n : Nat) : List (Nat × Equation) :=
  let ls := b.segment n
  readEquations ls.length ls 0

/-! ### Slots (R73, R74) -/

/-- ⌈log2 n⌉ for n ≥ 1. -/
def ceilLog2 (n : Nat) : Nat := if 2 ^ Nat.log2 n = n then Nat.log2 n else Nat.log2 n + 1

/-- Stall clocks of a head (R73). -/
def Bank.stall (b : Bank) (e : Equation) : Nat :=
  match e.head.op with
  | 0xA => if e.head.mod = 1 then 2 + ceilLog2 (b.lookupLength ((e.args.head?.map Lit.idx).getD 0) + 1) else 2
  | 0xB => if e.head.mod = 2 then 2 else 2 + ceilDiv (b.claimSize e.head.idx) 6
  | _ => 0

def Bank.eqSlots (b : Bank) (e : Equation) : Nat := e.size + 6 * b.stall e

/-- Slot count of the segment of a task (R74): its literals, END included, and 6 for every stall clock. -/
def Bank.segmentSlots (b : Bank) (n : Nat) : Nat :=
  b.taskLen n + 6 * ((b.equations n).map fun e => b.stall e.2).sum

/-- Equation boundaries of a segment: literal offset and slot position, the boundary after the END last (R50, R81). -/
def boundariesFrom (b : Bank) : List (Nat × Equation) → Nat → List (Nat × Nat)
  | [], _ => []
  | (pc, e) :: es, slot => (pc, slot) :: boundariesFrom b es (slot + b.eqSlots e)

def Bank.boundaries (b : Bank) (n : Nat) : List (Nat × Nat) :=
  boundariesFrom b (b.equations n) 0 ++ [(b.taskLen n, b.segmentSlots n)]

/-- The first equation boundary at or after a slot position. -/
def Bank.boundaryAt (b : Bank) (n q : Nat) : Nat × Nat :=
  ((b.boundaries n).find? fun x => decide (q ≤ x.2)).getD (b.taskLen n, b.segmentSlots n)

/-! ### The process image (R34, R35) -/

def bitRead (m : Mem) (base i : Nat) : Bool := tst (memRead m (base + i / 8)) (i % 8)

def bitWrite (m : Mem) (base i : Nat) (v : Bool) : Mem :=
  let a := base + i / 8
  let x := memRead m a
  let one : Byte := 1#8 <<< (i % 8)
  memWrite m a (if v then x ||| one else x &&& ~~~one)

def boolRead (m : Mem) (i : Nat) : Bool := bitRead m 0 i
def wordRead (m : Mem) (i : Nat) : Word := memWord m (0x100000 + 4 * i)
def elapsedRead (m : Mem) (i : Nat) : Word := memWord m (0x500000 + 4 * i)
def timerState (m : Mem) (i : Nat) : Byte := memRead m (0x600000 + i)
def counterRead (m : Mem) (i : Nat) : Word := memWord m (0x640000 + 4 * i)
def counterState (m : Mem) (i : Nat) : Byte := memRead m (0x6C0000 + i)
def edgeRead (m : Mem) (i : Nat) : Bool := bitRead m 0x6E0000 i
def maskRead (m : Mem) (g : Nat) : Dword := dwordOf (memWord m (0x700000 + 8 * g)) (memWord m (0x700000 + 8 * g + 4))

/-- The kinds of element a committed write names (R134). -/
inductive ElKind where
  | boolean | word | elapsed | timer | counter | cstate | edge | mask
  deriving DecidableEq, Repr

def ElKind.code : ElKind → Nat
  | .boolean => 1 | .word => 2 | .elapsed => 3 | .timer => 4 | .counter => 5 | .cstate => 6 | .edge => 7 | .mask => 8

/-- Writes an element of the image. -/
def elWrite (k : ElKind) (i : Nat) (v : Dword) (m : Mem) : Mem :=
  match k with
  | .boolean => bitWrite m 0 i (tst v 0)
  | .word => memWriteWord m (0x100000 + 4 * i) (loWord v)
  | .elapsed => memWriteWord m (0x500000 + 4 * i) (loWord v)
  | .timer => memWrite m (0x600000 + i) (v.setWidth 8)
  | .counter => memWriteWord m (0x640000 + 4 * i) (loWord v)
  | .cstate => memWrite m (0x6C0000 + i) (v.setWidth 8)
  | .edge => bitWrite m 0x6E0000 i (tst v 0)
  | .mask => memWriteBytes m (0x700000 + 8 * i) (dwordBytes v)

/-- First byte of an element in the image (R34). -/
def elAddr (k : ElKind) (i : Nat) : Nat :=
  match k with
  | .boolean => i / 8
  | .word => 0x100000 + 4 * i
  | .elapsed => 0x500000 + 4 * i
  | .timer => 0x600000 + i
  | .counter => 0x640000 + 4 * i
  | .cstate => 0x6C0000 + i
  | .edge => 0x6E0000 + i / 8
  | .mask => 0x700000 + 8 * i

/-- Block of the state copy that holds an element (R147). -/
def elBlock (k : ElKind) (i : Nat) : Nat := 80 + elAddr k i / 4096

/-- The 12-byte write record (R134). -/
def writeRecord (k : ElKind) (i : Nat) (v : Dword) : List Byte :=
  beBytes 4 (k.code * 2 ^ 28 + i % 2 ^ 23) ++ dwordBytes v

end Sys2Proof.Machine
end

