-- ==== Sys2Proof/Machine/Upd.lean ====
section
/-!
DEFINITION. One update per field of State: every meaning changes the state through these, and Laws/State.lean says once
what each leaves alone.
-/
namespace Sys2Proof.Machine

def State.updMstate (f : MState → MState) (s : State) : State := { s with mstate := f s.mstate }

def State.updHoldFrom (f : MState → MState) (s : State) : State := { s with holdFrom := f s.holdFrom }

def State.updResetHold (f : Option Nat → Option Nat) (s : State) : State := { s with resetHold := f s.resetHold }

def State.updTestsDone (f : Bool → Bool) (s : State) : State := { s with testsDone := f s.testsDone }

def State.updFromDormant (f : Bool → Bool) (s : State) : State := { s with fromDormant := f s.fromDormant }

def State.updPower (f : Power → Power) (s : State) : State := { s with power := f s.power }

def State.updMem (f : Mem → Mem) (s : State) : State := { s with mem := f s.mem }

def State.updXsram (f : Mem → Mem) (s : State) : State := { s with xsram := f s.xsram }

def State.updTb (f : TimeBase → TimeBase) (s : State) : State := { s with tb := f s.tb }

def State.updLanes (f : Vector LaneSt 3 → Vector LaneSt 3) (s : State) : State := { s with lanes := f s.lanes }

def State.updVoter (f : Voter → Voter) (s : State) : State := { s with voter := f s.voter }

def State.updFcu (f : Fcu → Fcu) (s : State) : State := { s with fcu := f s.fcu }

def State.updIce (f : Ice → Ice) (s : State) : State := { s with ice := f s.ice }

def State.updProg (f : Prog → Prog) (s : State) : State := { s with prog := f s.prog }

def State.updTasks (f : Tasks → Tasks) (s : State) : State := { s with tasks := f s.tasks }

def State.updFram (f : Fram → Fram) (s : State) : State := { s with fram := f s.fram }

def State.updTwin (f : Twin → Twin) (s : State) : State := { s with twin := f s.twin }

def State.updFloe (f : Floe → Floe) (s : State) : State := { s with floe := f s.floe }

def State.updIo (f : Io → Io) (s : State) : State := { s with io := f s.io }

def State.updHif (f : HostIf → HostIf) (s : State) : State := { s with hif := f s.hif }

def State.updFw (f : Firmware → Firmware) (s : State) : State := { s with fw := f s.fw }

def State.updKeys (f : Keys → Keys) (s : State) : State := { s with keys := f s.keys }

def State.updFabric (f : Fabric → Fabric) (s : State) : State := { s with fabric := f s.fabric }

def State.updCan1 (f : CanSt → CanSt) (s : State) : State := { s with can1 := f s.can1 }

def State.updCan2 (f : CanSt → CanSt) (s : State) : State := { s with can2 := f s.can2 }

def State.updJtag (f : Jtag → Jtag) (s : State) : State := { s with jtag := f s.jtag }

def State.updRimeArmed (f : Bool → Bool) (s : State) : State := { s with rimeArmed := f s.rimeArmed }

def State.updMaintEn (f : Bool → Bool) (s : State) : State := { s with maintEn := f s.maintEn }

def State.updFreeCtr (f : Nat → Nat) (s : State) : State := { s with freeCtr := f s.freeCtr }

end Sys2Proof.Machine
end

