-- ==== Sys2Proof/Machine/Packet.lean ====
section
/-!
DEFINITION. Mailbox packets and the bookkeeping of a port: status codes (R316), packet bytes (R309, R310), replies,
pending operations (R313, R314) and tokens (R317).
-/
namespace Sys2Proof.Machine

/-- Status codes (R316). -/
inductive Code where
  | ok | pending | errCrc | errMagic | errOpcode | errLen | errRange | errTag | errBusy | errRemote | errState
  | errToken | errSeq | errTimeout | errBank | errMismatch | errLoad | errNoBoundary | errClaimHeld | errTwin
  | errSched | errMode | errModeBusy | errNolock | errAck | errCause | errLockOrder
  deriving DecidableEq, Repr

def Code.value : Code → Half
  | .ok => 0x0000 | .pending => 0x0001 | .errCrc => 0x0100 | .errMagic => 0x0101 | .errOpcode => 0x0102
  | .errLen => 0x0103 | .errRange => 0x0104 | .errTag => 0x0105 | .errBusy => 0x0106 | .errRemote => 0x0107
  | .errState => 0x0108 | .errToken => 0x0109 | .errSeq => 0x010A | .errTimeout => 0x010B | .errBank => 0x0200
  | .errMismatch => 0x0201 | .errLoad => 0x0202 | .errNoBoundary => 0x0203 | .errClaimHeld => 0x0204
  | .errTwin => 0x0300 | .errSched => 0x0400 | .errMode => 0x0401 | .errModeBusy => 0x0402 | .errNolock => 0x0500
  | .errAck => 0x0501 | .errCause => 0x0502 | .errLockOrder => 0x0600

/-- What a command answers: a status code and the payload. -/
structure Reply where
  code    : Code
  payload : List Byte
  deriving DecidableEq, Repr

/-- OK with payload words. -/
def Reply.words (ws : List Word) : Reply := { code := .ok, payload := wordsBytes ws }

/-- OK with LEN 0. -/
def Reply.done : Reply := { code := .ok, payload := [] }

/-- PENDING with LEN 0 (R313). -/
def Reply.pend : Reply := { code := .pending, payload := [] }

/-- An error with DETAIL_A and DETAIL_B (R315). -/
def Reply.error (c : Code) (a b : Nat) : Reply :=
  { code := c, payload := beBytes 4 a ++ beBytes 4 b }

/-- An error whose details are 0 (R315). -/
def Reply.err (c : Code) : Reply := Reply.error c 0 0

/-- Byte offset in the packet of a payload field: word number and its highest bit (R315, ERR_RANGE). -/
def fieldOffset (word hi : Nat) : Nat := 16 + 4 * word + (31 - hi) / 8

/-- ERR_RANGE at a payload field. -/
def Reply.range (word hi : Nat) : Reply := Reply.error .errRange (fieldOffset word hi) 0

/-- ERR_LEN with the LEN expected (0 for a range) and the LEN received. -/
def Reply.len (expected received : Nat) : Reply := Reply.error .errLen expected received

/-- A payload field with its legal range: word, high bit, low bit, least and greatest value. -/
structure FieldRule where
  word : Nat
  hi   : Nat
  lo   : Nat
  min  : Nat
  max  : Nat
  deriving DecidableEq, Repr

/-- A field that must be 0 (R9). -/
def rsvd (word hi lo : Nat) : FieldRule := { word := word, hi := hi, lo := lo, min := 0, max := 0 }

def FieldRule.holds (ws : List Word) (r : FieldRule) : Bool :=
  let v := fld (nth ws r.word) r.hi r.lo
  decide (r.min ≤ v ∧ v ≤ r.max)

/-- The first field of a list that is outside its range. -/
def firstBad (ws : List Word) (rs : List FieldRule) : Option FieldRule := rs.find? fun r => !r.holds ws

/-- Runs a command's further checks only when every field is in its range (R9, R311 check 12). -/
def checked {α : Type} (ws : List Word) (rs : List FieldRule) (st : α) (k : Reply × α) : Reply × α :=
  match firstBad ws rs with
  | some r => (.range r.word r.hi, st)
  | none => k

/-! ### Packets -/

/-- The header before HCRC (R309): MAGIC, OPCODE, TAG, LEN, FLAGS, STATUS. -/
def headerBytes (opcode tag flags status : Half) (len : Nat) : List Byte :=
  beBytes 2 0x424C ++ beBytes 2 opcode.toNat ++ beBytes 2 tag.toNat ++ beBytes 2 len ++ beBytes 2 flags.toNat ++
    beBytes 2 status.toNat

/-- A packet with its HCRC over the header, HCRC taken as 0, and the payload (R310). -/
def packetBytes (opcode tag flags status : Half) (payload : List Byte) : List Byte :=
  let h := headerBytes opcode tag flags status payload.length
  h ++ wordBytes (crc32c (h ++ [0, 0, 0, 0] ++ payload)) ++ payload

/-- A command packet: FLAGS 0 and STATUS 0. -/
def commandPacket (opcode tag : Half) (payload : List Byte) : List Byte := packetBytes opcode tag 0 0 payload

/-- A response: FLAGS 0x8000. -/
def responsePacket (opcode tag : Half) (r : Reply) : List Byte := packetBytes opcode tag 0x8000 r.code.value r.payload

/-- A completion: FLAGS 0xC000. -/
def completionPacket (opcode tag : Half) (r : Reply) : List Byte :=
  packetBytes opcode tag 0xC000 r.code.value r.payload

/-! ### Ports -/

def State.port (s : State) : Port → PortSt
  | .host => s.hif.host
  | .maint => s.hif.maint

def State.updPort (p : Port) (f : PortSt → PortSt) (s : State) : State :=
  s.updHif fun h => match p with
    | .host => { h with host := f h.host }
    | .maint => { h with maint := f h.maint }

/-- SRC of the Ice Core records of a port (R292). -/
def portSrc : Port → Nat
  | .host => 0x300
  | .maint => 0x301

/-- An operation starts to pend at a port (R313). -/
def pendStart (p : Port) (opcode tag : Half) (s : State) : State :=
  s.updPort p fun q => { q with pend := q.pend ++ [{ opcode := opcode, tag := tag }] }

/-- A pending operation ends with its one completion, which then waits for a place (R314). An operation that is no longer
pending gives none. -/
def complete (p : Port) (opcode tag : Half) (r : Reply) (s : State) : State :=
  if { opcode := opcode, tag := tag } ∈ (s.port p).pend then
    s.updPort p fun q =>
      { q with pend := q.pend.erase { opcode := opcode, tag := tag },
               waiting := q.waiting ++ [completionPacket opcode tag r] }
  else s

/-- Waiting completions take the free places of the response mailbox, oldest first (R314). -/
def flushWaiting (q : PortSt) : PortSt :=
  let n := 4 - q.resps.length
  { q with resps := q.resps ++ q.waiting.take n, waiting := q.waiting.drop n }

/-- Queues a response in the place reserved for it (R312). -/
def queueResponse (p : Port) (opcode tag : Half) (r : Reply) (s : State) : State :=
  s.updPort p fun q => { q with resps := q.resps ++ [responsePacket opcode tag r] }

/-! ### Tokens (R317) -/

/-- The token of an arm: CRC-32C over the previous token, TB_NS and the OPCODE; 0 is replaced by 1. -/
def tokenOf (prev : Word) (time : Dword) (opcode : Half) : Word :=
  let t := crc32c (wordBytes prev ++ dwordBytes time ++ beBytes 2 opcode.toNat)
  if t = 0 then 1 else t

/-- The payload a token is bound to: everything but PHASE and TOKEN. -/
def boundWords (ws : List Word) : List Word :=
  match ws with
  | w0 :: _ :: rest => (w0 &&& 0xFFFFFF00) :: rest
  | ws => ws

/-- Arms a command: a new token replaces the earlier one of the same OPCODE at the port. -/
def armToken (p : Port) (opcode : Half) (bound : List Word) (s : State) : Word × State :=
  let q := s.port p
  let t := tokenOf q.prevToken s.tb.tb.ns opcode
  let tok : Token := { opcode := opcode, bound := bound, value := t, ms := s.tb.ms }
  (t, s.updPort p fun q =>
    { q with prevToken := t, tokens := q.tokens.filter (fun x => x.opcode ≠ opcode) ++ [tok] })

/-- A token is valid within 10 s of its arm response. -/
def tokenValid (p : Port) (opcode : Half) (bound : List Word) (value : Word) (s : State) : Bool :=
  (s.port p).tokens.any fun t =>
    decide (t.opcode = opcode ∧ t.bound = bound ∧ t.value = value ∧ s.tb.ms ≤ t.ms + 10000)

/-- An accepted execute uses the token up. -/
def spendToken (p : Port) (opcode : Half) (s : State) : State :=
  s.updPort p fun q => { q with tokens := q.tokens.filter fun x => x.opcode ≠ opcode }

end Sys2Proof.Machine
end

