-- ==== Sys2Proof/Machine/Ops.lean ====
section
/-!
DEFINITION. The operations every chapter shares: Ice Core records (R293, R294), state changes (R30, R31), the fault
collection unit (R277 to R288), lock-outs (R274, R275) and entry into SAFE (R31, R339).
-/
namespace Sys2Proof.Machine

/-! ### Free values -/

/-- The next free value; the counter advances. -/
def drawFree (s : State) : BitVec 64 × State := (Config.freeValue s.freeCtr, s.updFreeCtr fun n => n + 1)

/-! ### Codes and small observations -/

/-- Module state codes (R324). -/
def MState.code : MState → Nat
  | .off => 0 | .boot => 1 | .selftest => 2 | .startup => 3 | .service => 4 | .test => 5 | .recovery => 6 | .hold => 7
  | .dormant => 8 | .safe => 9 | .frozen => 10

/-- The state whose behaviour the module shows: in HOLD, the state it came from (R30). -/
def State.eff (s : State) : MState := if s.mstate = .hold then s.holdFrom else s.mstate

/-- SERVICE, or HOLD entered from SERVICE. -/
def State.inService (s : State) : Bool := decide (s.eff = .service)

/-- The module has supply and clocks and is not held in reset: in no other state does anything inside it happen (R30, R31, R388,
R389, R396, R405). -/
def State.runs (s : State) : Bool :=
  s.resetHold.isNone && !decide (s.mstate = .off ∨ s.mstate = .dormant ∨ s.mstate = .frozen)

/-- An event inside the module takes place only while it runs. -/
def whileRunning (f : State → State) (s : State) : State := if s.runs then f s else s

/-- CD7 cycles since the 1 ms counter began. -/
def State.cyc (s : State) : Nat := 125000 * s.tb.ms + s.tb.msCyc

/-- Network time in ns. -/
def State.now (s : State) : Nat := s.tb.tb.ns.toNat

def State.lane (s : State) (i : Nat) : LaneSt := vget s.lanes .fresh i

def State.updLane (i : Nat) (f : LaneSt → LaneSt) (s : State) : State := s.updLanes fun v => vmod v i f

def State.serving (s : State) (i : Nat) : Bool := decide ((s.lane i).st = .serving)

/-- The lanes in service, in ascending number. -/
def State.servingLanes (s : State) : List Nat := (List.range 3).filter s.serving

/-- SERVICE 2oo3 or 2oo2, as the STATE record and the summary block code it (R293, R324). -/
def State.qual (s : State) : Nat := if s.servingLanes.length = 3 then 1 else 2

def State.can (s : State) : CanCh → CanSt
  | .can1 => s.can1
  | .can2 => s.can2

def State.updCan (c : CanCh) (f : CanSt → CanSt) (s : State) : State :=
  match c with
  | .can1 => s.updCan1 f
  | .can2 => s.updCan2 f

def State.task (s : State) (n : Nat) : TaskSt := vget s.tasks.t .fresh n

def State.updTask (n : Nat) (f : TaskSt → TaskSt) (s : State) : State :=
  s.updTasks fun t => { t with t := vmod t.t n f }

/-- Round length L in ms of a Floe record (R189). -/
def roundMs (floe : List Word) : Nat := fld (nth floe 0) 19 14

/-! ### Ice Core producers (R294) -/

/-- A record enters the inbound queue of 64, or is dropped and counted. -/
def emit (r : IceRec) (s : State) : State :=
  s.updIce fun i =>
    if i.inbound.length < 64 then { i with inbound := i.inbound ++ [r] } else { i with drops := satInc 0xFFFFFFFF i.drops }

/-- A record stamped with TB_NS; the Ice Core gives the SEQ when it stores it. -/
def record (code : Half) (sev src : Nat) (p0 p1 p2 p3 : Nat) (s : State) : State :=
  emit { seq := 0, time := s.tb.tb.ns, code := code, sev := sev, src := src, p0 := BitVec.ofNat 32 p0,
         p1 := BitVec.ofNat 32 p1, p2 := BitVec.ofNat 32 p2, p3 := BitVec.ofNat 32 p3 } s

/-! ### State changes (R30, R31) -/

/-- The STATE record of a change (R293). -/
def recordState (old new : MState) (s : State) : State :=
  record 0x0201 1 0xFFF old.code new.code (if new = .service then s.qual else 0) 0 s

/-- Enters a state and records the change. -/
def enterState (new : MState) (s : State) : State :=
  recordState s.mstate new (s.updMstate fun _ => new)

/-- A change of the state the module acts in: in HOLD the state it came from changes, and HOLD stays (R30). -/
def enterEff (new : MState) (s : State) : State :=
  if s.mstate = .hold then recordState s.holdFrom new (s.updHoldFrom fun _ => new) else enterState new s

/-! ### The state copy into a lane and the join stream (R147, R183) -/

/-- Blocks of the bulk pass copied since `copyFrom`: one in 16.384 µs, 2,048 cycles of CD7; none in HOLD (R147, R149). -/
def copiedSince (l : LaneSt) (s : State) : Nat :=
  if s.mstate = .hold then 0 else min l.dirty ((s.cyc - l.copyFrom) / 2048)

/-- The voted words of block n go into the lane's own memories: 16 blocks of runtime record, 64 of FRAM, 2,048 of image (R147). -/
def copyBlock (n : Nat) (s : State) (l : LaneSt) : LaneSt :=
  if n < 16 ∨ 57 ≤ n ∧ n < 80 then l
  else if n < 48 then { l with ownFram := { l.ownFram with home := memReplace l.ownFram.home s.fram.home (4096 * (n - 16)) 4096 } }
  else if n < 56 then
    (if n = 48 then { l with ownFram := { l.ownFram with waiting := s.fram.waiting, partialSet := s.fram.partialSet } } else l)
  else if n = 56 then
    { l with ownFram := { s.fram with home := l.ownFram.home, waiting := l.ownFram.waiting, partialSet := l.ownFram.partialSet } }
  else { l with img := memReplace l.img s.mem (4096 * (n - 80)) 4096 }

/-- The next k blocks of the bulk pass, in order. -/
def copyBulk (k : Nat) (s : State) (l : LaneSt) : LaneSt :=
  let l' := (List.range k).foldl (fun x j => copyBlock (2128 - l.dirty + j) s x) l
  { l' with dirty := l.dirty - k }

/-- A lane in COPY is brought up to this instant. -/
def syncCopy (s : State) (l : LaneSt) : LaneSt :=
  if l.st ≠ .copy then l
  else
    let k := copiedSince l s
    { copyBulk k s l with copyFrom := l.copyFrom + 2048 * k }

/-- A block that is written after its copy has begun is marked (R147). -/
def markLane (bs : List Nat) (l : LaneSt) : LaneSt :=
  match l.st with
  | .copy => { l with marked := (bs.filter fun b => decide (16 ≤ b ∧ b ≤ 2128 - l.dirty ∧ b < 2128)).foldl (fun a b => insertNat b a) l.marked }
  | .delta | .entry => { l with marked := (bs.filter fun b => decide (16 ≤ b ∧ b < 2128)).foldl (fun a b => insertNat b a) l.marked }
  | _ => l

/-- A block whose stream has started is dirty again when it is written (R183). -/
def markJoin (bs : List Nat) (j : Join) : Join :=
  if j.mine then j
  else { j with marked := (bs.filter fun b => !j.unsent.contains b).foldl (fun a b => insertNat b a) j.marked }

/-- A state copy or a join stream is in progress. -/
def State.copying (s : State) : Bool :=
  ((List.range 3).any fun i => decide ((s.lane i).st = .copy ∨ (s.lane i).st = .delta ∨ (s.lane i).st = .entry)) ||
    (s.twin.join.map fun j => !j.mine).getD false

/-- Blocks, numbered as R182 numbers them, are about to be written. -/
def touchBlocks (bs : List Nat) (s : State) : State :=
  if s.copying then
    (s.updLanes fun v => v.map fun l => markLane bs (syncCopy s l)).updTwin fun t => { t with join := t.join.map (markJoin bs) }
  else s

/-- Block of an image address, and of a home-copy address. -/
def imageBlock (a : Nat) : Nat := 80 + a / 4096
def homeBlock (a : Nat) : Nat := 16 + a / 4096

/-- The image is written: the blocks named, and those whose content changes. -/
def writeImage (bs : List Nat) (m : Mem) (s : State) : State :=
  (touchBlocks (if s.copying then bs ++ (memDiff s.mem m).map imageBlock else []) s).updMem fun _ => m

/-- The FRAM is written in the blocks named. -/
def writeFramBlocks (bs : List Nat) (f : Fram → Fram) (s : State) : State := (touchBlocks bs s).updFram f

/-! ### Lock-out records (R274) -/

def lockStands (kind index : Nat) (s : State) : Bool :=
  s.fram.locks.any fun l => l.kind.toNat == kind && l.index.toNat == index

/-- Writes a record for a function that has none; a function that has one keeps it. -/
def writeLock (kind index : Nat) (cause : Half) (source : Nat) (s : State) : State :=
  if lockStands kind index s then s
  else
    let l : LockRec := { kind := BitVec.ofNat 8 kind, index := BitVec.ofNat 8 index, cause := cause, iceSeq := 0,
                         time := s.tb.tb.ns, source := BitVec.ofNat 8 source }
    record 0x0203 (if kind = 1 then 4 else 3) source kind index cause.toNat source
      (writeFramBlocks [56] (fun f => { f with locks := f.locks ++ [l] }) s)

/-! ### Image copies (R327, R328) -/

/-- The 16-byte image header and the bytes of a copy. -/
def imageCopy (w : ImgWait) (unpub : Bool) (s : State) : List Byte :=
  wordsBytes [(s.task w.task).pubSeq, BitVec.ofNat 32 w.addr, flag 31 unpub ||| at32 0 w.task,
    BitVec.ofNat 32 w.length] ++ memBytes s.mem w.addr w.length

/-- One pending IMG.READ is copied into place k of the task's host-visible image and completes. -/
def finishImage (unpub : Bool) (k : Nat) (w : ImgWait) (s : State) : State :=
  let bytes := imageCopy w unpub s
  let a := 0x44000 + 0x8000 * w.task + 0x1000 * (k % 8)
  complete w.port 0x0601 w.tag { code := .ok, payload := bytes }
    ((touchBlocks [2128 + (a - 0x40000) / 4096] s).updXsram fun x => memWriteBytes x a bytes)

/-- All pending IMG.READs that a condition selects are copied at one point. -/
def finishImages (p : ImgWait → Bool) (unpub : ImgWait → Bool) (s : State) : State :=
  let sel := s.hif.imgs.filter p
  let s := s.updHif fun h => { h with imgs := h.imgs.filter fun w => !p w }
  ((List.range sel.length).zip sel).foldl (fun s e => finishImage (unpub e.2) e.1 e.2 s) s

/-- SERVICE is left for STARTUP or RECOVERY: no task is released any more, pending IMG.READs are copied as outside SERVICE
(R328), and cycles that run complete (R86). -/
def leaveService (new : MState) (s : State) : State := enterEff new (finishImages (fun _ => true) (fun _ => true) s)

/-! ### Entry into SAFE (R31, R266, R317, R339, R382) -/

/-- Area of a channel's 64 buffers (R374). -/
def canBase : CanCh → Nat
  | .can1 => 0x3C000
  | .can2 => 0x3D400

/-- Clears TXREQ of every buffer of a CAN channel (R374, R382). -/
def clearTxreq (ch : CanCh) (x : Mem) : Mem :=
  (List.range 64).foldl (fun x b =>
    let a := canBase ch + 80 * b
    memWrite x a (memRead x a &&& 0xF7)) x

/-- The record of a channel, one that waits for the frame in progress included (R367). -/
def CanSt.record (c : CanSt) : List Word := match c.wait with
  | some (.load r) => r
  | _ => c.cfg

/-- A channel that stays recessive. -/
def stopCan (c : CanSt) : CanSt :=
  { c with cfg := c.record, st := .stopped, integrating := false, oneShot := 0, cur := none, wait := none }

/-- The channel stops: every TXREQ is cleared and it stays recessive (R382). -/
def haltCan (ch : CanCh) (s : State) : State := (s.updCan ch stopCan).updXsram (clearTxreq ch)

/-- The channel takes part in the bus, so that a frame may be in progress. -/
def onBus (c : CanSt) : Bool :=
  tst (nth c.cfg 0) 31 && !c.halted && !c.integrating && decide (c.st = .active ∨ c.st = .passive)

/-- Does at once, or after the frame in progress, what waits for it. Whether one is in progress is a free value (DESIGN CHOICE, log
entry 4). -/
def afterFrame (ch : CanCh) (w : CanWait) (now : State → State) (s : State) : State :=
  if !onBus (s.can ch) then now s
  else
    let (v, s) := drawFree s
    if v.getLsbD 0 then s.updCan ch fun c => { c with wait := some w } else now s

/-- The channel completes the frame in progress, then stops (R382). -/
def quietCan (ch : CanCh) (s : State) : State := afterFrame ch .stop (haltCan ch) s

/-- Every operation still pending at a port completes with ERR_STATE. -/
def failPending (p : Port) (s : State) : State :=
  (s.port p).pend.foldl (fun s o => complete p o.opcode o.tag (.err .errState) s) s

/-- Tokens end, those of LOCK.ARM excepted (R317). -/
def keepLockTokens (q : PortSt) : PortSt := { q with tokens := q.tokens.filter fun t => t.opcode = 0x0901 }

/-- What entry into SAFE ends: activation, split, join, requests and loads of schedules, CVU chains, own frames. -/
def abandonAll (s : State) : State :=
  let s := s.updProg fun p => { p with sched := none, report := none, bank0 := { p.bank0 with verify := none },
                                        bank1 := { p.bank1 with verify := none } }
  let s := s.updTwin fun t => { t with split := none, join := none }
  let s := s.updFloe fun f => { f with mreq := none }
  let s := s.updFabric fun f => { f with chains := [] }
  quietCan .can2 (quietCan .can1 s)

/-- Entry into SAFE: pending IMG.READs are copied as outside SERVICE, every other operation completes with ERR_STATE, the
GEN lines stop, and the state changes. -/
def enterSafe (s : State) : State :=
  if s.mstate = .off ∨ s.mstate = .safe ∨ s.mstate = .frozen then s
  else
    let s := finishImages (fun _ => true) (fun _ => true) s
    let s := failPending .maint (failPending .host s)
    let s := (s.updPort .host keepLockTokens).updPort .maint keepLockTokens
    let s := abandonAll s
    let s := s.updIo fun i => { i with gen1 := false, gen2 := false, disc1 := none, disc2 := none }
    enterState .safe s

/-! ### Fault collection (R277 to R288) -/

/-- What a final class of 3 locks out (R279). -/
inductive Target where
  | lane (i : Nat) | task (i : Nat) | group (g : Nat) | channel (i : Nat) | twin | can (c : CanCh) | ice
  deriving DecidableEq, Repr

def classThreeTarget (src : Nat) : Option Target :=
  if 0x10 ≤ src ∧ src ≤ 0x12 then some (.lane (src - 0x10))
  else if 0x18 ≤ src ∧ src ≤ 0x1F then some (.task (src - 0x18))
  else if 0x20 ≤ src ∧ src ≤ 0x27 then some (.group (src % 2 + 1))
  else if src = 0x28 ∨ src = 0x29 then some (.channel (src - 0x28))
  else if src = 0x30 ∨ src = 0x31 then some .twin
  else if src = 0x38 then some (.can .can1)
  else if src = 0x39 then some (.can .can2)
  else if src = 0x40 then some .ice
  else none

/-- The sources the table of R279 lists. -/
def sourceListed (src : Nat) : Bool :=
  decide (src ≤ 0x04 ∨ (0x08 ≤ src ∧ src ≤ 0x0D) ∨ (0x10 ≤ src ∧ src ≤ 0x12) ∨ (0x18 ≤ src ∧ src ≤ 0x1F) ∨
    (0x20 ≤ src ∧ src ≤ 0x2B) ∨ src = 0x30 ∨ src = 0x31 ∨ (0x38 ≤ src ∧ src ≤ 0x3A) ∨ (0x40 ≤ src ∧ src ≤ 0x42))

/-- Sources that report lasting conditions (R278). -/
def sourceLasting (src : Nat) : Bool :=
  decide (src = 0x08 ∨ src = 0x09 ∨ src = 0x0A ∨ src = 0x0D ∨ src = 0x26 ∨ src = 0x27)

def State.fcuSource (s : State) (src : Nat) : FcuSource := Tbl.getD s.fcu.sources src .fresh

def State.updSource (src : Nat) (f : FcuSource → FcuSource) (s : State) : State :=
  s.updFcu fun c => { c with sources := Tbl.put c.sources src (f (Tbl.getD c.sources src .fresh)) }

/-- UNACK(k): some source holds an unacknowledged fault of class k. -/
def unack (c : Fcu) (k : Nat) : Bool := c.sources.any fun e => tst e.2.unack (k - 1)

/-- UNACK_CLASSES of R286. -/
def unackClasses (c : Fcu) : Nat := (List.range 4).foldl (fun a k => a + bit (unack c (k + 1)) * 2 ^ k) 0

/-- A pattern that is neither healthy nor a plain error is a broken line (R277). -/
def patternBroken (r : BitVec 2) : Bool := decide (r = 0 ∨ r = 3)

/-- The pattern the FCU uses: the real one unless it is healthy, then the forced one (R288). -/
def usedPattern (x : FcuSource) : BitVec 2 :=
  if x.real ≠ 1 then x.real else match x.force with
    | some (p, _) => p
    | none => 1

/-- The decision on one fault (R280): the final class and how it came about. -/
structure Decision where
  cls      : Nat
  esc      : Bool
  byBroken : Bool
  noTarget : Bool
  deriving DecidableEq, Repr

/-- The final class of R280, from the class code, the pattern and the UNACK state. -/
def finalClass (c : Fcu) (src code : Nat) (broken : Bool) : Decision :=
  let c0 := min code 4
  let c1 := if broken then min (c0 + 1) 4 else c0
  let collector := decide (src < 8)
  let esc := !collector && decide (1 ≤ c1 ∧ c1 ≤ 3) && unack c c1
  let c2 := if collector then 4 else if esc then c1 + 1 else c1
  let none3 := decide (c2 = 3) && (classThreeTarget src).isNone
  { cls := if none3 then 4 else c2, esc := esc, byBroken := broken && decide (c0 < c1 ∧ 3 ≤ c1), noTarget := none3 }

/-- CAUSE of a lock-out record: the topmost of the table of R284 that applies; `specific` is the owning chapter's. -/
def lockCause (d : Decision) (code : Nat) (forced : Bool) (specific : Option Half) : Half :=
  if specific = some 0x0006 then 0x0006
  else if 4 ≤ code then 0x0001
  else if d.esc && decide (3 ≤ d.cls) then 0x0002
  else if d.byBroken then 0x0003
  else if d.noTarget then 0x0004
  else if forced then 0x0005
  else specific.getD 0x0001

/-- LK_KIND and LK_INDEX of a target that has a lock-out record (R274, R283). -/
def targetRecord : Target → Option (Nat × Nat)
  | .group g => some (2, g)
  | .task i => some (3, i)
  | .twin => some (4, 0)
  | .channel i => some (5, i)
  | _ => none

/-- The record that a decision writes: the target's at class 3, the module's at class 4, none where one stands (R283). -/
def decisionRecord (src cls : Nat) (s : State) : Option (Nat × Nat) :=
  let r := if cls = 4 then some (1, 0) else if cls = 3 then (classThreeTarget src).bind targetRecord else none
  r.filter fun k => !lockStands k.1 k.2 s

/-- The pair state changes and is recorded (R293 TWIN_PSTATE). -/
def PState.code : PState → Nat
  | .single => 0 | .alone => 1 | .paired => 2 | .silent => 3 | .joining => 4 | .shadow => 5 | .removed => 6

/-- Leaving PAIRED ends agreement and comparison: a cycle that waits begins on its own slice (R167). -/
def endAgreement (s : State) : State :=
  s.updTasks fun t =>
    { t with t := t.t.map fun x =>
        { x with ownCmp := none, peerCmp := none,
                 run := x.run.map fun c => { c with agreed := c.agreed || (c.inSig.isSome && !c.unagreed) } } }

def setPState (new : PState) (s : State) : State :=
  if s.twin.ps = new then s
  else
    let s := if s.twin.ps = .paired then endAgreement s else s
    record 0x0502 1 0x31 s.twin.ps.code new.code s.twin.silentCause.toNat s.twin.epochSeen.toNat
      (s.updTwin fun t => { t with ps := new })

/-- The GEN line of an output group stops (R266, R275). -/
def stopGroup (g : Nat) (s : State) : State :=
  s.updIo fun i => if g = 1 then { i with gen1 := false, disc1 := none } else { i with gen2 := false, disc2 := none }

/-! ### Masking and locking of lanes (R139 to R142) -/

/-- The 60 minutes of R142 on the 1 ms counter. -/
def hourMs : Nat := 3600000

def withinHour (now t : Nat) : Bool := decide (now ≤ t + hourMs)

/-- Reintegrations started in the preceding 60 minutes (R151 REINT_60MIN). -/
def reintCount (now : Nat) (l : LaneSt) : Nat := (l.reintMs.filter (withinHour now)).length

/-- The lock conditions of R142 on a lane whose history holds this exclusion: cause 0x20, the fourth reintegration within 60
minutes, or the third exclusion within 60 minutes with an equal fingerprint. -/
def lockByHistory (now : Nat) (l : LaneSt) (cause : Nat) (fp : Fingerprint) : Bool :=
  decide (cause = 0x20) || decide (3 ≤ reintCount now l) ||
    decide (3 ≤ (l.history.filter fun h => withinHour now h.1 && decide (h.2 = fp)).length)

/-- The fingerprint of a self-detected fault is its cause (R141). -/
def selfFingerprint (cause : Nat) : Fingerprint := { kind := 0, kx := 0, hi := 0, lo := 0, cause := BitVec.ofNat 8 cause }

/-- PRG.VERIFY completion with a verdict (R334): FAIL_CODE, whether OFFSET is a descriptor offset, OFFSET, slots. -/
def verdictWords (fail : Half) (inDesc : Bool) (offset : Nat) (slots : List Nat) : List Word :=
  [BitVec.ofNat 32 fail.toNat, flag 31 inDesc, BitVec.ofNat 32 offset, 0] ++
    (List.range 8).map fun n => BitVec.ofNat 32 (slots.getD n 0)

/-- A bank in LOADING, LOADED or VERIFYING becomes INVALID with a code (R105); its PRG.VERIFY completes with the verdict. -/
def interruptBank (b : Bank) (code : Half) : Bank :=
  match b.st with
  | .loading | .loaded | .verifying => { b with st := .invalid, failCode := code, verify := none }
  | _ => b

/-- The completion of a PRG.VERIFY whose bank an exclusion has made INVALID. -/
def failVerify (v : Option (Port × Half)) (code : Half) (s : State) : State :=
  match v with
  | some (p, tag) => complete p 0x0402 tag (.words (verdictWords code false 0 [])) s
  | none => s

def interruptLoads (code : Half) (s : State) : State :=
  let v0 := s.prog.bank0.verify
  let v1 := s.prog.bank1.verify
  failVerify v1 code (failVerify v0 code
    (s.updProg fun p => { p with bank0 := interruptBank p.bank0 code, bank1 := interruptBank p.bank1 code }))

/-- Both voters mask the lane; its own memories stand as they are (R139). -/
def maskLane (i cause : Nat) (fp : Fingerprint) (s : State) : State :=
  let now := s.tb.ms
  let serves := s.serving i
  (s.updLane i fun l =>
    { l with st := .reset, lastCause := BitVec.ofNat 8 cause, exclTotal := satInc 0xFF l.exclTotal, lastExclMs := now, fp := fp,
             history := ((now, fp) :: l.history).take 3, dirty := 0, marked := [], gaps := 0,
             img := if serves then s.mem else l.img, ownFram := if serves then s.fram else l.ownFram }).updVoter fun v =>
    if serves then { v with lastMasked := some i } else v

/-- The lane is locked under R142 (LANE_LOCK); a lane that is locked stays so. -/
def lockLane (i cause : Nat) (s : State) : State :=
  if (s.lane i).lock then s
  else
    record 0x0303 3 (0x10 + i) i cause (reintCount s.tb.ms (s.lane i)) 0
      (s.updLane i fun l => { l with lock := true, st := .locked, lastCause := BitVec.ofNat 8 cause })

/-- What follows the fault of an exclusion: LANE_EXCL, LOCKED or the start of reintegration, loads interrupted, STATE where the
module drops to 2oo2 in SERVICE (R139, R142, R105). -/
def afterExclusion (i cause : Nat) (fp : Fingerprint) (lockNow was3 : Bool) (s : State) : State :=
  let s := record 0x0301 2 (0x10 + i) i cause fp.kind.toNat (fp.lo.toNat % 2 ^ 32) s
  let s := if lockNow || lockByHistory s.tb.ms (s.lane i) cause fp then lockLane i cause s else s
  let s := if (s.lane i).lock then s
    else s.updLane i fun l => { l with reintMs := l.reintMs.filter (withinHour s.tb.ms) ++ [s.tb.ms] }
  let s := interruptLoads 0x0002 s
  if was3 ∧ s.eff = .service then recordState .service .service s else s

/-- A class 3 of a lane source (R283): a serving lane is masked and locked; where another lane is already out, `second` is what a
second lane out leads to (R139, R140); a lane already masked is locked. -/
def lockTarget (second : State → State) (i cause : Nat) (s : State) : State :=
  if !s.serving i then lockLane i cause s
  else if s.servingLanes.length < 3 then second s
  else
    let fp := selfFingerprint cause
    afterExclusion i cause fp true true (maskLane i cause fp s)

/-! ### Decisions (R280 to R284) -/

/-- The effect of a lock-out on its function (R275); lanes, CAN channels and the Ice Core have no record (R283). -/
def targetEffect (second : State → State) (t : Target) (cause : Nat) (s : State) : State :=
  match t with
  | .group g => stopGroup g s
  | .task i => s.updTask i fun x => { x with stopped := true }
  | .twin => setPState .removed s
  | .channel _ => s
  | .can c => s.updCan c fun x => { stopCan x with halted := true }
  | .ice => s.updIce fun i => { i with stopped := true }
  | .lane i => lockTarget second i cause s

/-- CAUSE that the table of R284 gives a class 3 of a source by its own class code. Of the four wiring causes the source's detail
says which; a detail that names none of them counts as STUCK_SW (DESIGN CHOICE, log entry 61). -/
def sourceCause (src : Nat) (detail : Word) : Option Half :=
  let low := detail.toNat % 65536
  if src = 0x20 ∨ src = 0x21 then some (if 0x0101 ≤ low ∧ low ≤ 0x0104 then BitVec.ofNat 16 low else 0x0101)
  else if src = 0x22 ∨ src = 0x23 then some 0x0105
  else if src = 0x28 ∨ src = 0x29 then some 0x0301
  else if src = 0x31 then some 0x0201
  else none

/-- Decides a fault of a source whose pattern has just left healthy: counters, UNACK mask, FAULT record, then the effect of
the final class (R280, R283, R294). -/
def decideBase (second : State → State) (src code : Nat) (broken forced : Bool) (detail : Word) (specific : Option Half)
    (s : State) : State :=
  let d := finalClass s.fcu src code broken
  let mask : BitVec 4 := if d.cls = 0 then 0 else 1#4 <<< (d.cls - 1)
  let s := s.updSource src fun x =>
    { x with unack := x.unack ||| mask, lastClass := d.cls, lastBroken := broken, lastEsc := d.esc,
             count := satInc 0xFFFF x.count, activeMs := s.tb.ms }
  let s := s.updFcu fun c =>
    { c with faults := satInc 0xFFFFFFFF c.faults,
             escalations := if d.esc then satInc 0xFFFFFFFF c.escalations else c.escalations,
             broken := if broken then satInc 0xFFFFFFFF c.broken else c.broken }
  let lk := decisionRecord src d.cls s
  let p0 := src * 2 ^ 24 + min code 7 * 2 ^ 16 + d.cls * 2 ^ 8 + bit broken * 2 ^ 7 + bit d.esc * 2 ^ 6 +
    bit forced * 2 ^ 5
  let p2 := match lk with
    | some (k, i) => k * 256 + i
    | none => 0
  let s := record 0x0101 d.cls src p0 detail.toNat p2 (unackClasses s.fcu) s
  let s := match lk with
    | some (k, i) => writeLock k i (lockCause d code forced (specific <|> sourceCause src detail)) src s
    | none => s
  if d.cls = 4 then enterSafe s
  else if d.cls = 3 then match classThreeTarget src with
    | some t => targetEffect second t (detail.toNat % 256) s
    | none => s
  else s

/-- The used pattern of a listed source has changed: ACTIVE follows it, a return to healthy is recorded (R278, R293), and a
pattern that leaves healthy is decided. -/
def changeBase (second : State → State) (src code : Nat) (forced : Bool) (detail : Word) (specific : Option Half) (endMs : Nat)
    (s : State) : State :=
  let x := s.fcuSource src
  let new := usedPattern x
  let s' := s.updSource src fun x => { x with rail := new }
  if x.rail = 1 ∧ new ≠ 1 then decideBase second src code (patternBroken new) forced detail specific s'
  else if x.rail ≠ 1 ∧ new = 1 then record 0x0102 0 src src endMs 0 0 s'
  else s'

/-- ms with ACTIVE 1, saturating (R293). -/
def activeMs (src : Nat) (s : State) : Nat := min (s.tb.ms - (s.fcuSource src).activeMs) 0xFFFFFFFF

/-- A source presents a non-healthy pattern. A lasting source or a broken line that already holds raises nothing more; an
event source has returned to healthy in between (R278). -/
def presentBase (second : State → State) (src : Nat) (rails : BitVec 2) (code : Nat) (detail : Word) (specific : Option Half)
    (s : State) : State :=
  let x := s.fcuSource src
  if x.real ≠ 1 ∧ (sourceLasting src ∨ patternBroken x.real) then s
  else
    let s := if x.real ≠ 1 then
        changeBase second src 0 false 0 none (activeMs src s) (s.updSource src fun x => { x with real := 1 })
      else s
    changeBase second src code false detail specific 0 (s.updSource src fun x => { x with real := rails })

/-! ### Faults raised (R277 to R279) -/

/-- A second excluded lane, no majority or a 2oo2 divergence: source 0x04 at class 4 (R131, R139, R140). Its detail is a free value
(DESIGN CHOICE, log entry 4). -/
def raiseNoAgree (s : State) : State :=
  let (v, s) := drawFree s
  presentBase id 0x04 2 4 (BitVec.ofNat 32 v.toNat) none s

/-- A change of the used pattern of a listed source. -/
def patternChange (src code : Nat) (forced : Bool) (detail : Word) (specific : Option Half) (endMs : Nat) (s : State) : State :=
  changeBase raiseNoAgree src code forced detail specific endMs s

/-- A source's real pattern returns to healthy (R278). -/
def endPattern (src endMs : Nat) (s : State) : State :=
  patternChange src 0 false 0 none endMs (s.updSource src fun x => { x with real := 1 })

/-- An input that the source table does not list shows a non-healthy pattern: a fault of source 0x00 (R277). -/
def presentUnlisted (src : Nat) (rails : BitVec 2) (s : State) : State :=
  let was := (s.fcuSource src).rail
  let s := s.updSource src fun x => { x with real := rails, rail := rails }
  if was = 1 then
    let (v, s) := drawFree s
    presentBase raiseNoAgree 0x00 2 4 (BitVec.ofNat 32 v.toNat) none s
  else s

/-- A source presents a non-healthy pattern. -/
def presentPattern (src : Nat) (rails : BitVec 2) (code : Nat) (detail : Word) (specific : Option Half) (s : State) : State :=
  if sourceListed src then presentBase raiseNoAgree src rails code detail specific s else presentUnlisted src rails s

/-- A fault of an event source at a class code, error pattern (1,0). -/
def raise (src code : Nat) (detail : Nat) (specific : Option Half) (s : State) : State :=
  presentPattern src 2 code (BitVec.ofNat 32 detail) specific s

/-- A fault whose detail no rule states: the detail is a free value (DESIGN CHOICE, log entry 4). -/
def raiseOpen (src code : Nat) (specific : Option Half) (s : State) : State :=
  let (v, s) := drawFree s
  raise src code (v.toNat % 2 ^ 32) specific s

/-- A FAIL_CODE that R72 does not state: a free value other than 0 (DESIGN CHOICE, log entry 27). -/
def openFailCode (v : BitVec 64) : Half := BitVec.ofNat 16 (1 + v.toNat % 65535)

/-! ### Votes not passed on (R17, R130, R131) -/

/-- What waits for a record of a KIND whose latest vote gave no voted record does not take place, once. -/
def voteLost (k : Nat) (s : State) : Bool := s.voter.lost.contains k

def takeLost (k : Nat) (s : State) : State := s.updVoter fun v => { v with lost := v.lost.filter (· ≠ k) }

end Sys2Proof.Machine
end

