-- ==== Sys2Proof/Machine/LaneOps.lean ====
section
/-!
DEFINITION. Lane exclusion (R138 to R142): masking, the exclusion's fault and records, the lock, the start of
reintegration, and what an exclusion does to a bank being loaded (R105).
-/
namespace Sys2Proof.Machine

/-- Excludes a lane for a cause (R139): masked, fault of its source at class 2, then the rest. -/
def exclusionSteps (i cause : Nat) (fp : Fingerprint) (lockNow : Bool) (s : State) : State :=
  afterExclusion i cause fp lockNow (decide (s.servingLanes.length = 3))
    (raise (0x10 + i) 2 cause none (maskLane i cause fp s))

/-- Excludes a serving lane. With another lane already out, the fault is of class 4 instead (R139, R140); a lane that is
already masked is not excluded again. -/
def excludeLane (i cause : Nat) (fp : Fingerprint) (lockNow : Bool) (s : State) : State :=
  if !s.serving i then s
  else if s.servingLanes.length < 3 then raiseNoAgree s
  else exclusionSteps i cause fp lockNow s

/-- A self-detected fault of a lane (R138). -/
def laneFault (i cause : Nat) (s : State) : State := excludeLane i cause (selfFingerprint cause) false s

/-- A fault that one lane may have detected on itself in the course of a step. -/
def laneFaultIn (cause : Nat) (lane : Option LaneId) (s : State) : State :=
  match lane with
  | some l => laneFault l.val cause s
  | none => s

/-- A lane that has failed after 3 retries of its own memory shows them in its diagnostic block (R138, R326). -/
def countRetries (f : LaneSt → LaneSt) (lane : Option LaneId) (s : State) : State :=
  match lane with
  | some l => s.updLane l.val f
  | none => s

/-- The vote of a start-up result of the lanes (R121, R275): a minority is excluded and refilled, no agreement is the class 4 fault
of the item. -/
def voteAgreement (a : Agreement) (cause : Nat) (noAgree : State → State) (s : State) : State :=
  match a with
  | .all => s
  | .minority l x => excludeLane l.val cause { kind := BitVec.ofNat 4 cause, kx := 0, hi := 0, lo := x, cause := 0 } false s
  | .none => noAgree s

end Sys2Proof.Machine
end

