-- ==== Sys2Proof/WellFormed.lean ====
section
/-!
DEFINITION. Which commands are well formed: their lists have the lengths that the row's format fixes, and their numbers
stay inside the ranges that the row's format has bits for. A command that is not well formed still has a meaning; it is only
none that this part's formats can carry.
-/
namespace Sys2Proof

/-- Data lengths of the DLC codes (R374: ISO 11898-1). -/
def dlcBytes (dlc : Nat) : Nat :=
  match dlc with
  | 9 => 12 | 10 => 16 | 11 => 20 | 12 => 24 | 13 => 32 | 14 => 48 | 15 => 64
  | n => n

/-- A frame that the CAN bus can carry: identifier width, no data in a remote frame, the data its DLC says. -/
def CanFrame.wf (f : CanFrame) : Bool :=
  (f.ide || decide (f.id.toNat < 2048)) && !(f.fdf && f.rtr) && (f.fdf || !f.brs) && (f.fdf || !f.esi) &&
    decide (f.data.length = if f.rtr then 0 else if f.fdf then dlcBytes f.dlc.toNat else min f.dlc.toNat 8)

/-- Payload bytes of a packet: whole bytes, at most 4,096 (R309). -/
def payloadWf (words : Nat) (data : List Byte) : Bool := decide (4 * words + data.length ≤ 4096)

/-- A Floe frame payload (R195). -/
def floeWf (payload : List Byte) : Bool := decide (payload.length ≤ 1500)

/-- An Ethernet frame of a Floe channel: two addresses, EtherType, payload (R192, R195). -/
def etherWf (frame : List Byte) : Bool := decide (frame.length ≤ 1514)

/-- An Ethernet frame of the twin link (R156). -/
def messageWf (msg : List Byte) : Bool := decide (msg.length ≤ 9014)

/-- The well-formed commands. -/
def Instr.wf : Instr → Bool
  | .ioCfg _ _ record => decide (record.length = 113)
  | .twinCfg _ _ record => decide (record.length = 6)
  | .floeCfg _ _ record | .floeCfgArm _ _ record | .floeCfgExecute _ _ _ record => decide (record.length = 13)
  | .arbCfg _ _ record => decide (record.length = 14)
  | .canCfg _ _ _ record => decide (record.length = 136)
  | .prgLoad _ _ _ _ data | .fwStage _ _ _ _ _ data => payloadWf 2 data
  | .hinWrite _ _ _ _ data => payloadWf 2 data
  | .floeSched _ _ _ _ _ _ entries => decide (entries.length % 4 = 0) && decide (4 * (2 + entries.length) ≤ 4096)
  | .cvuRun _ _ ds data => payloadWf (1 + ds.length) data
  | .canSend _ _ _ _ _ _ _ _ data => decide (data.length ≤ 64)
  | .maintFragmentReceive payload => floeWf payload
  | .frameReceive _ _ _ frame _ | .coldstartReceive _ _ frame _ => etherWf frame
  | .frameTransmit slot _ _ _ _ => decide (slot < 4096)
  | .hello _ m _ => messageWf m
  | .actfwd m | .actprop m | .actconf m | .insig m | .inslice m | .twcmp m | .stsig m | .splitreq m | .splitack m
  | .joinreq m | .joinack m | .stateblk m | .joinend m | .joinabort m => messageWf m
  | .inputSample currents => decide (currents.length = 32)
  | .outputReadbackSample readings => decide (readings.length = 16)
  | .arbiterDecision waits => decide (waits.length = 12)
  | .canFrameReceive _ f _ => f.wf
  | _ => true

end Sys2Proof
end

