-- ==== Sys2Proof/Machine/Serve.lean ====
section
/-!
DEFINITION. How a port takes and answers a command: the catalogue (R319), the order of checks (R311), the states that serve
it (R320), mailboxes (R304, R312), the recording of configuration commands (R321) and arm and execute (R317).
-/
namespace Sys2Proof.Machine

/-! ### The catalogue (R319) -/

/-- Kind of a command: I, P, A, or A then P; the two commands that are I, and A in SERVICE, count as A. -/
inductive CmdKind where
  | imm | pend | arm | armPend
  deriving DecidableEq, Repr

structure CmdRow where
  opcode : Nat
  kind   : CmdKind
  states : List MState
  deriving DecidableEq, Repr

/-- State lists of the catalogue: U, V, T, R, X. -/
def stUVT : List MState := [.startup, .service, .test]
def stUVTR : List MState := [.startup, .service, .test, .recovery]
def stUVTRX : List MState := [.startup, .service, .test, .recovery, .safe]
def stUT : List MState := [.startup, .test]
def stAll : List MState := [.boot, .selftest, .startup, .service, .test, .recovery, .safe]

def catalogue : List CmdRow :=
  [ ⟨0x0001, .imm, stAll⟩, ⟨0x0002, .imm, stAll⟩, ⟨0x0003, .imm, stUVTRX⟩, ⟨0x0101, .arm, stUVTR⟩,
    ⟨0x0102, .arm, stUVTRX⟩, ⟨0x0103, .arm, [.startup]⟩, ⟨0x0104, .arm, [.startup]⟩, ⟨0x0105, .arm, [.test]⟩ ] ++
  [ ⟨0x0201, .arm, stUVT⟩, ⟨0x0202, .imm, stUT⟩, ⟨0x0301, .imm, stUVTR⟩, ⟨0x0401, .imm, stUVT⟩,
    ⟨0x0402, .pend, stUVT⟩, ⟨0x0403, .armPend, stUVT⟩, ⟨0x0501, .imm, stUVT⟩, ⟨0x0502, .arm, stUVT⟩ ] ++
  [ ⟨0x0601, .pend, stUVTRX⟩, ⟨0x0602, .imm, stUVT⟩, ⟨0x0701, .imm, stUVTRX⟩, ⟨0x0702, .imm, stUVTRX⟩,
    ⟨0x0801, .imm, stUVTRX⟩, ⟨0x0802, .imm, stUVTRX⟩, ⟨0x0803, .imm, [.test]⟩, ⟨0x0901, .imm, stUVTRX⟩,
    ⟨0x0902, .imm, stUVTRX⟩ ] ++
  [ ⟨0x0A01, .imm, stUT⟩, ⟨0x0A02, .armPend, [.service]⟩, ⟨0x0A03, .armPend, [.startup, .service]⟩,
    ⟨0x0B01, .arm, stUVT⟩, ⟨0x0B02, .imm, stUT⟩, ⟨0x0B03, .pend, stUVT⟩, ⟨0x0C01, .imm, stUT⟩,
    ⟨0x0C02, .imm, stUVTRX⟩, ⟨0x0C10, .pend, stUVTR⟩ ] ++
  [ ⟨0x0D01, .imm, stUT⟩, ⟨0x0D02, .imm, stUVTR⟩, ⟨0x0D03, .imm, stUVTR⟩, ⟨0x0E01, .arm, stUVTR⟩ ]

def catalogueRow (op : Half) : Option CmdRow := catalogue.find? fun r => r.opcode == op.toNat

/-- The commands that lead to a restart or a state change (R318); refused in HOLD. -/
def actsLater (op : Half) : Bool := [0x0101, 0x0102, 0x0105, 0x0502, 0x0103, 0x0902].contains op.toNat

/-- PHASE of a payload; none without a first word. -/
def phaseOf (payload : List Byte) : Option Nat := if payload.length < 4 then none else some (fld (wordAt payload 0) 7 0)

def isExecute (k : CmdKind) (payload : List Byte) : Bool :=
  (k == .arm || k == .armPend) && phaseOf payload == some 2

/-- A command that needs one of the 8 pending places (R311 check 7). -/
def needsPlace (k : CmdKind) (payload : List Byte) : Bool := k == .pend || (k == .armPend && isExecute k payload)

/-! ### Who may send (R225) -/

def remoteLevel (s : State) : Nat := fld (nth s.floe.live 3) 15 14

/-- What REMOTE_LEVEL permits at the maintenance slot; ARB.COUNTERS with CLEAR 1 needs level 0b10 (R351). -/
def remoteAllows (level : Nat) (op : Half) (payload : List Byte) : Bool :=
  decide (level = 2) ||
    (decide (level = 1) &&
      [0x0001, 0x0002, 0x0003, 0x0601, 0x0701, 0x0702, 0x0801, 0x0C02].contains op.toNat &&
      !(op == 0x0C02 && tst (wordAt payload 0) 0))

/-- A port is served in every state but OFF, DORMANT and FROZEN, and not while the safety device is held in reset (R30, R31,
R307); the maintenance slot needs a REMOTE_LEVEL above 0b00 (R225). -/
def portServed (p : Port) (s : State) : Bool :=
  s.runs && (p == .host || decide (remoteLevel s ≠ 0))

/-- The state serves the command (R320): HOLD serves those of the state it came from, those of R318 excepted. -/
def stateServes (r : CmdRow) (op : Half) (s : State) : Bool :=
  r.states.contains s.eff && !(decide (s.mstate = .hold) && actsLater op)

/-! ### Lengths (R311 check 11) -/

/-- Payload length of a command of fixed length. -/
def fixedLen (op : Half) : Option Nat :=
  match op.toNat with
  | 0x0001 | 0x0402 => some 0
  | 0x0702 | 0x0801 | 0x0802 | 0x0803 | 0x0901 | 0x0B03 | 0x0C02 => some 4
  | 0x0003 | 0x0101 | 0x0102 | 0x0103 | 0x0104 | 0x0105 | 0x0502 | 0x0701 | 0x0902 | 0x0A02 | 0x0A03 | 0x0E01 => some 8
  | 0x0002 | 0x0601 | 0x0D03 => some 12
  | 0x0201 => some 16
  | 0x0403 | 0x0A01 => some 24
  | 0x0C01 => some 56
  | 0x0B01 => some 60
  | 0x0202 => some 452
  | 0x0D01 => some 548
  | _ => none

/-- Data bytes that a DLC names in a CAN frame (R374, R383). -/
def frameBytes (rtr fdf : Bool) (dlc : Nat) : Nat :=
  if rtr then 0 else if fdf then dlcBytes dlc else min dlc 8

/-- LEN that a payload of variable length must have; `none` where the rule gives only a range. -/
def wantedLen (op : Half) (p : List Byte) : Option Nat :=
  match op.toNat with
  | 0x0602 =>
    let n := (wordAt p 1).toNat
    if n % 32 = 0 ∧ 32 ≤ n ∧ n ≤ 32704 then some (8 + n / 8) else none
  | 0x0C10 => some (4 + 40 * fld (wordAt p 0) 7 0 + fld (wordAt p 0) 31 16)
  | 0x0D02 =>
    if tst (wordAt p 0) 7 then some 16
    else some (16 + frameBytes (tst (wordAt p 2) 30) (tst (wordAt p 3) 31) (fld (wordAt p 3) 3 0))
  | _ => none

/-- The LEN expected (0 for a range) where LEN does not suit the command; none where it does. -/
def lenFault (op : Half) (p : List Byte) : Option Nat :=
  let n := p.length
  match fixedLen op with
  | some k => if n = k then none else some k
  | none => match op.toNat with
    | 0x0301 => if n = 16 ∨ n = 32 then none else some 0
    | 0x0401 | 0x0501 => if 16 ≤ n ∧ n ≤ 4096 ∧ n % 8 = 0 then none else some 0
    | 0x0602 => if n < 8 then some 0 else match wantedLen op p with
      | some k => if n = k then none else some k
      | none => none
    | 0x0B02 => if 8 ≤ n ∧ (n - 8) % 16 = 0 then none else some 0
    | 0x0C10 | 0x0D02 => if n < (if op = 0x0C10 then 4 else 16) then some 0 else match wantedLen op p with
      | some k => if n = k then none else some k
      | none => none
    | _ => none

/-! ### Checks 4 to 12 (R311) -/

/-- A command's own checks and effect: port, TAG, payload. -/
abbrev Handler := Port → Half → List Byte → State → Reply × State

/-- The configuration commands of R321; FLOE.SCHED in a chunk with LAST 1. -/
def isConfig (op : Half) (payload : List Byte) : Bool :=
  [0x0201, 0x0202, 0x0301, 0x0A01, 0x0B01, 0x0C01, 0x0D01].contains op.toNat ||
    (op == 0x0B02 && tst (wordAt payload 0) 9)

/-- CFG_WRITE, with 0 or the error code (R293); a TIME.SET that loads is recorded as TIME_SET instead (R321). -/
def recordConfig (p : Port) (op : Half) (payload : List Byte) (r : Reply) (s : State) : State :=
  if !isConfig op payload then s
  else if op = 0x0301 ∧ payload.length = 16 ∧ fld (wordAt payload 0) 1 0 ≠ 0 ∧ r.code = .ok then
    record 0x0A03 1 (portSrc p) (wordAt payload 0).toNat (wordAt payload 1).toNat (wordAt payload 2).toNat
      (wordAt payload 3).toNat s
  else record 0x0A04 2 (portSrc p) op.toNat r.code.value.toNat 0 0 s

/-- The token of an execute (check 9): of LOCK.ARM for LOCK.RESET, bound to LK_KIND and LK_INDEX (R335), else of the same OPCODE. -/
def executeToken (p : Port) (op : Half) (payload : List Byte) (s : State) : Bool :=
  if op = 0x0902 then
    tokenValid p 0x0901 [wordAt payload 0 &&& 0xFFFF] (wordAt payload 1) s && decide (payload.length = 8)
  else tokenValid p op (boundWords (bytesWords payload)) (wordAt payload 1) s && decide (payload.length % 4 = 0)

/-- Checks 6 to 10: the refusal of the first that fails. -/
def entryRefusal (row : CmdRow) (p : Port) (op tag : Half) (payload : List Byte) (s : State) : Option Code :=
  if (s.port p).pend.any (fun o => o.tag == tag) then some .errTag
  else if needsPlace row.kind payload && decide (8 ≤ (s.port p).pend.length) then some .errBusy
  else if p == .maint && !remoteAllows (remoteLevel s) op payload then some .errRemote
  else if (isExecute row.kind payload || op == 0x0902) && !executeToken p op payload s then some .errToken
  else if !stateServes row op s then some .errState
  else none

/-- Checks 11 and 12, and the record of R321. -/
def runHandler (h : Handler) (p : Port) (op tag : Half) (payload : List Byte) (s : State) : Reply × State :=
  match lenFault op payload with
  | some k =>
    let r := Reply.len k payload.length
    (r, recordConfig p op payload r s)
  | none =>
    let (r, t) := h p tag payload s
    (r, recordConfig p op payload r t)

/-- Checks 6 to 12 on a command of the catalogue. -/
def serve (h : Handler) (p : Port) (op tag : Half) (payload : List Byte) (s : State) : Reply × State :=
  match catalogueRow op with
  | none => (.err .errOpcode, s)
  | some row => match entryRefusal row p op tag payload s with
    | some c => (.err c, s)
    | none => runHandler h p op tag payload s

/-! ### Mailboxes (R304, R312, R314) -/

/-- A packet enters the command mailbox, or is discarded and counted when no place is free (R304). -/
def mailboxPut (p : Port) (bytes : List Byte) (s : State) : State :=
  s.updPort p fun q =>
    if 4 ≤ q.cmds.length then { q with cmdOvf := satInc 0xFFFF q.cmdOvf } else { q with cmds := q.cmds ++ [bytes] }

/-- A place for the response can be reserved once the waiting completions have theirs (R312, R314). -/
def placeFree (p : Port) (s : State) : Bool := decide ((flushWaiting (s.port p)).resps.length < 4)

/-- A command is counted as taken; completions that wait are queued before it is answered (R314). -/
def takeCommand (p : Port) (s : State) : State :=
  s.updPort p fun q => { flushWaiting q with commands := satInc 0xFFFFFFFF q.commands }

/-- A response is queued; one whose words the voters have not passed on is not sent (R29, R131, R339). -/
def respond (lost : Bool) (p : Port) (op tag : Half) (r : Reply) (s : State) : State :=
  if lost then takeLost 4 s else queueResponse p op tag r s

/-- A command taken, served and answered; completions that found no place before now have one if there is one. -/
def answer (h : Handler) (p : Port) (op tag : Half) (payload : List Byte) (s : State) : State :=
  let (r, t) := serve h p op tag payload (takeCommand p s)
  respond (voteLost 4 s) p op tag r t

/-- A command arrives in a correct packet. It is taken at once where nothing stands before it and its response has a place;
else the packet waits in the mailbox. A port that is not served ignores it (R307). -/
def arrive (h : Handler) (p : Port) (op tag : Half) (payload : List Byte) (s : State) : State :=
  if !portServed p s then s
  else if (s.port p).cmds.isEmpty && placeFree p s then answer h p op tag payload s
  else mailboxPut p (commandPacket op tag payload) s

/-! ### Arm and execute (R317) -/

/-- W0 [31:8] RSVD, PHASE one of 1 and 2, TOKEN 0 in an arm. -/
def phaseRefusal (ws : List Word) : Option Reply :=
  match firstBad ws [rsvd 0 31 8, ⟨0, 7, 0, 1, 2⟩] with
  | some r => some (.range r.word r.hi)
  | none => if fld (nth ws 0) 7 0 = 1 ∧ nth ws 1 ≠ 0 then some (.range 1 31) else none

/-- The arm response: the token, RSVD, and what the command adds. -/
def armReply (p : Port) (op : Half) (ws : List Word) (extra : List Word) (s : State) : Reply × State :=
  let (t, s) := armToken p op (boundWords ws) s
  (.words (t :: 0 :: extra), s)

/-- A command with an arm and an execute phase: the refusal of the phase fields, the arm, or what the execute does. -/
def armExecute (op : Half) (execute : Port → Half → List Word → State → Reply × State) : Handler :=
  fun p tag payload s =>
    let ws := bytesWords payload
    match phaseRefusal ws with
    | some r => (r, s)
    | none => if fld (nth ws 0) 7 0 = 1 then armReply p op ws [] s else execute p tag ws s

/-- A response has been read at a port: the action of R318 waits for one less. -/
def noteRead (p : Port) (s : State) : State :=
  s.updHif fun h => { h with actions := h.actions.map fun a => if a.2.1 = p then (a.1, p, a.2.2.1 - 1, a.2.2.2) else a }

/-- Queues the restart or state change of R318 behind the response that is about to be queued. -/
def actAfter (p : Port) (a : Action) (s : State) : State :=
  s.updHif fun h => { h with actions := h.actions ++ [(a, p, (s.port p).resps.length + 1, s.tb.ms)] }

end Sys2Proof.Machine
end

