-- ==== Sys2Proof/Machine/CmdSystem.lean ====
section
/-!
DEFINITION. IDENT (R322), the module state commands (R332), RIME.ARM and TIME.SET (R96, R330).
-/
namespace Sys2Proof.Machine

/-! ### IDENT -/

/-- NLK_VERSION of a VALID or ACTIVE bank, 0 otherwise. -/
def nlkOf (b : Bank) : Word := if b.st = .valid ∨ b.st = .active then BitVec.ofNat 32 b.nlkVersion else 0

/-- The identity words W0 to W11 (R322); hardware issue C (R1). -/
def identWords (s : State) : List Word :=
  [ 0x0A537340, at32 24 (if Config.isVariantF then 0x46 else 0x43) ||| at32 16 0x43,
    hiWord Config.serial, loWord Config.serial, BitVec.ofNat 32 (Config.lot.toNat >>> 24),
    at32 8 (Config.lot.toNat % 2 ^ 24),
    at32 24 Config.wafer.toNat ||| at32 8 Config.dieX.toNat ||| at32 0 Config.dieY.toNat, s.fw.version,
    BitVec.ofNat 32 s.fw.fuses, nlkOf s.prog.bank0, nlkOf s.prog.bank1, 0 ]

def handleIdent : Handler := fun _ _ _ s => (.words (identWords s), s)

def execIdent (p : Port) (tag : Half) (s : State) : Host.Outcome State Fault Refusal :=
  .next (arrive handleIdent p 0x0001 tag [] s)

/-! ### Restart, dormant and test commands -/

/-- Payload of an arm, and of an execute with its token. -/
def armPayload : List Byte := wordsBytes [1, 0]
def executePayload (token : Word) : List Byte := wordsBytes [2, token]

/-- An execute whose effect follows the response under R318. -/
def executeLater (op : Half) (a : Action) : Port → Half → List Word → State → Reply × State :=
  fun p _ _ s => (.done, actAfter p a (spendToken p op s))

def handleRstWarm : Handler := armExecute 0x0101 (executeLater 0x0101 .rstWarm)

def handleRstCold : Handler := armExecute 0x0102 (executeLater 0x0102 .rstCold)

def handleTestExit : Handler := armExecute 0x0105 (executeLater 0x0105 .testExit)

def anyEnabled (s : State) : Bool := (List.range 8).any fun n => tst (s.task n).cfg 31

/-- PWR.DORMANT is refused while any task is enabled. -/
def dormantExecute (p : Port) (tag : Half) (ws : List Word) (s : State) : Reply × State :=
  if anyEnabled s then (.err .errState, s) else executeLater 0x0103 .dormant p tag ws s

def handlePwrDormant : Handler := armExecute 0x0103 dormantExecute

/-- TEST.ENTER acts at once and is recorded (R31). -/
def testEnterExecute (p : Port) (_ : Half) (_ : List Word) (s : State) : Reply × State :=
  (.done, enterEff .test (record 0x0205 2 (portSrc p) 0 0 0 0 (spendToken p 0x0104 s)))

def handleTestEnter : Handler := armExecute 0x0104 testEnterExecute

/-- RIME.ARM needs the MAINT_EN strap and stays armed until the next restart. -/
def rimeArmDo (p : Port) (_ : Half) (_ : List Word) (s : State) : Reply × State :=
  if !s.maintEn then (.err .errState, s)
  else (.done, record 0x0A05 3 (portSrc p) 0 0 0 0 ((spendToken p 0x0E01 s).updRimeArmed fun _ => true))

def handleRimeArm : Handler := armExecute 0x0E01 rimeArmDo

def execRstWarmArm (p : Port) (tag : Half) (s : State) : Host.Outcome State Fault Refusal :=
  .next (arrive handleRstWarm p 0x0101 tag armPayload s)

def execRstWarmExecute (p : Port) (tag : Half) (token : Word) (s : State) : Host.Outcome State Fault Refusal :=
  .next (arrive handleRstWarm p 0x0101 tag (executePayload token) s)

def execRstColdArm (p : Port) (tag : Half) (s : State) : Host.Outcome State Fault Refusal :=
  .next (arrive handleRstCold p 0x0102 tag armPayload s)

def execRstColdExecute (p : Port) (tag : Half) (token : Word) (s : State) : Host.Outcome State Fault Refusal :=
  .next (arrive handleRstCold p 0x0102 tag (executePayload token) s)

def execPwrDormantArm (p : Port) (tag : Half) (s : State) : Host.Outcome State Fault Refusal :=
  .next (arrive handlePwrDormant p 0x0103 tag armPayload s)

def execPwrDormantExecute (p : Port) (tag : Half) (token : Word) (s : State) : Host.Outcome State Fault Refusal :=
  .next (arrive handlePwrDormant p 0x0103 tag (executePayload token) s)

def execTestEnterArm (p : Port) (tag : Half) (s : State) : Host.Outcome State Fault Refusal :=
  .next (arrive handleTestEnter p 0x0104 tag armPayload s)

def execTestEnterExecute (p : Port) (tag : Half) (token : Word) (s : State) : Host.Outcome State Fault Refusal :=
  .next (arrive handleTestEnter p 0x0104 tag (executePayload token) s)

def execTestExitArm (p : Port) (tag : Half) (s : State) : Host.Outcome State Fault Refusal :=
  .next (arrive handleTestExit p 0x0105 tag armPayload s)

def execTestExitExecute (p : Port) (tag : Half) (token : Word) (s : State) : Host.Outcome State Fault Refusal :=
  .next (arrive handleTestExit p 0x0105 tag (executePayload token) s)

def execRimeArmArm (p : Port) (tag : Half) (s : State) : Host.Outcome State Fault Refusal :=
  .next (arrive handleRimeArm p 0x0E01 tag armPayload s)

def execRimeArmExecute (p : Port) (tag : Half) (token : Word) (s : State) : Host.Outcome State Fault Refusal :=
  .next (arrive handleRimeArm p 0x0E01 tag (executePayload token) s)

/-! ### TIME.SET -/

/-- The load of R96 in one CD7 cycle. -/
def loadClock (setTime setRate : Bool) (time : Dword) (rate : Word) (c : Clock) : Clock :=
  let c := if setTime then { c with ns := time, frac := 0, slew16 := 0 } else c
  if setRate then { c with rate := rate } else c

def timeSetLoad (ws : List Word) (s : State) : Reply × State :=
  checked ws [rsvd 0 31 2] s
    (if s.tb.sync = 1 ∨ s.tb.sync = 2 then (.err .errState, s)
     else if (s.tb.compLimit.toNat : Int) < (nth ws 3).toInt.natAbs then (.range 3 31, s)
     else (.done, s.updTb fun t =>
       { t with tb := loadClock (tst (nth ws 0) 0) (tst (nth ws 0) 1) (dwordOf (nth ws 1) (nth ws 2)) (nth ws 3) t.tb }))

/-- The rules of a sync-point record (R101): RSVD, and OFFSET_US below the round length. -/
def syncRules (floe : List Word) : List FieldRule :=
  (List.range 4).map (fun i => rsvd i 31 0) ++
    (List.range 4).flatMap fun k => [rsvd (4 + k) 30 24, ⟨4 + k, 15, 0, 0, 1000 * roundMs floe - 1⟩]

def timeSetPoints (ws : List Word) (s : State) : Reply × State :=
  checked ws (syncRules s.floe.live) s
    (.done, s.updTb fun t =>
      { t with sp := Vector.ofFn fun k : Fin 4 => { t.sp[k] with cfg := nth ws (4 + k.val) } })

def handleTimeSet : Handler := fun _ _ payload s =>
  if payload.length = 16 then timeSetLoad (bytesWords payload) s else timeSetPoints (bytesWords payload) s

def execTimeSet (p : Port) (tag : Half) (setRate setTime : Bool) (time : Dword) (rate : Word) (s : State) :
    Host.Outcome State Fault Refusal :=
  .next (arrive handleTimeSet p 0x0301 tag
    (wordsBytes [flag 1 setRate ||| flag 0 setTime, hiWord time, loWord time, rate]) s)

def execTimeSetSyncPoints (p : Port) (tag : Half) (sp0 sp1 sp2 sp3 : Word) (s : State) :
    Host.Outcome State Fault Refusal :=
  .next (arrive handleTimeSet p 0x0301 tag (wordsBytes [0, 0, 0, 0, sp0, sp1, sp2, sp3]) s)

end Sys2Proof.Machine
end

