-- ==== Sys2Proof/Machine/Rle.lean ====
section
/-!
DEFINITION. The Route Logic Engine: one equation evaluated on the process image (R44 to R65), the loading of previous-value
bits (R54), and a segment run up to a boundary (R47, R50).
-/
namespace Sys2Proof.Machine

/-- What an evaluation knows beside the image: the active bank, Δ of its task, FIRST and NEWPRG (R41), and whether it is the
first of its task after a warm restart (R123). -/
structure EvalCtx where
  bank    : Bank
  delta   : Nat
  first   : Bool
  newprg  : Bool
  warm    : Bool
  deriving DecidableEq, Repr

/-- The image, the running CRC register of the evaluation signature (R135), and the blocks written, latest first (R147). -/
structure Ev where
  mem : Mem
  sig : Dword
  blocks : List Nat := []
  deriving DecidableEq, Repr

/-- A committed write: the element is written and its record is folded (R52, R134). -/
def Ev.commit (k : ElKind) (i : Nat) (v : Dword) (e : Ev) : Ev :=
  { mem := elWrite k i v e.mem, sig := crc64Fold e.sig (writeRecord k i v),
    blocks := if e.blocks.head? = some (elBlock k i) then e.blocks else elBlock k i :: e.blocks }

def boolVal (b : Bool) : Dword := if b then 1 else 0

/-! ### Operands (R45, R53, R55) -/

/-- EDGE factor from source, memory and kind (R53). -/
def edgeFactor (kind : Nat) (src mem : Bool) : Bool :=
  match kind % 8 with
  | 0 => src && !mem
  | 1 => !src && mem
  | _ => src != mem

/-- WCMP relation (R55). -/
def wordRelation (rel : Nat) (a b : Word) : Bool :=
  match rel % 8 with
  | 0 => a == b
  | 1 => a.ult b
  | 2 => a.ule b
  | 3 => a.slt b
  | 4 => a.sle b
  | _ => (a &&& b) != 0

/-- The boolean an ARG names, inverted by its NEG (R42). -/
def argBool (m : Mem) (a : Option Lit) : Bool :=
  match a with
  | some a => boolRead m a.idx != a.neg
  | none => false

/-- Value of a factor on the image, NEG applied (R41, R42). -/
def factorValue (c : EvalCtx) (m : Mem) (o : Operand) : Bool :=
  let i := o.lit.idx
  let v := match o.lit.op with
    | 0x3 => edgeFactor o.lit.mod (argBool m o.arg) (edgeRead m i)
    | 0x4 => wordRelation o.lit.mod (wordRead m i) (wordRead m ((o.arg.map Lit.idx).getD 0))
    | _ => match o.lit.mod with
      | 0 => boolRead m i
      | 1 => tst (timerState m i) 0
      | 2 => tst (timerState m i) 1
      | 3 => tst (counterState m i) 0
      | 4 => maskRead m i != 0
      | 5 => c.first
      | _ => c.newprg
  v != o.lit.neg

/-- OR, and EDGE and WCMP with MOD 0x8 or above, start a new term (R45). -/
def startsTerm (o : Operand) : Bool := o.lit.op == 0x2 || ((o.lit.op == 0x3 || o.lit.op == 0x4) && decide (8 ≤ o.lit.mod))

/-- A sum of products: the terms so far and the current term. -/
def sumOfProducts (c : EvalCtx) (m : Mem) : List Operand → Bool → Bool → Bool
  | [], acc, cur => acc || cur
  | o :: os, acc, cur =>
    if startsTerm o then sumOfProducts c m os (acc || cur) (factorValue c m o)
    else sumOfProducts c m os acc (cur && factorValue c m o)

/-- Value of a part (R45): no operands give 0, and the first factor starts the first term. -/
def partValue (c : EvalCtx) (m : Mem) : List Operand → Bool
  | [] => false
  | o :: os => sumOfProducts c m os false (factorValue c m o)

/-- The EDGE operands of an equation, in literal order. -/
def edgeOperands (e : Equation) : List Operand := e.parts.flatten.filter fun o => o.lit.op == 0x3

/-! ### Timers (R58, R59, R123) -/

structure TimerVal where
  run     : Bool
  done    : Bool
  prev    : Bool
  elapsed : Nat
  q       : Bool
  deriving DecidableEq, Repr

/-- A running timer gains Δ, or starts again at 0 in the first evaluation after a warm restart (R123). -/
def timerGain (t : TimerVal) (delta : Nat) (warm : Bool) : Nat := if warm then 0 else t.elapsed + delta

/-- RUN and DONE of a timer that runs on, by its kind's completion. -/
def timerReach (t : TimerVal) (el p : Nat) (doneAt : Bool) : TimerVal :=
  if p ≤ el then { t with run := false, done := doneAt, elapsed := el } else { t with run := true, elapsed := el }

def tonStep (t : TimerVal) (inn : Bool) (p delta : Nat) (warm : Bool) : TimerVal :=
  if !inn then { t with run := false, done := false, elapsed := 0, q := false }
  else if t.done then { t with q := true }
  else
    let t := if t.run then timerReach t (timerGain t delta warm) p true else timerReach t 0 p true
    { t with q := t.done }

def tofStep (t : TimerVal) (inn : Bool) (p delta : Nat) (warm : Bool) : TimerVal :=
  if inn then { t with run := false, done := true, elapsed := 0, q := true }
  else if t.run then
    let t := timerReach t (timerGain t delta warm) p false
    { t with q := t.done }
  else if t.done then
    let t := timerReach t 0 p false
    { t with q := t.done }
  else { t with q := false }

def tpStep (t : TimerVal) (inn : Bool) (p delta : Nat) (warm : Bool) : TimerVal :=
  let t' :=
    if t.run then
      let t := timerReach t (timerGain t delta warm) p true
      { t with q := t.run }
    else if inn then
      if t.prev then { t with q := false }
      else
        let t := timerReach { t with done := false } 0 p true
        { t with q := t.run }
    else { t with done := false, q := false }
  { t' with prev := inn }

/-- One evaluation of a timer of kind TON, TOF or TP (R59). -/
def timerStep (kind : Nat) (t : TimerVal) (inn : Bool) (p delta : Nat) (warm : Bool) : TimerVal :=
  match kind with
  | 0 => { tonStep t inn p delta warm with prev := false }
  | 1 => { tofStep t inn p delta warm with prev := false }
  | _ => tpStep t inn p delta warm

/-- Timer state byte (R38). -/
def TimerVal.byte (t : TimerVal) : Byte := BitVec.ofNat 8 (bit t.run + 2 * bit t.done + 4 * bit t.prev)

def timerOf (m : Mem) (i : Nat) : TimerVal :=
  let s := timerState m i
  { run := tst s 0, done := tst s 1, prev := tst s 2, elapsed := (elapsedRead m i).toNat, q := false }

/-! ### Counters (R61) -/

structure CounterVal where
  value : Nat
  done  : Bool
  prev1 : Bool
  prev2 : Bool
  deriving DecidableEq, Repr

/-- The done condition of a counter kind. -/
def counterDone (kind value p : Nat) : Bool := if kind = 1 then decide (value = 0) else decide (p ≤ value)

/-- DONE of a default: 1 for DOWN whatever p, 1 for UP and UPDOWN with p = 0. R61 also calls it the done condition of the default value,
which for DOWN with p above 0 would be 0; its sentence on CDONE is followed (DEDUCED, log entry 28). -/
def counterDefaultDone (kind p : Nat) : Bool := decide (kind = 1) || decide (p = 0)

/-- The default value of a counter kind. -/
def counterDefault (kind p : Nat) : Nat := if kind = 1 then p else 0

def counterStep (kind : Nat) (t : CounterVal) (p1 p2 p3 : Bool) (p : Nat) : CounterVal :=
  let rise1 := p1 && !t.prev1
  let rise2 := p2 && !t.prev2
  let v := match kind with
    | 0 => if p2 then 0 else if rise1 then min (t.value + 1) 0xFFFFFFFF else t.value
    | 1 => if p2 then p else if rise1 then t.value - 1 else t.value
    | _ => if p3 then 0
      else if rise1 && !rise2 then min (t.value + 1) 0xFFFFFFFF
      else if rise2 && !rise1 then t.value - 1
      else t.value
  { value := v, done := counterDone kind v p, prev1 := p1, prev2 := decide (kind = 2) && p2 }

/-- Counter state byte (R38). -/
def CounterVal.byte (t : CounterVal) : Byte := BitVec.ofNat 8 (bit t.done + 2 * bit t.prev1 + 4 * bit t.prev2)

def counterOf (m : Mem) (i : Nat) : CounterVal :=
  let s := counterState m i
  { value := (counterRead m i).toNat, done := tst s 0, prev1 := tst s 1, prev2 := tst s 2 }

/-! ### Heads (R56 to R64) -/

/-- Commits the Q boolean that an ARG names, with its NEG (R42). -/
def commitQ (a : Option Lit) (q : Bool) (e : Ev) : Ev :=
  match a with
  | some a => e.commit .boolean a.idx (boolVal (q != a.neg))
  | none => e

/-- New value of a WORD target (R62). -/
def wordResult (op : Nat) (t s : Word) : Word :=
  match op with
  | 0 => s
  | 1 => t + s
  | 2 => t - s
  | 3 => t &&& s
  | 4 => t ||| s
  | _ => t ^^^ s

/-- The value a MATCH table holds for a key. -/
def matchLookup (b : Bank) (off key : Nat) : Nat → Option Nat
  | 0 => none
  | n + 1 =>
    if b.lookupData (off + 2 * n) = key then some (b.lookupData (off + 2 * n + 1)) else matchLookup b off key n

/-- LOOKUP (R63). -/
def lookupValue (b : Bank) (table key : Nat) : Nat :=
  let off := b.lookupOffset table
  let len := b.lookupLength table
  if b.lookupIsMatch table then (matchLookup b off key len).getD (b.lookupDefault table)
  else if key < len then b.lookupData (off + key) else b.lookupDefault table

/-- Commits a resource of a CLAIM, only when it changes (R52). -/
def commitResource (r : Nat) (v : Bool) (e : Ev) : Ev :=
  if boolRead e.mem r == v then e else e.commit .boolean r (boolVal v)

/-- Writes the resources of a set that a mask selects, in entry order (R52). -/
def commitResources (set : List Nat) (mask : Dword) (v : Bool) (e : Ev) : Ev :=
  ((List.range set.length).zip set).foldl
    (fun e r => if tst mask r.1 then commitResource r.2 v e else e) e

/-- The mask with the lowest n bits set. -/
def lowMask (n : Nat) : Dword := BitVec.ofNat 64 (2 ^ n - 1)

/-- CLAIM ACQUIRE, RELEASE and DROP (R64). -/
def claimStep (b : Bank) (kind g : Nat) (arg : Option Lit) (s : Bool) (e : Ev) : Ev :=
  let set := b.claimSet g
  let mask := maskRead e.mem g
  match kind with
  | 0 =>
    if s && mask == 0 && set.all (fun r => !boolRead e.mem r) then
      let full := lowMask set.length
      commitQ arg true (commitResources set full true (e.commit .mask g full))
    else commitQ arg (mask != 0) e
  | 1 =>
    if s then
      if mask = 0 then commitQ arg false e
      else commitQ arg false (commitResources set mask false (e.commit .mask g 0))
    else commitQ arg (mask != 0) e
  | _ =>
    let r := (arg.map Lit.idx).getD 0
    match set.findIdx? (· == r) with
    | some i =>
      if s && tst mask i then commitResource r false (e.commit .mask g (mask &&& ~~~(1#64 <<< i))) else e
    | none => e

/-- The head's writes, from the values of its parts (R52, R56 to R64). -/
def headStep (c : EvalCtx) (q : Equation) (s1 s2 s3 : Bool) (e : Ev) : Ev :=
  let h := q.head
  let a0 := q.args.head?
  match h.op with
  | 0x5 => match h.mod with
    | 0 => e.commit .boolean h.idx (boolVal (s1 != h.neg))
    | 1 => if s1 then e.commit .boolean h.idx 1 else e
    | _ => if s1 then e.commit .boolean h.idx 0 else e
  | 0x6 =>
    let old := boolRead e.mem h.idx
    let new := if s1 && s2 then decide (h.mod = 1) else if s1 then true else if s2 then false else old
    e.commit .boolean h.idx (boolVal new)
  | 0x7 =>
    let t := timerStep h.mod (timerOf e.mem h.idx) s1 (c.bank.timerPreset h.idx) c.delta c.warm
    commitQ a0 t.q ((e.commit .elapsed h.idx (BitVec.ofNat 64 (t.elapsed % 2 ^ 32))).commit .timer h.idx
      (t.byte.setWidth 64))
  | 0x8 =>
    let t := counterStep h.mod (counterOf e.mem h.idx) s1 s2 s3 (c.bank.counterPreset h.idx)
    commitQ a0 t.done ((e.commit .counter h.idx (BitVec.ofNat 64 t.value)).commit .cstate h.idx (t.byte.setWidth 64))
  | 0x9 =>
    if s1 then
      let src := wordRead e.mem ((a0.map Lit.idx).getD 0)
      e.commit .word h.idx ((wordResult h.mod (wordRead e.mem h.idx) src).setWidth 64)
    else e
  | 0xA =>
    if s1 then
      let key := wordRead e.mem ((q.args[1]?.map Lit.idx).getD 0)
      e.commit .word h.idx (BitVec.ofNat 64 (lookupValue c.bank ((a0.map Lit.idx).getD 0) key.toNat))
    else e
  | 0xB => claimStep c.bank h.mod h.idx a0 s1 e
  | _ => e

/-- Stores the sources of the EDGE operands into their detectors, from the image before the commit (R53). -/
def commitEdges (m : Mem) (os : List Operand) (e : Ev) : Ev :=
  os.foldl (fun e o => e.commit .edge o.lit.idx (boolVal (argBool m o.arg))) e

/-- One equation: every operand reads the image before the equation's commit, then all writes commit (R48, R52). -/
def evalEquation (c : EvalCtx) (q : Equation) (e : Ev) : Ev :=
  let v (i : Nat) : Bool := partValue c e.mem (q.parts.getD i [])
  headStep c q (v 0) (v 1) (v 2) (commitEdges e.mem (edgeOperands q) e)

/-! ### Loading of previous-value bits (R54) -/

/-- Loads the EDGE memories of an equation; not a commit, so nothing is folded. -/
def loadEdges (p : Fresh → Bool) (m0 : Mem) (q : Equation) (m : Mem) : Mem :=
  (edgeOperands q).foldl
    (fun m o => if p (.edge o.lit.idx) then elWrite .edge o.lit.idx (boolVal (argBool m0 o.arg)) m else m) m

/-- Loads the TP PREV or the counter PREVs of an equation from its parts as they stand at the start. -/
def loadPrev (c : EvalCtx) (p : Fresh → Bool) (m0 : Mem) (q : Equation) (m : Mem) : Mem :=
  let v (i : Nat) : Bool := partValue c m0 (q.parts.getD i [])
  let h := q.head
  if h.op = 0x7 ∧ h.mod = 2 ∧ p (.timer h.idx) then
    elWrite .timer h.idx (({ timerOf m h.idx with prev := v 0 } : TimerVal).byte.setWidth 64) m
  else if h.op = 0x8 ∧ p (.counter h.idx) then
    elWrite .cstate h.idx
      (({ counterOf m h.idx with prev1 := v 0, prev2 := decide (h.mod = 2) && v 1 } : CounterVal).byte.setWidth 64) m
  else m

/-- The loading before a task's first evaluation, for the elements that `p` names: the EDGE memories first, then the parts
computed from the operands as they stand then. -/
def loadPrevious (c : EvalCtx) (p : Fresh → Bool) (es : List (Nat × Equation)) (m : Mem) : Mem :=
  let m1 := es.foldl (fun a e => loadEdges p m e.2 a) m
  es.foldl (fun a e => loadPrev c p m1 e.2 a) m1

/-! ### A segment run up to a boundary (R47, R50) -/

/-- Evaluates the equations that lie at or after `pc` and before `stop`, in ascending order. -/
def runEquations (c : EvalCtx) (es : List (Nat × Equation)) (pc stop : Nat) (e : Ev) : Ev :=
  es.foldl (fun e q => if pc ≤ q.1 ∧ q.1 < stop then evalEquation c q.2 e else e) e

end Sys2Proof.Machine
end

