-- ==== Sys2Proof/Machine/Verify.lean ====
section
/-!
DEFINITION. PRG.VERIFY (R72): every check of the table of codes, in the order of the codes and of the conditions within a
code, with the offset that R72 says; and the object table (R227 to R232), the local I/O map (R249) and the host input table
(R433).
-/
namespace Sys2Proof.Machine

/-- The verdict on a bank: the first failing code, whether its offset is a descriptor offset, and the offset. -/
structure Verdict where
  code   : Half
  inDesc : Bool
  offset : Nat
  deriving DecidableEq, Repr

def minOffset : List Nat → Option Nat
  | [] => none
  | x :: xs => some (xs.foldl min x)

/-- The conditions of one code in their order, each a list of the offsets at which it fails: the first condition that
fails, at its lowest offset (R72). -/
def firstFailure (code : Half) (inDesc : Bool) : List (List Nat) → Option Verdict
  | [] => none
  | c :: cs => match minOffset c with
    | some o => some { code := code, inDesc := inDesc, offset := o }
    | none => firstFailure code inDesc cs

/-- Offsets at which a test fails. -/
def failing {α : Type} (xs : List α) (bad : α → Bool) (off : α → Nat) : List Nat := (xs.filter bad).map off

/-! ### Header (0x0101 to 0x0105) -/

/-- A header table: header word, length in bytes. -/
def Bank.tables (b : Bank) : List (Nat × Nat) :=
  [(40, 8 * b.timerCount), (41, 8 * b.counterCount), (42, 4 * b.edgeCount), (43, 8 * b.claimCount),
   (44, 4 * b.claimEntries), (45, 16 * b.lookupCount), (46, 4 * b.lookupWords), (47, 4 * b.constCount),
   (48, 4 * b.hinCount), (49, b.objLen), (51, b.lioLen)].filter fun t => t.2 ≠ 0

/-- Limits of header words: word, least value, greatest value, multiple. -/
def headerLimits : List (Nat × Nat × Nat × Nat) :=
  [(5, 8, 67108864, 8), (6, 0, 0x02000000, 8)] ++
  (List.range 8).map (fun n => (8 + 2 * n, 0, 0xFFFFFFFF, 8)) ++
  [(24, 0, 262144, 1), (25, 0, 131072, 1), (26, 0, 1048576, 1), (27, 0, 65536, 1), (28, 0, 1048576, 1),
   (29, 0, 4096, 1), (30, 0, 2097152, 1), (31, 0, 65536, 1), (33, 0, 1048576, 1), (35, 0, 262144, 8),
   (37, 0, 24576, 1)]

def Bank.badLimit (b : Bank) (r : Nat × Nat × Nat × Nat) : Bool :=
  let v := b.hdr r.1
  decide (v < r.2.1 ∨ r.2.2.1 < v ∨ v % r.2.2.2 ≠ 0)

/-- Two nonempty ranges [a, a + n) and [c, c + m) meet. -/
def rangesMeet (a n c m : Nat) : Bool := decide (0 < n ∧ 0 < m ∧ a < c + m ∧ c < a + n)

/-- Elements of a list, each with the elements before it. -/
def withEarlier {α : Type} : List α → List α → List (α × List α)
  | _, [] => []
  | before, x :: xs => (x, before) :: withEarlier (x :: before) xs

/-- Segments: task, offset, length. -/
def Bank.segments (b : Bank) : List (Nat × Nat × Nat) :=
  ((List.range 8).map fun n => (n, b.taskOff n, b.taskLen n)).filter fun s => s.2.2 ≠ 0

def insertSegment (x : Nat × Nat × Nat) : List (Nat × Nat × Nat) → List (Nat × Nat × Nat)
  | [] => [x]
  | y :: ys => if x.2.1 ≤ y.2.1 then x :: y :: ys else y :: insertSegment x ys

/-- Segments in the order of their literal offsets. -/
def Bank.segmentsInOrder (b : Bank) : List (Nat × Nat × Nat) := b.segments.foldr insertSegment []

/-- Code 0x0102. Of a condition on two fields the header word reported is that of the first: the OFF, FIRST or TAB word (DESIGN CHOICE,
log entry 25). -/
def Bank.check0102 (b : Bank) : List (List Nat) :=
  let ts := b.tables
  [ failing headerLimits b.badLimit (fun r => 4 * r.1)
      ++ (if 0 < b.objLen ∧ b.objLen < 32 then [200] else [])
      ++ failing ts (fun t => b.hdr t.1 % 8 ≠ 0) (fun t => 4 * t.1),
    if b.descLen < 256 then [24] else [],
    failing [(32, b.constFirst, b.constCount, 1048576), (34, b.rbFirst, b.rbCount, 8388608),
        (36, b.rwFirst, b.rwCount, 1048576)]
      (fun r => decide (0 < r.2.2.1 ∧ r.2.2.2 < r.2.1 + r.2.2.1)) (fun r => 4 * r.1),
    failing ts (fun t => decide (b.hdr t.1 < 256)) (fun t => 4 * t.1),
    failing (withEarlier [] ts) (fun x => x.2.any fun y => rangesMeet (b.hdr x.1.1) x.1.2 (b.hdr y.1) y.2)
      (fun x => 4 * x.1.1),
    failing ts (fun t => decide (b.descLen < b.hdr t.1 + t.2)) (fun t => 4 * t.1),
    failing (withEarlier [] b.segments) (fun x => x.2.any fun y => rangesMeet x.1.2.1 x.1.2.2 y.2.1 y.2.2)
      (fun x => 32 + 8 * x.1.1),
    failing b.segments (fun s => decide (b.litCount < s.2.1 + s.2.2)) (fun s => 32 + 8 * s.1) ]

/-- Descriptor bytes with W62 and W63 taken as 0 (R67). -/
def Bank.descBytes (b : Bank) : List Byte :=
  slice b.file 0 248 ++ List.replicate 8 0 ++ slice b.file 256 (b.descLen - 256)

def Bank.litBytes (b : Bank) : List Byte := slice b.file b.descLen (4 * b.litCount)

/-- Both CRCs of the header hold for the bytes of the bank (R67, R107). -/
def Bank.crcsHold (b : Bank) : Bool := b.litCrc == crc64 b.litBytes && b.descCrc == crc64 b.descBytes

/-! ### Literals (0x0201 to 0x0306) -/

/-- A literal of a segment: its literal offset, the task, the literal, and, for an ARG, the literal it belongs to with its
place among the ARGs (none for an ARG that stands anywhere else). -/
structure Placed where
  off   : Nat
  task  : Nat
  lit   : Lit
  owner : Option (Lit × Nat)
  deriving DecidableEq, Repr

/-- Walks a segment and tells every ARG's owner. -/
def placeFrom (task : Nat) : Nat → Option (Lit × Nat) → List Lit → List Placed
  | _, _, [] => []
  | off, prev, l :: ls =>
    let own := match prev with
      | some (o, k) => if l.op = 0xD ∧ k < argCount o then some (o, k) else none
      | none => none
    let next := match prev with
      | some (o, k) => if l.op = 0xD then some (o, k + 1) else some (l, 0)
      | none => some (l, 0)
    { off := off, task := task, lit := l, owner := own } :: placeFrom task (off + 1) next ls

def Bank.placed (b : Bank) : List Placed :=
  b.segmentsInOrder.flatMap fun s => placeFrom s.1 s.2.1 none (b.segment s.1)

/-- MOD values an OP allows (R41). -/
def modAllowed (l : Lit) : Bool :=
  match l.op with
  | 0x1 | 0x2 => decide (l.mod ≤ 6)
  | 0x3 => decide (l.mod % 8 ≤ 2)
  | 0x4 => decide (l.mod % 8 ≤ 5)
  | 0x5 | 0x7 | 0x8 | 0xB => decide (l.mod ≤ 2)
  | 0x6 | 0xA => decide (l.mod ≤ 1)
  | 0x9 => decide (l.mod ≤ 5)
  | 0xC => decide (l.mod = 1 ∨ l.mod = 2)
  | _ => decide (l.mod = 0)

/-- An ARG that names a boolean that NEG inverts (R42). -/
def argInverts (o : Lit) : Bool := decide (o.op = 0x3 ∨ o.op = 0x7 ∨ o.op = 0x8 ∨ (o.op = 0xB ∧ o.mod ≠ 2))

def negAllowed (p : Placed) : Bool :=
  match p.lit.op with
  | 0x1 | 0x2 | 0x3 | 0x4 => true
  | 0x5 => decide (p.lit.mod = 0)
  | 0xD => match p.owner with
    | some (o, _) => argInverts o
    | none => false
  | _ => false

/-- Number of indexes a literal may name (R34, R43); none where nothing is checked. -/
def Bank.indexLimit (b : Bank) (p : Placed) : Option Nat :=
  match p.lit.op with
  | 0x1 | 0x2 => match p.lit.mod with
    | 0 => some (2 ^ 23)
    | 1 | 2 => some b.timerCount
    | 3 => some b.counterCount
    | 4 => some b.claimCount
    | _ => some 1
  | 0x3 => some b.edgeCount
  | 0x4 | 0x9 | 0xA => some (2 ^ 20)
  | 0x7 => some b.timerCount
  | 0x8 => some b.counterCount
  | 0xB => some b.claimCount
  | 0xC => some 1
  | 0xE => some 8
  | 0xD => match p.owner with
    | some (o, k) => if o.op = 0x4 ∨ o.op = 0x9 then some (2 ^ 20)
        else if o.op = 0xA then (if k = 0 then some b.lookupCount else some (2 ^ 20)) else some (2 ^ 23)
    | none => none
  | _ => none

def Bank.check0201 (b : Bank) (ps : List Placed) : List (List Nat) :=
  [ failing ps (fun p => p.lit.op == 0 || p.lit.op == 0xF) Placed.off,
    failing (List.range b.litCount)
      (fun k => b.litWord k ≠ 0xE0000000 && !b.segments.any fun s => decide (s.2.1 ≤ k ∧ k < s.2.1 + s.2.2)) id ]

/-- The last literal of a segment. -/
def isLastOf (segs : List (Nat × Nat × Nat)) (p : Placed) : Bool :=
  segs.any fun s => s.1 == p.task && s.2.1 + s.2.2 == p.off + 1

def isFirstOf (segs : List (Nat × Nat × Nat)) (p : Placed) : Bool :=
  segs.any fun s => s.1 == p.task && s.2.1 == p.off

def Bank.check0302 (b : Bank) (ps : List Placed) : List (List Nat) :=
  let last := isLastOf b.segments
  [ failing ps (fun p => last p && p.lit.op != 0xE) Placed.off,
    failing ps (fun p => !last p && p.lit.op == 0xE) Placed.off,
    failing ps (fun p => last p && p.lit.op == 0xE && p.lit.idx != p.task) Placed.off ]

/-- ARGs that each literal has in fact been given. -/
def givenArgs (ps : List Placed) (p : Placed) : Nat :=
  (ps.filter fun q => decide (p.off < q.off ∧ q.off ≤ p.off + argCount p.lit) && q.owner.isSome &&
    q.task == p.task).length

def check0303 (ps : List Placed) : List (List Nat) :=
  [ failing ps (fun p => decide (givenArgs ps p < argCount p.lit)) Placed.off,
    failing ps (fun p => p.lit.op == 0xD && p.owner.isNone) Placed.off ]

/-- All equations of the bank: literal offset of the head, task, equation. -/
def Bank.allEquations (b : Bank) : List (Nat × Nat × Equation) :=
  b.segmentsInOrder.flatMap fun s => (b.equations s.1).map fun e => (s.2.1 + e.1, s.1, e.2)

/-- MARK literals of an equation, with their literal offsets. -/
def marksOf (ps : List Placed) (e : Nat × Nat × Equation) : List (Nat × Nat) :=
  (ps.filter fun p => p.task == e.2.1 && decide (e.1 < p.off ∧ p.off < e.1 + e.2.2.size) && p.lit.op == 0xC).map
    fun p => (p.off, p.lit.mod)

/-- MARK kinds a head needs, in order (R44). -/
def marksNeeded (h : Lit) : List Nat := (List.range (partCount h - 1)).map (· + 1)

def check0304 (ps : List Placed) (es : List (Nat × Nat × Equation)) : List (List Nat) :=
  let ms := es.map fun e => (e, marksOf ps e)
  [ failing ms (fun x => (marksNeeded x.1.2.2.head).any fun k => !x.2.any fun m => m.2 == k) (fun x => x.1.1),
    ms.flatMap fun x => failing (withEarlier [] x.2)
      (fun m => !(marksNeeded x.1.2.2.head).isEmpty &&
        (!(marksNeeded x.1.2.2.head).contains m.1.2 || m.2.any fun y => y.2 == m.1.2)) (fun m => m.1.1),
    ms.flatMap fun x => failing (withEarlier [] x.2) (fun m => m.2.any fun y => decide (m.1.2 < y.2)) (fun m => m.1.1),
    ms.flatMap fun x => if (marksNeeded x.1.2.2.head).isEmpty then x.2.map (·.1) else [] ]

/-- A part may be empty only where R46 allows it. -/
def emptyAllowed (h : Lit) (i : Nat) : Bool :=
  match h.op with
  | 0x5 => decide (i = 0 ∧ h.mod = 0)
  | 0x6 => decide (i = 1)
  | 0x8 => decide (1 ≤ i)
  | _ => false

def partsEmpty (e : Equation) : Bool :=
  (List.range (partCount e.head)).any fun i => (e.parts.getD i []).isEmpty && !emptyAllowed e.head i

/-! ### Writers and roles (0x0401 to 0x0405) -/

/-- How an equation writes a variable: as its only writer (R56), by SET or RESET, as a word, or as a claim resource. -/
inductive WriteHow where
  | only | setReset | plain | claim
  deriving DecidableEq, Repr

/-- One writer of a variable: head offset, task, whether a word, index, how. -/
structure Writer where
  off    : Nat
  task   : Nat
  isWord : Bool
  idx    : Nat
  how    : WriteHow
  byClaim : Bool
  deriving DecidableEq, Repr

def argIdx (e : Equation) : Nat := (e.args.head?.map Lit.idx).getD 0

def Bank.writersOf (b : Bank) (x : Nat × Nat × Equation) : List Writer :=
  let h := x.2.2.head
  let w (isWord : Bool) (i : Nat) (how : WriteHow) : Writer :=
    { off := x.1, task := x.2.1, isWord := isWord, idx := i, how := how, byClaim := h.op == 0xB }
  match h.op with
  | 0x5 => [w false h.idx (if h.mod = 0 then .only else .setReset)]
  | 0x6 => [w false h.idx .only]
  | 0x7 | 0x8 => [w false (argIdx x.2.2) .only]
  | 0x9 | 0xA => [w true h.idx .plain]
  | 0xB =>
    if h.mod = 2 then (if (b.claimSet h.idx).contains (argIdx x.2.2) then [w false (argIdx x.2.2) .claim] else [])
    else w false (argIdx x.2.2) .only :: (b.claimSet h.idx).map fun r => w false r .claim
  | _ => []

/-- An input-mapped range of booleans: entry offset, first boolean, count, and the table it comes from (0 object table, 1
local I/O map, 2 host input table). -/
structure Span where
  off   : Nat
  first : Nat
  count : Nat
  tag   : Nat
  deriving DecidableEq, Repr

/-- Words of the object table, and its records (R227 to R231). -/
def Bank.ot (b : Bank) (off : Nat) : Nat := b.word (b.objTab + off)
def Bank.ocCount (b : Bank) : Nat := if b.objLen = 0 then 0 else b.ot 0
def Bank.objCount (b : Bank) : Nat := if b.objLen = 0 then 0 else b.ot 4
def Bank.frameCount (b : Bank) : Nat := if b.objLen = 0 then 0 else b.ot 8
def Bank.typeCount (b : Bank) : Nat := if b.objLen = 0 then 0 else b.ot 12 % 2 ^ 16
def Bank.ocRec (b : Bank) (i : Nat) : Nat := b.ot 16 + 24 * i
def Bank.objRec (b : Bank) (i : Nat) : Nat := b.ot 20 + 16 * i
def Bank.frameRec (b : Bank) (i : Nat) : Nat := b.ot 24 + 8 * i
def Bank.typeRec (b : Bank) (i : Nat) : Nat := b.ot 28 + 16 * i

/-- A controller record (R229). -/
structure OcRec where
  node      : Nat
  task      : Nat
  lossK     : Nat
  firstObj  : Nat
  objN      : Nat
  inDlen    : Nat
  outFrame  : Nat
  outOffset : Nat
  validVar  : Nat
  rsvdOk    : Bool
  deriving DecidableEq, Repr

def Bank.oc (b : Bank) (i : Nat) : OcRec :=
  let w (k : Nat) : Nat := b.ot (b.ocRec i + 4 * k)
  { node := w 0 / 2 ^ 20, task := w 0 / 2 ^ 16 % 8, lossK := w 0 / 2 ^ 12 % 16, firstObj := w 1, objN := w 2 / 2 ^ 16,
    inDlen := w 2 % 2 ^ 16, outFrame := w 3 / 2 ^ 16, outOffset := w 3 % 2 ^ 16, validVar := w 4 % 2 ^ 23,
    rsvdOk := decide (w 0 / 2 ^ 19 % 2 = 0 ∧ w 0 % 2 ^ 12 = 0 ∧ w 4 / 2 ^ 23 = 0 ∧ w 5 = 0) }

/-- An object record (R230). -/
structure ObjRec where
  type   : Nat
  inPos  : Nat
  outPos : Nat
  inVar  : Nat
  outVar : Nat
  objId  : Nat
  rsvdOk : Bool
  deriving DecidableEq, Repr

def Bank.obj (b : Bank) (i : Nat) : ObjRec :=
  let w (k : Nat) : Nat := b.ot (b.objRec i + 4 * k)
  { type := w 0 / 2 ^ 28, inPos := w 0 / 2 ^ 14 % 2 ^ 14, outPos := w 0 % 2 ^ 14, inVar := w 1 % 2 ^ 23,
    outVar := w 2 % 2 ^ 23, objId := w 3, rsvdOk := decide (w 1 / 2 ^ 23 = 0 ∧ w 2 / 2 ^ 23 = 0) }

/-- A type record (R228). -/
structure TypeRec where
  tclass  : Nat
  inBits  : Nat
  outBits : Nat
  subst   : Nat
  rsvdOk  : Bool
  deriving DecidableEq, Repr

def Bank.typ (b : Bank) (i : Nat) : TypeRec :=
  let w (k : Nat) : Nat := b.ot (b.typeRec i + 4 * k)
  { tclass := w 0 / 2 ^ 24, inBits := w 0 / 2 ^ 8 % 2 ^ 8, outBits := w 0 % 2 ^ 8, subst := w 1,
    rsvdOk := decide (w 0 / 2 ^ 16 % 2 ^ 8 = 0 ∧ w 2 = 0 ∧ w 3 = 0) }

/-- An output frame record (R231). -/
structure FrameRec where
  frameId : Nat
  dlen    : Nat
  task    : Nat
  rsvdOk  : Bool
  deriving DecidableEq, Repr

def Bank.frame (b : Bank) (i : Nat) : FrameRec :=
  let w0 := b.ot (b.frameRec i)
  let w1 := b.ot (b.frameRec i + 4)
  { frameId := w0 / 2 ^ 16, dlen := w0 % 2 ^ 16, task := w1 % 8, rsvdOk := decide (w1 / 8 = 0) }

def Bank.ocs (b : Bank) : List (Nat × OcRec) := (List.range b.ocCount).map fun i => (i, b.oc i)
def Bank.objs (b : Bank) : List (Nat × ObjRec) := (List.range b.objCount).map fun i => (i, b.obj i)
def Bank.frames (b : Bank) : List (Nat × FrameRec) := (List.range b.frameCount).map fun i => (i, b.frame i)

/-- Byte length of an output frame buffer (R342). -/
def bufferLen (dlen : Nat) : Nat := ceilDiv (dlen + 32) 64 * 64

/-- The header of the object table keeps its ranges, and every record area lies inside OBJ_LEN (R227). -/
def Bank.objHeaderOk (b : Bank) : Bool :=
  decide (b.ocCount ≤ 4000 ∧ b.objCount ≤ 262144 ∧ b.frameCount ≤ 4000 ∧ b.ot 12 / 2 ^ 16 = 0 ∧ 1 ≤ b.typeCount ∧
    b.typeCount ≤ 16) &&
  [(b.ot 16, 24 * b.ocCount), (b.ot 20, 16 * b.objCount), (b.ot 24, 8 * b.frameCount),
    (b.ot 28, 16 * b.typeCount)].all fun a => decide (a.1 % 8 = 0 ∧ a.1 + a.2 ≤ b.objLen)

/-- RSVD fields of the entries of the object table (R227 to R231). -/
def Bank.badObjReserved (b : Bank) : List Nat :=
  if b.objLen < 32 then []
  else
    (if b.ot 12 / 2 ^ 16 ≠ 0 then [b.objTab] else []) ++
    if b.objHeaderOk then
      failing (List.range b.typeCount) (fun i => !(b.typ i).rsvdOk) (fun i => b.objTab + b.typeRec i) ++
      failing b.ocs (fun c => !c.2.rsvdOk) (fun c => b.objTab + b.ocRec c.1) ++
      failing b.objs (fun x => !x.2.rsvdOk) (fun x => b.objTab + b.objRec x.1) ++
      failing b.frames (fun x => !x.2.rsvdOk) (fun x => b.objTab + b.frameRec x.1)
    else []

/-- RSVD fields of the header, of the tables of R69 and of the object table; those of the local I/O map are a rule of R249. -/
def Bank.badReserved (b : Bank) : List Nat :=
  (if b.hdr 1 % 2 ^ 16 ≠ 0 then [4] else []) ++
  failing ([7, 38, 39] ++ (List.range 7).map (· + 53)) (fun n => b.hdr n ≠ 0) (fun n => 4 * n) ++
  failing (List.range b.timerCount) (fun i => decide (2 ^ 31 ≤ b.timerPreset i)) (fun i => b.hdr 40 + 8 * i) ++
  failing (List.range b.claimCount) (fun g => decide (128 ≤ b.claimSizeWord g)) (fun g => b.hdr 43 + 8 * g) ++
  failing (List.range b.claimEntries) (fun e => decide (2 ^ 23 ≤ b.word (b.hdr 44 + 4 * e)))
    (fun e => b.hdr 44 + 4 * e) ++
  failing (List.range b.lookupCount)
    (fun i => decide (b.lookupInfo i / 2 ^ 17 % 2 ^ 14 ≠ 0 ∨ b.word (b.hdr 45 + 16 * i + 12) ≠ 0))
    (fun i => b.hdr 45 + 16 * i) ++
  failing (List.range b.hinCount)
    (fun k => decide (2 ^ 31 ≤ b.hinWord k ∨ b.hinWord k / 2 ^ 23 % 2 ^ 5 ≠ 0)) (fun k => b.hdr 48 + 4 * k) ++
  b.badObjReserved

/-- Input-mapped booleans of the bank (R37). -/
def Bank.spans (b : Bank) : List Span :=
  (if b.objLen ≠ 0 ∧ b.objHeaderOk then
    b.ocs.map (fun x => { off := b.objTab + b.ocRec x.1, first := x.2.validVar, count := 1, tag := 0 }) ++
    b.objs.filterMap (fun x =>
      let n := min (b.typ x.2.type).inBits 32
      if x.2.type < b.typeCount ∧ 0 < n then
        some { off := b.objTab + b.objRec x.1, first := x.2.inVar, count := n, tag := 0 } else none)
   else []) ++
  (if b.lioLen = 512 then (List.range 64).flatMap fun e =>
      let (w0, w1) := b.lio e
      let o := b.lioTab + 8 * e
      (if tst w0 31 ∧ (e < 32 ∨ 48 ≤ e) then [{ off := o, first := fld w0 22 0, count := 1, tag := 1 }] else []) ++
      (if tst w0 31 ∧ tst w1 31 ∧ e < 48 then [{ off := o, first := fld w1 22 0, count := 1, tag := 1 }] else [])
   else []) ++
  (List.range b.hinCount).map fun k => { off := b.hdr 48 + 4 * k, first := b.hinVar k, count := 1, tag := 2 }

def Span.has (s : Span) (i : Nat) : Bool := decide (s.first ≤ i ∧ i < s.first + s.count)

def Bank.inputMapped (b : Bank) (i : Nat) : Bool := b.spans.any fun s => s.has i

/-- Every claim resource of the bank. -/
def Bank.resources (b : Bank) : List Nat := (List.range b.claimCount).flatMap b.claimSet

def Bank.isConst (b : Bank) (i : Nat) : Bool := decide (b.constFirst ≤ i ∧ i < b.constFirst + b.constCount)
def Bank.isRetBool (b : Bank) (i : Nat) : Bool := decide (b.rbFirst ≤ i ∧ i < b.rbFirst + b.rbCount)

def sameVar (x y : Writer) : Bool := x.isWord == y.isWord && x.idx == y.idx

def check0401 (ws : List Writer) : List (List Nat) :=
  [ failing (withEarlier [] ws) (fun x => x.2.any fun y =>
      sameVar x.1 y && x.1.task != y.task && !(x.1.how == .claim && y.how == .claim)) (fun x => x.1.off) ]

def check0402 (res : List Nat) (ws : List Writer) : List (List Nat) :=
  let ws := ws.filter fun w => w.isWord || !res.contains w.idx
  [ failing (withEarlier [] ws) (fun x => x.2.any fun y =>
      sameVar x.1 y && x.1.off != y.off && (x.1.how == .only || y.how == .only)) (fun x => x.1.off) ]

def Bank.check0403 (b : Bank) (ws : List Writer) : List (List Nat) :=
  [ failing ws (fun w => if w.isWord then b.isConst w.idx else b.inputMapped w.idx) Writer.off ]

/-- Retentive ranges against the other roles: the header words of RB_FIRST and RW_FIRST. -/
def Bank.check0403ranges (b : Bank) (res : List Nat) : List (List Nat) :=
  [ (if (b.spans.any fun s => rangesMeet s.first s.count b.rbFirst b.rbCount) || res.any b.isRetBool then [136] else []) ++
    (if rangesMeet b.rwFirst b.rwCount b.constFirst b.constCount then [144] else []) ]

def Bank.check0404 (b : Bank) (res : List Nat) (ws : List Writer) (es : List (Nat × Nat × Equation)) : List (List Nat) :=
  let bad := ws.filter fun w => !w.isWord && res.contains w.idx && w.how != .claim
  [ failing bad (fun w => !w.byClaim) Writer.off,
    failing bad (fun w => w.byClaim) Writer.off,
    failing es (fun x => x.2.2.head.op == 0xB && x.2.2.head.mod == 2 &&
      !(b.claimSet x.2.2.head.idx).contains (argIdx x.2.2)) (fun x => x.1) ]

/-- Uses of timers, counters and edge detectors: OP, index, literal offset. -/
def elementUses (ps : List Placed) : List (Nat × Nat × Nat) :=
  (ps.filter fun p => p.lit.op == 3 || p.lit.op == 7 || p.lit.op == 8).map fun p => (p.lit.op, p.lit.idx, p.off)

def check0405 (ps : List Placed) (es : List (Nat × Nat × Equation)) : List (List Nat) :=
  let acq := es.filter fun x => x.2.2.head.op == 0xB && x.2.2.head.mod == 0
  [ failing (withEarlier [] (elementUses ps)) (fun x => x.2.any fun y => x.1.1 == y.1 && x.1.2.1 == y.2.1)
      (fun x => x.1.2.2),
    failing (withEarlier [] acq) (fun x => x.2.any fun y => x.1.2.2.head.idx == y.2.2.head.idx) (fun x => x.1.1),
    failing es (fun x => x.2.2.head.op == 0xB && x.2.2.head.mod != 0 &&
      !acq.any fun y => y.2.1 == x.2.1 && y.2.2.head.idx == x.2.2.head.idx) (fun x => x.1) ]

/-! ### Tables (0x0501 to 0x0504) -/

def badIds (ids : List (Nat × Nat)) : List Nat := failing ids (fun x => x.1 == 0 || x.1 == 0xFFFFFFFF) (·.2)

def repeatedIds (ids : List (Nat × Nat)) : List Nat :=
  failing (withEarlier [] ids) (fun x => x.2.any fun y => x.1.1 == y.1) (fun x => x.1.2)

def Bank.timerIds (b : Bank) : List (Nat × Nat) :=
  (List.range b.timerCount).map fun i => (b.timerId i, b.hdr 40 + 8 * i)
def Bank.counterIds (b : Bank) : List (Nat × Nat) :=
  (List.range b.counterCount).map fun i => (b.counterId i, b.hdr 41 + 8 * i)
def Bank.edgeIds (b : Bank) : List (Nat × Nat) :=
  (List.range b.edgeCount).map fun i => (b.edgeId i, b.hdr 42 + 4 * i)

/-- Entries of a group that lie within CLAIM_ENTRIES. -/
def claimEntriesOf (b : Bank) (g : Nat) : List Nat :=
  ((List.range (b.claimSize g)).map fun i => b.claimFirst g + i).filter fun e => decide (e < b.claimEntries)

def Bank.check0503 (b : Bank) : List (List Nat) :=
  let gs := List.range b.claimCount
  [ failing gs (fun g => b.claimSize g == 0 || decide (64 < b.claimSize g)) (fun g => b.hdr 43 + 8 * g),
    gs.flatMap fun g => failing
      (withEarlier [] ((claimEntriesOf b g).map fun e => (b.claimEntry e, e)))
      (fun x => x.2.any fun y => x.1.1 == y.1) (fun x => b.hdr 44 + 4 * x.1.2),
    failing gs (fun g => decide (b.claimEntries < b.claimFirst g + b.claimSize g)) (fun g => b.hdr 43 + 8 * g) ]

/-- Keys of a MATCH table that lie within LOOKUP_WORDS. -/
def Bank.matchKeys (b : Bank) (i : Nat) : List Nat :=
  (((List.range (b.lookupLength i)).map fun k => b.lookupOffset i + 2 * k).filter
    fun w => decide (w < b.lookupWords)).map b.lookupData

/-- Places of the keys that are not above the key before them. -/
def notAscending : Nat → List Nat → List Nat
  | k, a :: c :: rest => if a < c then notAscending (k + 1) (c :: rest) else (k + 1) :: notAscending (k + 1) (c :: rest)
  | _, _ => []

/-- The directory conditions of code 0x0504. For keys out of order the offset is that of the later key and value pair, an entry of the
lookup data (R72; DEDUCED, log entry 25). -/
def Bank.check0504dir (b : Bank) : List (List Nat) :=
  let ts := List.range b.lookupCount
  let o (i : Nat) : Nat := b.hdr 45 + 16 * i
  [ failing ts (fun i => decide (65536 < b.lookupLength i)) o,
    (ts.filter b.lookupIsMatch).flatMap fun i =>
      (notAscending 0 (b.matchKeys i)).map fun k => b.hdr 46 + 4 * (b.lookupOffset i + 2 * k),
    failing ts (fun i => decide (b.lookupWords < b.lookupOffset i +
      (if b.lookupIsMatch i then 2 else 1) * b.lookupLength i)) o ]

/-! ### Object table, local I/O map and host input table (0x0505) -/

def Bank.badType (b : Bank) (i : Nat) : Bool :=
  let t := b.typ i
  !t.rsvdOk || decide (t.tclass = 0 ∨ 5 < t.tclass ∨ 32 < t.inBits ∨ 32 < t.outBits ∨ 2 ^ t.inBits ≤ t.subst)

def Bank.badOc (b : Bank) (c : OcRec) : Bool :=
  !c.rsvdOk || decide (0xFFD < c.node ∨ c.lossK < 2 ∨ 8 < c.lossK ∨ c.objN = 0 ∨ 256 < c.objN ∨ c.inDlen % 4 ≠ 0 ∨
    1432 < c.inDlen ∨ c.outOffset % 4 ≠ 0 ∨ b.objCount < c.firstObj + c.objN)

def Bank.badObj (b : Bank) (x : ObjRec) : Bool :=
  !x.rsvdOk || decide (b.typeCount ≤ x.type ∨ 2 ^ 23 < x.inVar + (b.typ x.type).inBits ∨
    2 ^ 23 < x.outVar + (b.typ x.type).outBits)

def badFrame (f : FrameRec) : Bool :=
  !f.rsvdOk || decide (f.frameId = 0 ∨ f.dlen % 4 ≠ 0 ∨ f.dlen < 4 ∨ 1440 < f.dlen)

/-- The output frame record a FRAME_ID names. -/
def Bank.frameOf (b : Bank) (id : Nat) : Option (Nat × FrameRec) := b.frames.find? fun f => f.2.frameId == id

/-- Controllers whose section lies in a frame. -/
def Bank.sectionsOf (b : Bank) (frameId : Nat) : List (Nat × OcRec) := b.ocs.filter fun c => c.2.outFrame == frameId

/-- SECT_LEN: to the next section's OUT_OFFSET, or to DLEN (R235). -/
def Bank.sectLen (b : Bank) (c : OcRec) : Nat :=
  let dlen := match b.frameOf c.outFrame with
    | some f => f.2.dlen
    | none => 0
  let next := ((b.sectionsOf c.outFrame).filter fun d => decide (c.outOffset < d.2.outOffset)).map (·.2.outOffset)
  (minOffset next).getD dlen - c.outOffset

/-- Objects of a controller. -/
def Bank.objsOf (b : Bank) (c : OcRec) : List (Nat × ObjRec) :=
  (List.range c.objN).map fun i => (c.firstObj + i, b.obj (c.firstObj + i))

/-- Objects of a controller whose bits run past `limit` or meet those of an earlier object of the same controller. -/
def Bank.badBits (b : Bank) (c : OcRec) (pos width : ObjRec → Nat) (limit : Nat) : List Nat :=
  failing (withEarlier [] (b.objsOf c))
    (fun x => decide (0 < width x.1.2 ∧ limit < pos x.1.2 + width x.1.2) ||
      x.2.any fun y => rangesMeet (pos x.1.2) (width x.1.2) (pos y.2) (width y.2))
    (fun x => b.objTab + b.objRec x.1.1)

/-- Running sums of OBJ_N past OBJ_COUNT. -/
def sumPast (limit : Nat) (off : Nat → Nat) : Nat → List (Nat × OcRec) → List Nat
  | _, [] => []
  | s, c :: cs =>
    let s := s + c.2.objN
    if limit < s then off c.1 :: sumPast limit off s cs else sumPast limit off s cs

/-- Frame records whose two buffers run past area 13 (R342). -/
def framePast (off : Nat → Nat) : Nat → List (Nat × FrameRec) → List Nat
  | _, [] => []
  | pos, f :: fs =>
    let pos := pos + 2 * bufferLen f.2.dlen
    if 3653632 < pos then off f.1 :: framePast off pos fs else framePast off pos fs

/-- Boolean written by equations of a task other than the one named. -/
def writtenElsewhere (ws : List Writer) (task first count : Nat) : Bool :=
  ws.any fun w => !w.isWord && w.task != task && decide (first ≤ w.idx ∧ w.idx < first + count)

def insertSpan (s : Span) : List Span → List Span
  | [] => [s]
  | t :: ts => if s.off < t.off then s :: t :: ts else t :: insertSpan s ts

/-- Spans that meet an earlier one (by descriptor offset) or a claim resource, judged under the table of the earliest list that takes
part (R72). Of two host input entries that name one VARIABLE the later is reported, as R72 says of a condition between two entries,
where R433 speaks of the first host entry (DEDUCED, log entry 25). -/
def overlapsUnder (tag : Nat) (res : List Nat) (spans : List Span) : List Nat :=
  let sorted := spans.foldl (fun l s => insertSpan s l) []
  (withEarlier [] sorted).filterMap fun x =>
    let hit := x.2.filter fun y => rangesMeet x.1.first x.1.count y.first y.count
    let t := hit.foldl (fun m y => min m y.tag) x.1.tag
    if (!hit.isEmpty || res.any x.1.has) && t == tag then some x.1.off else none

/-- The rules of R232 in their order, then the fit of R342. -/
def Bank.checkObjects (b : Bank) (res : List Nat) (ws : List Writer) : List (List Nat) :=
  if b.objLen = 0 then []
  else if !b.objHeaderOk then [[b.objTab]]
  else
    let oco (i : Nat) : Nat := b.objTab + b.ocRec i
    let fro (i : Nat) : Nat := b.objTab + b.frameRec i
    let inW (x : ObjRec) : Nat := (b.typ x.type).inBits
    let outW (x : ObjRec) : Nat := (b.typ x.type).outBits
    [ failing (List.range b.typeCount) b.badType (fun i => b.objTab + b.typeRec i) ++
        failing b.ocs (fun c => b.badOc c.2) (fun c => oco c.1) ++
        failing b.objs (fun x => b.badObj x.2) (fun x => b.objTab + b.objRec x.1) ++
        failing b.frames (fun f => badFrame f.2) (fun f => fro f.1),
      failing (withEarlier [] b.ocs) (fun x => x.2.any fun y => x.1.2.node == y.2.node) (fun x => oco x.1.1) ++
        failing (withEarlier [] b.frames) (fun x => x.2.any fun y => x.1.2.frameId == y.2.frameId) (fun x => fro x.1.1),
      sumPast b.objCount oco 0 b.ocs ++
        failing (withEarlier [] b.ocs)
          (fun x => x.2.any fun y => rangesMeet x.1.2.firstObj x.1.2.objN y.2.firstObj y.2.objN) (fun x => oco x.1.1),
      b.ocs.flatMap fun c => b.badBits c.2 ObjRec.inPos inW (8 * c.2.inDlen),
      b.ocs.flatMap fun c => match b.frameOf c.2.outFrame with
        | some _ => b.badBits c.2 ObjRec.outPos outW (8 * (b.sectLen c.2 - 4))
        | none => [],
      failing b.ocs (fun c => match b.frameOf c.2.outFrame with
        | some f => f.2.task != c.2.task
        | none => true) (fun c => oco c.1),
      failing b.ocs (fun c => match b.frameOf c.2.outFrame with
        | some f => decide (f.2.dlen < c.2.outOffset + max 4 (b.sectLen c.2))
        | none => false) (fun c => oco c.1) ++
        failing (withEarlier [] b.ocs) (fun x => x.2.any fun y => x.1.2.outFrame == y.2.outFrame &&
          rangesMeet x.1.2.outOffset 4 y.2.outOffset 4) (fun x => oco x.1.1),
      failing b.frames (fun f => !(b.sectionsOf f.2.frameId).any fun c => c.2.outOffset == 0) (fun f => fro f.1),
      overlapsUnder 0 res b.spans,
      b.ocs.flatMap fun c => failing (b.objsOf c.2) (fun x => writtenElsewhere ws c.2.task x.2.outVar (outW x.2))
        (fun x => b.objTab + b.objRec x.1),
      framePast fro 0 b.frames ]

/-- The rules of R249 in their order. -/
def Bank.checkLio (b : Bank) (res : List Nat) (ws : List Writer) : List (List Nat) :=
  if b.lioLen = 0 then []
  else if b.lioLen ≠ 512 then [[208]]
  else
    let es := List.range 64
    let o (e : Nat) : Nat := b.lioTab + 8 * e
    [ failing es (fun e => decide (fld (b.lio e).1 26 23 ≠ 0 ∨ fld (b.lio e).2 30 23 ≠ 0)) o,
      failing es (fun e => decide (32 ≤ e) && tst (b.lio e).1 27) o,
      failing es (fun e => decide (48 ≤ e) && tst (b.lio e).2 31) o,
      overlapsUnder 1 res b.spans,
      failing ((List.range 16).map (· + 32)) (fun e => tst (b.lio e).1 31 &&
        (b.inputMapped (fld (b.lio e).1 22 0) ||
          writtenElsewhere ws (fld (b.lio e).1 30 28) (fld (b.lio e).1 22 0) 1)) o ]

/-! ### The whole check -/

/-- Runs the checks of R72 in the order of their codes; none where the bank passes. -/
def Bank.verdict (b : Bank) : Option Verdict :=
  let ps := b.placed
  let es := b.allEquations
  let res := b.resources
  let ws := es.flatMap b.writersOf
  let lit (c : Half) (l : List (List Nat)) : Option Verdict := firstFailure c false l
  let desc (c : Half) (l : List (List Nat)) : Option Verdict := firstFailure c true l
  let lookups := es.filter fun x => x.2.2.head.op == 0xA
  (desc 0x0101 [if b.hdr 0 ≠ 0x4E4B5042 then [0] else [], if b.hdr 1 / 2 ^ 16 ≠ 3 then [4] else []])
  <|> (desc 0x0102 b.check0102)
  <|> (desc 0x0103 [if b.litCrc ≠ crc64 b.litBytes then [240] else []])
  <|> (desc 0x0104 [if b.descCrc ≠ crc64 b.descBytes then [248] else []])
  <|> (desc 0x0105 [b.badReserved])
  <|> (lit 0x0201 (b.check0201 ps))
  <|> (lit 0x0202 [failing ps (fun p => !modAllowed p.lit) Placed.off])
  <|> (lit 0x0203 [failing ps (fun p => p.lit.neg && !negAllowed p) Placed.off])
  <|> (lit 0x0204 [failing ps (fun p => match b.indexLimit p with
        | some n => decide (n ≤ p.lit.idx)
        | none => false) Placed.off])
  <|> (lit 0x0301 [failing ps (fun p => isFirstOf b.segments p && !isHead p.lit) Placed.off])
  <|> (lit 0x0302 (b.check0302 ps))
  <|> (lit 0x0303 (check0303 ps))
  <|> (lit 0x0304 (check0304 ps es))
  <|> (lit 0x0305 [failing es (fun x => partsEmpty x.2.2) (fun x => x.1)])
  <|> (lit 0x0306 [failing es (fun x => decide (4096 < x.2.2.size)) (fun x => x.1)])
  <|> (lit 0x0401 (check0401 ws))
  <|> (lit 0x0402 (check0402 res ws))
  <|> (lit 0x0403 (b.check0403 ws))
  <|> (desc 0x0403 (b.check0403ranges res))
  <|> (lit 0x0404 (b.check0404 res ws es))
  <|> (lit 0x0405 (check0405 ps es))
  <|> (desc 0x0501 [failing (List.range b.timerCount) (fun i => decide (2147483647 < b.timerPreset i))
        (fun i => b.hdr 40 + 8 * i)])
  <|> (desc 0x0502 [badIds b.timerIds ++ badIds b.counterIds ++ badIds b.edgeIds,
        repeatedIds b.timerIds ++ repeatedIds b.counterIds ++ repeatedIds b.edgeIds])
  <|> (desc 0x0503 b.check0503)
  <|> (lit 0x0504 [failing lookups (fun x => decide (x.2.2.head.mod = 1) != b.lookupIsMatch (argIdx x.2.2))
        (fun x => x.1)])
  <|> (desc 0x0504 b.check0504dir)
  <|> (desc 0x0505 (b.checkObjects res ws))
  <|> (desc 0x0505 (b.checkLio res ws))
  <|> (desc 0x0505 [overlapsUnder 2 res b.spans])

/-- Slot counts of the eight segments (R74); 0 for a task without one. -/
def Bank.slotCounts (b : Bank) : List Nat :=
  (List.range 8).map fun n => if b.taskLen n = 0 then 0 else b.segmentSlots n

end Sys2Proof.Machine
end

