-- ==== Sys2Proof/Machine/Remap.lean ====
section
/-!
DEFINITION. The remap of the process image to a new bank (R113 to R116): elements carried by stable identifier and kind, the
held claim groups, constants, and the elements introduced (R54).
-/
namespace Sys2Proof.Machine

/-- All heads of a bank, with their tasks' equations. -/
def Bank.heads (b : Bank) : List Equation := b.allEquations.map fun x => x.2.2

/-- MOD of the head that uses timer (OP 0x7) or counter (OP 0x8) i. -/
def Bank.headMod (b : Bank) (op i : Nat) : Option Nat :=
  (b.heads.find? fun e => e.head.op == op && e.head.idx == i).map fun e => e.head.mod

/-- Source boolean and source NEG of an edge detector. -/
def Bank.edgeSource (b : Bank) (i : Nat) : Option (Nat × Bool) :=
  ((b.heads.flatMap edgeOperands).find? fun o => o.lit.idx == i).bind fun o => o.arg.map fun a => (a.idx, a.neg)

/-- The old index of an element of the new bank: same identifier, and same kind or source (R114). -/
def Bank.timerMatch (old new : Bank) (i : Nat) : Option Nat :=
  (List.range old.timerCount).find? fun j => old.timerId j == new.timerId i && old.headMod 7 j == new.headMod 7 i

def Bank.counterMatch (old new : Bank) (i : Nat) : Option Nat :=
  (List.range old.counterCount).find? fun j => old.counterId j == new.counterId i && old.headMod 8 j == new.headMod 8 i

def Bank.edgeMatch (old new : Bank) (i : Nat) : Option Nat :=
  (List.range old.edgeCount).find? fun j => old.edgeId j == new.edgeId i && old.edgeSource j == new.edgeSource i

/-- A group that keeps its set may keep its mask (R116). -/
def sameSet (old new : Bank) (g : Nat) : Bool := decide (g < new.claimCount) && old.claimSet g == new.claimSet g

/-- The first held group whose set differs or that is gone (R116). -/
def heldDiffers (old new : Bank) (m : Mem) : Option Nat :=
  (List.range old.claimCount).find? fun g => maskRead m g != 0 && !sameSet old new g

/-- The mask that group g keeps. -/
def keptMask (old : Option Bank) (new : Bank) (m : Mem) (g : Nat) : Dword :=
  match old with
  | some o => if g < o.claimCount ∧ sameSet o new g then maskRead m g else 0
  | none => 0

/-- Resources of a group that a mask holds. -/
def heldResources (b : Bank) (g : Nat) (mask : Dword) : List Nat :=
  ((List.range (b.claimSize g)).zip (b.claimSet g)).filterMap fun r => if tst mask r.1 then some r.2 else none

/-- The element areas from timer elapsed values to claim masks set to 0. -/
def clearElements (m : Mem) : Mem := memKeep (fun a => decide (a < 0x500000 ∨ 0x780000 ≤ a)) m

/-- Folds a step over the numbers below n, in ascending order. -/
def overRange (n : Nat) (f : Nat → Ev → Ev) (e : Ev) : Ev := (List.range n).foldl (fun e i => f i e) e

/-- A timer's two write records are its elapsed value, then its state byte; R135 orders the elements only (DESIGN CHOICE, log entry 69). -/
def remapTimer (old : Option Bank) (new : Bank) (m : Mem) (i : Nat) (e : Ev) : Ev :=
  let j := old.bind fun o => o.timerMatch new i
  let el := match j with
    | some j => (elapsedRead m j).setWidth 64
    | none => 0
  let st := match j with
    | some j => (timerState m j).setWidth 64
    | none => 0
  (e.commit .elapsed i el).commit .timer i st

/-- An introduced counter takes the default of its kind (R61). A counter that no COUNT head uses has no kind; it counts as UP
(DESIGN CHOICE, log entry 28). -/
def counterInit (b : Bank) (i : Nat) : Nat × Bool :=
  let kind := (b.headMod 8 i).getD 0
  let p := b.counterPreset i
  (counterDefault kind p, counterDefaultDone kind p)

def remapCounter (old : Option Bank) (new : Bank) (m : Mem) (i : Nat) (e : Ev) : Ev :=
  match old.bind fun o => o.counterMatch new i with
  | some j =>
    (e.commit .counter i ((counterRead m j).setWidth 64)).commit .cstate i ((counterState m j).setWidth 64)
  | none =>
    let (v, d) := counterInit new i
    (e.commit .counter i (BitVec.ofNat 64 v)).commit .cstate i (boolVal d)

def remapEdge (old : Option Bank) (new : Bank) (m : Mem) (i : Nat) (e : Ev) : Ev :=
  match old.bind fun o => o.edgeMatch new i with
  | some j => e.commit .edge i (boolVal (edgeRead m j))
  | none => e.commit .edge i 0

/-- Claim resources of the new bank that no kept mask holds. -/
def freedResources (old : Option Bank) (new : Bank) (m : Mem) : List Nat :=
  let held := (List.range new.claimCount).flatMap fun g => heldResources new g (keptMask old new m g)
  (sortNats new.resources).filter fun r => !held.contains r

/-- The whole remap, in the order of R135: timers, counters, edge detectors, masks, freed resources, constants. -/
def remapImage (old : Option Bank) (new : Bank) (m : Mem) (sig : Dword) : Ev :=
  let e : Ev := { mem := clearElements m, sig := sig }
  let e := overRange new.timerCount (remapTimer old new m) e
  let e := overRange new.counterCount (remapCounter old new m) e
  let e := overRange new.edgeCount (remapEdge old new m) e
  let e := overRange new.claimCount (fun g e => e.commit .mask g (keptMask old new m g)) e
  let e := (freedResources old new m).foldl (fun e r => e.commit .boolean r 0) e
  overRange new.constCount (fun i e => e.commit .word (new.constFirst + i) (BitVec.ofNat 64 (new.constValue i))) e

/-- Elements whose previous-value bits the next evaluation loads (R54): those introduced, and those matched with one that still
waited for its loading. -/
def freshElements (old : Option Bank) (new : Bank) (waiting : List Fresh) : List Fresh :=
  let pick (n : Nat) (k : Nat → Fresh) (mt : Bank → Nat → Option Nat) : List Fresh :=
    ((List.range n).filter fun i => match old.bind fun o => mt o i with
      | some j => waiting.contains (k j)
      | none => true).map k
  pick new.timerCount .timer (fun o => o.timerMatch new) ++ pick new.counterCount .counter (fun o => o.counterMatch new) ++
    pick new.edgeCount .edge (fun o => o.edgeMatch new)

/-! ### Frame sequence table (R342) -/

/-- SEQ of output frame record r. -/
def frameSeq (x : Mem) (r : Nat) : Word := memWord x (0x40000 + 4 * r)

/-- The SEQ that a FRAME_ID brings from the old bank, 0 for a new one. -/
def carriedSeq (old : Option Bank) (x : Mem) (id : Nat) : Word :=
  match old.bind fun o => o.frameOf id with
  | some (r, _) => frameSeq x r
  | none => 0

/-- The frame sequence table remapped by FRAME_ID; its other entries read 0. -/
def remapSeqs (old : Option Bank) (new : Bank) (x : Mem) : Mem :=
  new.frames.foldl (fun y f => memWriteWord y (0x40000 + 4 * f.1) (carriedSeq old x f.2.frameId))
    (memClear x 0x40000 0x3F80)

/-- Controller status records kept by NODE; a new NODE starts afresh, an absent one is dropped (R243). -/
def remapStatus (new : Bank) (t : Tbl OcStatus) : Tbl OcStatus :=
  new.ocs.foldl (fun a c => Tbl.put a c.2.node (Tbl.getD t c.2.node .fresh)) []

/-! ### Retentive home copy (R120, R121) -/

/-- Value of a retentive boolean in a home copy of the ranges recorded; 0 outside them. -/
def homeBool (f : Fram) (i : Nat) : Bool :=
  decide (f.rbFirst ≤ i ∧ i < f.rbFirst + f.rbCount) &&
    tst (memRead f.home ((i - f.rbFirst) / 8)) ((i - f.rbFirst) % 8)

def homeWord (f : Fram) (i : Nat) : Word :=
  if f.rwFirst ≤ i ∧ i < f.rwFirst + f.rwCount then memWord f.home (0x8000 + 4 * (i - f.rwFirst)) else 0

/-- A byte of eight booleans, the first in bit 0. -/
def boolByte (f : Nat → Bool) (n : Nat) : Byte :=
  BitVec.ofNat 8 ((List.range 8).foldl (fun a i => a + bit (f (n + i)) * 2 ^ i) 0)

/-- The home copy laid out for the ranges of a bank; values are carried by index (R121). -/
def reformatHome (b : Bank) (f : Fram) : Fram :=
  let bools := (List.range (ceilDiv b.rbCount 8)).foldl
    (fun h k => memWrite h k (boolByte (homeBool f) (b.rbFirst + 8 * k))) ([] : Mem)
  let home := (List.range b.rwCount).foldl
    (fun h k => memWriteWord h (0x8000 + 4 * k) (homeWord f (b.rwFirst + k))) bools
  { f with home := home, rbFirst := b.rbFirst, rbCount := b.rbCount, rwFirst := b.rwFirst, rwCount := b.rwCount }

end Sys2Proof.Machine
end

