-- ==== Sys2Proof/Machine/Restart.lean ====
section
/-!
DEFINITION. Storing of Ice Core records (R290 to R295), FRAM commits (R120) and the restart (R10, R122, R386, R394).
-/
namespace Sys2Proof.Machine

/-! ### Storing (R294, R295) -/

/-- Places a record in the SRAM store: a free place, or that of the oldest record of equal or lower severity. -/
def storePlace (r : IceRec) (store : List IceRec) : Option (List IceRec) :=
  if store.length < 65536 then some (store ++ [r])
  else if store.any (fun x => decide (x.sev ≤ r.sev)) then some (store.eraseP (fun x => decide (x.sev ≤ r.sev)) ++ [r])
  else none

/-- What a SEQ just assigned is written into: LAST_SEQ of the source (R286), ICE_SEQ of the lock-out record (R274). -/
def noteSeq (r : IceRec) (s : State) : State :=
  if r.code = 0x0101 then s.updSource r.src fun x => { x with lastSeq := r.seq }
  else if r.code = 0x0203 then
    s.updFram fun f =>
      { f with locks := f.locks.map fun l =>
          if l.kind.toNat = r.p0.toNat ∧ l.index.toNat = r.p1.toNat then { l with iceSeq := r.seq } else l }
  else s

/-- The SEQ mark is rewritten when the SEQ just assigned lies 1,024 after it (R291). -/
def moveMark (seq : Word) (s : State) : State :=
  s.updFram fun f => if seq - f.iceMark = 1024 then { f with iceMark := seq } else f

/-- A stored record of severity 2 or above goes to the NAND queue of 2,048; a full queue counts and raises source 0x40
(R295). -/
def persist (r : IceRec) (s : State) : State :=
  if r.sev < 2 ∨ s.ice.stopped then s
  else if s.ice.nandQueue.length < 2048 then
    s.updIce fun i => { i with nandQueue := i.nandQueue ++ [(r, s.tb.ms)] }
  else raiseOpen 0x40 1 none (s.updIce fun i => { i with ndrops := satInc 0xFFFFFFFF i.ndrops })

/-- The Ice Core takes the oldest record of the inbound queue. -/
def iceTake (s : State) : State :=
  match s.ice.inbound with
  | [] => s
  | r :: rest =>
    let r := { r with seq := s.ice.nextSeq }
    match storePlace r s.ice.store with
    | none => s.updIce fun i => { i with inbound := rest, drops := satInc 0xFFFFFFFF i.drops }
    | some st =>
      persist r (moveMark r.seq (noteSeq r
        (s.updIce fun i => { i with inbound := rest, store := st, nextSeq := i.nextSeq + 1 })))

/-- The queue taken to its end; a take may bring one more record in (R295). -/
def iceDrain : Nat → State → State
  | 0, s => s
  | n + 1, s => iceDrain n (iceTake s)

/-- The last 262,144 records: the ring replaces the oldest (R295). -/
def ringAppend (ring new : List IceRec) : List IceRec := lastN 262144 (ring ++ new)

/-- One page of up to 128 records goes to the ring, while persistence is not stopped (R279, R283). -/
def pageWrite (s : State) : State :=
  s.updIce fun i =>
    if i.stopped then i
    else { i with ring := ringAppend i.ring ((i.nandQueue.take 128).map (·.1)), nandQueue := i.nandQueue.drop 128 }

/-- A page is due: full, its oldest record waiting 100 ms, a severe record in it, or HOLD or SAFE entered (R295). -/
def pageDue (s : State) : Bool :=
  let q := s.ice.nandQueue.take 128
  !q.isEmpty && !s.ice.stopped &&
    (decide (q.length = 128) || q.any (fun e => decide (e.2 + 100 ≤ s.tb.ms)) ||
      q.any (fun e => decide (3 ≤ e.1.sev)) || decide (s.mstate = .hold ∨ s.mstate = .safe))

/-- Every queued page written, as before a restart; nothing while persistence is stopped. -/
def writeAllPages (s : State) : State :=
  s.updIce fun i => if i.stopped then i else { i with ring := ringAppend i.ring (i.nandQueue.map (·.1)), nandQueue := [] }

/-! ### FRAM commits (R120) -/

/-- A journal record applied to the home copy. -/
def applyJournal (h : Mem) (j : Journal) : Mem := j.entries.foldl (fun h e => memWrite h e.1 e.2) h

/-- The record being written is complete: with CONT 1 it waits for the rest of its set, else the set is applied. -/
def commitOne (f : Fram) : Fram :=
  match f.waiting with
  | [] => f
  | j :: rest =>
    if j.cont then { f with waiting := rest, partialSet := f.partialSet ++ [j] }
    else { f with waiting := rest, partialSet := [], home := (f.partialSet ++ [j]).foldl applyJournal f.home,
                  commitSeq := j.seq }

/-- Blocks that the write of a waiting record touches: the journal, and the home copy where its set is complete (R147). -/
def commitBlocks (f : Fram) : List Nat :=
  match f.waiting with
  | [] => []
  | j :: _ => 48 :: if j.cont then [] else ((f.partialSet ++ [j]).flatMap Journal.entries).map fun e => homeBlock e.1

def commitN : Nat → Fram → Fram
  | 0, f => f
  | n + 1, f => commitN n (commitOne f)

/-- Every commit in progress or waiting is completed. -/
def commitAll (f : Fram) : Fram := commitN f.waiting.length f

/-! ### Restart -/

/-- The kinds of restart (R10), coded as PARAM0 of RESTART (R293). -/
inductive StartKind where
  | powerOn | cold | warm
  deriving DecidableEq, Repr

def StartKind.code : StartKind → Nat
  | .powerOn => 1 | .cold => 2 | .warm => 3

/-- Timer state bytes are class W; every other image byte is 0 after a restart or loaded again (R122). -/
def warmImage (m : Mem) : Mem := memKeep (fun a => decide (0x600000 ≤ a ∧ a < 0x640000)) m

/-- Class W on a warm restart is kept, class V starts afresh, class K stays (R92, R98, R102, R142). -/
def TimeBase.restart (warm : Bool) (t : TimeBase) : TimeBase :=
  let sp := t.sp.map fun p => { SyncPoint.fresh with cfg := p.cfg }
  if warm then
    { TimeBase.fresh with tb := { t.tb with slew16 := 0 }, compLimit := t.compLimit, sp := sp, ms := t.ms,
                          msCyc := t.msCyc }
  else { TimeBase.fresh with compLimit := t.compLimit, sp := sp }

/-- LANE_STATE after a restart follows LOCK; an excluded lane that is not locked is tested by a warm restart (R149, R151). Its own FRAM
is class K. -/
def LaneSt.restart (warm : Bool) (l : LaneSt) : LaneSt :=
  if warm then
    { LaneSt.fresh with
        st := if l.lock then .locked else if l.st = .serving then .serving else .test, lock := l.lock,
        lastCause := l.lastCause, history := l.history, reintMs := l.reintMs, lastExclMs := l.lastExclMs, fp := l.fp,
        ownFram := l.ownFram }
  else { LaneSt.fresh with ownFram := l.ownFram }

/-- The later of two SEQ values modulo 2^32 (R291). -/
def laterSeq (a b : Word) : Word := if 1 ≤ (a - b).toNat ∧ (a - b).toNat ≤ 2 ^ 31 - 1 then a else b

/-- SEQ after a power-on start or a cold restart (R291). -/
def resumeSeq (ring : List IceRec) (mark : Word) : Word :=
  match ring.getLast? with
  | some r => laterSeq (r.seq + 1) (mark + 1025)
  | none => mark + 1025

/-- The SRAM store and SEQ are class W, the ring is class K, the rest is class V (R299). -/
def Ice.restart (warm : Bool) (mark : Word) (i : Ice) : Ice :=
  if warm then { Ice.fresh with store := i.store, ring := i.ring, nextSeq := i.nextSeq }
  else { Ice.fresh with ring := i.ring, nextSeq := resumeSeq i.ring mark }

def Bank.restart (b : Bank) : Bank := { interruptBank b 0x0001 with loaded := 0, verify := none }

def Prog.restart (p : Prog) : Prog := { p with bank0 := p.bank0.restart, bank1 := p.bank1.restart, sched := none, remapFrom := none, report := none }

/-- Task records are kept; the first evaluation is one after this restart, and after an activation that no evaluation has
followed yet (R77, R110). -/
def TaskSt.restart (warm : Bool) (t : TaskSt) : TaskSt :=
  { TaskSt.fresh with cfg := t.cfg, warm := warm, newprg := t.newprg }

/-- The pair state after a restart (R167). -/
def pairStart (twinId : Nat) (locked : Bool) : PState :=
  if twinId = 0 then .single else if locked then .removed else .alone

/-- The stored twin record comes into force (R154); the divergence history is class W (R175). -/
def Twin.restart (warm locked : Bool) (t : Twin) : Twin :=
  { Twin.fresh with w0 := t.w0, w1 := t.w1, liveW0 := t.w0, liveW1 := t.w1, ps := pairStart (fld t.w0 31 30) locked,
                    lastDivMs := if warm then t.lastDivMs else 0, hasDiv := warm && t.hasDiv }

/-- The stored Floe record and schedules come into force (R190, R205); the PASSIVE-entry history is class W (R212). -/
def Floe.restart (warm : Bool) (f : Floe) : Floe :=
  { Floe.fresh with cfg := f.cfg, live := f.cfg, sched := f.sched, liveSched := f.sched,
                    passiveMs := if warm then f.passiveMs else [] }

/-- Word i of the I/O record for input n, output k and rule q (R246). -/
def ioIn (c : List Word) (n : Nat) : Word := nth c (1 + n)
def ioOut (c : List Word) (k : Nat) : Word := nth c (33 + k)
def ioRule (c : List Word) (q i : Nat) : Word := nth c (49 + 4 * q + i)

/-- The stored I/O record comes into force (R247); filters start at FILT_MAX (R253), latching rules start active (R271). -/
def Io.restart (c : List Word) : Io :=
  { Io.fresh with
      cfg := c, live := c,
      inputs := Vector.ofFn fun n : Fin 32 => InSt.fresh (fld (ioIn c n.val) 21 16),
      rules := Vector.ofFn fun q : Fin 16 =>
        RuleSt.fresh (tst (ioRule c q.val 2) 30 && decide (ioRule c q.val 0 ≠ 0)) }

/-- STAGING becomes EMPTY, without a further action: SNOW_BYTES is class K (R324, R333). -/
def Firmware.restart (f : Firmware) : Firmware := if f.snow = .staging then { f with snow := .empty } else f

/-- The key registers are zeroed at the start of every restart (R390). -/
def Keys.zeroed (k : Keys) : Keys := { k with reg0 := none, reg1 := none, regT := none, next0 := none, next1 := none }

/-- The live arbiter registers are loaded from their record (R365). -/
def Fabric.restart (f : Fabric) : Fabric := { Fabric.fresh with arbRec := f.arbRec, arbLive := f.arbRec }

/-- The channel integrates again after a restart (R367, R385). -/
def CanSt.restart (c : CanSt) : CanSt := { CanSt.fresh with cfg := c.record, integrating := tst (nth c.record 0) 31 }

/-- A channel's message buffers cleared; each holds the copy of its filter's DIR (R374). -/
def canBuffers (base : Nat) (c : List Word) (x : Mem) : Mem :=
  (List.range 64).foldl (fun x b => memWrite x (base + 80 * b) (BitVec.ofNat 8 (fld (nth c (8 + 2 * b)) 31 30)))
    (memClear x base 5120)

/-- RESTART_LOG and ICE_MARK of the restart bookkeeping (R291, R395). -/
def Fram.restart (kind : StartKind) (cause : Nat) (resume : Word) (f : Fram) : Fram :=
  { f with waiting := [], partialSet := [], startCount := f.startCount + 1, startKind := BitVec.ofNat 8 kind.code,
           startCause := BitVec.ofNat 8 cause, iceMark := if kind = .warm then f.iceMark else resume }

/-- Before a warm or cold restart the lanes complete every commit and write every queued page (R120, R295). -/
def beforeRestart (s : State) : State :=
  writeAllPages (iceDrain 80 (s.updFram commitAll))

/-- Every item takes the value its class gives it (R10, R394); RESTART is recorded (R293) and BOOT entered (R31). -/
def startAs (kind : StartKind) (cause : Nat) (s : State) : State :=
  let warm := decide (kind = .warm)
  let old := s.mstate
  let s' : State :=
    { s with
        mstate := .boot, holdFrom := .off, resetHold := none, testsDone := false, fromDormant := false,
        power := { s.power with brownout := false, wakeReq := false, overvolt := false }, mem := if warm then warmImage s.mem else [],
        xsram := canBuffers 0x3D400 s.can2.record (canBuffers 0x3C000 s.can1.record []),
        tb := s.tb.restart warm, lanes := s.lanes.map (LaneSt.restart warm), voter := .fresh, fcu := .fresh,
        ice := s.ice.restart warm s.fram.iceMark, prog := s.prog.restart,
        tasks := { Tasks.fresh with t := s.tasks.t.map (TaskSt.restart warm) },
        fram := s.fram.restart kind cause (resumeSeq s.ice.ring s.fram.iceMark),
        twin := s.twin.restart warm (lockStands 4 0 s), floe := s.floe.restart warm, io := .restart s.io.cfg,
        hif := .fresh, fw := s.fw.restart, keys := s.keys.zeroed, fabric := s.fabric.restart,
        can1 := s.can1.restart, can2 := s.can2.restart, rimeArmed := false }
  recordState old .boot (record 0x0202 2 0xFFF kind.code cause 0 0 s')

/-- A warm or cold restart: commits and pages are completed first (R120, R295). -/
def restart (kind : StartKind) (cause : Nat) (s : State) : State := startAs kind cause (beforeRestart s)

end Sys2Proof.Machine
end

