-- ==== Sys2Proof/Machine/Sched.lean ====
section
/-!
DEFINITION. Floe schedules: their entries (R204), wire time (R196) and the checks at LAST (R205).
-/
namespace Sys2Proof.Machine

/-! ### Fields of the Floe record (R189) -/

def floeNode (c : List Word) : Nat := fld (nth c 0) 31 20
def floeInitMode (c : List Word) : Nat := fld (nth c 0) 13 12
def floeSyncNode (c : List Word) : Bool := tst (nth c 0) 11
def floeColdEn (c : List Word) : Bool := tst (nth c 0) 10
def floeKeyed (c : List Word) : Bool := tst (nth c 0) 9
def floePairNode (c : List Word) : Nat := fld (nth c 1) 27 16
def floeAgeMaxMs (c : List Word) : Nat := fld (nth c 1) 15 0
def floeNetId (c : List Word) : Word := nth c 2
def floeMaintTerm (c : List Word) : Nat := fld (nth c 3) 11 0

/-! ### Entries -/

/-- Slot kinds (R204). -/
inductive SlotKind where
  | beacon | status | data | maint | free | reserved
  deriving DecidableEq, Repr

def slotKindOf (n : Nat) : SlotKind :=
  match n with
  | 1 => .beacon | 2 => .status | 3 => .data | 4 => .maint | 5 => .free | _ => .reserved

/-- A schedule entry with its slot number and its raw words. -/
structure Slot where
  num   : Nat
  start : Nat
  len8  : Nat
  kind  : SlotKind
  owner : Nat
  fid   : Nat
  maxd  : Nat
  chA   : Bool
  chB   : Bool
  sync  : Bool
  rx    : Bool
  rsvd  : Nat
  raw   : List Word
  deriving DecidableEq, Repr

def slotOf (num : Nat) (ws : List Word) : Slot :=
  let w (i : Nat) : Word := nth ws i
  { num := num, start := (w 0).toNat, len8 := fld (w 1) 31 16, kind := slotKindOf (fld (w 1) 15 12),
    owner := fld (w 1) 11 0, fid := fld (w 2) 31 16, maxd := fld (w 2) 15 0, chA := tst (w 3) 31, chB := tst (w 3) 30,
    sync := tst (w 3) 29, rx := tst (w 3) 28, rsvd := fld (w 3) 27 0, raw := ws.take 4 }

/-- The slots of a schedule, in order. -/
def slotsOf (ws : List Word) : List Slot :=
  (List.range (ws.length / 4)).map fun i => slotOf i (ws.drop (4 * i))

/-- Slot end in ns from the round start. -/
def Slot.stop (x : Slot) : Nat := x.start + 8 * x.len8

/-- T_wire in ns (R196). -/
def wireNs (dlen : Nat) : Nat := (38 + max 46 (32 + dlen)) * 8

/-- A channel flag. -/
def Slot.on (x : Slot) (c : Chan) : Bool := match c with
  | .a => x.chA
  | .b => x.chB

/-! ### The checks at LAST (R205) -/

/-- A slot kept by an earlier one of the same kind and condition. -/
def repeats (p : Slot → Bool) (x : Slot × List Slot) : Bool := p x.1 && x.2.any p

/-- Reason 0x02. -/
def slotBad02 (x : Slot) : Bool :=
  x.kind == .reserved || decide (x.maxd % 4 ≠ 0) || decide (1440 < x.maxd) ||
    (decide (x.fid ≠ 0) && x.kind != .data) || decide (x.rsvd ≠ 0)

/-- Reason 0x03. -/
def slotBad03 (l : Nat) (x : Slot) : Bool := decide (x.start % 8 ≠ 0 ∨ l ≤ x.start ∨ x.len8 < 300)

/-- Reason 0x04: against the entry before it, and the round's end. -/
def slotBad04 (l : Nat) (x : Slot × List Slot) : Bool :=
  decide (l < x.1.stop) || match x.2 with
    | [] => false
    | y :: _ => decide (x.1.start ≤ y.start) || decide (x.1.start < y.stop)

/-- Reason 0x05. -/
def slotBad05 (x : Slot) : Bool := x.kind != .free && decide (8 * x.len8 < wireNs x.maxd + 2000)

/-- Reason 0x06 in an entry: the two beacons, equal in all loaded modes, and own DATA slots 50 µs after entry 1. -/
def slotBad06 (node : Nat) (others : List (List Slot)) (stop1 : Nat) (x : Slot) : Bool :=
  (decide (x.num < 2) && (x.kind != .beacon || decide (x.owner ≠ 0xFFE + x.num) ||
    others.any fun o => (o.getD x.num x).raw != x.raw)) ||
  (x.kind == .data && decide (x.owner = node ∧ x.start < stop1 + 50000))

/-- The last SYNC slot. -/
def lastSync (slots : List Slot) : Option Nat := ((slots.filter Slot.sync).getLast?).map Slot.num

/-- Reason 0x08 in an entry: the end is asked of the last SYNC slot. -/
def slotBad08 (l : Nat) (last : Option Nat) (x : Slot × List Slot) : Bool :=
  x.1.sync && (decide (8 ≤ (x.2.filter Slot.sync).length) || x.2.any (fun y => y.sync && y.owner == x.1.owner) ||
    x.1.kind == .beacon || x.1.kind == .free || x.1.kind == .maint ||
    decide (last = some x.1.num ∧ l < x.1.stop + 250000))

/-- Reason 0x09 in an entry. -/
def slotBad09 (x : Slot × List Slot) : Bool :=
  x.1.kind == .data &&
    (let before := x.2.filter fun y => y.kind == .data && y.fid == x.1.fid
     decide (x.1.fid = 0) || decide (2 ≤ before.length) || before.any fun y => y.rx != x.1.rx)

/-- Reason 0x0A in an entry. -/
def slotBad0A (node term : Nat) (x : Slot × List Slot) : Bool :=
  repeats (fun y => y.kind == .maint && y.owner == node) x ||
    repeats (fun y => y.kind == .maint && y.owner == term && y.rx) x ||
    (x.1.kind == .maint && decide (x.1.maxd < 72))

/-- Reason 0x0B. -/
def slotBad0B (x : Slot) : Bool := x.kind != .free && !x.chA && !x.chB

/-- The first entry that fails. -/
def firstSlot (xs : List (Slot × List Slot)) (bad : Slot × List Slot → Bool) : Option Nat :=
  (xs.find? bad).map fun x => x.1.num

/-- Reason 0x06 of the whole schedule: an entry, or entry 1 that is missing. -/
def schedBad06 (node : Nat) (others : List (List Slot)) (xs : List (Slot × List Slot)) : Option Nat :=
  let stop1 := ((xs[1]?).map fun x => x.1.stop).getD 0
  (firstSlot xs fun x => slotBad06 node others stop1 x.1) <|> (if xs.length < 2 then some xs.length else none)

/-- Reason 0x07: the second own STATUS slot, one whose SYNC differs from SYNC_NODE, or none at all. -/
def schedBad07 (node : Nat) (syncNode : Bool) (xs : List (Slot × List Slot)) : Option Nat :=
  let own (y : Slot) : Bool := y.kind == .status && y.owner == node
  (firstSlot xs fun x => repeats own x || (own x.1 && x.1.sync != syncNode)) <|>
    (if xs.any fun x => own x.1 then none else some xs.length)

/-- Reason and entry number of the refusal of a schedule, under a Floe record and beside the other loaded modes. -/
def schedRefusal (cfg : List Word) (others : List (List Slot)) (ws : List Word) : Option (Nat × Nat) :=
  let slots := slotsOf ws
  let n := slots.length
  let l := 1000000 * roundMs cfg
  let xs := withEarlier [] slots
  let at' (reason : Nat) (o : Option Nat) : Option (Nat × Nat) := o.map fun e => (reason, e)
  (at' 0x01 (if n = 0 then some 0 else if 4096 < n then some 4096 else none))
  <|> (at' 0x02 (firstSlot xs fun x => slotBad02 x.1))
  <|> (at' 0x03 (firstSlot xs fun x => slotBad03 l x.1))
  <|> (at' 0x04 (firstSlot xs (slotBad04 l)))
  <|> (at' 0x05 (firstSlot xs fun x => slotBad05 x.1))
  <|> (at' 0x06 (schedBad06 (floeNode cfg) others xs))
  <|> (at' 0x07 (schedBad07 (floeNode cfg) (floeSyncNode cfg) xs))
  <|> (at' 0x08 (firstSlot xs (slotBad08 l (lastSync slots))))
  <|> (at' 0x09 (firstSlot xs slotBad09))
  <|> (at' 0x0A (firstSlot xs (slotBad0A (floeNode cfg) (floeMaintTerm cfg))))
  <|> (at' 0x0B (firstSlot xs fun x => slotBad0B x.1))

/-- The schedule of the mode in use. -/
def State.slots (s : State) : List Slot := slotsOf ((vget s.floe.liveSched none s.floe.mode.toNat).getD [])

end Sys2Proof.Machine
end

