-- ==== Sys2Proof/Machine/CmdConfig.lean ====
section
/-!
DEFINITION. The configuration commands of tasks (R76 to R80, R331), local I/O (R246, R247), the twin (R153, R154) and Floe
(R189, R190, R204, R205), and the mode request (R219).
-/
namespace Sys2Proof.Machine

/-- A check of one payload field: word, highest bit, and whether it holds. The first that fails names its byte (R315). -/
abbrev FieldCheck := Nat × Nat × Bool

/-- A field inside its range. -/
def within (ws : List Word) (word hi lo min max : Nat) : FieldCheck :=
  let v := fld (nth ws word) hi lo
  (word, hi, decide (min ≤ v ∧ v ≤ max))

/-- Runs a command's further checks only when every field check holds. -/
def refuseAt {α : Type} (cs : List FieldCheck) (st : α) (k : Reply × α) : Reply × α :=
  match cs.find? fun c => !c.2.2 with
  | some c => (.range c.1 c.2.1, st)
  | none => k

/-! ### Load (R78) -/

def taskEn (w : Word) : Bool := tst w 31
def taskPeriod (w : Word) : Nat := fld w 27 16
def taskDeadline (w : Word) : Nat := fld w 11 0

def Prog.bank (p : Prog) (b : Bool) : Bank := if b then p.bank1 else p.bank0

/-- The active bank. -/
def Prog.active (p : Prog) : Option Bank := p.actBank.map p.bank

/-- Numerator and denominator of U × 10^6 = Σ S_n ÷ (3 P_n), over enabled records with their slot counts. -/
def loadSum : List (Nat × Nat) → Nat × Nat
  | [] => (0, 1)
  | (slots, period) :: rest =>
    let (a, b) := loadSum rest
    (a * (3 * period) + slots * b, b * (3 * period))

/-- U × 10^6, rounded up, of a bank with task records. -/
def loadU (b : Bank) (recs : List Word) : Nat :=
  let on := ((List.range 8).zip recs).filter fun x => taskEn x.2
  let (a, d) := loadSum (on.map fun x => (b.slots.getD x.1 0, taskPeriod x.2))
  ceilDiv a d

def State.taskRecords (s : State) : List Word := (List.range 8).map fun n => (s.task n).cfg

/-- R78 refuses: the load, or an enabled task without a segment. -/
def loadRefused (b : Bank) (recs : List Word) : Bool :=
  decide (450000 < loadU b recs) ||
    ((List.range 8).zip recs).any fun x => taskEn x.2 && decide (b.taskLen x.1 = 0)

/-! ### TASK.CFG (R76, R77, R80, R86, R331) -/

/-- Field checks of a payload; a record that sets EN needs multiples of the stored round length (R80). -/
def taskChecks (floe ws : List Word) : List FieldCheck :=
  let r := nth ws 3
  let l := roundMs floe
  let whole (n : Nat) : Bool := !taskEn r || decide (n % l = 0)
  [ (0, 31, decide (fld (nth ws 0) 31 8 = 0)), within ws 0 7 0 0 2,
    (1, 31, decide (fld (nth ws 0) 7 0 ≠ 1 ∨ nth ws 1 = 0)), within ws 2 31 3 0 0, within ws 3 30 28 0 0,
    (3, 27, decide (10 ≤ taskPeriod r ∧ taskPeriod r ≤ 2000) && whole (taskPeriod r)), within ws 3 15 12 0 0,
    (3, 11, decide (1 ≤ taskDeadline r ∧ taskDeadline r ≤ taskPeriod r) && whole (taskDeadline r)) ]

/-- Stores a task record. -/
def setTaskRecord (n : Nat) (r : Word) (s : State) : State := s.updTask n fun t => { t with cfg := r }

/-- A direct write in STARTUP and TEST. -/
def taskWrite (n : Nat) (r : Word) (s : State) : Reply × State :=
  if taskEn r && s.tasks.enLocked then (.err .errState, s)
  else
    let recs := s.taskRecords.set n r
    match s.prog.active with
    | some b => if loadRefused b recs then (.error .errLoad (loadU b recs) 0, s) else (.done, setTaskRecord n r s)
    | none => (.done, setTaskRecord n r s)

/-- The one effect that SERVICE accepts: EN cleared, every other field as it stands. -/
def clearsEn (n : Nat) (r : Word) (s : State) : Bool :=
  let old := (s.task n).cfg
  taskEn old && !taskEn r && r == old &&& 0x7FFFFFFF

/-- EN cleared in SERVICE: the task is released no more (R86); after the last enabled task STARTUP follows (R31, R77). -/
def taskClear (n : Nat) (r : Word) (s : State) : State :=
  let s := (setTaskRecord n r s).updTask n fun t => { t with stopped := true }
  if (List.range 8).any fun k => taskEn (s.task k).cfg then s
  else leaveService .startup (s.updTasks fun t => { t with enLocked := true })

def handleTaskCfg : Handler := fun p _ payload s =>
  let ws := bytesWords payload
  let n := fld (nth ws 2) 2 0
  let r := nth ws 3
  refuseAt (taskChecks s.floe.cfg ws) s
    (match fld (nth ws 0) 7 0 with
     | 0 => if s.inService then (.err .errState, s) else taskWrite n r s
     | 1 => if s.inService && clearsEn n r s then armReply p 0x0201 ws [] s else (.err .errState, s)
     | _ => if s.inService && clearsEn n r s then (.done, taskClear n r (spendToken p 0x0201 s))
            else (.err .errState, s))

def taskPayload (phase : Nat) (token : Word) (task : BitVec 3) (record : Word) : List Byte :=
  wordsBytes [at32 0 phase, token, at32 0 task.toNat, record]

def execTaskCfg (p : Port) (tag : Half) (task : BitVec 3) (record : Word) (s : State) : Host.Outcome State Fault Refusal :=
  .next (arrive handleTaskCfg p 0x0201 tag (taskPayload 0 0 task record) s)

def execTaskCfgArm (p : Port) (tag : Half) (task : BitVec 3) (record : Word) (s : State) :
    Host.Outcome State Fault Refusal :=
  .next (arrive handleTaskCfg p 0x0201 tag (taskPayload 1 0 task record) s)

def execTaskCfgExecute (p : Port) (tag : Half) (token : Word) (task : BitVec 3) (record : Word) (s : State) :
    Host.Outcome State Fault Refusal :=
  .next (arrive handleTaskCfg p 0x0201 tag (taskPayload 2 token task record) s)

/-! ### IO.CFG (R246, R247) -/

/-- Feedback inputs in use. -/
def fbInputs (c : List Word) : List Nat :=
  ((List.range 16).filter fun k => tst (ioOut c k) 26).map fun k => fld (ioOut c k) 24 20

/-- Release inputs of the latching rules. -/
def relInputs (c : List Word) : List Nat :=
  ((List.range 16).filter fun q => tst (ioRule c q 2) 30).map fun q => fld (ioRule c q 2) 28 24

/-- ACK_IN stands alone: wire-break detection on, and in no other use. -/
def ackFree (c : List Word) : Bool :=
  let a := fld (nth c 0) 28 24
  !tst (nth c 0) 31 || (tst (ioIn c a) 30 && !(fbInputs c).contains a && !(relInputs c).contains a &&
    (List.range 16).all fun q => !tst (ioRule c q 0) a)

def inputChecks (c : List Word) (n : Nat) : List FieldCheck :=
  let w := 1 + n
  [ within c w 27 22 0 0, within c w 21 16 2 32, within c w 15 6 0 0, within c w 5 0 2 (fld (nth c w) 21 16) ]

def outputChecks (c : List Word) (k : Nat) : List FieldCheck :=
  let w := 33 + k
  let r := ioOut c k
  let safety := tst r 30
  let fb := tst r 26
  let earlier := ((List.range k).filter fun j => tst (ioOut c j) 26).map fun j => fld (ioOut c j) 24 20
  [ (w, 29, !(safety && tst r 29)), (w, 28, !safety || tst r 28),
    (w, 24, !fb || (tst (ioIn c (fld r 24 20)) 31 && !earlier.contains (fld r 24 20))), within c w 19 9 0 0,
    (w, 8, !fb || decide (20 ≤ fld r 8 0 ∧ fld r 8 0 ≤ 500)) ]

def ruleChecks (c : List Word) (q : Nat) : List FieldCheck :=
  let w := 51 + 4 * q
  let r := ioRule c q 2
  let rel := fld r 28 24
  [ within c w 29 29 0 0, (w, 28, !tst r 30 || (!tst (ioRule c q 0) rel && tst (ioIn c rel) 31)), within c w 23 16 0 0,
    within c (w + 1) 31 0 0 0 ]

/-- Every check of an I/O record, in the order of its fields. -/
def ioChecks (c : List Word) : List FieldCheck :=
  [within c 0 30 29 0 0, (0, 28, ackFree c), within c 0 23 7 0 0, within c 0 6 0 5 100] ++
    (List.range 32).flatMap (inputChecks c) ++ (List.range 16).flatMap (outputChecks c) ++
    (List.range 16).flatMap (ruleChecks c)

def handleIoCfg : Handler := fun _ _ payload s =>
  let c := bytesWords payload
  refuseAt (ioChecks c) s (.done, s.updIo fun i => { i with cfg := c })

def execIoCfg (p : Port) (tag : Half) (record : List Word) (s : State) : Host.Outcome State Fault Refusal :=
  .next (arrive handleIoCfg p 0x0202 tag (wordsBytes record) s)

/-! ### TWIN.CFG (R153, R154) -/

/-- The 128-bit key in four words from word i. -/
def keyAt (ws : List Word) (i : Nat) : BitVec 128 := nth ws i ++ nth ws (i + 1) ++ nth ws (i + 2) ++ nth ws (i + 3)

def handleTwinCfg : Handler := fun _ _ payload s =>
  let ws := bytesWords payload
  refuseAt [within ws 0 31 30 0 2, within ws 0 29 16 0 0, within ws 0 15 0 1 0xFFFE, within ws 1 31 16 200 20000,
      within ws 1 15 2 0 0] s
    (.done,
     let s := s.updTwin fun t => { t with w0 := nth ws 0, w1 := nth ws 1 &&& 0xFFFF0000 }
     if tst (nth ws 1) 1 then s.updKeys fun k => { k with wrapT := some (keyAt ws 2) } else s)

def execTwinCfg (p : Port) (tag : Half) (record : List Word) (s : State) : Host.Outcome State Fault Refusal :=
  .next (arrive handleTwinCfg p 0x0A01 tag (wordsBytes record) s)

/-! ### FLOE.CFG (R189, R190, R331) -/

/-- Field checks of a payload; the record starts at word 2. -/
def floeChecks (ws : List Word) : List FieldCheck :=
  let r := ws.drop 2
  let level := fld (nth r 3) 15 14
  [ (0, 31, decide (fld (nth ws 0) 31 8 = 0)), within ws 0 7 0 0 2,
    (1, 31, decide (fld (nth ws 0) 7 0 ≠ 1 ∨ nth ws 1 = 0)), within ws 2 31 20 0 0xFFD, within ws 2 19 14 1 50,
    (2, 10, !floeColdEn r || floeSyncNode r), within ws 2 8 0 0 0, within ws 3 31 28 0 0, within ws 3 27 16 0 0xFFD,
    within ws 3 15 0 1 4000, within ws 4 31 0 1 0xFFFFFFFE, within ws 5 31 16 0 0,
    (5, 15, decide (level ≠ 3) && !(decide (level = 2) && !floeKeyed r)), within ws 5 13 12 0 0, within ws 5 11 0 0 0xFFD,
    within ws 6 31 4 0 0 ]

/-- Every enabled task keeps a deadline of whole rounds under a round length in ms (R80). -/
def roundsFit (l : Nat) (recs : List Word) : Bool :=
  recs.all fun r => !taskEn r || decide (taskPeriod r % l = 0 ∧ taskDeadline r % l = 0 ∧ l ≤ taskDeadline r)

/-- The wrapped copies of the keys that a record loads. -/
def loadFloeKeys (r : List Word) (k : Keys) : Keys :=
  { k with wrap0 := if tst (nth r 4) 2 then some (keyAt r 5) else k.wrap0,
           wrap1 := if tst (nth r 4) 3 then some (keyAt r 9) else k.wrap1 }

def floeWrite (r : List Word) (s : State) : Reply × State :=
  if !roundsFit (roundMs r) s.taskRecords then (.err .errState, s)
  else (.done, (s.updFloe fun f => { f with cfg := r.take 4 }).updKeys (loadFloeKeys r))

/-- The one effect that SERVICE accepts: to load the key slot that the accepted beacon does not select. -/
def loadsOtherKey (r : List Word) (s : State) : Bool :=
  r.take 4 == s.floe.cfg && tst (nth r 4) 2 != tst (nth r 4) 3 && tst (nth r 4) 3 != s.floe.keyNext

/-- The loaded slot is in force from the next round start. -/
def keyLoadService (r : List Word) (k : Keys) : Keys :=
  let k := loadFloeKeys r k
  { k with next0 := if tst (nth r 4) 2 then some (keyAt r 5) else k.next0,
           next1 := if tst (nth r 4) 3 then some (keyAt r 9) else k.next1 }

def handleFloeCfg : Handler := fun p _ payload s =>
  let ws := bytesWords payload
  let r := ws.drop 2
  refuseAt (floeChecks ws) s
    (match fld (nth ws 0) 7 0 with
     | 0 => if s.inService then (.err .errState, s) else floeWrite r s
     | 1 => if s.inService && loadsOtherKey r s then armReply p 0x0B01 ws [] s else (.err .errState, s)
     | _ => if s.inService && loadsOtherKey r s then (.done, (spendToken p 0x0B01 s).updKeys (keyLoadService r))
            else (.err .errState, s))

def execFloeCfg (p : Port) (tag : Half) (record : List Word) (s : State) : Host.Outcome State Fault Refusal :=
  .next (arrive handleFloeCfg p 0x0B01 tag (wordsBytes (0 :: 0 :: record)) s)

def execFloeCfgArm (p : Port) (tag : Half) (record : List Word) (s : State) : Host.Outcome State Fault Refusal :=
  .next (arrive handleFloeCfg p 0x0B01 tag (wordsBytes (1 :: 0 :: record)) s)

def execFloeCfgExecute (p : Port) (tag : Half) (token : Word) (record : List Word) (s : State) :
    Host.Outcome State Fault Refusal :=
  .next (arrive handleFloeCfg p 0x0B01 tag (wordsBytes (2 :: token :: record)) s)

/-! ### FLOE.SCHED (R205, R337) -/

/-- Slots of the stored schedules of the modes other than m. -/
def otherModes (m : Nat) (f : Floe) : List (List Slot) :=
  ((List.range 4).filter (· ≠ m)).filterMap fun k => (vget f.sched none k).map slotsOf

/-- A load of mode m ends. -/
def endLoad (m : Nat) (s : State) : State := s.updFloe fun f => { f with loads := Tbl.del f.loads m }

def setSched (m : Nat) (x : Option (List Word)) (s : State) : State :=
  s.updFloe fun f => { f with sched := vmod f.sched m fun _ => x }

/-- A chunk that follows the entries received: at LAST the whole schedule is checked and stored, and the load ends. -/
def schedChunk (p : Port) (m : Nat) (last : Bool) (all : List Word) (s : State) : Reply × State :=
  if last then
    match schedRefusal s.floe.cfg (otherModes m s.floe) all with
    | some (reason, entry) => (.error .errSched reason entry, endLoad m s)
    | none => (.done, setSched m (some all) (endLoad m s))
  else (.done, s.updFloe fun f => { f with loads := Tbl.put f.loads m { owner := p, entries := all } })

def schedClear (m len : Nat) (s : State) : Reply × State :=
  if len ≠ 8 then (.len 8 len, s)
  else if m = floeInitMode s.floe.cfg then (.range 0 1, s)
  else (.done, setSched m none (endLoad m s))

def handleFloeSched : Handler := fun p _ payload s =>
  let ws := bytesWords payload
  let w0 := nth ws 0
  let m := fld w0 1 0
  let off := (nth ws 1).toNat
  let new := ws.drop 2
  refuseAt [within ws 0 31 11 0 0, within ws 0 7 2 0 0] s
    (if tst w0 10 then schedClear m payload.length s
     else if new.isEmpty && !(tst w0 9 && tst w0 8) then (.len 0 payload.length, s)
     else if tst w0 8 then
       if off ≠ 0 then (.error .errSeq 0 off, s) else schedChunk p m (tst w0 9) new s
     else match Tbl.find s.floe.loads m with
       | none => (.err .errState, s)
       | some l =>
         if l.owner ≠ p then (.err .errState, s)
         else if off ≠ l.entries.length / 4 then (.error .errSeq (l.entries.length / 4) off, s)
         else schedChunk p m (tst w0 9) (l.entries ++ new) s)

def execFloeSched (p : Port) (tag : Half) (mode : BitVec 2) (first last : Bool) (offset : Word) (entries : List Word)
    (s : State) : Host.Outcome State Fault Refusal :=
  .next (arrive handleFloeSched p 0x0B02 tag
    (wordsBytes ((flag 9 last ||| flag 8 first ||| at32 0 mode.toNat) :: offset :: entries)) s)

def execFloeSchedClear (p : Port) (tag : Half) (mode : BitVec 2) (s : State) : Host.Outcome State Fault Refusal :=
  .next (arrive handleFloeSched p 0x0B02 tag (wordsBytes [flag 10 true ||| at32 0 mode.toNat, 0]) s)

/-! ### FLOE.MODEREQ (R219) -/

def handleFloeModereq : Handler := fun p tag payload s =>
  let ws := bytesWords payload
  let m := fld (nth ws 0) 1 0
  refuseAt [within ws 0 31 2 0 0] s
    (if s.floe.fstate ≠ .sync then (.err .errState, s)
     else if (vget s.floe.liveSched none m).isNone ∨ m = s.floe.mode.toNat ∨ s.floe.mreq.isSome then (.err .errMode, s)
     else (.pend, pendStart p 0x0B03 tag
       (s.updFloe fun f => { f with mreq := some (BitVec.ofNat 2 m, p, tag, f.round) })))

def execFloeModereq (p : Port) (tag : Half) (mode : BitVec 2) (s : State) : Host.Outcome State Fault Refusal :=
  .next (arrive handleFloeModereq p 0x0B03 tag (wordsBytes [at32 0 mode.toNat]) s)

/-- A mode request ends with its completion (R219). -/
def endModereq (r : Reply) (s : State) : State :=
  match s.floe.mreq with
  | some (_, p, tag, _) => complete p 0x0B03 tag r (s.updFloe fun f => { f with mreq := none })
  | none => s

/-- 50 rounds have passed without an announcement. -/
def execModereqTimeout (s : State) : Host.Outcome State Fault Refusal :=
  .next (whileRunning (fun s =>
    match s.floe.mreq with
    | some (m, _, _, _) => if s.floe.swPend ∧ s.floe.modeNext = m then s else endModereq (.err .errTimeout) s
    | none => s) s)

end Sys2Proof.Machine
end

