-- ==== Sys2Proof/Machine/TwinMsg.lean ====
section
/-!
DEFINITION. Twin-link messages (R156 to R160): the health word, CFG_CRC, queueing by priority, sending, and the checks on a
received message.
-/
namespace Sys2Proof.Machine

/-! ### Own identity and roles -/

/-- TWIN_ID of the record in force. -/
def State.twinId (s : State) : Nat := fld s.twin.liveW0 31 30

def State.partnerId (s : State) : Nat := 3 - s.twinId

/-- The roles in force name this twin leader (R164). -/
def State.isLeader (s : State) : Bool := s.twinId != 0 && s.twin.roles.toNat == s.twinId

/-- The roles in force name the partner leader. -/
def State.partnerLeads (s : State) : Bool := s.twinId != 0 && s.twin.roles.toNat == s.partnerId

/-- A lane reintegration is in progress (R109, R179). -/
def State.reintegrating (s : State) : Bool :=
  s.lanes.toList.any fun l => decide (l.st ≠ .serving ∧ l.st ≠ .locked)

/-- Floe synchronised (R31). -/
def State.synced (s : State) : Bool := s.tb.sync == 2

/-- The service conditions of R31 without input agreement: a VALID active bank, a task enabled, synchronised, two lanes. -/
def State.serviceReady (s : State) : Bool :=
  (s.prog.active.map fun b => decide (b.st = .active)).getD false &&
    (s.taskRecords.any taskEn) && s.synced && decide (2 ≤ s.servingLanes.length)

/-! ### Health word (R160) -/

/-- MSTATE of the health word; 0 in a state without status frames. -/
def healthState (s : State) : Nat :=
  match s.eff with
  | .startup => 1
  | .service => if s.servingLanes.length = 3 then 2 else 3
  | .test => 4
  | .recovery => 5
  | .safe => 6
  | _ => 0

/-- LIT_CRC and DESC_CRC of the ACTIVE bank, 0 without one. -/
def actCrcs (s : State) : Dword × Dword :=
  match s.prog.active with
  | some b => (b.litCrc, b.descCrc)
  | none => (0, 0)

/-- The Floe configuration that CFG_CRC covers (R191). -/
def floeCrcBytes (f : Floe) : List Byte :=
  wordsBytes ([nth f.live 0 &&& 0x000FFFFF, nth f.live 1, nth f.live 2, nth f.live 3] ++ List.replicate 9 0) ++
    (List.range 4).flatMap fun m => wordsBytes ((vget f.liveSched none m).getD [])

/-- CFG_CRC (R159). -/
def cfgCrc (s : State) : Dword :=
  crc64 (wordsBytes s.taskRecords ++ floeCrcBytes s.floe ++
    wordBytes (at32 16 (fld s.twin.liveW0 15 0) ||| at32 0 (fld s.twin.liveW1 31 16)))

/-- BANK_EQ (R160). -/
def bankEq (s : State) : Bool :=
  match s.twin.peer with
  | some p => p.litCrc == (actCrcs s).1 && p.descCrc == (actCrcs s).2 && p.cfgCrc == cfgCrc s
  | none => false

/-- From the health word of round s + 1 on, a splitting twin reports CAPABLE 0 (R160, R178). -/
def splitMine (s : State) : Bool := (s.twin.split.map Split.mine).getD false

def capable (s : State) : Bool :=
  s.inService && decide (s.twin.ps = .alone ∨ s.twin.ps = .paired ∨ s.twin.ps = .silent) && !splitMine s

def healthWord (s : State) : Word :=
  at32 28 (healthState s) ||| at32 25 s.twin.ps.code ||| at32 23 s.twinId ||| flag 22 (capable s) |||
    flag 21 (decide (s.eff = .startup) && s.serviceReady) ||| flag 20 s.isLeader ||| flag 19 (decide (s.mstate = .hold)) |||
    flag 18 s.twin.linkOk ||| flag 17 (bankEq s) ||| at32 0 s.twin.epochSeen.toNat

/-! ### Sending (R154, R156, R158) -/

/-- The twin link may be used: TWIN_ID not 0b00 and a key loaded (R154). -/
def linkUsable (s : State) : Bool := s.twinId != 0 && s.keys.regT.isSome

/-- Header and body with MSEQ 0. -/
def twinMessage (mtype : Nat) (body : List Byte) (s : State) : List Byte :=
  wordsBytes [at32 24 mtype ||| at32 22 s.twinId ||| at32 0 body.length, 0, BitVec.ofNat 32 s.floe.round,
    at32 16 (fld s.twin.liveW0 15 0) ||| at32 0 s.twin.epochSeen.toNat] ++ body

/-- A message enters the queue behind those of its priority and above. -/
def insertMsg (p : Nat) (m : List Byte) : List (Nat × List Byte) → List (Nat × List Byte)
  | [] => [(p, m)]
  | x :: xs => if p < x.1 then (p, m) :: x :: xs else x :: insertMsg p m xs

def sendMsg (mtype prio : Nat) (body : List Byte) (s : State) : State :=
  if !linkUsable s then s
  else
    let m := twinMessage mtype body s
    s.updTwin fun t => { t with txQueue := insertMsg prio m t.txQueue }

/-- A queued message as the link carries it: MSEQ set and the keyed code appended. -/
def wireMessage (key : BitVec 128) (mseq : Word) (m : List Byte) : List Byte :=
  let m := m.take 4 ++ wordBytes mseq ++ m.drop 8
  m ++ dwordBytes (keyedScode key m)

/-- The Ethernet frame of a message: broadcast, EtherType 0x88B6 (R156). The sending module's own address is taken to be that of its Floe
frames (DEDUCED, log entry 65). -/
def twinFrame (floe : List Word) (m : List Byte) : List Byte :=
  ethFrame 0xFFFFFFFFFFFF (nodeAddress (floeNode floe)) 0x88B6 m

/-- The frames in the queue as they are sent; MSEQ goes up by 1 per message. -/
def State.twinWire (s : State) : List (List Byte) :=
  match s.keys.regT with
  | some k => ((List.range s.twin.txQueue.length).zip s.twin.txQueue).map fun x =>
      twinFrame s.floe.live (wireMessage k (s.twin.txSeq + 1 + BitVec.ofNat 32 x.1) x.2.2)
  | none => []

/-- Every queued message has been sent. -/
def drainLink (s : State) : State :=
  s.updTwin fun t => { t with txQueue := [], txSeq := t.txSeq + BitVec.ofNat 32 t.txQueue.length }

/-! ### Receiving (R155, R157) -/

/-- Message word i. -/
def msgWord (m : List Byte) (i : Nat) : Word := wordAt m i

def msgBody (m : List Byte) : List Byte := slice m 16 (fld (msgWord m 0) 15 0)

/-- The keyed code over header and body is correct. -/
def msgCodeOk (key : Option (BitVec 128)) (m : List Byte) : Bool :=
  let n := 16 + fld (msgWord m 0) 15 0
  match key with
  | some k => decide (n + 8 ≤ m.length) && BitVec.ofNat 64 (beAt m n 8) == keyedScode k (m.take n)
  | none => false

/-- How far the MSEQ of a message lies ahead of the last accepted one; 1 for the first after a restart. -/
def mseqAhead (t : Twin) (mseq : Word) : Nat :=
  match t.rxSeq with
  | some r => (mseq - r).toNat
  | none => 1

/-- The checks of R157 after the code. -/
def msgPlaced (m : List Byte) (s : State) : Bool :=
  let ahead := mseqAhead s.twin (msgWord m 1)
  decide (fld (msgWord m 0) 23 22 = s.partnerId) && decide (fld (msgWord m 3) 31 16 = fld s.twin.liveW0 15 0) &&
    decide ((msgWord m 2).toNat = s.floe.round ∨ (msgWord m 2).toNat + 1 = s.floe.round) &&
    decide (1 ≤ ahead ∧ ahead ≤ 65535)

/-- A partner that reports this module's own TWIN_ID is a class 1 fault of the link (R155). -/
def twinConflict (m : List Byte) (s : State) : Bool :=
  decide (fld (msgWord m 0) 23 22 = s.twinId ∧ fld (msgWord m 3) 31 16 = fld s.twin.liveW0 15 0)

/-- Runs what an accepted message of a type does; a message that fails a check is discarded and counted. A module with
TWIN_ID 0b00 ignores every message (R154). -/
def onPayload (mtype : Nat) (m : List Byte) (act : List Byte → State → State) (s : State) : State :=
  if !s.runs || decide (s.twinId = 0 ∨ fld (msgWord m 0) 31 24 ≠ mtype) then s
  else if !msgCodeOk s.keys.regT m then s.updTwin fun t => { t with scodeFail := satInc 0xFFFF t.scodeFail }
  else if !msgPlaced m s then
    let s := s.updTwin fun t => { t with linkRej := satInc 0xFFFF t.linkRej }
    if twinConflict m s then raiseOpen 0x30 1 none s else s
  else
    let gap := decide (1 < mseqAhead s.twin (msgWord m 1))
    act (msgBody m) (s.updTwin fun t =>
      { t with rxSeq := some (msgWord m 1), mseqGap := if gap then satInc 0xFFFF t.mseqGap else t.mseqGap })

/-- A frame arrives on the twin link. Tagged frames and frames of another EtherType are discarded (R156). -/
def onMessage (mtype : Nat) (frame : List Byte) (act : List Byte → State → State) (s : State) : State :=
  match ethPayload 0x88B6 frame with
  | some m => onPayload mtype m act s
  | none => s

/-! ### Abandoning joins and splits (R179, R185) -/

/-- A join or split abandoned: class 1 fault and record with the reason. -/
def abandonRecord (reason kind : Nat) (s : State) : State :=
  raiseOpen 0x30 1 none (record 0x0504 1 0x30 reason kind 0 0 s)

/-- A split ends without its boundary; its operation completes with the refusal. -/
def endSplit (r : Reply) (s : State) : State :=
  match s.twin.split with
  | some x =>
    let s := s.updTwin fun t => { t with split := none }
    match x.client with
    | some (p, tag) => complete p 0x0A02 tag r s
    | none => s
  | none => s

/-- A split in progress is abandoned with a reason. -/
def abandonSplit (reason : Nat) (s : State) : State :=
  if s.twin.split.isNone then s else abandonRecord reason 2 (endSplit (.error .errTwin reason 0) s)

/-- A join in progress is abandoned: the joining twin returns to the state it came from and retries 1.0 s later (R167). -/
def abandonJoin (reason : Nat) (s : State) : State :=
  match s.twin.join with
  | none => s
  | some j =>
    let s := s.updTwin fun t => { t with join := none, retryMs := s.tb.ms + 1000 }
    let s := if j.mine ∧ s.twin.ps = .joining then setPState j.cameFrom s else s
    let s := match j.client with
      | some (p, tag) => complete p 0x0A03 tag (.error .errTwin reason 0) s
      | none => s
    abandonRecord reason 1 s

/-- SPLIT*, JOIN* body: round and reason (R159). -/
def roundReason (round reason : Nat) : List Byte := wordsBytes [BitVec.ofNat 32 round, BitVec.ofNat 32 reason]

/-- JOINABORT to the partner: a join or split is abandoned (R158). Its W0 is sent as 0 (DESIGN CHOICE, log entry 66). -/
def sendAbort (reason : Nat) (s : State) : State := sendMsg 0x2C 3 (roundReason 0 reason) s

/-- A join or split abandoned here, and the partner told. -/
def dropJoin (reason : Nat) (s : State) : State := if s.twin.join.isNone then s else abandonJoin reason (sendAbort reason s)
def dropSplit (reason : Nat) (s : State) : State :=
  if s.twin.split.isNone then s else abandonSplit reason (sendAbort reason s)

/-- A reason that R179 does not list: a free value (DESIGN CHOICE, log entry 4). -/
def openReason (k : Nat → State → State) (s : State) : State :=
  let (v, s) := drawFree s
  k (v.toNat % 2 ^ 32) s

end Sys2Proof.Machine
end

