-- ==== Sys2Proof/Machine/Program.lean ====
section
/-!
DEFINITION. Programs and firmware: PRG.LOAD, PRG.VERIFY and its end (R104 to R107, R334), PRG.ACTIVATE and the switch of the
banks (R108 to R119), FW.STAGE and FW.ACTIVATE (R333).
-/
namespace Sys2Proof.Machine

/-! ### Standby bank -/

/-- The standby bank: the one that is not ACTIVE, bank 0 without an ACTIVE bank (R104). -/
def Prog.standbyNo (p : Prog) : Bool := match p.actBank with
  | some b => !b
  | none => false

def Prog.standby (p : Prog) : Bank := p.bank p.standbyNo

def Prog.updBank (b : Bool) (f : Bank → Bank) (p : Prog) : Prog :=
  if b then { p with bank1 := f p.bank1 } else { p with bank0 := f p.bank0 }

def updStandby (f : Bank → Bank) (s : State) : State := s.updProg fun p => p.updBank p.standbyNo f

/-! ### PRG.LOAD (R105, R106) -/

/-- Length of the .nkp file once its first 256 bytes are known. -/
def fileTotal (file : List Byte) : Option Nat :=
  if file.length < 256 then none else some (beAt file 24 4 + 4 * beAt file 20 4)

/-- A chunk of a file, answered with LOADED_BYTES (R319): refused beyond the file's end. The first leaves the bank LOADING; one that
continues the file leaves it LOADED when the file is whole. -/
def storeChunk (first : Bool) (b : Bank) (data : List Byte) (s : State) : Reply × State :=
  let file := b.file ++ data
  let put (st : BankSt) : Reply × State :=
    (.words [BitVec.ofNat 32 file.length], updStandby (fun _ => { b with st := st, file := file, loaded := file.length }) s)
  match fileTotal file with
  | some n => if n < file.length then (.range 1 31, s) else put (if file.length = n ∧ !first then .loaded else .loading)
  | none => put .loading

def handlePrgLoad : Handler := fun p _ payload s =>
  let ws := bytesWords payload
  let off := (nth ws 1).toNat
  let data := payload.drop 8
  let b := s.prog.standby
  refuseAt [within ws 0 31 1 0 0] s
    (if tst (nth ws 0) 0 then
       if b.st = .verifying ∨ s.prog.sched.isSome then (.err .errState, s)
       else if off ≠ 0 then (.error .errSeq 0 off, s)
       else storeChunk true { Bank.fresh with owner := p } data s
     else if b.st ≠ .loading ∨ b.owner ≠ p then (.err .errState, s)
     else if off ≠ b.loaded then (.error .errSeq b.loaded off, s)
     else storeChunk false b data s)

/-- Payload of a chunk: flags, offset, data. -/
def chunkPayload (flags offset : Word) (data : List Byte) : List Byte := wordsBytes [flags, offset] ++ data

def execPrgLoad (p : Port) (tag : Half) (first : Bool) (offset : Word) (data : List Byte) (s : State) :
    Host.Outcome State Fault Refusal :=
  .next (arrive handlePrgLoad p 0x0401 tag (chunkPayload (flag 0 first) offset data) s)

/-! ### PRG.VERIFY (R72, R105, R107, R334) -/

def handlePrgVerify : Handler := fun p tag _ s =>
  match s.prog.standby.st with
  | .loaded | .valid | .invalid =>
    (.pend, pendStart p 0x0402 tag (updStandby (fun b => { b with st := .verifying, verify := some (p, tag) }) s))
  | _ => (.err .errState, s)

def execPrgVerify (p : Port) (tag : Half) (s : State) : Host.Outcome State Fault Refusal :=
  .next (arrive handlePrgVerify p 0x0402 tag [] s)

/-- The bank becomes INVALID with a code; the completion names the check that failed. -/
def verifyFails (c : Option (Port × Half)) (code : Half) (inDesc : Bool) (off : Nat) (s : State) : State :=
  let s := updStandby (fun b => { b with st := .invalid, failCode := code, verify := none, slots := List.replicate 8 0 }) s
  match c with
  | some (p, tag) => complete p 0x0402 tag (.words (verdictWords code inDesc off [])) s
  | none => s

def verifyPasses (c : Option (Port × Half)) (slots : List Nat) (s : State) : State :=
  let s := updStandby (fun b => { b with st := .valid, failCode := 0, verify := none, slots := slots }) s
  match c with
  | some (p, tag) => complete p 0x0402 tag (.words (verdictWords 0 false 0 slots)) s
  | none => s

/-- A NAND copy that reads back differently: R72 states neither code nor offset for it, so both are free; the code is not 0, which
names a VALID bank (DESIGN CHOICE, log entry 27). -/
def nandDiffers (c : Option (Port × Half)) (s : State) : State :=
  let (v, s) := drawFree s
  verifyFails c (openFailCode v) (v.getLsbD 63) (v.toNat / 65536 % 2 ^ 32) s

/-- The checks of R72 end; what passes them is written to NAND and read back (R105, R107). -/
def execVerifyComplete (nandEqual : Bool) (s : State) : Host.Outcome State Fault Refusal :=
  let b := s.prog.standby
  .next (if !s.runs || decide (b.st ≠ .verifying) then s
    else match b.verdict with
      | some v => verifyFails b.verify v.code v.inDesc v.offset s
      | none => if nandEqual then verifyPasses b.verify b.slotCounts s else nandDiffers b.verify s)

/-! ### The switch of the banks (R110, R112 to R115) -/

/-- The 8-byte window header of R133. -/
def windowBytes (kind id : Nat) (round : Word) : List Byte :=
  wordsBytes [at32 24 kind ||| at32 16 id, round]

def finishSig (r : Dword) : Dword := r ^^^ BitVec.allOnes 64

/-- Round counted from the first round after entry into SERVICE (R22, R133). -/
def State.relRound (s : State) : Word := BitVec.ofNat 32 (s.floe.round - s.tasks.origin)

/-- The latest accepted HELLO shows the partner in SHADOW. -/
def partnerShadow (s : State) : Bool := (s.twin.peer.map fun p => decide (fld p.health 27 25 = 5)).getD false

/-- Who sends INSIG, TWCMP and STSIG: a PAIRED twin, and one that is ALONE beside a SHADOW (R166). -/
def sendsComparison (s : State) : Bool :=
  decide (s.twin.ps = .paired) || (decide (s.twin.ps = .alone) && partnerShadow s)

/-- The own signature of a scan or remap is kept for the comparison, and sent as STSIG (R175, R180). -/
def sendStsig (wkind wid : Nat) (sig : Dword) (s : State) : State :=
  if s.twinId = 0 then s
  else
    let s := s.updTwin fun t => { t with ownSt := some (BitVec.ofNat 8 wkind, BitVec.ofNat 8 wid, s.relRound, sig) }
    if sendsComparison s then
      sendMsg 0x13 2 (wordsBytes [at32 24 wkind ||| at32 16 wid, s.relRound] ++ dwordBytes sig) s
    else s

/-- The switch of the banks: ACT_BANK, the old bank VALID, NEWPRG set for every task (R112 step 3, R114). -/
def takeBank (src : Nat) (b : Bool) (s : State) : State :=
  let new := s.prog.bank b
  let s := s.updProg fun p =>
    let p := match p.actBank with
      | some o => p.updBank o fun x => { x with st := .valid }
      | none => p
    { p.updBank b fun x => { x with st := .active } with actBank := some b, sched := none, remapFrom := some p.active }
  let s := s.updTasks fun t => { t with t := t.t.map fun x => { x with newprg := true } }
  record 0x0402 2 src (bit b) new.programVersion s.floe.round 0 (touchBlocks [56] s)

/-- Blocks of the state copy that a remap writes beside those whose content changes: the runtime record, the home copy, its header, the
frame sequence table (R149, R183). -/
def remapBlocks : List Nat := (List.range 14) ++ (List.range 32).map (16 + ·) ++ [48, 56] ++ (List.range 4).map (2128 + ·)

/-- The remap of the image, the frame sequence numbers, the controller records and the retentive home copy, with its signature (R113 to
R115, R135). The signature is not compared where it was not voted (R17). Every waiting journal record, those of earlier cycles
too, is complete before the home copy is laid out anew (DESIGN CHOICE, log entry 32). -/
def remapNow (s : State) : State :=
  match s.prog.remapFrom, s.prog.active with
  | some old, some new =>
    let e := remapImage old new s.mem (crc64Fold crc64Init (windowBytes 8 0 s.relRound))
    let s := s.updProg fun p => { p with remapFrom := none }
    let s := writeImage (remapBlocks ++ e.blocks) e.mem s
    let s := s.updXsram (remapSeqs old new)
    let s := s.updTasks fun t => { t with newEls := freshElements old new t.newEls, oc := remapStatus new t.oc }
    let s := s.updFram fun f => reformatHome new (commitAll f)
    if voteLost 8 s then takeLost 8 s else sendStsig 8 0 (finishSig e.sig) s
  | _, _ => s

/-- Switch and remap at one instant, where no boundary separates them. -/
def switchBank (src : Nat) (b : Bool) (s : State) : State := remapNow (takeBank src b s)

/-! ### Activation (R108 to R119) -/

/-- Port of the records of an activation; the module itself where no port waits here. -/
def clientSrc (c : Option (Port × Half)) : Nat := match c with
  | some (p, _) => portSrc p
  | none => 0xFFF

/-- The pending PRG.ACTIVATE of an activation completes. -/
def answerClient (c : Option (Port × Half)) (r : Reply) (s : State) : State :=
  match c with
  | some (p, tag) => complete p 0x0403 tag r s
  | none => s

/-- The activation is abandoned: completion with the code, and PRG_ABANDON (R293). -/
def abandonActivation (code : Code) (group : Nat) (s : State) : State :=
  match s.prog.sched with
  | none => s
  | some a =>
    record 0x0403 1 (clientSrc a.client) code.value.toNat group 0 0
      (answerClient a.client (.error code group 0) (s.updProg fun p => { p with sched := none }))

/-- The refusals of R109 from ERR_STATE to ERR_LOAD, for the CRCs quoted. -/
def activationRefusal (lit desc : Dword) (s : State) : Option Reply :=
  let b := s.prog.standby
  if s.prog.sched.isSome ∨ s.reintegrating ∨ s.twin.join.isSome ∨ s.twin.split.isSome then some (.err .errState)
  else if b.st ≠ .valid then some (.err .errBank)
  else if b.litCrc ≠ lit ∨ b.descCrc ≠ desc then some (.err .errMismatch)
  else if loadRefused b s.taskRecords then some (.error .errLoad (loadU b s.taskRecords) 0)
  else none

/-- OK completion of an activation: the round and its TB_NS (R334). -/
def activationOk (round : Nat) (time : Dword) : Reply := .words [BitVec.ofNat 32 round, 0, hiWord time, loWord time]

/-- The completion of a switch that takes place now. -/
def activationDone (s : State) : Reply := activationOk s.floe.round s.tb.tb.ns

/-- The completion of a switch at a boundary waits for the first task end in the new bank (R119). -/
def reportLater (c : Option (Port × Half)) (s : State) : State :=
  s.updProg fun p => { p with report := c.map fun x => (x, s.floe.round, s.tb.tb.ns) }

/-- The first task end in the new bank sends that completion. -/
def reportActivation (s : State) : State :=
  match s.prog.report with
  | some (c, round, time) =>
    complete c.1 0x0403 c.2 (activationOk round time) (s.updProg fun p => { p with report := none })
  | none => s

/-- ACT* body (R159). -/
def actBody (round : Nat) (result : Half) (lit desc : Dword) : List Byte :=
  wordsBytes [BitVec.ofNat 32 round, result.setWidth 32] ++ dwordBytes lit ++ dwordBytes desc

def setSchedule (a : Activation) (s : State) : State := s.updProg fun p => { p with sched := some a }

/-- An accepted execute in SERVICE: alone it is scheduled; the leader proposes it, the follower forwards it (R117, R119). -/
def scheduleActivation (p : Port) (tag : Half) (lit desc : Dword) (s : State) : State :=
  let a (ok : Bool) : Activation :=
    { bank := s.prog.standbyNo, roundA := s.floe.round, client := some (p, tag), confirmed := ok, sent := false, litCrc := lit,
      descCrc := desc }
  if s.twin.ps ≠ .paired then setSchedule (a true) s
  else sendMsg (if s.isLeader then 0x03 else 0x02) 3 (actBody s.floe.round 0 lit desc) (setSchedule (a false) s)

/-- The execute of PRG.ACTIVATE. In STARTUP and TEST the switch takes place at once; R116 checks the held claim groups at a boundary only,
so a group still held there is not checked, and the remap clears a mask whose set differs (DEDUCED, log entry 26). -/
def activateExecute (p : Port) (tag : Half) (ws : List Word) (s : State) : Reply × State :=
  let lit := dwordOf (nth ws 2) (nth ws 3)
  let desc := dwordOf (nth ws 4) (nth ws 5)
  match activationRefusal lit desc s with
  | some r => (r, s)
  | none =>
    let s := pendStart p 0x0403 tag (spendToken p 0x0403 s)
    if s.inService then (.pend, scheduleActivation p tag lit desc s)
    else
      let s := switchBank (portSrc p) s.prog.standbyNo s
      (.pend, complete p 0x0403 tag (activationDone s) s)

def handlePrgActivate : Handler := fun p tag payload s =>
  let ws := bytesWords payload
  let b := s.prog.standby
  match phaseRefusal ws with
  | some r => (r, s)
  | none =>
    if fld (nth ws 0) 7 0 = 1 then
      armReply p 0x0403 ws
        [BitVec.ofNat 32 (if b.st = .valid then b.programVersion else 0), BitVec.ofNat 32 (loadU b s.taskRecords),
         hiWord b.litCrc, loWord b.litCrc, hiWord b.descCrc, loWord b.descCrc] s
    else activateExecute p tag ws s

def activatePayload (phase : Nat) (token : Word) (lit desc : Dword) : List Byte :=
  wordsBytes [at32 0 phase, token] ++ dwordBytes lit ++ dwordBytes desc

def execPrgActivateArm (p : Port) (tag : Half) (litCrc descCrc : Dword) (s : State) :
    Host.Outcome State Fault Refusal :=
  .next (arrive handlePrgActivate p 0x0403 tag (activatePayload 1 0 litCrc descCrc) s)

def execPrgActivateExecute (p : Port) (tag : Half) (token : Word) (litCrc descCrc : Dword) (s : State) :
    Host.Outcome State Fault Refusal :=
  .next (arrive handlePrgActivate p 0x0403 tag (activatePayload 2 token litCrc descCrc) s)

/-- No boundary within 1,000 rounds (R111). -/
def execActivationNoBoundary (s : State) : Host.Outcome State Fault Refusal :=
  .next (whileRunning (fun s =>
    match s.prog.sched with
    | some a => if a.roundA + 1000 < s.floe.round then abandonActivation .errNoBoundary 0 s else s
    | none => s) s)

/-! ### Activation over the twin link (R117) -/

def bodyLit (b : List Byte) : Dword := dwordAt b 2
def bodyDesc (b : List Byte) : Dword := dwordAt b 4

/-- The leader takes an execute that the follower forwards: a proposal, or the refusal in RESULT. -/
def actForwarded (b : List Byte) (s : State) : State :=
  if s.twin.ps ≠ .paired ∨ !s.isLeader then s
  else match activationRefusal (bodyLit b) (bodyDesc b) s with
    | some r => sendMsg 0x03 3 (actBody s.floe.round r.code.value (bodyLit b) (bodyDesc b)) s
    | none =>
      sendMsg 0x03 3 (actBody s.floe.round 0 (bodyLit b) (bodyDesc b))
        (setSchedule { bank := s.prog.standbyNo, roundA := s.floe.round, client := none, confirmed := false,
                       sent := false, litCrc := bodyLit b, descCrc := bodyDesc b } s)

def execActfwd (msg : List Byte) (s : State) : Host.Outcome State Fault Refusal :=
  .next (onMessage 0x02 msg actForwarded s)

/-- An execute forwarded from this twin that waits for its proposal. -/
def waitingClient (s : State) : Option (Port × Half) :=
  s.prog.sched.bind fun a => if a.confirmed then none else a.client

/-- A refusal or an abandonment of the leader ends what it is about: an execute that waits, or the activation of its round. -/
def actRefused (round : Nat) (s : State) : State :=
  match s.prog.sched with
  | some a => if a.confirmed ∧ a.roundA ≠ round then s else abandonActivation .errTwin 0 s
  | none => s

/-- The follower checks a proposal and confirms it, or refuses it and abandons its own execute with ERR_TWIN. -/
def actProposed (b : List Byte) (s : State) : State :=
  let round := (wordAt b 0).toNat
  if s.twin.ps ≠ .paired ∨ s.isLeader then s
  else if wordAt b 1 ≠ 0 then actRefused round s
  else
    let bare := match s.prog.sched with
      | some a => if a.confirmed then s else s.updProg fun p => { p with sched := none }
      | none => s
    match activationRefusal (bodyLit b) (bodyDesc b) bare with
    | some r => abandonActivation .errTwin 0 (sendMsg 0x04 3 (actBody round r.code.value (bodyLit b) (bodyDesc b)) s)
    | none =>
      sendMsg 0x04 3 (actBody round 0 (bodyLit b) (bodyDesc b))
        (setSchedule { bank := s.prog.standbyNo, roundA := round, client := waitingClient s, confirmed := false,
                       sent := true, litCrc := bodyLit b, descCrc := bodyDesc b } s)

def execActprop (msg : List Byte) (s : State) : Host.Outcome State Fault Refusal :=
  .next (onMessage 0x03 msg actProposed s)

/-- The leader takes the confirmation of the round it proposed. -/
def actConfirmed (b : List Byte) (s : State) : State :=
  match s.prog.sched with
  | none => s
  | some a =>
    if a.confirmed ∨ a.roundA ≠ (wordAt b 0).toNat then s
    else if wordAt b 1 ≠ 0 then abandonActivation .errTwin 0 s
    else setSchedule { a with confirmed := true } s

def execActconf (msg : List Byte) (s : State) : Host.Outcome State Fault Refusal :=
  .next (onMessage 0x04 msg actConfirmed s)

/-- Round a + 2 starts: a follower that has sent its confirmation sets ACT_SCHED (R117). -/
def settleConfirmation (s : State) : State :=
  match s.prog.sched with
  | some a => if a.sent ∧ a.roundA + 2 ≤ s.floe.round then setSchedule { a with confirmed := true, sent := false } s else s
  | none => s

/-- The confirmation has missed its deadline: both twins abandon. The leader tells the follower by a proposal with that result (DEDUCED,
log entry 67). -/
def execActConfirmTimeout (s : State) : Host.Outcome State Fault Refusal :=
  .next (whileRunning (fun s =>
    match s.prog.sched with
    | some a =>
      if a.confirmed then s
      else
        let s := if s.twin.ps = .paired ∧ s.isLeader then
            sendMsg 0x03 3 (actBody a.roundA Code.errTwin.value a.litCrc a.descCrc) s
          else s
        abandonActivation .errTwin 0 s
    | none => s) s)

/-! ### Firmware (R333) -/

def handleFwStage : Handler := fun p _ payload s =>
  let ws := bytesWords payload
  let first := tst (nth ws 0) 0
  let off := (nth ws 1).toNat
  let have' := if first then [] else s.fw.image
  let image := have' ++ payload.drop 8
  refuseAt [within ws 0 31 2 0 0] s
    (if off ≠ have'.length then (.error .errSeq have'.length off, s)
     else if !first ∧ (s.fw.snow ≠ .staging ∨ s.fw.owner ≠ p) then (.err .errState, s)
     else if 33554432 < image.length then (.range 1 31, s)
     else (.words [BitVec.ofNat 32 image.length], s.updFw fun f =>
       { f with snow := if tst (nth ws 0) 1 then .staged else .staging, image := image,
                owner := if first then p else f.owner }))

def execFwStage (p : Port) (tag : Half) (first last : Bool) (offset : Word) (data : List Byte) (s : State) :
    Host.Outcome State Fault Refusal :=
  .next (arrive handleFwStage p 0x0501 tag (chunkPayload (flag 1 last ||| flag 0 first) offset data) s)

def fwActivateDo (p : Port) (tag : Half) (ws : List Word) (s : State) : Reply × State :=
  if s.fw.snow ≠ .staged ∨ s.prog.sched.isSome ∨ s.reintegrating ∨ s.twin.join.isSome ∨ s.twin.split.isSome then
    (.err .errState, s)
  else executeLater 0x0502 .fwActivate p tag ws s

def handleFwActivate : Handler := armExecute 0x0502 fwActivateDo

def execFwActivateArm (p : Port) (tag : Half) (s : State) : Host.Outcome State Fault Refusal :=
  .next (arrive handleFwActivate p 0x0502 tag armPayload s)

def execFwActivateExecute (p : Port) (tag : Half) (token : Word) (s : State) : Host.Outcome State Fault Refusal :=
  .next (arrive handleFwActivate p 0x0502 tag (executePayload token) s)

end Sys2Proof.Machine
end

