-- ==== Sys2Proof/Machine/Frame.lean ====
section
/-!
DEFINITION. Floe frames (R192 to R200): header and trailer, the safety code, the checks that do not depend on history, and
building.
-/
namespace Sys2Proof.Machine

/-! ### Fields of a payload (R193, R194) -/

def frVer (p : List Byte) : Nat := fld (wordAt p 0) 31 28
def frType (p : List Byte) : Nat := fld (wordAt p 0) 27 24
def frSrc (p : List Byte) : Nat := fld (wordAt p 0) 23 12
def frKeySel (p : List Byte) : Bool := tst (wordAt p 0) 11
def frRsvd (p : List Byte) : Nat := fld (wordAt p 0) 10 0
def frId (p : List Byte) : Nat := fld (wordAt p 1) 31 16
def frDlen (p : List Byte) : Nat := fld (wordAt p 1) 15 0
def frNet (p : List Byte) : Word := wordAt p 2
def frTransit (p : List Byte) : Nat := (wordAt p 3).toNat
def frData (p : List Byte) : List Byte := slice p 16 (frDlen p)
def frSeq (p : List Byte) : Word := BitVec.ofNat 32 (beAt p (16 + frDlen p) 4)
def frStamp (p : List Byte) : Word := BitVec.ofNat 32 (beAt p (20 + frDlen p) 4)
def frCode (p : List Byte) : Dword := BitVec.ofNat 64 (beAt p (24 + frDlen p) 8)

/-- The frame holds its header, its data and its trailer. -/
def frWhole (p : List Byte) : Bool := decide (frDlen p + 32 ≤ p.length)

/-- The payload with TRANSIT_NS 0 (R343). -/
def zeroTransit (p : List Byte) : List Byte := p.take 12 ++ [0, 0, 0, 0] ++ p.drop 16

/-! ### Safety code (R197) -/

/-- M: header with TRANSIT_NS 0, data, SEQ, TSTAMP. -/
def codedBytes (p : List Byte) : List Byte := (zeroTransit p).take (24 + frDlen p)

/-- The key register of a slot. -/
def Keys.slot (k : Keys) (sel : Bool) : Option (BitVec 128) := if sel then k.reg1 else k.reg0

/-- SCODE of a payload; none where the keyed code is in use and the slot is empty. -/
def scodeOf (floe : List Word) (k : Keys) (p : List Byte) : Option Dword :=
  if floeKeyed floe then (k.slot (frKeySel p)).map fun key => keyedScode key (codedBytes p)
  else some (crc64 (codedBytes p))

/-! ### Checks (R200) -/

/-- VER, FTYPE, NET_ID, RSVD, DLEN, and the frame's length. -/
def frShape (floe : List Word) (ftype maxd : Nat) (p : List Byte) : Bool :=
  decide (16 ≤ p.length) && decide (frVer p = 1) && decide (frType p = ftype) && frNet p == floeNetId floe &&
    decide (frRsvd p = 0) && decide (frDlen p % 4 = 0 ∧ frDlen p ≤ 1440 ∧ frDlen p ≤ maxd) && frWhole p

/-- The first three checks of R200 with the OWNER that the frame must come from. -/
def frValid (floe : List Word) (k : Keys) (ftype maxd owner : Nat) (p : List Byte) : Bool :=
  frShape floe ftype maxd p && decide (frSrc p = owner) && scodeOf floe k p == some (frCode p)

/-- SEQ lies 1 to 65,535 ahead of the last received one; any SEQ where none has been received. -/
def seqAhead (last : Option Word) (seq : Word) : Bool :=
  match last with
  | some l => decide (1 ≤ (seq - l).toNat ∧ (seq - l).toNat ≤ 65535)
  | none => true

/-- age in µs of a stamp at an instant in ns (R200). -/
def frAge (now : Nat) (stamp : Word) : Int := (BitVec.ofNat 32 (now / 1000) - stamp).toInt

/-- Age from −2 µs to AGE_MAX_MS. -/
def ageOk (floe : List Word) (age : Int) : Bool := decide (-2 ≤ age ∧ age ≤ 1000 * (floeAgeMaxMs floe : Int))

/-! ### Building -/

/-- A frame without its code: header, data, SEQ, TSTAMP. -/
def rawFrame (floe : List Word) (ftype src : Nat) (keySel : Bool) (id : Nat) (data : List Byte) (seq stamp : Word) :
    List Byte :=
  wordsBytes [at32 28 1 ||| at32 24 ftype ||| at32 12 src ||| flag 11 (keySel && floeKeyed floe),
    at32 16 id ||| at32 0 data.length, floeNetId floe, 0] ++ data ++ wordsBytes [seq, stamp]

/-- A whole frame; none where the selected key slot is empty. -/
def buildFrame (floe : List Word) (k : Keys) (ftype src : Nat) (keySel : Bool) (id : Nat) (data : List Byte)
    (seq stamp : Word) : Option (List Byte) :=
  let raw := rawFrame floe ftype src keySel id data seq stamp
  (scodeOf floe k (raw ++ List.replicate 8 0)).map fun c => raw ++ dwordBytes c

/-- Macrotick count of an instant (R93). -/
def macrotick (ns : Nat) : Word := BitVec.ofNat 32 (ns / 1000)

end Sys2Proof.Machine
end

