-- ==== Sys2Proof/Machine/Slice.lean ====
section
/-!
DEFINITION. The input slice: its assembly at a release (R23, R169, R343), the latch into the image (R236, R248, R329), and the
controller status update (R237, R238, R241).
-/
namespace Sys2Proof.Machine

/-! ### Assembly (R343) -/

/-- Controllers of a task, in ascending NODE. -/
def Bank.taskOcs (b : Bank) (t : Nat) : List OcRec :=
  let cs := (b.ocs.map (·.2)).filter fun c => c.task == t
  (sortNats (cs.map OcRec.node)).filterMap fun n => cs.find? fun c => c.node == n

/-- T0, or the highest-priority enabled task if T0 is not enabled (R111, R177). -/
def leadTask (s : State) : Option Nat := (List.range 8).find? fun n => taskEn (s.task n).cfg

/-- The receive store of a DATA frame stands under its FRAME_ID from here on; below it stand the NODEs. -/
def dataKey (fid : Nat) : Nat := 0x10000 + fid

/-- FRAME_IDs that the module receives, ascending: DATA slots of other nodes with RX 1 in the mode in force. No table assigns them to a
task; they belong to the slice of the task of highest priority (DESIGN CHOICE, log entry 64). -/
def dataFids (t : Nat) (s : State) : List Nat :=
  if leadTask s = some t then
    sortNats ((s.slots.filter fun x => x.kind == .data && x.rx && x.owner != floeNode s.floe.live).map Slot.fid)
  else []

def pad8 (bs : List Byte) : List Byte := bs ++ List.replicate (roundUp 8 bs.length - bs.length) 0

/-- Entry of a receive buffer: key, lengths of PRIMARY and ALT, and the two payloads with TRANSIT_NS 0. -/
def bufferEntry (key : Nat) (b : Option RxBuf) : List Byte :=
  let prim := match b with
    | some x => zeroTransit x.primary
    | none => []
  let alt := match b.bind RxBuf.alt with
    | some x => zeroTransit x
    | none => []
  beBytes 4 key ++ beBytes 2 prim.length ++ beBytes 2 alt.length ++ pad8 prim ++ pad8 alt

/-- A word with a bit for each number below n. -/
def bitsOf (n : Nat) (f : Nat → Bool) : Nat := (List.range n).foldl (fun a i => a + bit (f i) * 2 ^ i) 0

def Io.input (i : Io) (n : Nat) : InSt := vget i.inputs (.fresh 32) n
def Io.out (i : Io) (k : Nat) : OutSt := vget i.outs .fresh k
def Io.rule (i : Io) (q : Nat) : RuleSt := vget i.rules (.fresh false) q

/-- An input is valid while its filtered class is ON or OFF (R252). -/
def InSt.valid (x : InSt) : Bool := decide (x.cls = .on ∨ x.cls = .off)

/-- The local inputs of a slice: filtered values, validity, quench ACTIVE, RB_ON. -/
def localWords (i : Io) : List Word :=
  [ BitVec.ofNat 32 (bitsOf 32 fun n => decide ((i.input n).cls = .on)),
    BitVec.ofNat 32 (bitsOf 32 fun n => (i.input n).valid), BitVec.ofNat 32 (bitsOf 16 fun q => (i.rule q).active),
    BitVec.ofNat 32 (bitsOf 16 fun k => (i.out k).rbOn) ]

/-- Bit k of the host-input half in force (R329, R343). -/
def hostBit (s : State) (k : Nat) : Bool :=
  tst (memWord s.xsram ((if s.hif.hinHalf then 0x38000 else 0x36000) + 4 * (k / 32))) (k % 32)

/-- Host inputs of a task: bit k in place k, the bits of other tasks 0. -/
def hostBytes (b : Bank) (t : Nat) (s : State) : List Byte :=
  wordsBytes ((List.range (2 * ceilDiv b.hinCount 64)).map fun w =>
    BitVec.ofNat 32 (bitsOf 32 fun i =>
      decide (32 * w + i < b.hinCount) && b.hinTask (32 * w + i) == t && hostBit s (32 * w + i)))

/-- The whole slice. -/
def assembleSlice (b : Bank) (t : Nat) (s : State) : List Byte :=
  dwordBytes (s.task t).prevInSig ++ dwordBytes (s.task t).prevEval ++
    (b.taskOcs t).flatMap (fun c => bufferEntry c.node (Tbl.find s.floe.rx c.node)) ++
    (dataFids t s).flatMap (fun i => bufferEntry i (Tbl.find s.floe.rx (dataKey i))) ++
    wordsBytes (localWords s.io) ++ hostBytes b t s

/-! ### Reading a slice back -/

/-- PRIMARY and ALT of a number of receive buffers, from the byte where their entries start; and the byte after them. -/
def readEntries : Nat → List Byte → Nat → List (List Byte × List Byte) × Nat
  | 0, _, off => ([], off)
  | k + 1, sl, off =>
    let n := beAt sl (off + 4) 2
    let m := beAt sl (off + 6) 2
    let a := off + 8 + roundUp 8 n
    let (rest, stop) := readEntries k sl (a + roundUp 8 m)
    ((slice sl (off + 8) n, slice sl a m) :: rest, stop)

/-! ### Controller status update (R234, R238) -/

/-- What the checks say of one entry: received, not new, absent, or the counter of the first check that fails. -/
inductive Verdict200 where
  | ok | notNew | absent | code | seq | age
  deriving DecidableEq, Repr

/-- MAX_DLEN of a controller's STATUS slot in the mode in use. -/
def statusMax (node : Nat) (s : State) : Nat :=
  ((s.slots.find? fun x => x.kind == .status && x.owner == node && x.rx).map Slot.maxd).getD 1440

/-- The checks of R200 and R234 on a controller's STATUS frame at a release instant. -/
def checkStatus (s : State) (c : OcRec) (st : OcStatus) (release : Nat) (p : List Byte) : Verdict200 :=
  if p.isEmpty then .absent
  else if !st.never && frWhole p && frSeq p == st.lastSeq then .notNew
  else if !frValid s.floe.live s.keys 3 (statusMax c.node s) c.node p then .code
  else if frDlen p ≠ 8 + c.inDlen ∨ fld (wordAt (frData p) 0) 31 28 = 0 ∨ 3 < fld (wordAt (frData p) 0) 31 28 then .code
  else if !seqAhead (if st.never then none else some st.lastSeq) (frSeq p) then .seq
  else if (s.floe.fstate = .sync ∨ s.floe.fstate = .passive) ∧ !ageOk s.floe.live (frAge release (frStamp p)) then .age
  else .ok

/-- Counts a failed check on a channel, or a received frame. -/
def countCheck (v : Verdict200) (ch : Chan) (s : State) : State :=
  let f (c : FloeChan) : FloeChan := match v with
    | .ok => { c with rxOk := satInc 0xFFFFFFFF c.rxOk }
    | .code => { c with rxScode := satInc 0xFFFF c.rxScode }
    | .seq => { c with rxSeq := satInc 0xFFFF c.rxSeq }
    | .age => { c with rxAge := satInc 0xFFFF c.rxAge }
    | _ => c
  s.updFloe fun x => match ch with
    | .a => { x with chA := f x.chA }
    | .b => { x with chB := f x.chB }

/-- Two valid frames with the same SEQ and different data (R201); recorded at most once per key in 1,000 rounds. -/
def duplicateMismatch (key : Nat) (ch : Chan) (p : List Byte) (s : State) : State :=
  let recent := match Tbl.find s.floe.dupRounds key with
    | some r => decide (s.floe.round < r + 1000)
    | none => false
  let s := s.updFloe fun f =>
    let g (c : FloeChan) : FloeChan := { c with dupMm := satInc 0xFFFF c.dupMm }
    let f := match ch with
      | .a => { f with chA := g f.chA }
      | .b => { f with chB := g f.chB }
    { f with dupFrame := BitVec.ofNat 16 (frId p) }
  if recent then s
  else record 0x0602 1 (match ch with | .a => 0x28 | .b => 0x29) (frId p) (frSeq p).toNat 0 0
    (s.updFloe fun f => { f with dupRounds := Tbl.put f.dupRounds key f.round })

/-- Writes the bits of a controller's frame, or SUBST of each object, to the input booleans (R236, R238). -/
def writeInputs (b : Bank) (c : OcRec) (value : ObjRec → TypeRec → Nat → Bool) (m : Mem) : Mem :=
  (b.objsOf c).foldl
    (fun m o =>
      let ty := b.typ o.2.type
      (List.range ty.inBits).foldl (fun m i => bitWrite m 0 (o.2.inVar + i) (value o.2 ty i)) m) m

/-- Bit position p of section or input data (R236). -/
def dataBit (d : List Byte) (p : Nat) : Bool := tst (d.getD (p / 8) 0) (p % 8)

/-- What the checks make of the two entries of a buffer: of PRIMARY, and where it fails of ALT; counted on the channel of each. Where both
pass, PRIMARY is taken and the mismatch counted (R200, R201). -/
def checkBuffer (key : Nat) (check : List Byte → Verdict200) (prim alt : List Byte) (s : State) : Verdict200 × Verdict200 × State :=
  let buf := Tbl.find s.floe.rx key
  let ach := (buf.map RxBuf.altCh).getD .a
  let v := check prim
  let v2 := if v = .notNew then .absent else check alt
  let s := countCheck v ((buf.map RxBuf.prCh).getD .a) s
  let s := if v = .ok ∨ v = .notNew ∨ v2 = .absent then s else countCheck v2 ach s
  (v, v2, if v = .ok ∧ v2 = .ok then duplicateMismatch key ach alt s else s)

/-- The frame of the slice whose bits are in force: the one received now, or the one received earlier that still stands, PRIMARY or ALT
as it was then. -/
def frameInForce (st : OcStatus) (prim alt : List Byte) (v : Verdict200) (v2 : Verdict200) : Option (List Byte) :=
  if v = .ok then some prim
  else if v2 = .ok then some alt
  else if v = .notNew then some (if st.fromAlt then alt else prim)
  else none

/-! ### DATA frames (R200, R201) -/

/-- The checks of R200 on a DATA frame of a FRAME_ID: its source owns a DATA slot of that FRAME_ID in the mode in force. -/
def checkData (s : State) (fid release : Nat) (p : List Byte) : Verdict200 :=
  let last := Tbl.find s.floe.seqHist (dataKey fid)
  if p.isEmpty then .absent
  else if frWhole p && last == some (frSeq p) then .notNew
  else if !(s.slots.any fun x => x.kind == .data && x.fid == fid && frValid s.floe.live s.keys 4 x.maxd x.owner p) then .code
  else if !seqAhead last (frSeq p) then .seq
  else if (s.floe.fstate = .sync ∨ s.floe.fstate = .passive) ∧ !ageOk s.floe.live (frAge release (frStamp p)) then .age
  else .ok

/-- One receive buffer of DATA frames at a latch; the module has no use for the data. -/
def updateData (release : Nat) (e : Nat × List Byte × List Byte) (s : State) : State :=
  let (v, v2, t) := checkBuffer (dataKey e.1) (checkData s e.1 release) e.2.1 e.2.2 s
  let got := if v = .ok then some e.2.1 else if v2 = .ok then some e.2.2 else none
  match got with
  | some p => t.updFloe fun f => { f with seqHist := Tbl.put f.seqHist (dataKey e.1) (frSeq p) }
  | none => t

/-! ### Controllers (R238, R241) -/

/-- Block of the pair runtime record that holds the status record of a NODE: 85 records of 12 bytes in a quarter, from block 1 on
(DESIGN CHOICE, log entry 46). -/
def statusBlock (node : Nat) : Nat := 1 + node / 85 / 4

/-- The steps of R238 for one controller; the records of R241. -/
def updateController (b : Bank) (release r : Nat) (e : OcRec × List Byte × List Byte) (s : State) : State :=
  let (c, prim, alt) := e
  let old := Tbl.getD s.tasks.oc c.node .fresh
  let (v, v2, s) := checkBuffer c.node (checkStatus s c old release) prim alt s
  let f := frameInForce old prim alt v v2
  let l : Int := 1000 * roundMs s.floe.live
  let new : OcStatus := if v = .ok ∨ v2 = .ok then
      let p := f.getD []
      { old with lastOk := r - ((frAge release (frStamp p) + l - 1) / l).toNat, lastSeq := frSeq p,
                 ocState := BitVec.ofNat 4 (fld (wordAt (frData p) 0) 31 28), never := false, fromAlt := decide (v ≠ .ok) }
    else old
  let missed := if new.never then c.lossK else r - 1 - new.lastOk
  let lost := decide (c.lossK ≤ missed)
  let valid := !lost && decide (new.ocState = 2)
  let loss := if old.valid ∧ !valid then satInc 0xFFFF old.lossCnt else old.lossCnt
  let new := { new with lost := lost, valid := valid, lossCnt := loss }
  let s := s.updTasks fun t => { t with oc := Tbl.put t.oc c.node new }
  let m := bitWrite s.mem 0 c.validVar valid
  let m := if !valid then writeInputs b c (fun _ ty i => decide (ty.subst / 2 ^ i % 2 = 1)) m
    else match f with
      | some p => writeInputs b c (fun o _ i => dataBit ((frData p).drop 8) (o.inPos + i)) m
      | none => m
  let s := writeImage [] m s
  if old.valid ∧ !valid then record 0x0701 1 0xFFF c.node new.lastOk r new.ocState.toNat s
  else if !old.valid ∧ valid then record 0x0702 1 0xFFF c.node r loss 0 s
  else s

/-! ### Local and host inputs (R248, R329) -/

/-- One entry of the local I/O map written from the local words of a slice. -/
def latchEntry (b : Bank) (t : Nat) (ws : List Word) (e : Nat) (m : Mem) : Mem :=
  let (w0, w1) := b.lio e
  if !tst w0 31 ∨ fld w0 30 28 ≠ t then m
  else
    let var := fld w0 22 0
    let aux := fld w1 22 0
    if e < 32 then
      let valid := tst (nth ws 1) e
      let m := bitWrite m 0 var (if valid then tst (nth ws 0) e else tst w0 27)
      if tst w1 31 then bitWrite m 0 aux valid else m
    else if e < 48 then (if tst w1 31 then bitWrite m 0 aux (tst (nth ws 3) (e - 32)) else m)
    else bitWrite m 0 var (tst (nth ws 2) (e - 48))

def latchLocal (b : Bank) (t : Nat) (ws : List Word) (m : Mem) : Mem :=
  (List.range 64).foldl (fun m e => latchEntry b t ws e m) m

/-- Host inputs of the task from the bytes of a slice. -/
def latchHost (b : Bank) (t : Nat) (bytes : List Byte) (m : Mem) : Mem :=
  (List.range b.hinCount).foldl
    (fun m k => if b.hinTask k = t then bitWrite m 0 (b.hinVar k) (tst (wordAt bytes (k / 32)) (k % 32)) else m) m

/-- The latch of a cycle from its agreed slice: controllers, DATA frames, local inputs, host inputs (R23 to R25, R238). -/
def latchSlice (b : Bank) (t : Nat) (c : Cycle) (s : State) : State :=
  let ocs := b.taskOcs t
  let fids := c.dataIds
  let (es, off) := readEntries ocs.length c.slice 16
  let (ds, off) := readEntries fids.length c.slice off
  let s := (ocs.zip es).foldl (fun s e => updateController b c.release.toNat c.relRound e s) s
  let s := (fids.zip ds).foldl (fun s e => updateData c.release.toNat e s) s
  let ws := bytesWords (slice c.slice off 16)
  writeImage [] (latchHost b t (c.slice.drop (off + 16)) (latchLocal b t ws s.mem))
    (touchBlocks (0 :: ocs.map fun o => statusBlock o.node) s)

end Sys2Proof.Machine
end

