-- ==== Sys2Proof/Machine/Agree.lean ====
section
/-!
DEFINITION. The twin pair at work: input agreement (R165, R169 to R171), comparison of outputs and signatures (R172, R175, R180)
and the pair states that follow from them (R167).
-/
namespace Sys2Proof.Machine

/-! ### Shared -/

/-- The follower leaves the pair: outputs suppressed, cause noted, class 1 or 2 (R167). -/
def goSilent (cause cls : Nat) (s : State) : State :=
  raiseOpen 0x31 cls none (setPState .silent (s.updTwin fun t => { t with silentCause := BitVec.ofNat 8 cause }))

/-- Leader-lost confirmation (R171): the accepted beacon reports the leader missing or names this twin, or the leader's HELLO
shows RECOVERY, SAFE or a pair state other than PAIRED. -/
def leaderLost (s : State) : Bool :=
  let leader := s.partnerId
  (leader == 1 && s.twin.missA) || (leader == 2 && s.twin.missB) || s.twin.leaderSeen.toNat == s.twinId ||
    match s.twin.peer with
    | some p => decide (fld p.health 31 28 = 5 ∨ fld p.health 31 28 = 6 ∨ fld p.health 27 25 ≠ 2)
    | none => false

/-- The module's outputs are suppressed (R166). -/
def suppressed (s : State) : Bool :=
  match s.twin.ps with
  | .single | .paired => false
  | .alone => !s.isLeader
  | _ => true

def State.run (s : State) (t : Nat) : Option Cycle := (s.task t).run

def updRun (t : Nat) (f : Cycle → Cycle) (s : State) : State := s.updTask t fun x => { x with run := x.run.map f }

/-! ### Input agreement (R170, R171) -/

/-- INSIG body (R159). -/
def insigBody (leader : Bool) (t round : Nat) (sig : Dword) : List Byte :=
  wordsBytes [flag 31 leader ||| at32 0 t, BitVec.ofNat 32 round] ++ dwordBytes sig

/-- The whole slice as INSLICE messages of up to 1,024 bytes, in ascending OFFSET. -/
def sendSlice (t round : Nat) (sl : List Byte) (s : State) : State :=
  (List.range (ceilDiv sl.length 1024)).foldl
    (fun s k =>
      sendMsg 0x11 4 (wordsBytes [at32 0 t, BitVec.ofNat 32 round, BitVec.ofNat 32 (1024 * k),
        BitVec.ofNat 32 sl.length] ++ (sl.drop (1024 * k)).take 1024) s) s

def countAdopt (s : State) : State := s.updTwin fun t => { t with adopt := satInc 0xFFFFFFFF t.adopt }

/-- Both input signatures are known to a PAIRED twin (R165, R170). -/
def resolveAgreement (t : Nat) (s : State) : State :=
  match s.run t with
  | none => s
  | some c => match c.inSig, c.peerSig with
    | some own, some (role, peer) =>
      let agree (s : State) : State := updRun t (fun c => { c with agreed := true }) s
      if role = c.role then
        if s.twinId = 2 then goSilent 4 1 (agree s) else agree s
      else if c.role then
        let s := agree s
        if own = peer then s else countAdopt (sendSlice t c.relRound c.slice s)
      else if own = peer then agree s
      else s
    | _, _ => s

/-- Both signatures of a release are looked at in PAIRED; a SHADOW twin compares them when it compares the cycle (R180). -/
def meetSignatures (t : Nat) (s : State) : State := if s.twin.ps = .paired then resolveAgreement t s else s

/-- The wait for agreement ends without it: the cycle is unagreed and its own slice is evaluated. -/
def endWait (t : Nat) (s : State) : State := updRun t (fun c => { c with unagreed := true }) s

/-- Leader-lost confirmation ends the waits of a follower at once (R171). -/
def endWaits (s : State) : State :=
  if s.twin.ps = .paired ∧ !s.isLeader ∧ leaderLost s then
    (List.range 8).foldl (fun s t => match s.run t with
      | some c => if c.inSig.isSome && !c.agreed && !c.unagreed then endWait t s else s
      | none => s) s
  else s

/-- The slice has been copied and folded: the input signature is voted, sent with the ROLE of this instant, and without a partner in the pair the agreement is
complete (R24, R25). -/
def execSliceCopyComplete (t : TaskId) (s : State) : Host.Outcome State Fault Refusal :=
  .next (whileRunning (fun s =>
    match s.run t.val with
    | none => s
    | some c =>
      if c.inSig.isSome then s
      else if voteLost 1 s then takeLost 1 s
      else
        let head := windowBytes 1 t.val (BitVec.ofNat 32 (c.relRound - s.tasks.origin))
        let sig := finishSig (crc64Fold (crc64Fold crc64Init head) c.slice)
        let s := updRun t.val (fun c => { c with inSig := some sig, role := s.isLeader, agreed := decide (s.twin.ps ≠ .paired) }) s
        let s := if sendsComparison s then sendMsg 0x10 2 (insigBody s.isLeader t.val c.relRound sig) s else s
        endWaits (meetSignatures t.val s)) s)

/-- The partner's INSIG for the cycle in progress. -/
def insigTaken (b : List Byte) (s : State) : State :=
  let t := fld (wordAt b 0) 2 0
  match s.run t with
  | none => s
  | some c =>
    if c.relRound ≠ (wordAt b 1).toNat ∨ c.peerSig.isSome then s
    else meetSignatures t (updRun t (fun c => { c with peerSig := some (tst (wordAt b 0) 31, dwordAt b 2) }) s)

def execInsig (msg : List Byte) (s : State) : Host.Outcome State Fault Refusal :=
  .next (onMessage 0x10 msg insigTaken s)

/-- The follower has the leader's whole slice: it folds it again and compares. -/
def adoptSlice (t : Nat) (c : Cycle) (bytes : List Byte) (s : State) : State :=
  let head := windowBytes 1 t (BitVec.ofNat 32 (c.relRound - s.tasks.origin))
  let sig := finishSig (crc64Fold (crc64Fold crc64Init head) bytes)
  let s := updRun t (fun c => { c with slice := bytes, inSig := some sig, agreed := true }) s
  if c.peerSig.map (·.2) = some sig then countAdopt s else goSilent 2 1 s

/-- Slice data of the leader for a cycle whose signatures differ. -/
def insliceTaken (b : List Byte) (s : State) : State :=
  let t := fld (wordAt b 0) 2 0
  match s.run t with
  | none => s
  | some c =>
    let off := (wordAt b 2).toNat
    if s.twin.ps ≠ .paired ∨ s.isLeader ∨ c.agreed ∨ c.unagreed ∨ c.relRound ≠ (wordAt b 1).toNat ∨
        off ≠ c.adopted.length then s
    else
      let got := c.adopted ++ b.drop 16
      if (wordAt b 3).toNat ≤ got.length then adoptSlice t c (got.take (wordAt b 3).toNat) s
      else updRun t (fun c => { c with adopted := got }) s

def execInslice (msg : List Byte) (s : State) : Host.Outcome State Fault Refusal :=
  .next (onMessage 0x11 msg insliceTaken s)

/-- AGREE_TO_US has expired. -/
def execAgreeTimeout (t : TaskId) (s : State) : Host.Outcome State Fault Refusal :=
  .next (whileRunning (fun s =>
    match s.run t.val with
    | none => s
    | some c =>
      if s.twin.ps ≠ .paired ∨ c.inSig.isNone ∨ c.agreed ∨ c.unagreed then s
      else if s.isLeader then
        updRun t.val (fun c => { c with agreed := true })
          (s.updTwin fun x => { x with agreeMiss := satInc 0xFFFFFFFF x.agreeMiss })
      else
        let s := endWait t.val s
        if leaderLost s then s else goSilent 2 1 s) s)

/-! ### Comparison (R172, R175, R180) -/

/-- A divergence in the pair enters the divergence history of both twins: the leader records it at class 0; the follower becomes SILENT, or at the second within 60
minutes REMOVED (R167, R175). -/
def divergence (what round : Nat) (own peer : Dword) (s : State) : State :=
  let s := s.updTwin fun t => { t with cmpMismatch := satInc 0xFFFFFFFF t.cmpMismatch }
  let rec' (sev : Nat) : State → State := record 0x0501 sev 0x31 what round (own.toNat % 2 ^ 32) (peer.toNat % 2 ^ 32)
  let again := s.twin.hasDiv && withinHour s.tb.ms s.twin.lastDivMs
  let s := s.updTwin fun t => { t with hasDiv := true, lastDivMs := s.tb.ms }
  if s.isLeader then raiseOpen 0x31 0 none (rec' 0 s)
  else
    let s := rec' 2 (s.updTwin fun t => { t with silentCause := 1 })
    if again then raiseOpen 0x31 3 (some 0x0201) (setPState .removed s) else goSilent 1 2 s

def rotl1 (x : Dword) : Dword := x.rotateLeft 1

/-- DATA of the KIND 0xB record of a task end (R175). -/
def comparisonData (own : Nat × Bool × Dword × Dword × Word) (peer : Nat × Bool × Dword × Dword) : Dword :=
  if own.2.1 ≠ peer.2.1 then BitVec.allOnes 64
  else (own.2.2.1 ^^^ peer.2.2.1) ^^^ rotl1 (own.2.2.2.1 ^^^ peer.2.2.2)

/-- A SHADOW twin counts a compared cycle; the first that differs in each task is recorded (R180). -/
def shadowCycle (t : Nat) (own : Nat × Bool × Dword × Dword × Word) (peer : Nat × Bool × Dword × Dword) (s : State) :
    State :=
  let differs := own.2.2.1 != peer.2.2.1 || own.2.2.2.1 != peer.2.2.2
  let x := s.task t
  let inDiff := match x.cmpIn with
    | some (a, b) => a != b
    | none => false
  let s := s.updTwin fun x =>
    { x with shCycles := satInc 0xFFFFFFFF x.shCycles,
             shIn := if inDiff then satInc 0xFFFFFFFF x.shIn else x.shIn,
             shOut := if differs then satInc 0xFFFFFFFF x.shOut else x.shOut }
  if differs ∧ !(s.task t).shadowDiff then
    record 0x0503 1 0x31 t own.1 (own.2.2.1.toNat % 2 ^ 32) (peer.2.2.1.toNat % 2 ^ 32)
      (s.updTask t fun x => { x with shadowDiff := true })
  else s

/-- The own and the partner's task-end comparison of one cycle meet. -/
def compareCycle (t : Nat) (s : State) : State :=
  match (s.task t).ownCmp, (s.task t).peerCmp with
  | some own, some peer =>
    if own.1 ≠ peer.1 then s
    else
      let s := s.updTask t fun x => { x with ownCmp := none, peerCmp := none }
      match s.twin.ps with
      | .paired =>
        if comparisonData own peer = 0 then s
        else if own.2.2.1 ≠ peer.2.2.1 then divergence t own.1 own.2.2.1 peer.2.2.1 s
        else divergence t own.1 own.2.2.2.1 peer.2.2.2 s
      | .shadow => shadowCycle t own peer s
      | _ => s
  | _, _ => s

/-- The partner's task-end comparison. -/
def twcmpTaken (b : List Byte) (s : State) : State :=
  let t := fld (wordAt b 0) 2 0
  compareCycle t (s.updTask t fun x =>
    { x with peerCmp := some ((wordAt b 1).toNat, tst (wordAt b 0) 31, dwordAt b 2, dwordAt b 4) })

def execTwcmp (msg : List Byte) (s : State) : Host.Outcome State Fault Refusal :=
  .next (onMessage 0x12 msg twcmpTaken s)

/-- The own and the partner's scan or remap signature of one window meet. -/
def compareWindow (s : State) : State :=
  match s.twin.ownSt, s.twin.peerSt with
  | some (k, w, r, own), some (k', w', r', peer) =>
    if k ≠ k' ∨ w ≠ w' ∨ r ≠ r' then s
    else
      let s := s.updTwin fun t => { t with ownSt := none, peerSt := none }
      if s.twin.ps = .paired ∧ own ≠ peer then divergence (k.toNat * 256 + w.toNat) r.toNat own peer s else s
  | _, _ => s

def stsigTaken (b : List Byte) (s : State) : State :=
  compareWindow (s.updTwin fun t =>
    { t with peerSt := some (BitVec.ofNat 8 (fld (wordAt b 0) 31 24), BitVec.ofNat 8 (fld (wordAt b 0) 23 16), wordAt b 1,
                             dwordAt b 2) })

def execStsig (msg : List Byte) (s : State) : Host.Outcome State Fault Refusal :=
  .next (onMessage 0x13 msg stsigTaken s)

/-- The partner's comparison has not come by the task's next release (R175). -/
def comparisonTimeout (t : Nat) (s : State) : State :=
  let missing := (s.task t).ownCmp.isSome
  let s := s.updTask t fun x => { x with ownCmp := none, peerCmp := none }
  if s.twin.ps ≠ .paired ∨ !missing then s
  else if s.isLeader then s.updTwin fun x => { x with cmpMiss := satInc 0xFFFFFFFF x.cmpMiss }
  else if leaderLost s then s
  else goSilent 3 1 s

end Sys2Proof.Machine
end

