-- ==== Sys2Proof/Machine/Can.lean ====
section
/-!
DEFINITION. The CAN channels (R366 to R385): the configuration record and its rules, message buffers, the three commands,
frames, errors, bus-off and collisions, and the status block.
-/
namespace Sys2Proof.Machine

/-! ### The record (R367 to R370): word i of the record and of the filters -/

def canW (c : CanSt) (i : Nat) : Word := nth c.cfg i
def canEn (c : CanSt) : Bool := tst (canW c 0) 31
def canFd (c : CanSt) : Bool := tst (canW c 0) 30
def canBrs (c : CanSt) : Bool := tst (canW c 0) 29
def canMode (c : CanSt) : Nat := fld (canW c 0) 28 27
def canSleeps (c : CanSt) : Bool := tst (canW c 0) 24
def canHoldMs (c : CanSt) : Nat := fld (canW c 0) 15 0
def canTdc (c : CanSt) : Bool := tst (canW c 3) 31

/-- DIR, IDE and ID, and MASK of buffer b. -/
def canDir (c : CanSt) (b : Nat) : Nat := fld (canW c (8 + 2 * b)) 31 30
def canFilterIde (c : CanSt) (b : Nat) : Bool := tst (canW c (8 + 2 * b)) 29
def canFilterId (c : CanSt) (b : Nat) : Nat := fld (canW c (8 + 2 * b)) 28 0
def canMask (c : CanSt) (b : Nat) : Nat := fld (canW c (9 + 2 * b)) 28 0

/-- Bit times in ns (R370), from payload words 2 and 3 of CAN.CFG. -/
def nominalNs (ws : List Word) : Nat := 8 * fld (nth ws 2) 31 23 * (1 + fld (nth ws 2) 22 14 + fld (nth ws 2) 13 6)
def dataNs (ws : List Word) : Nat := 8 * fld (nth ws 3) 23 18 * (1 + fld (nth ws 3) 17 12 + fld (nth ws 3) 11 7)

/-- The checks of a filter entry (R368): a transmit buffer's ID and MASK are RSVD. -/
def filterChecks (ws : List Word) (b : Nat) : List FieldCheck :=
  let f := nth ws (9 + 2 * b)
  let dir := fld f 31 30
  [ (9 + 2 * b, 31, decide (dir ≠ 3)), (9 + 2 * b, 28, decide (dir ≠ 2 ∨ fld f 28 0 = 0)), within ws (10 + 2 * b) 31 29 0 0,
    (10 + 2 * b, 28, decide (dir ≠ 2 ∨ fld (nth ws (10 + 2 * b)) 28 0 = 0)) ]

/-- The checks of CAN.CFG in the order of its fields (R369). -/
def canChecks (ws : List Word) : List FieldCheck :=
  let w0 := nth ws 1
  let fd := tst w0 30
  [ within ws 0 31 1 0 0, (1, 29, !tst w0 29 || fd), within ws 1 28 27 0 2,
    (1, 26, !tst w0 26 || decide (8000 ≤ nominalNs ws ∧ 8 ≤ fld (nth ws 2) 31 23)), (1, 23, !tst w0 23 || tst w0 24),
    within ws 1 22 16 0 0, within ws 1 15 0 0 10000,
    (2, 31, decide (1 ≤ fld (nth ws 2) 31 23 ∧ fld (nth ws 2) 31 23 ≤ 256 ∧ 1000 ≤ nominalNs ws ∧ nominalNs ws ≤ 100000)),
    within ws 2 22 14 2 256, within ws 2 13 6 2 128, within ws 2 5 0 0 0, within ws 3 31 24 1 (fld (nth ws 2) 13 6),
    (3, 23, decide (1 ≤ fld (nth ws 3) 23 18 ∧ fld (nth ws 3) 23 18 ≤ 32) &&
      (!fd || decide (200 ≤ dataNs ws ∧ dataNs ws ≤ nominalNs ws))),
    within ws 3 17 12 1 32, within ws 3 11 7 1 16, within ws 3 6 2 1 (fld (nth ws 3) 11 7), within ws 3 1 0 0 0,
    (4, 31, !tst (nth ws 4) 31 || fd), within ws 4 23 0 0 0, within ws 5 30 29 0 0, within ws 6 31 29 0 0,
    within ws 7 31 0 0 0, within ws 8 31 0 0 0 ] ++ (List.range 64).flatMap (filterChecks ws)

/-! ### Channels -/

def canOf (n : Nat) : CanCh := if n = 0 then .can1 else .can2
def canNum : CanCh → Nat
  | .can1 => 0
  | .can2 => 1
def canSource (ch : CanCh) : Nat := 0x38 + canNum ch

/-- The channel may take part in the bus in this state of the module (R382). -/
def canState (s : State) : Bool := s.runs && decide (s.eff = .startup ∨ s.eff = .service ∨ s.eff = .test ∨ s.eff = .recovery)

/-- The channel takes part in the bus: configured, not stopped, integrated, not in bus-off; or it completes the frame in progress
(R382). -/
def canUp (ch : CanCh) (s : State) : Bool := onBus (s.can ch) && (canState s || (s.can ch).wait.isSome)

/-- Error-active or error-passive by the counters (ISO 11898-1). -/
def confine (c : CanSt) : CanSt :=
  if c.st = .active ∨ c.st = .passive then { c with st := if 128 ≤ c.tec ∨ 128 ≤ c.recv then .passive else .active } else c

/-! ### Buffers (R374) -/

def bufAddr (ch : CanCh) (b : Nat) : Nat := canBase ch + 80 * b

def bufWord (ch : CanCh) (b i : Nat) (s : State) : Word := memWord s.xsram (bufAddr ch b + 4 * i)

def setBufWord (ch : CanCh) (b i : Nat) (w : Word) (s : State) : State :=
  s.updXsram fun x => memWriteWord x (bufAddr ch b + 4 * i) w

/-- W0 with its flags changed: bits cleared, then bits set. -/
def markBuf (ch : CanCh) (b : Nat) (clear set : Word) (s : State) : State :=
  setBufWord ch b 0 ((bufWord ch b 0 s &&& ~~~clear) ||| set) s

def bNew : Word := 0x80000000
def bOvr : Word := 0x40000000
def bLock : Word := 0x20000000
def bSusp : Word := 0x10000000
def bTxreq : Word := 0x08000000
def bTxok : Word := 0x04000000
def bColl : Word := 0x00F80000

def bufHas (ch : CanCh) (b : Nat) (f : Word) (s : State) : Bool := bufWord ch b 0 s &&& f != 0

def bufColl (ch : CanCh) (b : Nat) (s : State) : Nat := fld (bufWord ch b 0 s) 23 19

/-- W1, W2, W3 and the data, unused bytes 0. -/
def fillBuf (ch : CanCh) (b : Nat) (w1 w2 w3 : Word) (data : List Byte) (s : State) : State :=
  s.updXsram fun x => memWriteBytes x (bufAddr ch b + 4) (wordsBytes [w1, w2, w3] ++ slice data 0 64)

/-! ### Transmit order (R377) -/

/-- Identifier order as arbitration gives it; a standard identifier stands before an extended one with the same base. -/
def orderKey (w1 : Word) : Nat := fld w1 28 18 * 2 ^ 19 + bit (tst w1 31) * 2 ^ 18 + fld w1 17 0

def pendingBufs (ch : CanCh) (s : State) : List Nat := (List.range 64).filter fun b => bufHas ch b bTxreq s

/-- The pending buffer that is sent next. -/
def nextBuf (ch : CanCh) (s : State) : Option Nat :=
  (pendingBufs ch s).foldl (fun o b => match o with
    | none => some b
    | some a => some (if orderKey (bufWord ch b 1 s) < orderKey (bufWord ch a 1 s) then b else a)) none

/-- Takes the next buffer to the bus where none is there and the channel sends. -/
def loadBus (ch : CanCh) (s : State) : State :=
  if !canUp ch s || (s.can ch).cur.isSome || (s.can ch).wait.isSome || canMode (s.can ch) == 1 then s
  else s.updCan ch fun c => { c with cur := nextBuf ch s }

/-- An attempt on the bus has ended. -/
def endAttempt (ch : CanCh) (s : State) : State := loadBus ch (s.updCan ch fun c => { c with cur := none })

/-- A buffer whose frame may be the one on the bus: the one taken to it, or the one that comes first now. -/
def mayBeSent (ch : CanCh) (b : Nat) (s : State) : Bool :=
  bufHas ch b bTxreq s && ((s.can ch).cur == some b || (s.can ch).wait.isNone && nextBuf ch s == some b)

def oneShotBit (b : Nat) : Dword := 1#64 <<< b

/-- A failed attempt is retried, unless the frame was sent with ONE_SHOT or withdrawn (R377, R385). -/
def retry (ch : CanCh) (b : Nat) (s : State) : State :=
  endAttempt ch (if (s.can ch).oneShot &&& oneShotBit b != 0 then markBuf ch b bTxreq 0 s else s)

/-! ### CAN.CFG (R367) -/

/-- The record is loaded: the channel stops, its buffers, TEC and REC are cleared, and it integrates again. -/
def loadCan (ch : CanCh) (rec : List Word) (s : State) : State :=
  (s.updCan ch fun c => { c with cfg := rec, st := .stopped, integrating := tst (nth rec 0) 31, tec := 0, recv := 0,
                                 oneShot := 0, cur := none, wait := none }).updXsram (canBuffers (canBase ch) rec)

/-- The frame in progress has ended: what waits for it takes place (R367, R382). -/
def frameDone (ch : CanCh) (s : State) : State :=
  match (s.can ch).wait with
  | some (.load r) => loadCan ch r s
  | some .stop => haltCan ch s
  | none => s

/-- CAN.CFG: ERR_STATE before ERR_RANGE (R369); a frame in progress completes first (R385). A record that already waits is
replaced. -/
def handleCanCfg : Handler := fun _ _ payload s =>
  let ws := bytesWords payload
  let ch := canOf (fld (nth ws 0) 0 0)
  let w := ws.drop 1
  if fld (nth ws 1) 28 27 = 2 ∧ s.mstate ≠ .test then (.err .errState, s)
  else refuseAt (canChecks ws) s
    (.done, if (s.can ch).wait.isSome then s.updCan ch fun c => { c with wait := some (.load w) }
      else afterFrame ch (.load w) (loadCan ch w) s)

def execCanCfg (p : Port) (tag : Half) (ch : CanCh) (record : List Word) (s : State) : Host.Outcome State Fault Refusal :=
  .next (arrive handleCanCfg p 0x0D01 tag (wordsBytes (at32 0 (canNum ch) :: record)) s)

/-! ### CAN.SEND (R379, R383) -/

/-- EN 0, stopped (CSTATE, R384), or listen only. -/
def canRefuses (ch : CanCh) (s : State) : Bool :=
  let c := s.can ch
  !canEn c || decide (c.st = .stopped) || decide (canMode c = 1)

/-- The field checks of CAN.SEND: every word for an ABORT and for a mere RESUME, and the frame's own rules for a send. W1 to W3 and
the data of an ABORT are 0, so that it withdraws the request of buffer 0 (R383). -/
def sendChecks (c : CanSt) (abort sends : Bool) (ws : List Word) (data : List Byte) : List FieldCheck :=
  let w2 := nth ws 2
  let w3 := nth ws 3
  [ within ws 0 31 9 0 0, within ws 0 4 0 0 0, within ws 1 31 6 0 0,
    (1, 5, !abort || decide (nth ws 1 = 0)),
    (1, 5, !sends || decide (canDir c (fld (nth ws 1) 5 0) = 2)), (2, 31, !abort || decide (w2 = 0)),
    (2, 30, !sends || !(tst w2 30 && tst w3 31)), within ws 2 29 29 0 0, (3, 31, !abort || decide (w3 = 0)),
    (3, 31, !sends || !tst w3 31 || canFd c), (3, 30, !sends || !tst w3 30 || canBrs c), within ws 3 29 29 0 0,
    within ws 3 28 4 0 0, (4, 31, !abort || data.all (· == 0)) ]

/-- ABORT: the request is withdrawn; a frame on the bus is not tried again (R385). Whether the frame that may be on the bus is
there is a free value (DESIGN CHOICE, log entry 4). -/
def abortBuf (ch : CanCh) (b : Nat) (s : State) : State :=
  if !bufHas ch b bTxreq s then s
  else
    let (v, s) := drawFree s
    if (s.can ch).cur = some b ∧ canUp ch s ∧ v.getLsbD 0 then
      s.updCan ch fun c => { c with oneShot := c.oneShot ||| oneShotBit b }
    else
      let s := markBuf ch b bTxreq 0 s
      if (s.can ch).cur = some b then endAttempt ch s else s

/-- A send: the frame into the buffer, TXREQ set. -/
def requestBuf (ch : CanCh) (b : Nat) (once : Bool) (w2 w3 : Word) (data : List Byte) (s : State) : State :=
  let s := fillBuf ch b w2 w3 (bufWord ch b 3 s) data s
  let s := markBuf ch b bTxok bTxreq s
  loadBus ch (s.updCan ch fun c =>
    { c with oneShot := if once then c.oneShot ||| oneShotBit b else c.oneShot &&& ~~~oneShotBit b })

def bufReply (ch : CanCh) (b : Nat) (s : State) : Reply × State := (.words [bufWord ch b 0 s], s)

def handleCanSend : Handler := fun _ _ payload s =>
  let ws := (List.range 4).map (wordAt payload)
  let data := payload.drop 16
  let w0 := nth ws 0
  let ch := canOf (fld w0 8 8)
  let b := fld (nth ws 1) 5 0
  let resume := tst w0 6
  let mere := resume && nth ws 2 == 0 && nth ws 3 == 0 && data.isEmpty
  let sends := !tst w0 7 && !mere
  refuseAt (sendChecks (s.can ch) (tst w0 7) sends ws data) s
    (if canRefuses ch s then (.err .errState, s)
     else if sends && !resume && (bufHas ch b bTxreq s || bufHas ch b bSusp s) then (.err .errState, s)
     else
       let s := if resume then markBuf ch b (bSusp ||| bColl) 0 s else s
       bufReply ch b (if tst w0 7 then abortBuf ch b s
         else if sends then requestBuf ch b (tst w0 5) (nth ws 2) (nth ws 3) data s else s))

def sendPayload (ch : CanCh) (buf : BitVec 6) (abort resume oneShot : Bool) (w2 w3 : Word) (data : List Byte) : List Byte :=
  wordsBytes [at32 8 (canNum ch) ||| flag 7 abort ||| flag 6 resume ||| flag 5 oneShot, at32 0 buf.toNat, w2, w3] ++ data

def execCanSend (p : Port) (tag : Half) (ch : CanCh) (buf : BitVec 6) (resume oneShot : Bool) (w2 w3 : Word)
    (data : List Byte) (s : State) : Host.Outcome State Fault Refusal :=
  .next (arrive handleCanSend p 0x0D02 tag (sendPayload ch buf false resume oneShot w2 w3 data) s)

def execCanSendAbort (p : Port) (tag : Half) (ch : CanCh) (buf : BitVec 6) (s : State) : Host.Outcome State Fault Refusal :=
  .next (arrive handleCanSend p 0x0D02 tag (sendPayload ch buf true false false 0 0 []) s)

def execCanSendResume (p : Port) (tag : Half) (ch : CanCh) (buf : BitVec 6) (s : State) : Host.Outcome State Fault Refusal :=
  .next (arrive handleCanSend p 0x0D02 tag (sendPayload ch buf false true false 0 0 []) s)

/-! ### CAN.READ (R376, R383) -/

/-- The buffers a read returns. -/
def readBufs (ch : CanCh) (first count : Nat) (newOnly : Bool) (s : State) : List Nat :=
  ((List.range count).map (first + ·)).filter fun b => !newOnly || (canDir (s.can ch) b == 1 && bufHas ch b bNew s)

/-- A buffer as read: its lock is held while it is read. -/
def bufBytes (ch : CanCh) (b : Nat) (s : State) : List Byte :=
  wordBytes (bufWord ch b 0 s ||| bLock) ++ memBytes s.xsram (bufAddr ch b + 4) 76

/-- Release of a receive buffer's lock clears NEW and OVR. -/
def releaseBuf (ch : CanCh) (s : State) (b : Nat) : State :=
  if canDir (s.can ch) b = 1 then markBuf ch b (bNew ||| bOvr ||| bLock) 0 s else s

/-- The last of the buffers read keeps its lock where a lane was excluded before it had read word 19 (R376, R385). -/
def holdLock (ch : CanCh) (bs : List Nat) (s : State) : State :=
  match bs.getLast? with
  | some b => markBuf ch b 0 bLock s
  | none => s

/-- CAN.READ. With `cutOff` a lane was excluded while the last buffer was being read: its lock stands until the timeout of R376. -/
def handleCanRead (cutOff : Bool) : Handler := fun _ _ payload s =>
  let ws := bytesWords payload
  let ch := canOf (fld (nth ws 0) 0 0)
  let first := fld (nth ws 1) 15 8
  let count := fld (nth ws 1) 7 0
  refuseAt [within ws 0 31 1 0 0, within ws 1 31 16 0 0, (1, 15, decide (first ≤ 63 ∧ first + count ≤ 64)), within ws 1 7 0 1 50,
      within ws 2 31 1 0 0] s
    (if canRefuses ch s then (.err .errState, s)
     else
       let bs := readBufs ch first count (tst (nth ws 2) 0) s
       ({ code := .ok, payload := wordsBytes [s.tb.canTs, BitVec.ofNat 32 bs.length] ++ bs.flatMap fun b => bufBytes ch b s },
        if cutOff then holdLock ch bs (bs.dropLast.foldl (releaseBuf ch) s) else bs.foldl (releaseBuf ch) s))

def execCanRead (p : Port) (tag : Half) (ch : CanCh) (first count : Byte) (newOnly : Bool) (s : State)
    (cutOff : Bool := false) : Host.Outcome State Fault Refusal :=
  .next (arrive (handleCanRead cutOff) p 0x0D03 tag
    (wordsBytes [at32 0 (canNum ch), at32 8 first.toNat ||| at32 0 count.toNat, flag 0 newOnly]) s)

/-- A read lock held for 100 µs is released and counted. -/
def execCanLockTimeout (ch : CanCh) (buf : Fin 64) (s : State) : Host.Outcome State Fault Refusal :=
  .next (if !canState s || !bufHas ch buf.val bLock s then s
    else markBuf ch buf.val bLock 0 (s.updCan ch fun c => { c with lockTo := satInc 0xFFFF c.lockTo }))

/-! ### Reception (R375) -/

/-- W1 and W2 of a frame. -/
def frameW1 (f : CanFrame) : Word := flag 31 f.ide ||| flag 30 f.rtr ||| at32 0 (if f.ide then f.id.toNat else f.id.toNat * 2 ^ 18)
def frameW2 (f : CanFrame) : Word := flag 31 f.fdf ||| flag 30 f.brs ||| flag 29 f.esi ||| at32 0 f.dlc.toNat

/-- A receive buffer matches a frame (R368). -/
def filterMatches (c : CanSt) (w1 : Word) (b : Nat) : Bool :=
  canDir c b == 1 && canFilterIde c b == tst w1 31 && ((fld w1 28 0) &&& canMask c b == (canFilterId c b) &&& canMask c b)

def storeIn (ch : CanCh) (b : Nat) (ovr : Bool) (w1 w2 sof : Word) (data : List Byte) (s : State) : State :=
  let s := fillBuf ch b w1 w2 sof data s
  (markBuf ch b 0 (bNew ||| if ovr then bOvr else 0) s).updCan ch fun c => { c with rxOk := satInc 0xFFFFFFFF c.rxOk }

/-- A frame goes to the lowest free eligible buffer, else to the lowest eligible one with OVR, else it is lost. -/
def storeFrame (ch : CanCh) (w1 w2 sof : Word) (data : List Byte) (s : State) : State :=
  let hits := (List.range 64).filter (filterMatches (s.can ch) w1)
  let eligible := hits.filter fun b => !bufHas ch b bLock s
  match eligible.find? fun b => !bufHas ch b bNew s with
  | some b => storeIn ch b false w1 w2 sof data s
  | none => match eligible with
    | b :: _ => storeIn ch b true w1 w2 sof data s
    | [] => match hits with
      | b :: _ => markBuf ch b 0 bOvr (s.updCan ch fun c => { c with rxLost := satInc 0xFFFF c.rxLost })
      | [] => s

/-- REC after a frame received without error (ISO 11898-1): one less; from error-passive a value of 119 to 127, which is free. -/
def receivedWell (ch : CanCh) (s : State) : State :=
  if 128 ≤ (s.can ch).recv then
    let (v, s) := drawFree s
    s.updCan ch fun c => confine { c with recv := 119 + v.toNat % 9 }
  else s.updCan ch fun c => confine { c with recv := c.recv - 1 }

def execCanFrameReceive (ch : CanCh) (frame : CanFrame) (sof : Word) (s : State) : Host.Outcome State Fault Refusal :=
  .next (if !canUp ch s || (frame.fdf && !canFd (s.can ch)) then s
    else frameDone ch (storeFrame ch (frameW1 frame) (frameW2 frame) sof frame.data (receivedWell ch s)))

/-! ### Transmission (R371, R377, R379) -/

/-- A frame is sent and acknowledged; in loopback it is received as well. -/
def sentBuf (ch : CanCh) (b : Nat) (sof delay : Word) (s : State) : State :=
  let c := s.can ch
  let w1 := bufWord ch b 1 s
  let w2 := bufWord ch b 2 s
  let s := setBufWord ch b 3 sof (markBuf ch b (bTxreq ||| bColl) bTxok s)
  let s := s.updCan ch fun c =>
    confine { c with txOk := satInc 0xFFFFFFFF c.txOk, tec := c.tec - 1, oneShot := c.oneShot &&& ~~~oneShotBit b,
                     tdcMeas := if canTdc c && tst w2 31 then delay else c.tdcMeas }
  let s := if canMode c = 2 then
      storeFrame ch w1 w2 sof ((memBytes s.xsram (bufAddr ch b + 16) 64).take (frameBytes (tst w1 30) (tst w2 31) (fld w2 3 0))) s
    else s
  endAttempt ch s

def execCanTxComplete (ch : CanCh) (buf : Fin 64) (sof loopDelayNs : Word) (s : State) : Host.Outcome State Fault Refusal :=
  .next (if canUp ch s && canMode (s.can ch) != 1 && mayBeSent ch buf.val s then
      frameDone ch (sentBuf ch buf.val sof loopDelayNs s)
    else s)

/-- A transmitter's error adds 8 to TEC, 256 at most. -/
def addTec (ch : CanCh) (s : State) : State := s.updCan ch fun c => confine { c with tec := min 256 (c.tec + 8) }

/-- Entry into bus-off: recorded, source raised once, and the wait of BO_HOLD_MS (R379). -/
def enterBusOff (ch : CanCh) (s : State) : State :=
  let c := s.can ch
  let s := s.updCan ch fun c =>
    { c with st := if canHoldMs c = 0 then .busOff else .busOffHold, busOffCnt := satInc 0xFFFF c.busOffCnt, cur := none }
  raiseOpen (canSource ch) 1 none (record 0x0B01 1 (canSource ch) c.tec c.recv 0 0 s)

/-- The channel enters bus-off once TEC has passed 255. -/
def execCanBusOff (ch : CanCh) (s : State) : Host.Outcome State Fault Refusal :=
  .next (if canUp ch s && decide (256 ≤ (s.can ch).tec) then enterBusOff ch s else s)

def execCanBoHoldExpiry (ch : CanCh) (s : State) : Host.Outcome State Fault Refusal :=
  .next (if canState s && decide ((s.can ch).st = .busOffHold) then s.updCan ch fun c => { c with st := .busOff } else s)

/-- 128 occurrences of 11 recessive bits end bus-off: error-active with both counters 0; requests were kept. -/
def execCanBusOffRecovery (ch : CanCh) (s : State) : Host.Outcome State Fault Refusal :=
  .next (if canState s && decide ((s.can ch).st = .busOff) then
      loadBus ch (s.updCan ch fun c => { c with st := .active, tec := 0, recv := 0 })
    else s)

/-- The identifier a record names. -/
def idOf (w1 : Word) : Nat := if tst w1 31 then fld w1 28 0 else fld w1 28 18

/-- The sixteenth collision suspends the buffer. -/
def suspendBuf (ch : CanCh) (b : Nat) (s : State) : State :=
  let s := markBuf ch b bTxreq bSusp s
  let s := s.updCan ch fun c => { c with collSusp := satInc 0xFFFF c.collSusp }
  raiseOpen (canSource ch) 1 none (record 0x0B02 1 (canSource ch) (idOf (bufWord ch b 1 s)) b 0 0 s)

/-- A collision: COLL and TEC count, the sixteenth in succession suspends the buffer. -/
def collide (ch : CanCh) (b : Nat) (s : State) : State :=
  let n := min 16 (bufColl ch b s + 1)
  let s := addTec ch (markBuf ch b bColl (at32 19 n) (s.updCan ch fun c => { c with lec := 4 }))
  if n < 16 then retry ch b s
  else
    let s := if 256 ≤ (s.can ch).tec then enterBusOff ch s else s
    endAttempt ch (suspendBuf ch b s)

def execCanCollision (ch : CanCh) (buf : Fin 64) (s : State) : Host.Outcome State Fault Refusal :=
  .next (if canUp ch s && canMode (s.can ch) != 1 && mayBeSent ch buf.val s then frameDone ch (collide ch buf.val s) else s)

/-- LEC of an error (R384). -/
def errorCode : CanError → BitVec 3
  | .stuff => 1 | .form => 2 | .ack => 3 | .bit1 => 4 | .bit0 => 5 | .crc => 6 | .arbitration => 0

/-- TEC counts at a transmitter's error, but for a missing ACK met in error-passive without a dominant bit in the passive error flag,
and for a stuff error in the arbitration field (ISO 11898-1). -/
def tecCounts (err : CanError) (phase : CanPhase) (c : CanSt) : Bool :=
  !(decide (err = .ack ∧ phase = .frame ∧ c.st = .passive) || decide (err = .stuff ∧ phase = .arbitrationStuff))

/-- An error of a transmitter. One met in the frame ends the attempt; one met in a flag or after it adds to the same attempt. -/
def transmitError (ch : CanCh) (err : CanError) (phase : CanPhase) (b : Nat) (s : State) : State :=
  if err = .arbitration then retry ch b s
  else
    let s := s.updCan ch fun c => { c with lec := errorCode err }
    let s := if tecCounts err phase (s.can ch) then addTec ch s else s
    if phase = .inFlag ∨ phase = .afterFlag ∨ phase = .passiveFlag then s else frameDone ch (retry ch b s)

/-- What a receiver's error adds to REC: 8 in an active error flag or overload flag and after it, else 1 (ISO 11898-1). -/
def recStep (phase : CanPhase) : Nat := if phase = .inFlag ∨ phase = .afterFlag then 8 else 1

/-- An error of a receiver: REC counts to 128. -/
def receiveError (ch : CanCh) (err : CanError) (phase : CanPhase) (s : State) : State :=
  if err = .arbitration then s
  else
    let s := s.updCan ch fun c => confine { c with lec := errorCode err, recv := min 128 (c.recv + recStep phase) }
    if phase = .inFlag ∨ phase = .afterFlag then s else frameDone ch s

/-- A CAN error. An error in or after a flag follows one that has ended the transmitter's attempt. -/
def execCanBusError (ch : CanCh) (err : CanError) (transmitting : Bool) (buf : Fin 64) (s : State)
    (phase : CanPhase := .frame) : Host.Outcome State Fault Refusal :=
  .next (if !canUp ch s then s
    else if !transmitting then receiveError ch err phase s
    else if canMode (s.can ch) != 1 && (phase == .inFlag || phase == .afterFlag || mayBeSent ch buf.val s) then
      transmitError ch err phase buf.val s
    else s)

/-- A recessive FDF bit with FD_EN 0: counted, and the channel integrates again (R373). -/
def execCanProtocolException (ch : CanCh) (s : State) : Host.Outcome State Fault Refusal :=
  .next (if canUp ch s && !canFd (s.can ch) then
      frameDone ch (s.updCan ch fun c => { c with protExc := satInc 0xFFFF c.protExc, integrating := true, cur := none })
    else s)

/-- 11 recessive bits have passed: the channel takes part in the bus; loopback only in TEST. -/
def execCanIntegration (ch : CanCh) (s : State) : Host.Outcome State Fault Refusal :=
  let c := s.can ch
  .next (if canState s && canEn c && c.integrating && !c.halted && !(decide (canMode c = 2) && decide (s.eff ≠ .test)) then
      loadBus ch (s.updCan ch fun c =>
        confine { c with integrating := false, st := if c.st = .stopped then .active else c.st })
    else s)

/-- What a sleeping transceiver sees wakes it: the wake-up pattern with WAKE_FRAME 0; with WAKE_FRAME 1 a classical frame of the format
WIDE whose identifier matches WID under WMASK, at a nominal rate of 125 kbit/s or above (R381). -/
def wakesOn (c : CanSt) (frame : Option CanFrame) : Bool :=
  match frame with
  | none => !tst (canW c 0) 23
  | some f =>
    tst (canW c 0) 23 && !f.fdf && f.ide == tst (canW c 4) 31 && decide (nominalNs (0 :: c.cfg) ≤ 8000) &&
      (fld (frameW1 f) 28 0 &&& fld (canW c 5) 28 0) == (fld (canW c 4) 28 0 &&& fld (canW c 5) 28 0)

/-- A sleeping transceiver meets the wake-up pattern (none) or a frame, and raises its wake request (R357, R381). -/
def execCanWake (ch : CanCh) (s : State) (frame : Option CanFrame := none) : Host.Outcome State Fault Refusal :=
  .next (if s.mstate = .dormant ∧ (s.can ch).st = .sleep ∧ wakesOn (s.can ch) frame then
      s.updPower fun p => { p with wakeReq := true }
    else s)

/-! ### Status (R384) -/

def CState.code : CState → Nat
  | .stopped => 0 | .active => 1 | .passive => 2 | .busOff => 3 | .busOffHold => 4 | .sleep => 5

def suspMap (ch : CanCh) (s : State) : Dword :=
  BitVec.ofNat 64 ((List.range 64).foldl (fun a b => a + bit (bufHas ch b bSusp s) * 2 ^ b) 0)

def canWords (ch : CanCh) (s : State) : List Word :=
  let c := s.can ch
  [ at32 29 c.st.code ||| at32 26 c.lec.toNat ||| at32 17 c.tec ||| at32 8 c.recv, BitVec.ofNat 32 c.rxOk,
    BitVec.ofNat 32 c.txOk, at32 16 c.rxLost ||| at32 0 c.lockTo, at32 16 c.busOffCnt ||| at32 0 c.collSusp,
    at32 16 c.protExc, hiWord (suspMap ch s), loWord (suspMap ch s), s.tb.canTs, hiWord s.tb.tb.ns, loWord s.tb.tb.ns,
    c.tdcMeas, 0, 0, 0, 0 ]

end Sys2Proof.Machine
end

