-- ==== Sys2Proof/Machine/CmdRecorder.lean ====
section
/-!
DEFINITION. The commands of fault collection and the Ice Core (R285 to R288, R296 to R298) and the lock-out reset (R276, R335).
-/
namespace Sys2Proof.Machine

/-! ### FCU.READ (R286) -/

/-- A source entry: E0, E1. -/
def fcuEntry (x : FcuSource) : List Word :=
  [ at32 30 x.rail.toNat ||| flag 29 x.force.isSome ||| flag 28 (decide (x.rail ≠ 1)) ||| at32 24 x.unack.toNat |||
      at32 21 x.lastClass ||| flag 20 x.lastBroken ||| flag 19 x.lastEsc ||| at32 0 x.count,
    x.lastSeq ]

/-- Highest final class among the sources with ACTIVE 1. -/
def maxActive (c : Fcu) : Nat := c.sources.foldl (fun m e => if e.2.rail ≠ 1 then max m e.2.lastClass else m) 0

/-- The summary S0 to S3. -/
def fcuSummary (c : Fcu) : List Word :=
  [ at32 28 (unackClasses c) ||| at32 25 (maxActive c) ||| flag 24 (c.sources.any fun e => e.2.force.isSome),
    BitVec.ofNat 32 c.faults, BitVec.ofNat 32 c.escalations, BitVec.ofNat 32 c.broken ]

def fcuEntries (s : State) (first count : Nat) : List Word :=
  (List.range count).flatMap fun i => fcuEntry (s.fcuSource (first + i))

def handleFcuRead : Handler := fun _ _ payload s =>
  let ws := bytesWords payload
  let first := fld (nth ws 0) 7 0
  let count := fld (nth ws 0) 24 16
  checked ws [rsvd 0 31 25, ⟨0, 24, 16, 1, 256⟩, rsvd 0 15 8] s
    (if 256 < first + count then (.range 0 7, s) else (.words (fcuSummary s.fcu ++ fcuEntries s first count), s))

def execFcuRead (p : Port) (tag : Half) (first : Byte) (count : BitVec 9) (s : State) :
    Host.Outcome State Fault Refusal :=
  .next (arrive handleFcuRead p 0x0801 tag (wordsBytes [at32 16 count.toNat ||| at32 0 first.toNat]) s)

/-! ### FCU.ACK (R285) -/

def handleFcuAck : Handler := fun p _ payload s =>
  let ws := bytesWords payload
  let all := tst (nth ws 0) 31
  let src := fld (nth ws 0) 7 0
  checked ws [rsvd 0 30 8, ⟨0, 7, 0, 0, if all then 0 else 255⟩] s
    (let hit (e : Nat × FcuSource) : Bool := (all || e.1 == src) && e.2.unack != 0
     let n := (s.fcu.sources.filter hit).length
     let t := s.updFcu fun c =>
       { c with sources := c.sources.map fun e => if hit e then (e.1, { e.2 with unack := 0 }) else e }
     (.words [BitVec.ofNat 32 n], record 0x0103 0 (portSrc p) (if all then 0x100 else src) n 0 0 t))

def execFcuAck (p : Port) (tag : Half) (all : Bool) (source : Byte) (s : State) : Host.Outcome State Fault Refusal :=
  .next (arrive handleFcuAck p 0x0802 tag (wordsBytes [flag 31 all ||| at32 0 source.toNat]) s)

/-! ### FCU.FORCE (R288) -/

/-- The rail pattern of PATTERN, rail 1 in bit 1. -/
def forcePattern (n : Nat) : Option (BitVec 2) :=
  match n with
  | 0 => none
  | 1 => some 2
  | 2 => some 0
  | _ => some 3

/-- Sets or releases the force bit of a source; the pattern the FCU uses follows. -/
def forceSource (src fclass pattern : Nat) (s : State) : State :=
  let ms := activeMs src s
  patternChange src fclass true 0 none ms
    (s.updSource src fun x => { x with force := (forcePattern pattern).map fun q => (q, BitVec.ofNat 3 fclass) })

def handleFcuForce : Handler := fun p _ payload s =>
  let ws := bytesWords payload
  let src := fld (nth ws 0) 7 0
  let fclass := fld (nth ws 0) 14 12
  let pattern := fld (nth ws 0) 9 8
  checked ws [rsvd 0 31 15, ⟨0, 14, 12, 0, 4⟩, rsvd 0 11 10] s
    (if !sourceListed src then (.range 0 7, s)
     else (.done, forceSource src fclass pattern (record 0x0104 2 (portSrc p) src pattern fclass 0 s)))

def execFcuForce (p : Port) (tag : Half) (fclass : BitVec 3) (pattern : BitVec 2) (source : Byte) (s : State) :
    Host.Outcome State Fault Refusal :=
  .next (arrive handleFcuForce p 0x0803 tag
    (wordsBytes [at32 12 fclass.toNat ||| at32 8 pattern.toNat ||| at32 0 source.toNat]) s)

/-! ### Cursors (R296, R297) -/

/-- A record as its 32 bytes (R290). -/
def IceRec.words (r : IceRec) : List Word :=
  [r.seq, hiWord r.time, loWord r.time, at32 16 r.code.toNat ||| at32 12 r.sev ||| at32 0 r.src, r.p0, r.p1, r.p2, r.p3]

def Ice.storeOf (i : Ice) (nand : Bool) : List IceRec := if nand then i.ring else i.store

/-- The frontier of a store (R297). -/
def Ice.frontier (i : Ice) (nand : Bool) : Word :=
  if nand then match i.nandQueue with
    | (r, _) :: _ => r.seq
    | [] => i.nextSeq
  else i.nextSeq

/-- a lies at or after b modulo 2^32 (R291). -/
def seqFrom (b a : Word) : Bool := decide ((a - b).toNat < 2 ^ 31)

/-- SEQ values from a to b − 1 that are absent from a store. -/
def gapsIn (store : List IceRec) (a b : Word) : Nat :=
  if seqFrom a b then
    (b - a).toNat - (store.filter fun r => decide ((r.seq - a).toNat < (b - a).toNat)).length
  else 0

/-- The window header H0 to H7. -/
def windowHeader (i : Ice) (c : Cursor) (ret gaps : Nat) (next : Word) : List Word :=
  let st := i.storeOf c.nand
  [ c.pos, (st.head?.map IceRec.seq).getD 0, (st.getLast?.map IceRec.seq).getD 0,
    BitVec.ofNat 32 (if c.nand then i.ndrops else i.drops),
    at32 24 ret ||| at32 20 c.minSev ||| flag 19 c.nand ||| flag 18 st.isEmpty, BitVec.ofNat 32 gaps, next, 0 ]

/-- The window of a read of `count` records: header, records, NEXT_CURSOR. -/
def iceWindow (i : Ice) (c : Cursor) (count : Nat) : List Word × Word :=
  if count = 0 then (windowHeader i c 0 0 c.pos, c.pos)
  else
    let st := i.storeOf c.nand
    let got := (st.filter fun r => seqFrom c.pos r.seq && decide (c.minSev ≤ r.sev)).take count
    let next := if got.length = count then (got.getLast?.map fun r => r.seq + 1).getD c.pos else i.frontier c.nand
    (windowHeader i c got.length (gapsIn st c.pos next) next ++ got.flatMap IceRec.words, next)

def Ice.cursor (i : Ice) : Port → Option Cursor
  | .host => i.hostCur
  | .maint => i.maintCur

def Ice.setCursor (i : Ice) (p : Port) (c : Cursor) : Ice :=
  match p with
  | .host => { i with hostCur := some c }
  | .maint => { i with maintCur := some c }

def handleIceOpen : Handler := fun p _ payload s =>
  let ws := bytesWords payload
  let nand := tst (nth ws 0) 2
  let fr := fld (nth ws 0) 1 0
  checked ws [rsvd 0 31 8, ⟨0, 7, 4, 0, 4⟩, rsvd 0 3 3, ⟨0, 1, 0, 0, 2⟩] s
    (let pos := if fr = 2 then nth ws 1
       else if fr = 0 then ((s.ice.storeOf nand).head?.map IceRec.seq).getD (s.ice.frontier nand)
       else s.ice.frontier nand
     let c : Cursor := { pos := pos, nand := nand, minSev := fld (nth ws 0) 7 4 }
     (.words (iceWindow s.ice c 0).1, s.updIce fun i => i.setCursor p c))

def execIceOpen (p : Port) (tag : Half) (minSev : BitVec 4) (nand : Bool) (origin : BitVec 2) (startSeq : Word)
    (s : State) : Host.Outcome State Fault Refusal :=
  .next (arrive handleIceOpen p 0x0701 tag
    (wordsBytes [at32 4 minSev.toNat ||| flag 2 nand ||| at32 0 origin.toNat, startSeq]) s)

/-- The SRAM store without the records whose words fail ECC in this read (R298). -/
def Ice.readable (failed : List Word) (i : Ice) : Ice := { i with store := i.store.filter fun r => !failed.contains r.seq }

/-- A window in which a record failed ECC raises source 0x40 (R298). -/
def windowEcc (failed : List Word) (c : Cursor) (s : State) : State :=
  if !c.nand && s.ice.store.any (fun r => failed.contains r.seq) then raiseOpen 0x40 1 none s else s

def readWindow (failed : List Word) : Handler := fun p _ payload s =>
  let ws := bytesWords payload
  checked ws [rsvd 0 31 8, ⟨0, 7, 0, 0, 120⟩] s
    (match s.ice.cursor p with
     | none => (.err .errState, s)
     | some c =>
       let (out, next) := iceWindow (s.ice.readable failed) c (fld (nth ws 0) 7 0)
       (.words out, windowEcc failed c (s.updIce fun i => i.setCursor p { c with pos := next })))

def handleIceRead : Handler := readWindow []

def execIceRead (p : Port) (tag : Half) (count : Byte) (eccFailed : List Word) (s : State) :
    Host.Outcome State Fault Refusal :=
  .next (arrive (readWindow eccFailed) p 0x0702 tag (wordsBytes [at32 0 count.toNat]) s)

/-! ### Lock-out reset (R276, R335) -/

/-- The word that a LOCK.ARM token is bound to. -/
def lockWord (kind index : Byte) : Word := at32 8 kind.toNat ||| at32 0 index.toNat

def handleLockArm : Handler := fun p _ payload s =>
  let ws := bytesWords payload
  let kind := fld (nth ws 0) 15 8
  let index := fld (nth ws 0) 7 0
  checked ws [rsvd 0 31 16, ⟨0, 15, 8, 1, 5⟩] s
    (if lockStands kind index s then
       let (t, s) := armToken p 0x0901 [nth ws 0] s
       (.words [t, 0], s)
     else (.err .errNolock, s))

def execLockArm (p : Port) (tag : Half) (kind index : Byte) (s : State) : Host.Outcome State Fault Refusal :=
  .next (arrive handleLockArm p 0x0901 tag (wordsBytes [lockWord kind index]) s)

/-- The 1 ms counter at which the arm response of LOCK.ARM was queued. -/
def lockArmMs (p : Port) (s : State) : Nat :=
  (((s.port p).tokens.find? fun t => t.opcode == 0x0901).map Token.ms).getD 0

/-- A finished press of the acknowledge input that began after the arm and held a valid ON for 0.5 to 3.0 s. -/
def validPress (armMs : Nat) (s : State) : Option (Bool × Bool) :=
  if !tst (nth s.io.live 0) 31 then none
  else match s.io.ack.done with
    | some (start, stop, g1, g2) =>
      if armMs < start ∧ start + 500 ≤ stop ∧ stop ≤ start + 3000 then some (g1, g2) else none
    | none => none

/-- The cause of a lock-out is gone (the table of R276). -/
def causeGone (l : LockRec) (g1 g2 : Bool) (s : State) : Bool :=
  let i := l.index.toNat
  match l.kind.toNat with
  | 1 => decide ((s.fcuSource l.source.toNat).rail = 1) &&
      s.fcu.sources.all fun e => decide (e.2.rail = 1 ∨ e.2.lastClass ≠ 4)
  | 2 => if i = 1 then g1 && s.io.fs1.st == .ok else g2 && s.io.fs2.st == .ok
  | 3 => true
  | 4 => s.twin.linkOk
  | _ => if i = 0 then s.floe.chA.linkUp else s.floe.chB.linkUp

def findLock (kind index : Nat) (s : State) : Option LockRec :=
  s.fram.locks.find? fun l => l.kind.toNat == kind && l.index.toNat == index

/-- The record is cleared, the press used up and the cold restart queued behind the response (R318). -/
def clearLock (p : Port) (l : LockRec) (s : State) : State :=
  let s := spendToken p 0x0901 s
  let s := writeFramBlocks [56] (fun f => { f with locks := f.locks.erase l }) s
  let s := s.updIo fun i => { i with ack := { i.ack with done := none } }
  actAfter p .lockReset (record 0x0204 3 (portSrc p) l.kind.toNat l.index.toNat l.cause.toNat 0 s)

def handleLockReset : Handler := fun p _ payload s =>
  let ws := bytesWords payload
  checked ws [rsvd 0 31 16] s (match findLock (fld (nth ws 0) 15 8) (fld (nth ws 0) 7 0) s with
    | none => (.err .errNolock, s)
    | some l => match validPress (lockArmMs p s) s with
      | none => (.err .errAck, s)
      | some (g1, g2) => if causeGone l g1 g2 s then (.done, clearLock p l s) else (.err .errCause, s))

def execLockReset (p : Port) (tag : Half) (kind index : Byte) (token : Word) (s : State) :
    Host.Outcome State Fault Refusal :=
  .next (arrive handleLockReset p 0x0902 tag (wordsBytes [lockWord kind index, token]) s)

end Sys2Proof.Machine
end

