-- ==== Sys2Proof/Machine/Image.lean ====
section
/-!
DEFINITION. Reading the image and writing host inputs (R327 to R329, R343).
-/
namespace Sys2Proof.Machine

/-! ### IMG.READ (R327, R328) -/

/-- The image SRAM ends here for a reader: the lane working area above is never returned (R36). -/
def imageEnd : Nat := 0x780000

/-- The refusals of IMG.READ: ADDR and LENGTH multiples of 4, LENGTH 4 to 4,080, nothing above the image. -/
def imgFault (ws : List Word) : Option Reply :=
  match firstBad ws [rsvd 0 31 3, rsvd 1 1 0, ⟨1, 31, 0, 0, imageEnd⟩, rsvd 2 1 0, ⟨2, 31, 0, 4, 4080⟩] with
  | some r => some (.range r.word 31)
  | none => if imageEnd < (nth ws 1).toNat + (nth ws 2).toNat then some (.range 1 31) else none

/-- IMG.READ answers PENDING; outside SERVICE its copy is taken at once (R328). -/
def handleImgRead : Handler := fun p tag payload s =>
  let ws := bytesWords payload
  match imgFault ws with
  | some r => (r, s)
  | none =>
    let w : ImgWait := { port := p, tag := tag, task := fld (nth ws 0) 2 0, addr := (nth ws 1).toNat,
                         length := (nth ws 2).toNat }
    let s := pendStart p 0x0601 tag s
    (.pend, if s.inService then s.updHif fun h => { h with imgs := h.imgs ++ [w] } else finishImage true 0 w s)

def execImgRead (p : Port) (tag : Half) (task : BitVec 3) (addr length : Word) (s : State) :
    Host.Outcome State Fault Refusal :=
  .next (arrive handleImgRead p 0x0601 tag (wordsBytes [at32 0 task.toNat, addr, length]) s)

/-! ### HIN.WRITE (R329, R343) -/

/-- HIN_COUNT of the active bank; 0 where no bank is active. -/
def hinBits (s : State) : Nat := (s.prog.active.map Bank.hinCount).getD 0

def hinBase (half : Bool) : Nat := if half then 0x38000 else 0x36000

/-- Bits at and above HIN_COUNT keep what they held. -/
def hinWord (count first : Nat) (old new : Word) : Word :=
  let n := count - first
  if 32 ≤ n then new
  else
    let mask := BitVec.ofNat 32 (2 ^ n - 1)
    (new &&& mask) ||| (old &&& ~~~mask)

/-- The half not in force takes a copy of the half in force, then the data, and comes into force. -/
def hinStore (count first : Nat) (ws : List Word) (s : State) : State :=
  let cur := hinBase s.hif.hinHalf
  let new := hinBase (!s.hif.hinHalf)
  let x := memWriteBytes s.xsram new (memBytes s.xsram cur 0x2000)
  let x := ((List.range ws.length).zip ws).foldl (fun x e =>
    let a := new + 4 * (first / 32 + e.1)
    memWriteWord x a (hinWord count (first + 32 * e.1) (memWord x a) e.2)) x
  (s.updXsram fun _ => x).updHif fun h => { h with hinHalf := !h.hinHalf }

def hinFault (ws : List Word) (s : State) : Option Reply :=
  match firstBad ws [rsvd 0 4 0, rsvd 1 4 0, ⟨1, 31, 0, 32, 32704⟩] with
  | some r => some (.range r.word 31)
  | none => if roundUp 32 (hinBits s) < (nth ws 0).toNat + (nth ws 1).toNat then some (.range 0 31) else none

def handleHinWrite : Handler := fun _ _ payload s =>
  let ws := bytesWords payload
  match hinFault ws s with
  | some r => (r, s)
  | none => (.done, hinStore (hinBits s) (nth ws 0).toNat (ws.drop 2) s)

def execHinWrite (p : Port) (tag : Half) (first count : Word) (data : List Byte) (s : State) :
    Host.Outcome State Fault Refusal :=
  .next (arrive handleHinWrite p 0x0602 tag (wordsBytes [first, count] ++ data) s)

end Sys2Proof.Machine
end

