-- ==== Sys2Proof/Machine/Fabric.lean ====
section
/-!
DEFINITION. The exchange fabric (R340 to R365): the arbiter and its record, clock-domain crossings, online test steps, and
the check-value unit.
-/
namespace Sys2Proof.Machine

/-- CD6 runs: not in OFF, DORMANT or FROZEN, nor in a device held in reset (R357, R388, R405). -/
def fabricRuns (s : State) : Bool := s.runs

/-! ### Arbiter record (R346, R347) -/

/-- The fields of requester i: RANK at least AGE_TOP. -/
def requesterRules (ws : List Word) (i : Nat) : List FieldRule :=
  [rsvd (2 + i) 31 14, ⟨2 + i, 10, 8, 0, fld (nth ws (2 + i)) 13 11⟩, rsvd (2 + i) 7 6]

def arbRules (ws : List Word) : List FieldRule :=
  [rsvd 0 31 4, rsvd 1 31 16, ⟨1, 15, 0, 1, 65535⟩] ++ (List.range 12).flatMap (requesterRules ws)

/-- ARB.CFG: the record is written and the live registers are loaded; the next decision uses them (R350). -/
def handleArbCfg : Handler := fun _ _ payload s =>
  let ws := bytesWords payload
  checked ws (arbRules ws) s (.done, s.updFabric fun f => { f with arbRec := ws, arbLive := ws })

def execArbCfg (p : Port) (tag : Half) (record : List Word) (s : State) : Host.Outcome State Fault Refusal :=
  .next (arrive handleArbCfg p 0x0C01 tag (wordsBytes record) s)

/-! ### Counters (R351) -/

def counterWords (f : Fabric) : List Word :=
  f.reqs.toList.flatMap fun r => [BitVec.ofNat 32 r.grants, BitVec.ofNat 32 r.waitTotal, BitVec.ofNat 32 r.waitMax]

def clearCounters (f : Fabric) : Fabric :=
  { f with decisions := 0, reqs := f.reqs.map fun r => { r with grants := 0, waitTotal := 0, waitMax := 0 } }

def handleArbCounters : Handler := fun _ _ payload s =>
  let ws := bytesWords payload
  checked ws [rsvd 0 31 1] s
    (.words ([hiWord s.tb.tb.ns, loWord s.tb.tb.ns] ++ counterWords s.fabric ++ [BitVec.ofNat 32 s.fabric.decisions]),
     if tst (nth ws 0) 0 then s.updFabric clearCounters else s)

def execArbCounters (p : Port) (tag : Half) (clear : Bool) (s : State) : Host.Outcome State Fault Refusal :=
  .next (arrive handleArbCounters p 0x0C02 tag (wordsBytes [flag 0 clear]) s)

/-! ### Decisions (R348, R349) -/

def arbRank (f : Fabric) (i : Nat) : Nat := fld (nth f.arbLive (2 + i)) 13 11
def arbAgeTop (f : Fabric) (i : Nat) : Nat := fld (nth f.arbLive (2 + i)) 10 8

/-- RANK less the rank steps of a wait. -/
def agedRank (f : Fabric) (i w : Nat) : Int := (arbRank f i : Int) - ((w / (nth f.arbLive 1).toNat : Nat) : Int)

def effectiveRank (f : Fabric) (i w : Nat) : Int := max (arbAgeTop f i : Int) (agedRank f i w)

/-- N of the reserved grant: INTERVAL + 2. -/
def arbN (f : Fabric) : Nat := fld (nth f.arbLive 0) 3 0 + 2

/-- Whether requester a (index, W) is served before b, at a reserved grant or by rank. -/
def servedBefore (f : Fabric) (reserved : Bool) (a b : Nat × Nat) : Bool :=
  let ra := effectiveRank f a.1 a.2
  let rb := effectiveRank f b.1 b.2
  if !reserved && decide (ra ≠ rb) then decide (ra < rb)
  else if a.2 = b.2 then decide (a.1 < b.1) else decide (b.2 < a.2)

/-- The requesters that are present, with their waits. -/
def presentReqs (waits : List (Option Nat)) : List (Nat × Nat) :=
  (List.range 12).filterMap fun i => (waits.getD i none).map fun w => (i, w)

def arbWinner (f : Fabric) (reserved : Bool) : List (Nat × Nat) → Option (Nat × Nat)
  | [] => none
  | x :: xs => match arbWinner f reserved xs with
    | none => some x
    | some y => some (if servedBefore f reserved y x then y else x)

/-- A requester's wait goes on: aging past AGE_TOP is noted once in one wait (R349). -/
def noteWait (w : Nat) (passed : Bool) (r : ArbReq) : ArbReq :=
  { r with waitNow := some w, aged := passed || (r.aged && r.waitNow.any fun v => decide (v ≤ w)) }

/-- PINNED of a requester, at most one a second (R349). -/
def pinRequester (i w : Nat) (s : State) : State :=
  let f := s.fabric
  let r := vget f.reqs .fresh i
  let passed := decide (agedRank f i w < (arbAgeTop f i : Int))
  let again := r.aged && r.waitNow.any fun v => decide (v ≤ w)
  let quiet := r.pinMs.any fun t => decide (s.tb.ms < t + 1000)
  let s := s.updFabric fun f => { f with reqs := vmod f.reqs i (noteWait w passed) }
  if passed && !again && !quiet then
    record 0x0901 1 0x201 i (twos 32 (agedRank f i w)).toNat (arbAgeTop f i) 0
      (s.updFabric fun f => { f with reqs := vmod f.reqs i fun r => { r with pinMs := some s.tb.ms } })
  else s

/-- The grant: counters, and the winner's wait ends. -/
def grantTo (i w : Nat) (s : State) : State :=
  s.updFabric fun f =>
    { f with winner := some i,
             reqs := vmod f.reqs i fun r =>
               { r with waitNow := none, aged := false, grants := satInc 0xFFFFFFFF r.grants,
                        waitTotal := satAdd 0xFFFFFFFF r.waitTotal w, waitMax := max r.waitMax (min w 0xFFFFFFFF) } }

/-- One decision of the arbiter with the waits of the requesters that are present. -/
def arbDecide (waits : List (Option Nat)) (s : State) : State :=
  let xs := presentReqs waits
  let s := s.updFabric fun f =>
    { f with decisions := f.decisions + 1,
             reqs := Vector.ofFn fun i : Fin 12 =>
               if (waits.getD i.val none).isNone then { f.reqs[i] with waitNow := none, aged := false } else f.reqs[i] }
  let s := xs.foldl (fun s e => pinRequester e.1 e.2 s) s
  match arbWinner s.fabric (decide (s.fabric.decisions % arbN s.fabric = 0)) xs with
  | some (i, w) => grantTo i w s
  | none => s

def execArbiterDecision (waits : List (Option Nat)) (s : State) : Host.Outcome State Fault Refusal :=
  .next (if !fabricRuns s || (presentReqs waits).isEmpty then s else arbDecide waits s)

/-! ### Crossings (R353 to R355) -/

/-- The FIFO crossings of R353. -/
def isFifo (x : Nat) : Bool := [0, 1, 2, 3, 4, 8, 9, 12, 13].contains x

/-- The pulse crossings of R353. -/
def isPulse (x : Nat) : Bool := [5, 6, 7, 11].contains x

/-- Both sides of a crossing are out of reset: a Floe channel's recovered clock needs its link (R354). -/
def sidesReady (x : Nat) (s : State) : Bool :=
  if x = 0 ∨ x = 3 then s.floe.chA.linkUp else if x = 1 ∨ x = 4 then s.floe.chB.linkUp else true

/-- Data in flight is discarded and counted, and the crossing reopens once both sides are out of reset (R354). For the crossings of which
no other row tells a reset, this row stands for the reset and the reopening (DESIGN CHOICE, log entry 40). -/
def execCrossingResync (x : Fin 17) (discarded : Nat) (s : State) : Host.Outcome State Fault Refusal :=
  .next (if !fabricRuns s || !isFifo x.val then s
    else s.updFabric fun f =>
      { f with xs := vmod f.xs x.val fun c =>
          { c with notReady := c.notReady && !sidesReady x.val s, xdrop := satAdd 0xFFFF c.xdrop discarded } })

/-- A transfer stands for 1 + count pulses; a count that would pass 15 sets OVF and raises source 0x3A at most once a second
for the crossing (R355). In DORMANT only X11, the wake request to CD7, transfers (R357). -/
def execPulseTransfer (x : Fin 17) (pulses : Nat) (s : State) : Host.Outcome State Fault Refusal :=
  let c := vget s.fabric.xs .fresh x.val
  let quiet := c.ovfMs.any fun t => decide (s.tb.ms < t + 1000)
  .next (if !isPulse x.val || !(fabricRuns s || (s.mstate == .dormant && s.resetHold.isNone && x.val == 11)) || decide (pulses ≤ 16) then s
    else
      let s := s.updFabric fun f =>
        { f with xs := vmod f.xs x.val fun c => { c with ovf := true, ovfMs := if quiet then c.ovfMs else some s.tb.ms } }
      if quiet then s else raiseOpen 0x3A 1 none s)

/-! ### Online test (R391, R392) -/

/-- One step of the online test cycle; a failed step raises source 0x0B and the cycle restarts. -/
def execOnlineTestStep (ok : Bool) (s : State) : Host.Outcome State Fault Refusal :=
  .next (whileRunning (fun s =>
    if !decide (s.mstate = .startup ∨ s.mstate = .service ∨ s.mstate = .test ∨ s.mstate = .recovery) then s
    else if ok then s.updFabric fun f => { f with bistPos := (f.bistPos + 1) % 6189 }
    else raiseOpen 0x0B 4 none (s.updFabric fun f => { f with bistPos := 0 })) s)

/-! ### Check-value unit: descriptors (R358, R360) -/

/-- Word j of descriptor i. -/
def descWord (ds : List Word) (i j : Nat) : Word := nth ds (10 * i + j)

def dAlg (ds : List Word) (i : Nat) : Nat := fld (descWord ds i 0) 31 28
def dCmp (ds : List Word) (i : Nat) : Bool := tst (descWord ds i 0) 27
def dAddr (ds : List Word) (i : Nat) : Nat := (descWord ds i 1).toNat
def dLen (ds : List Word) (i : Nat) : Nat := (descWord ds i 2).toNat
def dSeed (ds : List Word) (i : Nat) : Dword := dwordOf (descWord ds i 5) (descWord ds i 6)
def dExpected (ds : List Word) (i : Nat) : Dword := dwordOf (descWord ds i 7) (descWord ds i 8)

/-- Width of an algorithm. -/
def algWidth (alg : Nat) : Nat := if alg = 1 ∨ alg = 2 then 32 else if alg = 5 then 16 else 64

/-- The areas of R341: rank k from its first address to that of the next. -/
def areaStarts : List Nat :=
  [0x000000, 0x010000, 0x020000, 0x022000, 0x024000, 0x02D000, 0x036000, 0x03A000, 0x03C000, 0x03E800, 0x03F000, 0x040000,
   0x044000, 0x084000]

/-- The rank of the area of an address below 4 MiB. -/
def areaOf (a : Nat) : Nat := (areaStarts.filter fun b => decide (b ≤ a)).length - 1

def areaEnd (k : Nat) : Nat := areaStarts.getD (k + 1) 0x400000

/-- A source range lies wholly inside one area that a descriptor may name. -/
def sourceOk (a n : Nat) : Bool := decide (a < 0x400000 ∧ 4 ≤ areaOf a ∧ a + n ≤ areaEnd (areaOf a))

/-- The field of descriptor i that breaks a rule of R360: its word number within the descriptor, and its highest bit. -/
def descFault (ds : List Word) (i before : Nat) : Option (Nat × Nat) :=
  if dAlg ds i < 1 ∨ 5 < dAlg ds i then some (0, 31)
  else if dCmp ds i != dCmp ds 0 then some (0, 27)
  else if fld (descWord ds i 0) 26 0 ≠ 0 then some (0, 26)
  else if 65536 < dLen ds i then some (2, 31)
  else if !sourceOk (dAddr ds i) (dLen ds i) then some (1, 31)
  else if 65536 < before + dLen ds i then some (2, 31)
  else if 2 ^ algWidth (dAlg ds i) ≤ (dSeed ds i).toNat then some (5, 31)
  else if !dCmp ds i && dExpected ds i != 0 then some (7, 31)
  else if descWord ds i 9 ≠ 0 then some (9, 31)
  else none

/-- The first descriptor field out of range, from descriptor i on, with the LENGTH summed before it. -/
def chainFault (ds : List Word) : Nat → Nat → Nat → Option (Nat × Nat)
  | 0, _, _ => none
  | n + 1, i, before => match descFault ds i before with
    | some (w, hi) => some (1 + 10 * i + w, hi)
    | none => chainFault ds n (i + 1) (before + dLen ds i)

/-- The first descriptor whose area has a lower rank than that of an earlier one. -/
def orderFault (ds : List Word) (n : Nat) : Option Nat :=
  (List.range n).find? fun i => (List.range i).any fun j => decide (areaOf (dAddr ds i) < areaOf (dAddr ds j))

/-- Areas whose bytes have no layout in the manual: mailboxes, snapshot staging, freeze records (DESIGN CHOICE, log entry 4). -/
def areaOpen (k : Nat) : Bool := [4, 5, 7, 9].contains k

/-- n free bytes. -/
def freeBytes (n : Nat) (s : State) : List Byte × State :=
  ((List.range n).map fun i => (Config.freeValue (s.freeCtr + i)).setWidth 8, s.updFreeCtr fun c => c + n)

/-- The source bytes of a descriptor. -/
def sourceBytes (ds : List Word) (i : Nat) (s : State) : List Byte × State :=
  if areaOpen (areaOf (dAddr ds i)) then freeBytes (dLen ds i) s else (memBytes s.xsram (dAddr ds i) (dLen ds i), s)

/-- The sources of descriptors below n. -/
def chainSources (ds : List Word) : Nat → State → List (List Byte) × State
  | 0, s => ([], s)
  | n + 1, s =>
    let (bs, s) := chainSources ds n s
    let (b, s) := sourceBytes ds n s
    (bs ++ [b], s)

/-- The oldest chain starts, if it has not: its inline data go to the staging area, and it reads its areas, which its locks keep as they
are until it ends (R345, R361; DESIGN CHOICE, log entry 71). -/
def startChain (s : State) : State :=
  match s.fabric.chains with
  | [] => s
  | c :: rest =>
    if c.snap.isSome then s
    else
      let (bs, s) := chainSources c.descs (c.descs.length / 10) (s.updXsram fun x => memWriteBytes x 0x3F000 c.data)
      s.updFabric fun f => { f with chains := { c with snap := some bs } :: rest }

/-- CVU.RUN: the refusals of R361 in their order, PENDING, and the chain waits for those before it. -/
def handleCvuRun : Handler := fun p tag payload s =>
  let w0 := wordAt payload 0
  let n := fld w0 7 0
  let ds := (List.range (10 * n)).map fun k => wordAt payload (k + 1)
  checked [w0] [rsvd 0 15 8, ⟨0, 7, 0, 1, 16⟩] s
    (match chainFault ds n 0 0 with
     | some (w, hi) => (.range w hi, s)
     | none => match orderFault ds n with
       | some i => (.error .errLockOrder i 0, s)
       | none =>
         let c : Chain := { port := p, tag := tag, descs := ds, data := payload.drop (4 + 40 * n), snap := none, stage := 0 }
         (.pend, startChain (pendStart p 0x0C10 tag (s.updFabric fun f => { f with chains := f.chains ++ [c] }))))

def execCvuRun (p : Port) (tag : Half) (descriptors : List Word) (data : List Byte) (s : State) :
    Host.Outcome State Fault Refusal :=
  .next (arrive handleCvuRun p 0x0C10 tag
    (wordsBytes ((at32 16 data.length ||| at32 0 (descriptors.length / 10)) :: descriptors) ++ data) s)

/-! ### Check-value unit: computation (R358, R359, R362) -/

/-- The result of an algorithm over a byte string, with its seed, zero-extended. -/
def cvuResult (alg : Nat) (seed : Dword) (bs : List Byte) : Dword :=
  match alg with
  | 1 => (crcFold crc32Poly (BitVec.allOnes 32 ^^^ loWord seed) bs ^^^ BitVec.allOnes 32).setWidth 64
  | 2 => (crcFold crc32cPoly (BitVec.allOnes 32 ^^^ loWord seed) bs ^^^ BitVec.allOnes 32).setWidth 64
  | 5 => (crc16Fold (0xFFFF ^^^ seed.setWidth 16) bs).setWidth 64
  | _ => crc64Fold (crc64Init ^^^ seed) bs ^^^ BitVec.allOnes 64

/-- TARGET and SEQ, as 8 bytes (R359). -/
def foldBytes (ds : List Word) (i : Nat) : List Byte := wordBytes (descWord ds i 3) ++ wordBytes (descWord ds i 4)

/-- A Floe payload whose DLEN matches LENGTH. -/
def frameMatches (bs : List Byte) : Bool := decide (frDlen bs + 32 = bs.length)

/-- The result of descriptor i over its source bytes; none where the frame's DLEN does not match LENGTH. A LENGTH of 0 gives the
finalised fold of seed, target and sequence, whatever the algorithm (R13, R359). -/
def descResult (ds : List Word) (i : Nat) (bs : List Byte) : Option Dword :=
  if dAlg ds i = 4 ∧ bs ≠ [] then
    if frameMatches bs then some (cvuResult 4 (dSeed ds i) (foldBytes ds i ++ codedBytes bs)) else none
  else some (cvuResult (dAlg ds i) (dSeed ds i) (foldBytes ds i ++ bs))

/-- The results of a chain: all of them errors where it met a poisoned beat (R362). -/
def chainResults (c : Chain) (poisoned : Bool) : List (Option Dword) :=
  (List.range (c.descs.length / 10)).map fun i =>
    if poisoned then none else descResult c.descs i (((c.snap.getD [])).getD i [])

/-- Read mode: ERR and the result of each descriptor. -/
def readReply (rs : List (Option Dword)) : List Word :=
  rs.flatMap fun r => [flag 31 r.isNone, 0, hiWord (r.getD 0), loWord (r.getD 0)]

/-- Whether descriptor i matches. An error leaves no result to compare: the value compared is then free
(DESIGN CHOICE, log entry 4). -/
def matchFlags (ds : List Word) : List (Nat × Option Dword) → State → List Bool × State
  | [], s => ([], s)
  | (i, some r) :: rest, s =>
    let (fs, s) := matchFlags ds rest s
    ((r == dExpected ds i) :: fs, s)
  | (i, none) :: rest, s =>
    let (v, s) := drawFree s
    let (fs, s) := matchFlags ds rest s
    ((v == dExpected ds i) :: fs, s)

/-- Compare mode: MATCH, and the index of the first mismatch. -/
def compareReply (fs : List Bool) : List Word :=
  [BitVec.ofNat 32 (fs.foldr (fun b a => bit b + 2 * a) 0),
   match fs.findIdx? (· = false) with
   | some i => BitVec.ofNat 32 i
   | none => 0xFFFFFFFF]

/-- The oldest chain ends: its completion, its counters and its locks; the next one starts (R361, R362). The ECC errors met on the way
are counted (R340). -/
def endChain (c : Chain) (poisoned : List Nat) (corrected : Nat) (s : State) : State :=
  let n := c.descs.length / 10
  let total := (List.range n).foldl (fun a i => a + dLen c.descs i) 0
  let rs := chainResults c !poisoned.isEmpty
  let s := startChain (s.updFabric fun f =>
    { f with chains := f.chains.drop 1, cvuRuns := satInc 0xFFFFFFFF f.cvuRuns, cvuBytes := satAdd 0xFFFFFFFF f.cvuBytes total,
             eccUncorr := satAdd 0xFFFF f.eccUncorr poisoned.length, eccCorr := satAdd 0xFFFF f.eccCorr corrected })
  if dCmp c.descs 0 then
    let (fs, s) := matchFlags c.descs ((List.range n).zip rs) s
    let miss := (fs.filter (· = false)).length
    complete c.port 0x0C10 c.tag (.words (compareReply fs))
      (s.updFabric fun f => { f with cvuMism := satAdd 0xFFFFFFFF f.cvuMism miss })
  else complete c.port 0x0C10 c.tag (.words (readReply rs)) s

/-- The chain in progress ends; `poisoned` names the descriptors whose source held a poisoned beat, `corrected` counts the beats
corrected. -/
def execCvuChainComplete (poisoned : List Nat) (s : State) (corrected : Nat := 0) : Host.Outcome State Fault Refusal :=
  .next (match s.fabric.chains with
    | [] => s
    | c :: _ => if fabricRuns s then endChain c poisoned corrected s else s)

/-! ### Status (R363, R364) -/

def Crossing.word (c : Crossing) : Word := flag 31 c.notReady ||| flag 30 c.ovf ||| at32 0 c.xdrop

/-- How far the chain in progress has come: the descriptor in progress is a free value below COUNT, never below the one shown before
(DESIGN CHOICE, log entry 4). -/
def chainProgress (s : State) : Nat × State :=
  match s.fabric.chains with
  | [] => (0, s)
  | c :: rest =>
    let (v, s) := drawFree s
    let now := c.stage + v.toNat % max 1 (c.descs.length / 10 - c.stage)
    (now, s.updFabric fun f => { f with chains := { c with stage := now } :: rest })

/-- Locks of the chain in progress: the areas of its descriptors up to the one in progress (R361). -/
def chainLocks (now : Nat) (s : State) : Nat :=
  match s.fabric.chains with
  | [] => 0
  | c :: _ => (List.range 14).foldl (fun a k =>
      a + bit ((List.range (now + 1)).any fun i => areaOf (dAddr c.descs i) == k) * 2 ^ k) 0

def fabricWords (now : Nat) (s : State) : List Word :=
  let f := s.fabric
  [at32 16 (fld (nth f.arbLive 0) 3 0) ||| at32 0 (fld (nth f.arbLive 1) 15 0)] ++
    (List.range 12).map (fun i => nth f.arbLive (2 + i)) ++ counterWords f ++
    [ BitVec.ofNat 32 f.decisions, at32 16 s.floe.chA.ringOvf ||| at32 0 s.floe.chB.ringOvf,
      at32 16 f.eccCorr ||| at32 0 f.eccUncorr, BitVec.ofNat 32 (chainLocks now s) ] ++
    f.xs.toList.map Crossing.word

def cvuWords (now : Nat) (s : State) : List Word :=
  let f := s.fabric
  [ at32 30 (bit !f.chains.isEmpty) ||| at32 0 now, BitVec.ofNat 32 f.cvuRuns, BitVec.ofNat 32 f.cvuMism,
    BitVec.ofNat 32 f.cvuBytes ]

end Sys2Proof.Machine
end

