-- ==== Sys2Proof/Machine/Outputs.lean ====
section
/-!
DEFINITION. The local outputs as they stand: groups and supplies (R263 to R266), the command in force and the energised state (R257),
quench forcing (R271), the output guard (R267, R268).
-/
namespace Sys2Proof.Machine

/-- Output group of an output: G1 for OUT00 to OUT07, G2 for the rest. -/
def groupOf (k : Nat) : Nat := if k < 8 then 1 else 2

/-- GEN1 or GEN2 toggles, and so the group switch is closed (R266). -/
def State.gen (s : State) (g : Nat) : Bool := if g = 1 then s.io.gen1 else s.io.gen2

def State.supply (s : State) (g : Nat) : FsSt := if g = 1 then s.io.fs1 else s.io.fs2

/-- G_USABLE: the supply was OK at the sample before the latest, and the group is not locked out (R263, R265). -/
def usable (g : Nat) (s : State) : Bool := (s.supply g).lagOk && !lockStands 2 g s

/-- A state in which R266 lets the GEN lines toggle. -/
def switchesRun (s : State) : Bool :=
  match s.eff with
  | .startup | .service | .test | .recovery => true
  | _ => false

def outUsed (k : Nat) (s : State) : Bool := tst (ioOut s.io.live k) 31
def outSafeOn (k : Nat) (s : State) : Bool := tst (ioOut s.io.live k) 29
def outPulseEn (k : Nat) (s : State) : Bool := tst (ioOut s.io.live k) 28

/-- The task whose map entry commands an output (R248). -/
def outTask (k : Nat) (s : State) : Option Nat :=
  s.prog.active.bind fun b =>
    let w := (b.lio (32 + k)).1
    if tst w 31 then some (fld w 30 28) else none

/-- A task still drives its outputs: enabled, or stopped and not yet at its would-be release (R86, R275). -/
def taskLive (n : Nat) (s : State) : Bool :=
  let x := s.task n
  if x.stopped then !x.gone else taskEn x.cfg

/-- The command of an output (R257, R265, R166). Outside SERVICE it is the programmed safe value. -/
def commandOf (k : Nat) (s : State) : Bool :=
  if !(s.supply (groupOf k)).lagOk || !switchesRun s then false
  else if s.inService && !suppressed s then
    match outTask k s with
    | some t => if taskLive t s then (s.io.out k).cmd else outSafeOn k s
    | none => outSafeOn k s
  else outSafeOn k s

/-- Some active quench rule has the output in its OUT_MASK. -/
def quenchMasks (k : Nat) (s : State) : Bool :=
  (List.range 16).any fun q => (s.io.rule q).active && tst (ioRule s.io.live q 2) k

/-- Forced off by a quench rule; a tripped guard ignores quench forcing (R268). -/
def quenched (k : Nat) (s : State) : Bool := !s.io.guard.tripped && quenchMasks k s

/-- The conditions of R257. -/
def energised (k : Nat) (s : State) : Bool :=
  s.gen (groupOf k) && outUsed k s && usable (groupOf k) s && !(s.io.out k).ovl && !(s.io.out k).pulse &&
    if s.io.guard.tripped then outSafeOn k s else commandOf k s && !quenchMasks k s

def groupEnergised (g : Nat) (s : State) : Bool := (List.range 16).any fun k => groupOf k == g && energised k s

def State.updOut (k : Nat) (f : OutSt → OutSt) (s : State) : State := s.updIo fun i => { i with outs := vmod i.outs k f }

/-- Notes the commands in force, and when each changed. -/
def settleOutputs (s : State) : State :=
  (List.range 16).foldl (fun t k =>
    let c := commandOf k s
    if c = (s.io.out k).command then t
    else t.updOut k fun o => { o with command := c, cmdCyc := s.cyc }) s

/-- A record of an event outside the gated domains: in DORMANT it is held at its source until they run again (R357), without supply or
clocks it is lost. -/
def recordOrHold (code : Half) (sev src p0 p1 : Nat) (s : State) : State :=
  if s.runs then record code sev src p0 p1 0 0 s
  else if s.mstate = .dormant then
    s.updIce fun i => { i with held := i.held ++ [{ seq := 0, time := s.tb.tb.ns, code := code, sev := sev, src := src,
                                                    p0 := BitVec.ofNat 32 p0, p1 := BitVec.ofNat 32 p1, p2 := 0, p3 := 0 }] }
  else s

/-- The output guard, which has its own oscillator, trips: record, and class 4 in SERVICE and HOLD (R268). A guard that has tripped stays so. -/
def tripGuard (s : State) : State :=
  let g := s.io.guard
  if g.tripped then s.updIo fun i => { i with guard := { i.guard with accepted := 0 } }
  else
    let ms := min (s.tb.ms - g.lastBeatMs) 0xFFFFFFFF
    let s := s.updIo fun i =>
      { i with guard := { i.guard with tripped := true, accepted := 0, trips := satInc 0xFF i.guard.trips } }
    let s := recordOrHold 0x0805 1 0x00C s.mstate.code ms s
    if s.mstate = .service ∨ s.mstate = .hold then raiseOpen 0x0C 4 none s else s

end Sys2Proof.Machine
end

