-- ==== Sys2Proof/Machine/RefSchedule.lean ====
section
/-!
DEFINITION. The reference schedule (R81): a single processor at 3 slots per ns of network time, counted from the first round after
entry into SERVICE. `refNow` is the slot count up to which it has been run; while a task runs on to its yield boundary it lies
ahead of the instant.
-/
namespace Sys2Proof.Machine

/-- The ready task of highest priority. -/
def Tasks.refRunning (ts : Tasks) : Option Nat := (List.range 8).find? fun n => (vget ts.t .fresh n).refReady

def Tasks.upd (ts : Tasks) (n : Nat) (f : TaskSt → TaskSt) : Tasks := { ts with t := vmod ts.t n f }

/-- A task ends in the reference schedule: its last segment is owed by the lanes unless they have ended the cycle already. -/
def Tasks.refEnd (ts : Tasks) (n pos : Nat) : Tasks :=
  let ts := ts.upd n fun x => { x with refReady := false, refPos := pos }
  if ts.ahead.contains n then { ts with ahead := ts.ahead.filter (· ≠ n) } else { ts with order := ts.order ++ [(n, none)] }

/-- Runs ready tasks for a number of slots; the fuel bounds how many tasks can end. -/
def refSpend (b : Bank) : Nat → Nat → Tasks → Tasks
  | 0, _, ts => ts
  | fuel + 1, budget, ts =>
    match ts.refRunning with
    | none => ts
    | some n =>
      let left := b.segmentSlots n - (vget ts.t .fresh n).refPos
      if left ≤ budget then
        refSpend b fuel (budget - left) (ts.refEnd n (b.segmentSlots n))
      else ts.upd n fun x => { x with refPos := x.refPos + budget }

/-- Brings the reference schedule up to an instant, in slots since the origin. -/
def refAdvance (b : Bank) (target : Nat) (ts : Tasks) : Tasks :=
  if target ≤ ts.refNow then ts else { refSpend b 9 (target - ts.refNow) ts with refNow := target }

/-- The running lower task runs on to its first boundary at or after its position and yields there; a task that reaches the
slot after its END there has ended. -/
def refYield (b : Bank) (k : Nat) (ts : Tasks) : Tasks :=
  let q := (vget ts.t .fresh k).refPos
  let (off, slot) := b.boundaryAt k q
  let ts := { ts with refNow := ts.refNow + (slot - q) }
  if slot = b.segmentSlots k then ts.refEnd k slot
  else if ts.ahead.contains k then ts.upd k fun x => { x with refPos := slot }
  else
    { ts.upd k fun x => { x with refPos := slot, run := x.run.map fun c => { c with yieldAt := c.yieldAt ++ [off] } } with
      order := ts.order ++ [(k, some off)] }

/-- Task t is released at an instant: a running lower task that has begun yields, an earlier cycle of t that is still ready is
removed, and t is ready at position 0. -/
def refRelease (b : Bank) (t target : Nat) (ts : Tasks) : Tasks :=
  let ts := refAdvance b target ts
  let ts := match ts.refRunning with
    | some k => if t < k ∧ 0 < (vget ts.t .fresh k).refPos then refYield b k ts else ts
    | none => ts
  { ts.upd t fun x => { x with refReady := true, refPos := 0 } with ahead := ts.ahead.filter (· ≠ t) }

/-- The tasks in the order in which the lanes still have to evaluate their segments: what the reference schedule has completed, then
its ready tasks by priority; a later release can only come before or cut what is not yet completed (R82, R83). -/
def Tasks.owed (ts : Tasks) : List Nat :=
  ts.order.map (·.1) ++ (List.range 8).filter fun n => (vget ts.t .fresh n).refReady && !ts.ahead.contains n

/-- The lanes reach a yield boundary. -/
def Tasks.yielded (ts : Tasks) (n off : Nat) : Tasks := { ts with order := ts.order.erase (n, some off) }

/-- The lanes end a cycle, which the reference schedule may not have ended yet. -/
def Tasks.ended (ts : Tasks) (n : Nat) : Tasks :=
  if ts.order.contains (n, none) then { ts with order := ts.order.erase (n, none) }
  else if (vget ts.t .fresh n).refReady then { ts with ahead := ts.ahead ++ [n] }
  else ts

/-- Slots from the origin to the start of the round. -/
def State.refInstant (s : State) : Nat := (s.floe.round - s.tasks.origin) * roundMs s.floe.live * 3000000

/-- No cycle of any task is in progress in the reference schedule at the start of this round. -/
def refIdle (b : Bank) (s : State) : Bool := (refAdvance b s.refInstant s.tasks).refRunning.isNone

/-- The task is released in this round (R22): enabled, not stopped, and its period divides the round counted from the origin. -/
def releaseDue (t : Nat) (s : State) : Bool :=
  let x := s.task t
  let l := roundMs s.floe.live
  taskEn x.cfg && !x.stopped && decide (s.tasks.origin ≤ s.floe.round ∧
    ((s.floe.round - s.tasks.origin) * l) % taskPeriod x.cfg = 0)

/-- Round length in ns. -/
def State.roundNs (s : State) : Nat := 1000000 * roundMs s.floe.live

/-- A task that is released: enabled and not stopped. -/
def taskOn (n : Nat) (s : State) : Bool := taskEn (s.task n).cfg && !(s.task n).stopped

/-- Round of a task's next release after this round. -/
def nextDue (t : Nat) (s : State) : Nat :=
  let p := taskPeriod (s.task t).cfg / roundMs s.floe.live
  s.tasks.origin + p * ((s.floe.round - s.tasks.origin) / p + 1)

/-- Slots of the reference schedule from the origin to this instant. -/
def slotsNow (s : State) : Nat := 3 * (s.now - s.tasks.origin * s.roundNs)

/-- Slots of a budget in which no task is ready. -/
def idleSlots (b : Bank) : Nat → Nat → Tasks → Nat
  | 0, _, _ => 0
  | fuel + 1, budget, ts =>
    match ts.refRunning with
    | none => budget
    | some n =>
      let left := b.segmentSlots n - (vget ts.t .fresh n).refPos
      if left ≤ budget then
        idleSlots b fuel (budget - left) (ts.upd n fun x => { x with refReady := false, refPos := b.segmentSlots n })
      else 0

/-- Slots from this instant to the next release of any task. -/
def slotsToRelease (s : State) : Nat :=
  let rs := ((List.range 8).filter fun n => taskOn n s).map fun n => nextDue n s
  match rs with
  | [] => 0
  | r :: rest => 3 * (rest.foldl min r * s.roundNs - s.now)

/-- An idle gap of R136: no task is ready in the reference schedule, from its opening to the next release at least 40 µs; and the task
whose end opened it has ended. -/
def idleGap (b : Bank) (s : State) : Bool :=
  (refAdvance b (slotsNow s) s.tasks).refRunning.isNone &&
    decide (120000 ≤ idleSlots b 9 (slotsNow s - s.tasks.refNow) s.tasks + slotsToRelease s) &&
    (List.range 8).all fun n => (s.run n).isNone

/-- A T0 boundary (R111, R177): this round releases the lead task and the reference schedule is idle. -/
def atBoundary (s : State) : Bool :=
  match leadTask s, s.prog.active with
  | some n, some b => releaseDue n s && refIdle b s
  | _, _ => false

end Sys2Proof.Machine
end

