-- ==== Sys2Proof/Machine/Tasks.lean ====
section
/-!
DEFINITION. The logic cycle (R22 to R27, R81 to R91): release, evaluation, yield, task end with publication and FRAM commit,
the deadline instant, and the activation boundary (R111 to R116).
-/
namespace Sys2Proof.Machine

/-! ### Evaluation -/

/-- What the evaluation of a task knows beside the image. -/
def evalCtx (b : Bank) (t : Nat) (s : State) : EvalCtx :=
  let x := s.task t
  { bank := b, delta := taskPeriod x.cfg, first := x.first, newprg := x.newprg, warm := x.warm }

/-- Timers, counters and edge detectors of a segment. -/
def segmentEls (es : List (Nat × Equation)) : List Fresh :=
  es.flatMap fun e =>
    (if e.2.head.op = 0x7 then [Fresh.timer e.2.head.idx] else if e.2.head.op = 0x8 then [Fresh.counter e.2.head.idx] else []) ++
      (edgeOperands e.2).map fun o => Fresh.edge o.lit.idx

/-- Loads the previous-value bits before a first evaluation: every element of the task after a restart, the introduced ones
after an activation (R54). -/
def preload (b : Bank) (t : Nat) (s : State) : State :=
  let es := b.equations t
  let els := segmentEls es
  let first := (s.task t).first
  let p (e : Fresh) : Bool := first || s.tasks.newEls.contains e
  let s := if first || els.any p then writeImage [] (loadPrevious (evalCtx b t s) p es s.mem) s else s
  s.updTasks fun x => { x with newEls := x.newEls.filter fun e => !els.contains e }

/-- Evaluates the equations of a task from its position up to a literal offset. -/
def evaluateTo (b : Bank) (t : Nat) (c : Cycle) (stop : Nat) (s : State) : State :=
  let e := runEquations (evalCtx b t s) (b.equations t) c.pc stop { mem := s.mem, sig := c.sig }
  updRun t (fun c => { c with pc := stop, sig := e.sig }) (writeImage e.blocks e.mem s)

/-- The cycle begins: the agreed slice is latched, previous values are loaded, and the evaluation signature opens. -/
def beginCycle (b : Bank) (t : Nat) (c : Cycle) (s : State) : State :=
  let head := windowBytes 3 t (BitVec.ofNat 32 (c.relRound - s.tasks.origin))
  updRun t (fun c => { c with started := true, paused := false, pc := 0, sig := crc64Fold crc64Init head })
    (preload b t (latchSlice b t c s))

/-- A task may run: no other task is evaluating, and its segment is the next in the order of the reference schedule (R82, R83). -/
def mayRun (t : Nat) (s : State) : Bool :=
  (List.range 8).all (fun k => k == t || (match s.run k with
    | some c => !(c.started && !c.paused)
    | none => true)) &&
    decide ((s.tasks.owed.filter fun k => (s.run k).isSome).head? = some t)

/-- The remap of an activation boundary lies between the input agreement and the first evaluation in the new bank (R112, R113). -/
def remapWindow (s : State) : State := if s.prog.remapFrom.isSome then compareWindow (remapNow s) else s

/-- Cause of R138. -/
def evalFaultCause : EvalFault → Nat
  | .literalEcc => 0x10 | .badLiteral => 0x11 | .imageEcc => 0x12

/-- A lane that detects a fault on itself in its evaluation is excluded; the others continue (R75). -/
def evalFault (f : Option (LaneId × EvalFault)) (s : State) : State :=
  match f with
  | some (l, k) => laneFault l.val (evalFaultCause k) s
  | none => s

/-- The input agreement is complete and the task begins; or a pause at a yield boundary ends (R82). An input signature that was not
voted lets nothing begin (R24). -/
def execEvaluationStart (t : TaskId) (fault : Option (LaneId × EvalFault)) (s : State) :
    Host.Outcome State Fault Refusal :=
  .next (whileRunning (fun s =>
    match s.run t.val, s.prog.active with
    | some c, some b =>
      if !(c.agreed || c.unagreed) || !mayRun t.val s then s
      else if !c.started && voteLost 1 s then takeLost 1 s
      else if !c.started then evalFault fault (beginCycle b t.val c (remapWindow s))
      else evalFault fault (updRun t.val (fun c => { c with paused := false }) s)
    | _, _ => s) s)

/-- The running task reaches the boundary at which it yields. -/
def execTaskYield (t : TaskId) (s : State) : Host.Outcome State Fault Refusal :=
  .next (whileRunning (fun s =>
    match s.run t.val, s.prog.active with
    | some c, some b => match c.yieldAt with
      | off :: rest =>
        if c.started && !c.paused then
          (updRun t.val (fun c => { c with paused := true, yieldAt := rest }) (evaluateTo b t.val c off s)).updTasks fun ts =>
            ts.yielded t.val off
        else s
      | [] => s
    | _, _ => s) s)

/-! ### Release -/

/-- The lanes that wait in ENTRY are unmasked at a release that no cycle overlaps, with the TAG of the lanes that serve (R148). -/
def enterLanes (s : State) : State :=
  let waiting := (List.range 3).filter fun i => decide ((s.lane i).st = .entry)
  if waiting.isEmpty then s
  else
    let tag := ((s.servingLanes.head?.map fun i => s.lane i).map LaneSt.tag).getD 0
    let s := waiting.foldl (fun s i =>
      record 0x0302 1 (0x10 + i) i (min (s.tb.ms - (s.lane i).lastExclMs) 0xFFFFFFFF) 0 0
        (s.updLane i fun l => { l with st := .serving, tag := tag, img := [], ownFram := .fresh })) s
    recordState .service .service s

/-- An idle gap has passed for a lane in DELTA (R145). -/
def passGap (s : State) : State :=
  s.updLanes fun v => v.map fun l => if l.st = .delta then { l with gaps := l.gaps + 1 } else l

/-- The slice is frozen and the cycle is in progress (R23). -/
def startCycle (b : Bank) (t : Nat) (s : State) : State :=
  let c : Cycle :=
    { release := s.tb.tb.ns, relRound := s.floe.round, slice := assembleSlice b t s, dataIds := dataFids t s, inSig := none, role := false, peerSig := none,
      agreed := false, unagreed := false, adopted := [], started := false, paused := false, pc := 0, sig := 0,
      overrun := false, yieldAt := [], keySel := s.floe.keyCur }
  s.updTask t fun x => { x with run := some c, latchTime := s.tb.tb.ns }

/-- An overrun is counted, raised and recorded: class 2, and class 4 when the cycle before it overran too (R89, R90). -/
def raiseOverrun (t literal relRound : Nat) (consecutive : Bool) (s : State) : State :=
  let s := s.updTask t fun x => { x with overruns := satInc 0xFFFFFFFF x.overruns }
  record 0x0401 2 (0x18 + t) t literal relRound (bit consecutive) (raiseOpen (0x18 + t) (if consecutive then 4 else 2) none s)

/-- The literal offset that lane 0 has reached, where no row gives it: a free value between the last boundary and the END (DESIGN
CHOICE, log entry 63). -/
def openOffset (b : Bank) (t : Nat) (c : Cycle) (s : State) : Nat × State :=
  let (v, s) := drawFree s
  (c.pc + v.toNat % (b.taskLen t - c.pc + 1), s)

/-- A release that finds the earlier cycle still in progress is a consecutive overrun and is not carried out (R90). -/
def lateRelease (b : Bank) (t : Nat) (c : Cycle) (s : State) : State :=
  if c.relRound = s.floe.round then s
  else
    let (off, s) := openOffset b t c s
    raiseOverrun t off s.floe.round true s

/-- A release (R22, R23, R81). A JOINING twin receives its state and releases nothing (DEDUCED, log entry 44). -/
def execTaskRelease (t : TaskId) (s : State) : Host.Outcome State Fault Refusal :=
  .next (whileRunning (fun s =>
    match s.prog.active with
    | none => s
    | some b =>
      if !s.inService || s.power.brownout || s.twin.ps == .joining || !releaseDue t.val s then s
      else match s.run t.val with
        | some c => lateRelease b t.val c s
        | none =>
          let s := if refIdle b s then enterLanes (passGap s) else s
          let s := comparisonTimeout t.val s
          let s := s.updTasks (refRelease b t.val s.refInstant)
          startCycle b t.val s) s)

/-! ### Retentive commit (R120) -/

/-- Splits a list into pieces of at most n. -/
def chunks {α : Type} (n : Nat) : Nat → List α → List (List α)
  | 0, _ => []
  | fuel + 1, l => if l.isEmpty then [] else l.take n :: chunks n fuel (l.drop n)

/-- Entries of the home copy that the image holds otherwise: a byte of booleans, or a word. -/
def changedEntries (f : Fram) (m : Mem) : List (List (Nat × Byte)) :=
  let base := (f.partialSet ++ f.waiting).foldl applyJournal f.home
  let value (i : Nat) : Bool := decide (i < f.rbFirst + f.rbCount) && boolRead m i
  let bools := (List.range (ceilDiv f.rbCount 8)).filterMap fun k =>
    let v := boolByte value (f.rbFirst + 8 * k)
    if v = memRead base k then none else some [(k, v)]
  let words := (List.range f.rwCount).filterMap fun k =>
    let v := wordRead m (f.rwFirst + k)
    let a := 0x8000 + 4 * k
    if v = memWord base a then none else some ((List.range 4).zip (wordBytes v) |>.map fun x => (a + x.1, x.2))
  bools ++ words

/-- The journal records of a cycle: up to 2,046 entries each, all but the last with CONT 1. -/
def commitRecords (t first : Nat) (entries : List (List (Nat × Byte))) : List Journal :=
  let cs := chunks 2046 entries.length entries
  ((List.range cs.length).zip cs).map fun x =>
    { task := t, seq := first + x.1, cont := decide (x.1 + 1 < cs.length), entries := x.2.flatten }

/-- The commit of a task cycle. A ninth waiting record arises in every lane, which makes the fault class 4 (R120, R139). -/
def commitCycle (t : Nat) (s : State) : State :=
  let js := commitRecords t s.fram.nextCommit (changedEntries s.fram s.mem)
  let s := s.updFram fun f => { f with waiting := f.waiting ++ js, nextCommit := f.nextCommit + js.length }
  if 9 < s.fram.waiting.length then raiseNoAgree s else s

/-- A journal record has been written; the next one starts. A lane whose own FRAM fails after 3 retries has cause 0x15 (R138). -/
def execFramCommitComplete (failed : Option LaneId) (s : State) : Host.Outcome State Fault Refusal :=
  .next (whileRunning (fun s =>
    if s.fram.waiting.isEmpty then s
    else
      let s := writeFramBlocks (commitBlocks s.fram) commitOne s
      laneFaultIn 0x15 failed (countRetries (fun l => { l with framRetry := min 0xFFFF (l.framRetry + 3) }) failed s)) s)

/-! ### Output slice (R84, R85, R235, R236) -/

/-- Bytes replaced from an offset. -/
def patch (bs : List Byte) (off : Nat) (new : List Byte) : List Byte :=
  bs.take off ++ new ++ bs.drop (off + new.length)

def setDataBit (bs : List Byte) (p : Nat) : List Byte := bs.set (p / 8) (bs.getD (p / 8) 0 ||| (1#8 <<< (p % 8)))

/-- A controller's section: header, then its objects' output bits. -/
def sectionBytes (b : Bank) (c : OcRec) (m : Mem) : List Byte :=
  let len := b.sectLen c
  let data := (b.objsOf c).foldl
    (fun d o =>
      (List.range (b.typ o.2.type).outBits).foldl
        (fun d i => if boolRead m (o.2.outVar + i) then setDataBit d (o.2.outPos + i) else d) d)
    (List.replicate (len - 4) (0 : Byte))
  wordBytes (at32 20 c.node ||| at32 0 len) ++ data

def frameData (b : Bank) (f : FrameRec) (m : Mem) : List Byte :=
  (b.sectionsOf f.frameId).foldl (fun d c => patch d c.2.outOffset (sectionBytes b c.2 m)) (List.replicate f.dlen 0)

/-- The DATA frames of a task's output slice, with their record numbers: next SEQ, stamp of the release, source PAIR_NODE
(R172, R194). A frame whose key slot is empty has no code and is not sent (R197). -/
def outputFrames (b : Bank) (t : Nat) (c : Cycle) (s : State) : List (Nat × FrameRec × List Byte) :=
  (b.frames.filter fun f => f.2.task == t).map fun f =>
    let seq := frameSeq s.xsram f.1 + 1
    let raw := rawFrame s.floe.live 4 (floePairNode s.floe.live) c.keySel f.2.frameId (frameData b f.2 s.mem) seq
      (macrotick c.release.toNat)
    (f.1, f.2, raw ++ dwordBytes ((scodeOf s.floe.live s.keys (raw ++ List.replicate 8 0)).getD 0))

/-- Outputs that a task's map entries command, with their values (R248). -/
def outputCommands (b : Bank) (t : Nat) (m : Mem) : List (Nat × Bool) :=
  (List.range 16).filterMap fun k =>
    let w := (b.lio (32 + k)).1
    if tst w 31 ∧ fld w 30 28 = t then some (k, boolRead m (fld w 22 0)) else none

/-- The words of the output slice in order: frames in record order, then the commands (DEDUCED, log entry 33). -/
def outputSlice (frames : List (Nat × FrameRec × List Byte)) (cmds : List (Nat × Bool)) : List Byte :=
  frames.flatMap (fun f => pad8 f.2.2) ++
    beBytes 8 (cmds.foldl (fun a c => a + (2 ^ (16 + c.1)) + bit c.2 * 2 ^ c.1) 0)

/-! ### Publication -/

/-- First byte of the two buffers of output frame record r (R342). -/
def frameBuffer (b : Bank) (r : Nat) : Nat :=
  0x84000 + 2 * ((b.frames.take r).map fun f => bufferLen f.2.dlen).sum

def selectorAddr (t : Nat) : Nat := 0x43F80 + 4 * t

/-- Frames go into the buffers not in force, then the sequence numbers, then the task's selector flips (R342). -/
def storeFrames (b : Bank) (t : Nat) (frames : List (Nat × FrameRec × List Byte)) (x : Mem) : Mem :=
  let sel := (memWord x (selectorAddr t)).toNat % 2
  let x := frames.foldl (fun x f =>
    memWriteBytes x (frameBuffer b f.1 + (1 - sel) * bufferLen f.2.1.dlen) f.2.2) x
  let x := frames.foldl (fun x f => memWriteWord x (0x40000 + 4 * f.1) (frameSeq x f.1 + 1)) x
  memWriteWord x (selectorAddr t) (BitVec.ofNat 32 (1 - sel))

/-- A new command of an output (R257). -/
def setCommand (k : Nat) (v : Bool) (s : State) : State :=
  s.updOut k fun o => { o with cmd := v }

/-- First round that starts at least 20 µs after the task end (R27). -/
def publishRound (floe : List Word) (stop : Nat) : Nat := ceilDiv (stop + 20000) (1000000 * roundMs floe)

/-- Publication of a cycle (R85). -/
def publish (b : Bank) (t : Nat) (c : Cycle) (stop : Nat) (s : State) : State :=
  let frames := outputFrames b t c s
  let cmds := outputCommands b t s.mem
  let s := s.updXsram (storeFrames b t frames)
  let s := settleOutputs (cmds.foldl (fun s x => setCommand x.1 x.2 s) s)
  s.updTask t fun x =>
    { x with pubSeq := x.pubSeq + 1,
             pubs := (x.pubs.filter fun p => decide (s.floe.round ≤ p.round)) ++
               [{ round := publishRound s.floe.live stop, rel := c.relRound, agreed := c.agreed,
                  frames := frames.map fun f => (f.2.1.frameId, f.2.2) }] }

/-- The frame sequence numbers of a SHADOW twin go on as those of the serving twin do, so that equal cycles have equal output
signatures (R180; DEDUCED, log entry 62). -/
def shadowSeqs (b : Bank) (t : Nat) (x : Mem) : Mem :=
  (b.frames.filter fun f => f.2.task == t).foldl (fun x f => memWriteWord x (0x40000 + 4 * f.1) (frameSeq x f.1 + 1)) x

/-- The cycle was released before the split boundary: both twins still send it (R178). -/
def beforeSplit (c : Cycle) (s : State) : Bool := s.twin.ps == .shadow && decide (c.relRound < s.twin.shadowRound)

/-- IMG.READ copies at a task end (R328): those of the task whose cycle counts, and those of a disabled task. -/
def copyAtEnd (t : Nat) (counts sup : Bool) (s : State) : State :=
  let off (w : ImgWait) : Bool := !taskOn w.task s
  finishImages (fun w => off w || (w.task == t && counts)) (fun w => off w || sup) s

/-- TWCMP after the task end (R175). -/
def sendTwcmp (t : Nat) (c : Cycle) (out ev : Dword) (s : State) : State :=
  let x := s.task t
  let s := s.updTask t fun x =>
    { x with ownCmp := some (c.relRound, c.overrun, out, ev, x.pubSeq),
             cmpIn := c.inSig.bind fun a => c.peerSig.map fun p => (a, p.2) }
  let s := if voteLost 0xB s then takeLost 0xB s
    else if sendsComparison s then
      sendMsg 0x12 2 (wordsBytes [flag 31 c.overrun ||| at32 0 t, BitVec.ofNat 32 c.relRound] ++ dwordBytes out ++
        dwordBytes ev ++ wordsBytes [x.pubSeq, 0]) s
    else s
  compareCycle t s

/-- Blocks of the pair area that a publication writes: the frame buffers, the sequence table, the selector (R183). -/
def publicationBlocks (b : Bank) (t : Nat) (s : State) : List Nat :=
  let sel := (memWord s.xsram (selectorAddr t)).toNat % 2
  let blk (a : Nat) : Nat := 2128 + (a - 0x40000) / 4096
  blk (selectorAddr t) :: (b.frames.filter fun f => f.2.task == t).flatMap fun f =>
    let a := frameBuffer b f.1 + sel * bufferLen f.2.dlen
    [blk (0x40000 + 4 * f.1), blk a, blk (a + bufferLen f.2.dlen - 1)]

/-- The task end of a cycle that has been evaluated to its END: vote, publication or none, copies, commit, comparison. -/
def closeCycle (b : Bank) (t : Nat) (c : Cycle) (stop : Nat) (s : State) : State :=
  let ev := finishSig c.sig
  let rel := BitVec.ofNat 32 (c.relRound - s.tasks.origin)
  let out := finishSig (crc64Fold (crc64Fold crc64Init (windowBytes 2 t rel))
    (outputSlice (outputFrames b t c s) (outputCommands b t s.mem)))
  let us := min (ceilDiv (stop - c.release.toNat) 1000) 0xFFFFFFFF
  let lost := voteLost 2 s || voteLost 3 s
  let s := takeLost 3 (takeLost 2 s)
  let sup := suppressed s && !beforeSplit c s
  let pub := !c.overrun && !sup && !lost && !lockStands 3 t s && decide (s.eff = .service ∨ s.eff = .startup)
  let s := if pub then publish b t c stop s
    else if s.twin.ps = .shadow ∧ !c.overrun then s.updXsram (shadowSeqs b t) else s
  let s := s.updTask t fun x =>
    { x with cycles := satInc 0xFFFFFFFF x.cycles, maxEndUs := max x.maxEndUs us, run := none, first := false,
             warm := false, newprg := false, prevOver := c.overrun, prevInSig := c.inSig.getD 0, prevEval := ev }
  let s := touchBlocks (if pub then 0 :: publicationBlocks b t s else [0]) (s.updTasks fun ts => ts.ended t)
  let s := reportActivation (copyAtEnd t (pub || sup) sup s)
  let s := commitCycle t s
  if s.eff = .safe then s.updTask t fun x => { x with ownCmp := none } else sendTwcmp t c out ev s

/-- Deadline instant of a cycle in ns (R88). -/
def deadlineNs (t : Nat) (c : Cycle) (s : State) : Nat :=
  c.release.toNat + 1000000 * taskDeadline (s.task t).cfg - 20000

/-- A cycle that has not ended at its deadline instant overruns; once only (R89, R90). -/
def overrunCycle (t literal : Nat) (s : State) : State :=
  match s.run t with
  | some c =>
    if c.overrun then s
    else raiseOverrun t literal c.relRound (s.task t).prevOver (updRun t (fun c => { c with overrun := true }) s)
  | none => s

/-- Runs the rest of a cycle and ends it. -/
def finishCycle (b : Bank) (t : Nat) (c : Cycle) (stop : Nat) (s : State) : State :=
  let s := if deadlineNs t c s < stop then
      let (off, s) := openOffset b t c s
      overrunCycle t off s
    else s
  let s := evaluateTo b t c (b.taskLen t) s
  match s.run t with
  | some c => closeCycle b t c stop s
  | none => s

/-- The task end (R85). A lane in which alone a ninth commit record would wait has cause 0x14 (R120). -/
def execTaskEnd (t : TaskId) (endTime : Dword) (backlog : Option LaneId) (s : State) : Host.Outcome State Fault Refusal :=
  .next (whileRunning (fun s =>
    match s.run t.val, s.prog.active with
    | some c, some b =>
      if c.started && !c.paused && c.yieldAt.isEmpty then laneFaultIn 0x14 backlog (finishCycle b t.val c endTime.toNat s)
      else s
    | _, _ => s) s)

/-- The deadline instant of a cycle that still runs; `literal` is the offset that lane 0 has reached. -/
def execDeadlineInstant (t : TaskId) (literal : Word) (s : State) : Host.Outcome State Fault Refusal :=
  .next (whileRunning (fun s => overrunCycle t.val literal.toNat s) s)

/-! ### Activation boundary (R111 to R116) -/

/-- Every cycle of the old bank that is still in progress is completed at the boundary. -/
def completeAll (b : Bank) (s : State) : State :=
  (List.range 8).foldl (fun s t => match s.run t with
    | some c =>
      let s := if c.started then s else beginCycle b t c s
      match s.run t with
      | some c => finishCycle b t c s.now s
      | none => s
    | none => s) s

/-- Controllers and frames that a loaded mode has no slot for (R242). -/
def unscheduled (b : Bank) (s : State) : List (Nat × Nat) :=
  (List.range 4).flatMap fun m => match vget s.floe.liveSched none m with
    | none => []
    | some ws =>
      let xs := slotsOf ws
      let ocs := (b.ocs.filter fun c => !xs.any fun x => x.kind == .status && x.owner == c.2.node && x.rx).map fun c =>
        (c.2.node, m)
      let frames := (b.frames.filter fun f => !xs.any fun x =>
        x.kind == .data && x.owner == floeNode s.floe.live && x.fid == f.2.frameId).map fun f => (f.2.frameId, m)
      ocs ++ frames

/-- OC_UNSCHED once for each finding (R241, R242). -/
def recordUnscheduled (s : State) : State :=
  match s.prog.active with
  | some b => (unscheduled b s).foldl (fun s x => record 0x0703 1 0xFFF x.1 x.2 0 0 s) s
  | none => s

/-- The switch at the boundary, or its refusal when a held claim group differs (R112, R116). -/
def boundarySwitch (a : Activation) (s : State) : State :=
  match s.prog.active with
  | none => s
  | some old =>
    let s := completeAll old s
    if !s.inService then s
    else match heldDiffers old (s.prog.bank a.bank) s.mem with
    | some g => abandonActivation .errClaimHeld g s
    | none => recordUnscheduled (reportLater a.client (takeBank (clientSrc a.client) a.bank s))

/-- The activation boundary: the first release of T0 from round a + 5 on at which no cycle is in progress. It comes before the
releases of its round. A standby bank that is being verified again is not VALID then, and the activation is abandoned
(DEDUCED, log entry 26). A twin that has left the pair since, SILENT or REMOVED and still in SERVICE, keeps its schedule and switches too:
R118 names the remaining twin only (DEDUCED, log entry 26). -/
def execActivationBoundary (s : State) : Host.Outcome State Fault Refusal :=
  .next (whileRunning (fun s =>
    match s.prog.sched with
    | some a =>
      if !(a.confirmed && s.inService && decide (a.roundA + 5 ≤ s.floe.round ∧ s.floe.round ≤ a.roundA + 1000) && atBoundary s) then s
      else if (s.prog.bank a.bank).st = .valid then boundarySwitch a s
      else abandonActivation .errBank 0 s
    | none => s) s)

end Sys2Proof.Machine
end

