-- ==== Sys2Proof/Machine/Voting.lean ====
section
/-!
DEFINITION. Votes of the lanes' records (R127 to R132, R139 to R143), reintegration (R145 to R149), the scan (R136), and the lane
rails (R124).
-/
namespace Sys2Proof.Machine

/-! ### One vote (R128, R131) -/

/-- What the vote of three records, or of two, gives: the voted record, the lane in the minority, or neither. -/
inductive VoteResult where
  | voted (r : VRec)
  | minority (r : VRec) (lane : Nat) (x : VRec)
  | noMajority
  deriving DecidableEq, Repr

def vote3 (a b c : VRec) : VoteResult :=
  if a = b then (if b = c then .voted a else .minority a 2 c)
  else if a = c then .minority a 1 b
  else if b = c then .minority b 0 a
  else .noMajority

def vote2 (a b : VRec) : VoteResult := if a = b then .voted a else .noMajority

def laneRecord (r0 r1 r2 : VRec) (i : Nat) : VRec := match i with
  | 0 => r0
  | 1 => r1
  | _ => r2

/-- The vote among the serving lanes; none with fewer than two. -/
def voteServing (lanes : List Nat) (r : Nat → VRec) : Option VoteResult :=
  match lanes with
  | [a, b, c] => some (vote3 (r a) (r b) (r c))
  | [a, b] => some (vote2 (r a) (r b))
  | _ => none

/-- KINDs of R131 that exclude a minority. -/
def kindVotes (k : Nat) : Bool := decide ((1 ≤ k ∧ k ≤ 8) ∨ k = 0xB ∨ k = 0xC)

/-- Cause of an exclusion by minority: 0x09 where the TAG alone differs, else the KIND (R138). -/
def minorityCause (v x : VRec) : Nat := if v.kind = x.kind ∧ v.data = x.data then 9 else v.kind.toNat

def minorityPrint (v x : VRec) : Fingerprint :=
  { kind := v.kind, kx := v.kind ^^^ x.kind, hi := v.tag ^^^ x.tag, lo := v.data ^^^ x.data, cause := 0 }

/-- MINOR_Ln (R152). -/
def countMinority (i : Nat) (s : State) : State :=
  s.updVoter fun v => match i with
    | 0 => { v with minor0 := satInc 0xFFFFFFFF v.minor0 }
    | 1 => { v with minor1 := satInc 0xFFFFFFFF v.minor1 }
    | _ => { v with minor2 := satInc 0xFFFFFFFF v.minor2 }

/-! ### Voter self-test (R132) -/

/-- The lane whose copy the injector inverts. -/
def injectedLane (lanes : List Nat) (n : Nat) : Option Nat :=
  match lanes with
  | [_, _, _] => some (n % 3)
  | [a, b] => some (if n % 2 = 0 then a else b)
  | _ => none

def invertBit (n : Nat) (r : VRec) : VRec := { r with data := r.data ^^^ (1#64 <<< (n % 64)) }

/-- Both voters flag exactly the injected lane: in 2oo3 with the majority DATA n, in 2oo2 as a divergence (R132). -/
def selftestPasses (lanes : List Nat) (n : Nat) (r : Nat → VRec) : Bool :=
  match injectedLane lanes n with
  | none => false
  | some k =>
    match voteServing lanes fun i => if i = k then invertBit n (r i) else r i with
    | some (.minority v i _) => i == k && v.kind == 0xA && v.data == BitVec.ofNat 64 n
    | some .noMajority => decide (lanes.length = 2)
    | _ => false

/-- Records of KINDs that are not passed on. -/
def loseVotes (ks : List Nat) (s : State) : State :=
  s.updVoter fun v => { v with lost := v.lost ++ ks.filter fun k => !v.lost.contains k }

/-- One self-test record; a failure is a collector-level class 4 fault, and the cycle's outputs are withheld. -/
def selfTest (r : Nat → VRec) (s : State) : State :=
  let ok := selftestPasses s.servingLanes s.voter.selftestN r
  let s := s.updVoter fun v =>
    { v with selftestN := v.selftestN + 1, selftestMs := s.tb.ms, selftestOk := v.selftestOk && ok }
  if ok then s else raiseOpen 0x02 4 none (loseVotes [2] s)

/-- The TAG counters of the serving lanes go on from the records presented (R127). -/
def stepTags (r : Nat → VRec) (s : State) : State :=
  s.servingLanes.foldl (fun s i => s.updLane i fun l => { l with tag := (r i).tag + 1 }) s

/-- The KINDs that the serving lanes present. -/
def presentedKinds (r : Nat → VRec) (lanes : List Nat) : List Nat := sortNats (lanes.map fun i => (r i).kind.toNat)

/-- What R131 makes of a vote. Of a minority, the lane that an exclusion has masked while its record was in the vote path is counted
and no more (R139, R152). -/
def actOnVote (kinds : List Nat) (v : VoteResult) (s : State) : State :=
  match v with
  | .voted _ => s
  | .minority w i x =>
    if kindVotes w.kind.toNat then
      let s := countMinority i s
      if s.serving i then excludeLane i (minorityCause w x) (minorityPrint w x) false s else s
    else s
  | .noMajority => raiseNoAgree (loseVotes kinds s)

/-- The record is a self-test record: at least two lanes present KIND 0xA. -/
def isSelftest (r : Nat → VRec) (lanes : List Nat) : Bool := decide (2 ≤ (lanes.filter fun i => (r i).kind == 0xA).length)

/-- The lanes whose records vote: those that serve, and for a record in the vote path at the latest masking the lane masked (R139). -/
def votingLanes (inPath : Bool) (s : State) : List Nat :=
  (List.range 3).filter fun i => s.serving i || (inPath && decide (s.voter.lastMasked = some i))

/-- A disagreement of the voters and a parity error are each a class 4 fault, in ascending source; the record is not passed on and
nobody is excluded (R130, R143). -/
def voterFaults (kinds : List Nat) (votersAgree parityOk : Bool) (s : State) : State :=
  let s := loseVotes kinds s
  let s := if votersAgree then s else raiseOpen 0x01 4 none s
  if parityOk then s else raiseOpen 0x03 4 none s

/-- The vote of one record of each serving lane; `inPath` says that it was in the vote path when a lane was masked. -/
def execVoteRecord (r0 r1 r2 : VRec) (votersAgree parityOk : Bool) (s : State) (inPath : Bool := false) : Host.Outcome State Fault Refusal :=
  .next (whileRunning (fun s =>
    let r := laneRecord r0 r1 r2
    let lanes := votingLanes inPath s
    let kinds := presentedKinds r lanes
    let t := stepTags r s
    if !votersAgree || !parityOk then voterFaults kinds votersAgree parityOk t
    else if isSelftest r lanes then selfTest r t
    else match voteServing lanes r with
      | some v => actOnVote kinds v t
      | none => s) s)

/-! ### Lane faults (R124, R138) -/

def execLaneWatchdogExpiry (lane : LaneId) (s : State) : Host.Outcome State Fault Refusal :=
  .next (whileRunning (fun s => laneFault lane.val 0x16 s) s)

/-- A lane rail outside its window; RAIL_MV shows it (R124, R326). -/
def execLaneRailWindowFault (lane : LaneId) (s : State) (mv : Half := 0) : Host.Outcome State Fault Refusal :=
  .next (whileRunning (fun s => laneFault lane.val 0x13 (s.updLane lane.val fun l => { l with railMv := mv.toNat })) s)

def execLaneRailsCommonMode (s : State) : Host.Outcome State Fault Refusal := .next (whileRunning (fun s => raiseOpen 0x0D 4 none s) s)

/-- Two or more rails below regulation: the module is without supply, its outputs and CAN channels stop (R31, R382); no frame in progress
ends without it (DEDUCED, log entry 58). -/
def execLaneRailsLost (s : State) : Host.Outcome State Fault Refusal :=
  .next (if s.mstate = .off then s
    else
      let s := (s.updMstate fun _ => .off).updIo fun i => { i with gen1 := false, gen2 := false, disc1 := none, disc2 := none }
      haltCan .can2 (haltCan .can1 s))

/-! ### Reintegration (R145 to R149) -/

/-- A lane's state changes, where it stands in the state named. -/
def laneFrom (old : LaneState) (i : Nat) (f : State → State) (s : State) : State := if (s.lane i).st = old then f s else s

def execReintResetElapsed (lane : LaneId) (s : State) : Host.Outcome State Fault Refusal :=
  .next (whileRunning (fun s => laneFrom .reset lane.val (fun s => s.updLane lane.val fun l => { l with st := .test }) s) s)

/-- The test ends: the march test has emptied the lane's image SRAM and the bulk copy of 2,128 blocks starts, deferred while a join
stream runs; or a new exclusion with cause 0x20 locks the lane (R138, R142, R145). The test that SELFTEST runs on an excluded lane ends
with SELFTEST_COMPLETE. -/
def execReintTestComplete (lane : LaneId) (passed : Bool) (s : State) : Host.Outcome State Fault Refusal :=
  .next (whileRunning (fun s =>
    laneFrom .test lane.val (fun s =>
    if s.eff = .boot ∨ s.eff = .selftest then s
    else if !passed then exclusionSteps lane.val 0x20 (selfFingerprint 0x20) true s
    else if s.twin.join.isSome then s
    else s.updLane lane.val fun l => { l with st := .copy, dirty := 2128, copyFrom := s.cyc, marked := [], gaps := 0, img := [] }) s) s)

/-- The last block of the bulk pass is copied; the blocks written after their copy began stay to be copied again. HOLD pauses the
copy. -/
def execReintBulkCopyDone (lane : LaneId) (s : State) : Host.Outcome State Fault Refusal :=
  .next (whileRunning (fun s =>
    laneFrom .copy lane.val (fun s =>
    if s.mstate = .hold then s
    else s.updLane lane.val fun l => { copyBulk l.dirty s l with st := .delta, dirty := 0, gaps := 0 }) s) s)

/-- The marked blocks are copied again inside an idle gap, and none is left. -/
def execReintDeltaEmpty (lane : LaneId) (s : State) : Host.Outcome State Fault Refusal :=
  .next (whileRunning (fun s =>
    laneFrom .delta lane.val (fun s =>
    if s.mstate = .hold then s
    else s.updLane lane.val fun l =>
      { l.marked.foldl (fun x n => copyBlock n s x) l with st := .entry, dirty := 0, marked := [] }) s) s)

/-- Twenty idle gaps have not emptied the dirty set: cause 0x21 and a new exclusion. -/
def execReintGapsExhausted (lane : LaneId) (s : State) : Host.Outcome State Fault Refusal :=
  .next (whileRunning (fun s => laneFrom .delta lane.val (exclusionSteps lane.val 0x21 (selfFingerprint 0x21) false) s) s)

/-! ### Scan (R136) -/

/-- The scan step runs now: in SERVICE, in an idle gap, and at most one in a round. -/
def scanDue (s : State) : Bool :=
  s.inService && decide (s.voter.scanRound ≠ some s.floe.round) && (s.prog.active.map fun b => idleGap b s).getD false

/-- One scan step of the next chunk. A signature without a majority is not compared (R17). -/
def execScanStep (s : State) : Host.Outcome State Fault Refusal :=
  .next (whileRunning (fun s =>
    if !scanDue s then s
    else
      let k := s.voter.scanChunk
      let sig := finishSig (crc64Fold (crc64Fold crc64Init (windowBytes 6 k s.relRound)) (memBytes s.mem (65536 * k) 65536))
      let s := s.updVoter fun v =>
        { v with scanRound := some s.floe.round, scanChunk := (k + 1) % 120,
                 scanSweeps := if k = 119 then satInc 0xFFFFFFFF v.scanSweeps else v.scanSweeps }
      if voteLost 6 s then takeLost 6 s else compareWindow (sendStsig 6 k sig s)) s)

end Sys2Proof.Machine
end

