-- ==== Sys2Proof/Machine/Inputs.lean ====
section
/-!
DEFINITION. Local inputs: classification, filter, adaptation and reports (R250 to R255), the acknowledge press (R276), and the quench
rules with the heartbeat (R271, R132, R150).
-/
namespace Sys2Proof.Machine

/-! ### Classification (R251) -/

/-- Class of a current in µA. -/
def currentClass (wb : Bool) (ua : Nat) : InClass :=
  if 4000 ≤ ua then .on
  else if 3000 ≤ ua then .undef
  else if !wb then .off
  else if 800 ≤ ua then .off
  else if 500 ≤ ua then .undef
  else .brk

/-- A test pulse runs in the group of an output that has this input as its feedback. -/
def feedbackPulse (n : Nat) (s : State) : Bool :=
  (List.range 16).any fun k =>
    tst (ioOut s.io.live k) 26 && fld (ioOut s.io.live k) 24 20 == n &&
      (List.range 16).any fun j => groupOf j == groupOf k && (s.io.out j).pulse

/-- Class of one sample from the two converters. -/
def sampleClass (n : Nat) (ua : Nat × Nat) (s : State) : InClass :=
  let w := ioIn s.io.live n
  let a := currentClass (tst w 30) ua.1
  if !tst w 31 then .brk
  else if a ≠ currentClass (tst w 30) ua.2 ∨ s.io.fs1.st ≠ .ok ∨ feedbackPulse n s then .undef
  else a

/-! ### Filter (R252, R253) -/

/-- One sample enters the counter filter: candidate, count and target, and the samples since the bounce start. -/
def filterStep (c : InClass) (x : InSt) : InSt :=
  let bounce := match x.bounce with
    | some b => some (b + 1)
    | none => if c = x.cls then none else some 0
  if c = x.cand ∧ 0 < x.count then { x with raw := c, count := min (x.count + 1) x.target, bounce := bounce }
  else { x with raw := c, cand := c, count := 1, target := x.n, bounce := bounce }

/-- N after an accepted change that needed `req`, and the history (R253, steps 3 and 4). -/
def adaptStep (least most req : Nat) (x : InSt) : InSt :=
  let n := if x.n < req then min req most else x.n
  let hist := (req :: x.hist).take 16
  if hist.length = 16 ∧ hist.all (fun r => decide (r < n)) then { x with n := max (n - 1) least, hist := [] }
  else { x with n := n, hist := hist }

/-- The candidate becomes the filtered class. -/
def acceptClass (x : InSt) : InSt := { x with cls := x.cand, bounce := none }

/-- NEW_CLASS codes (R255). -/
def InClass.code : InClass → Nat
  | .off => 0 | .on => 1 | .brk => 2 | .undef => 3

def State.updInput (n : Nat) (f : InSt → InSt) (s : State) : State :=
  s.updIo fun i => { i with inputs := vmod i.inputs n f }

/-! ### Reports -/

/-- PINNED of an input, at most one in 60 s. -/
def recordPinned (n req most : Nat) (s : State) : State :=
  let recent := match (s.io.input n).pinMs with
    | some t => decide (s.tb.ms < t + 60000)
    | none => false
  if recent then s
  else record 0x0901 1 (0x100 + n) n req most 0 (s.updInput n fun x => { x with pinMs := some s.tb.ms })

/-- IN_VALID or IN_INVALID, at most one in 1 s; the rest are counted (R254). -/
def recordValidity (n : Nat) (s : State) : State :=
  let x := s.io.input n
  let recent := match x.evtMs with
    | some t => decide (s.tb.ms < t + 1000)
    | none => false
  if recent then s.updInput n fun x => { x with evtSupp := satInc 63 x.evtSupp }
  else record (if x.valid then 0x0802 else 0x0801) 1 (0x100 + n) n x.cls.code 0 0
    (s.updInput n fun x => { x with evtMs := some s.tb.ms })

/-- States that report changes of state (R255). -/
def cosState (s : State) : Bool :=
  match s.eff with
  | .boot | .startup | .test | .recovery => true
  | _ => false

/-- A change of the filtered class joins the COS queue of 64. -/
def pushCos (n : Nat) (s : State) : State :=
  if !cosState s || !tst (ioIn s.io.live n) 29 then s
  else s.updIo fun i =>
    if 64 ≤ i.cos.length then { i with cosLost := satInc 0xFFFF i.cosLost }
    else
      let r : CosRec := { input := n, cls := (i.input n).cls, seq := i.cosSeq + 1, time := s.tb.tb.ns }
      { i with cos := i.cos ++ [r], cosSeq := i.cosSeq + 1 }

/-! ### The acknowledge press (R276) -/

/-- The group switch reads open and every output of the group reads OFF. -/
def groupSeenOff (g : Nat) (s : State) : Bool :=
  !s.gen g && (List.range 16).all fun k => groupOf k != g || (s.io.out k).rbOff

/-- A press starts at a filtered ON, ends at a filtered OFF, and does not count when the input becomes invalid. A press of 0.5 to
3.0 s is kept. -/
def pressChange (was now : InClass) (s : State) : State :=
  s.updIo fun i =>
    { i with ack :=
        if now = .on then
          { i.ack with startMs := some s.tb.ms, g1Held := groupSeenOff 1 s, g2Held := groupSeenOff 2 s }
        else match i.ack.startMs with
          | none => i.ack
          | some st =>
            let good := was = .on ∧ now = .off ∧ st + 500 ≤ s.tb.ms ∧ s.tb.ms ≤ st + 3000
            { i.ack with startMs := none,
                         done := if good then some (st, s.tb.ms, i.ack.g1Held, i.ack.g2Held) else i.ack.done } }

def ackInput (n : Nat) (s : State) : Bool := tst (nth s.io.live 0) 31 && fld (nth s.io.live 0) 28 24 == n

/-- The conditions of a group's cause, checked while a press lasts. -/
def watchPress (s : State) : State :=
  s.updIo fun i =>
    { i with ack := { i.ack with g1Held := i.ack.g1Held && groupSeenOff 1 s, g2Held := i.ack.g2Held && groupSeenOff 2 s } }

/-! ### One sample of one input -/

/-- The filtered class of an input has changed after `b` samples of bounce. -/
def inputChanged (n : Nat) (old : InSt) (b : Nat) (s : State) : State :=
  let w := ioIn s.io.live n
  let s := if tst w 28 then
      let s := s.updInput n (adaptStep (fld w 5 0) (fld w 21 16) (b + 2))
      if fld w 21 16 < b + 2 ∧ old.n < b + 2 then recordPinned n (b + 2) (fld w 21 16) s else s
    else s
  let x := s.io.input n
  let s := if old.valid = x.valid then s else recordValidity n s
  let s := if ackInput n s then pressChange old.cls x.cls s else s
  pushCos n s

/-- One sample of input n: current in µA at the two converters. -/
def sampleInput (n : Nat) (ua : Nat × Nat) (s : State) : State :=
  let old := s.io.input n
  let x := filterStep (sampleClass n ua s) { old with ua := min ua.1 0x7FFF }
  if x.count < x.target then s.updInput n fun _ => x
  else
    let s := s.updInput n fun _ => acceptClass x
    if x.cand = old.cls then s else inputChanged n old ((x.bounce.getD 0) - (x.target - 1)) s

/-- Logic and memory BIST are part of a power-on start and of a cold restart (R386). -/
def fullTest (s : State) : Bool := !s.fromDormant && decide (s.fram.startKind ≠ 3)

/-- Logic and memory BIST run, in SELFTEST of a start that has them. -/
def bistRuns (s : State) : Bool := decide (s.eff = .selftest) && fullTest s && !s.testsDone

/-- One sample instant: 32 inputs in ascending number (R250, R252). During logic and memory BIST, sampling pauses. -/
def execInputSample (microamps : List (Nat × Nat)) (s : State) : Host.Outcome State Fault Refusal :=
  .next (if !s.runs || bistRuns s then s
    else (List.range 32).foldl (fun s n => sampleInput n (microamps.getD n (0, 0)) s) (watchPress s))

/-! ### Quench rules (R271) -/

/-- An input meets its POL level; an invalid one counts as at it. -/
def atPol (c : List Word) (q n : Nat) (i : Io) : Bool :=
  !(i.input n).valid || decide ((i.input n).cls = .on) == tst (ioRule c q 1) n

def ruleCond (c : List Word) (q : Nat) (i : Io) : Bool :=
  let masked := (List.range 32).filter fun n => tst (ioRule c q 0) n
  if tst (ioRule c q 2) 31 then masked.all fun n => atPol c q n i else masked.any fun n => atPol c q n i

/-- One rule's evaluation. A latching rule is released by REL_IN going from a valid OFF to a valid ON while COND is 0. -/
def ruleStep (c : List Word) (q : Nat) (i : Io) (r : RuleSt) : RuleSt :=
  if ioRule c q 0 = 0 then r
  else
    let cond := ruleCond c q i
    let rel := (i.input (fld (ioRule c q 2) 28 24)).cls
    if !tst (ioRule c q 2) 30 then { active := cond, cond := cond, relOff := false }
    else if cond then { active := true, cond := true, relOff := false }
    else { active := r.active && !(r.relOff && decide (rel = .on)), cond := false, relOff := decide (rel = .off) }

def evaluateRules (s : State) : State :=
  s.updIo fun i => { i with rules := Vector.ofFn fun q : Fin 16 => ruleStep i.live q.val i (i.rule q.val) }

/-! ### Heartbeat (R150) -/

/-- No class 4 fault raised or pending. -/
def noClassFour (c : Fcu) : Bool :=
  !unack c 4 && c.sources.all fun e => decide (e.2.rail = 1 ∨ e.2.lastClass ≠ 4)

/-- The conditions of R150 at the completion of a quench vote that has agreed. -/
def heartbeatOk (s : State) : Bool :=
  s.inService && !s.voter.hbStopped && s.voter.selftestOk && decide (s.tb.ms ≤ s.voter.selftestMs + 10) &&
    noClassFour s.fcu && decide (2 ≤ s.servingLanes.length)

def stopHeartbeat (s : State) : State :=
  s.updVoter fun v => { v with hbRun := false, hbStopped := v.hbStopped || v.hbRun || s.inService }

/-- HB_A and HB_B toggle together, or stop until a restart. -/
def heartbeat (s : State) : State :=
  if heartbeatOk s then s.updVoter fun v => { v with hbA := !v.hbA, hbB := v.hbA, hbRun := true, selftestOk := true }
  else stopHeartbeat s

/-- The self-test the voters insert when none has run for 10 ms (R132). -/
def insertSelftest (s : State) : State :=
  if s.tb.ms < s.voter.selftestMs + 10 then s
  else
    let n := s.voter.selftestN
    let r (i : Nat) : VRec := { kind := 0xA, tag := (s.lane i).tag, data := BitVec.ofNat 64 n }
    selfTest r (stepTags r s)

/-- States in which rules are evaluated (R271). -/
def quenchState (s : State) : Bool :=
  decide (s.mstate = .hold) || match s.mstate with
    | .startup | .service | .test | .recovery => true
    | _ => false

/-- A quench evaluation at a millisecond of network time. The lanes hold one image, so their results are equal; a lane that
differs is a VOTE_RECORD. A result that the voters have not passed on has no effect, and no beat follows it (R17, R150). -/
def execQuenchEvaluation (s : State) : Host.Outcome State Fault Refusal :=
  .next (whileRunning (fun s =>
    if !quenchState s then s
    else if voteLost 5 s then stopHeartbeat (takeLost 5 s)
    else
      let s := evaluateRules s
      heartbeat (if 2 ≤ s.servingLanes.length then insertSelftest s else s)) s)

end Sys2Proof.Machine
end

