-- ==== Sys2Proof/Machine/LocalIo.lean ====
section
/-!
DEFINITION. Field supplies (R264, R265), output readback, test pulses and wiring faults (R258 to R262), overload and open load
(R260), feedback supervision (R270) and the output guard (R267, R268).
-/
namespace Sys2Proof.Machine

/-! ### Field supplies -/

/-- The state that a reading in mV leads towards, and the consecutive samples it takes (R264). -/
def supplyBand (mv : Nat) : Option (FsState × Nat) :=
  if mv < 12000 then some (.missing, 4)
  else if mv < 18000 then some (.low, 4)
  else if 31000 < mv then some (.over, 4)
  else if 19000 ≤ mv ∧ mv ≤ 30300 then some (.ok, 400)
  else none

def supplyStep (mv : Nat) (f : FsSt) : FsSt :=
  let f := { f with mv := min mv 0xFFFF, lagOk := decide (f.st = FsState.ok) }
  match supplyBand mv with
  | none => { f with run := 0 }
  | some (b, need) =>
    let run := if f.cand = b ∧ 0 < f.run then min (f.run + 1) need else 1
    { f with cand := b, run := run, st := if need ≤ run then b else f.st }

/-- The source of a supply holds its error pattern while the supply is not OK after it has been OK (R265, R278). -/
def supplySource (src : Nat) (old new : FsState) (s : State) : State :=
  if old = .ok ∧ new ≠ .ok then
    let (v, s) := drawFree s
    presentPattern src 2 2 (BitVec.ofNat 32 v.toNat) none s
  else if old ≠ .ok ∧ new = .ok then endPattern src (activeMs src s) s
  else s

/-- One sample of both field supplies. -/
def execFieldSupplySample (mv1 mv2 : Nat) (s : State) : Host.Outcome State Fault Refusal :=
  .next (if !s.runs then s
    else
      let f1 := supplyStep mv1 s.io.fs1
      let f2 := supplyStep mv2 s.io.fs2
      let t := s.updIo fun i => { i with fs1 := f1, fs2 := f2 }
      settleOutputs (supplySource 0x27 s.io.fs2.st f2.st (supplySource 0x26 s.io.fs1.st f1.st t)))

/-! ### Wiring faults (R261, R262) -/

/-- A wiring fault of a group at class 3 with its cause; the group switch opens and the group is locked out. -/
def wiringFault (g : Nat) (cause : Half) (s : State) : State := raiseOpen (0x1F + g) 3 (some cause) s

/-- The other group is locked out with the faulty one. -/
def lockGroup (g : Nat) (cause : Half) (s : State) : State := stopGroup g (writeLock 2 g cause (0x1F + g) s)

/-- One fault of class 3 locks out both groups (R261, R262). It is a fault of the group of the output concerned; its records and those of
the other group enter in ascending source (R294; DESIGN CHOICE, log entry 70). -/
def wiringFaultBoth (g : Nat) (cause other : Half) (s : State) : State :=
  if g = 1 then lockGroup 2 other (wiringFault 1 cause s) else wiringFault g cause (lockGroup (3 - g) other s)

def State.disc (s : State) (g : Nat) : Option Nat := if g = 1 then s.io.disc1 else s.io.disc2

/-- GS_g opens for 2 ms and output k is read; not while another output of the group is, or the group is locked out. -/
def discriminate (k : Nat) (s : State) : State :=
  let g := groupOf k
  if (s.disc g).isSome ∨ lockStands 2 g s then s
  else s.updIo fun i =>
    if g = 1 then { i with gen1 := false, disc1 := some k } else { i with gen2 := false, disc2 := some k }

/-! ### Readback (R258, R260, R261) -/

/-- What one sample sets in an output; `cmd` is the command in force, `old2` that it has stood for more than 2 ms. -/
def readbackStep (mv ma : Nat) (cmd old2 ready : Bool) (o : OutSt) : OutSt :=
  { o with rbOn := decide (12000 ≤ mv), rbOff := decide (mv ≤ 5000), ma := min ma 0x7FF,
           openLd := o.openLd && decide (ma < 5), failOn := o.failOn && decide (mv < 12000),
           onRun := if !cmd ∧ old2 ∧ 5000 < mv then min (o.onRun + 1) 4 else 0,
           offRun := if cmd ∧ ready ∧ mv < 12000 then min (o.offRun + 1) 20 else 0 }

/-- One output at a sample, with the checks "on when commanded off" and "cannot switch on". -/
def readbackOutput (k mv ma : Nat) (s : State) : State :=
  let o := s.io.out k
  let ready := usable (groupOf k) s && !o.ovl
  let s := s.updOut k (readbackStep mv ma o.command (decide (o.cmdCyc + 250000 < s.cyc)) ready)
  let o := s.io.out k
  let s := if o.offRun = 20 ∧ !o.failOn then
      raiseOpen (0x23 + groupOf k) 1 none (s.updOut k fun o => { o with failOn := true })
    else s
  if o.onRun = 4 then discriminate k s else s

/-- One readback sample of the 16 outputs: voltage in mV and current in mA each. -/
def execOutputReadbackSample (mvMa : List (Nat × Nat)) (s : State) : Host.Outcome State Fault Refusal :=
  .next (if !s.runs then s
    else watchPress ((List.range 16).foldl
      (fun s k => let x := mvMa.getD k (0, 0); readbackOutput k x.1 x.2 s) (settleOutputs s)))

/-! ### Test pulses (R259, R261) -/

/-- The pulse of output k begins, or is skipped. -/
def execTestPulseStart (k : Fin 16) (s : State) : Host.Outcome State Fault Refusal :=
  .next (if s.runs && energised k.val s && outPulseEn k.val s &&
      decide ((s.io.out k.val).cmdCyc + 250000 ≤ s.cyc) then s.updOut k.val fun o => { o with pulse := true }
    else s)

/-- Energised outputs whose readback fell during the pulse of k. -/
def fellOutputs (k : Nat) (fell : BitVec 16) (s : State) : List Nat :=
  (List.range 16).filter fun j => j != k && tst fell j && energised j s

/-- What the end of a pulse of k shows: the pulse on another group's output, on an output of its own group, or an output that
stays on. -/
def pulseOutcome (k : Nat) (readOff : Bool) (fell : BitVec 16) (s : State) : State :=
  let js := fellOutputs k fell s
  if js.any fun j => groupOf j != groupOf k then wiringFaultBoth (groupOf k) 0x0104 0x0104 s
  else if !js.isEmpty then wiringFault (groupOf k) 0x0103 s
  else if !readOff then discriminate k s
  else s

/-- The pulse of output k ends: whether its readback read OFF by then, and the outputs whose readback fell to OFF during it. -/
def execTestPulseEnd (k : Fin 16) (readOff : Bool) (fell : BitVec 16) (s : State) : Host.Outcome State Fault Refusal :=
  .next (whileRunning (fun s =>
    if !(s.io.out k.val).pulse then s
    else pulseOutcome k.val readOff fell (s.updOut k.val fun o => { o with pulse := false })) s)

/-! ### Discrimination (R262) -/

/-- The 2 ms of group g have passed: G1 for 0, G2 for 1. -/
def execDiscriminationEnd (g : Fin 2) (readOn : Bool) (s : State) : Host.Outcome State Fault Refusal :=
  .next (whileRunning (fun s =>
    match s.disc (g.val + 1) with
    | none => s
    | some _ =>
      let n := g.val + 1
      let s := s.updIo fun i => if n = 1 then { i with disc1 := none } else { i with disc2 := none }
      settleOutputs (if !readOn then wiringFault n 0x0101 s
        else if !groupEnergised (3 - n) s then wiringFault n 0x0102 s
        else wiringFaultBoth n 0x0102 0x0104 s)) s)

/-! ### Overload and open load (R260) -/

/-- Ten milliseconds in current limit, or thermal shutdown: latched off. -/
def execOutputOverload (k : Fin 16) (ma : Nat) (s : State) : Host.Outcome State Fault Refusal :=
  .next (if !s.runs || (s.io.out k.val).ovl then s
    else
      let s := s.updOut k.val fun o => { o with ovl := true }
      record 0x0803 1 (0x140 + k.val) k.val ma 0 0 (raiseOpen (0x23 + groupOf k.val) 1 none s))

/-- The command has been 0 for 1.0 s. -/
def execOvlClear (k : Fin 16) (s : State) : Host.Outcome State Fault Refusal :=
  let o := s.io.out k.val
  .next (if s.runs && o.ovl && !commandOf k.val s && !o.command && decide (o.cmdCyc + 125000000 ≤ s.cyc) then
      s.updOut k.val fun o => { o with ovl := false }
    else s)

/-- An energised output below 5 mA for 100 ms, with OPEN_DET 1. -/
def execOpenLoad (k : Fin 16) (s : State) : Host.Outcome State Fault Refusal :=
  .next (if s.runs && tst (ioOut s.io.live k.val) 27 && energised k.val s && !(s.io.out k.val).openLd then
      record 0x0804 0 (0x140 + k.val) k.val 0 0 0 (s.updOut k.val fun o => { o with openLd := true })
    else s)

/-! ### Feedback (R270) -/

/-- The filtered feedback input is not at the value expected of the energised state; an invalid one never is. -/
def feedbackDiffers (k : Nat) (s : State) : Bool :=
  let w := ioOut s.io.live k
  let x := s.io.input (fld w 24 20)
  tst w 26 && !(x.valid && decide (x.cls = .on) == xor (energised k s) (tst w 25))

/-- The feedback differs after its window: the group is locked out. -/
def execFeedbackFault (k : Fin 16) (s : State) : Host.Outcome State Fault Refusal :=
  .next (if s.runs && feedbackDiffers k.val s then
      raiseOpen (0x21 + groupOf k.val) 3 (some 0x0105) (s.updOut k.val fun o => { o with fbFault := true })
    else s)

/-! ### Output guard (R267, R268) -/

/-- An accepted beat; the sixteenth in a row arms a tripped guard. -/
def acceptBeat (ms : Nat) (g : Guard) : Guard :=
  if g.tripped then
    if 16 ≤ g.accepted + 1 then { g with tripped := false, accepted := 0, lastBeatMs := ms }
    else { g with accepted := g.accepted + 1, lastBeatMs := ms }
  else { g with lastBeatMs := ms }

/-- A beat that meets the first condition of R267, so many µs after the beat before it. -/
def execGuardBeat (sincePrevUs : Nat) (s : State) : Host.Outcome State Fault Refusal :=
  .next (if s.mstate = .off then s
    else if sincePrevUs < 500 then tripGuard s
    else if 2000 < sincePrevUs then s.updIo fun i => { i with guard := { i.guard with accepted := 0 } }
    else s.updIo fun i => { i with guard := acceptBeat s.tb.ms i.guard })

/-- HB_A and HB_B equal for more than 2 µs. -/
def execGuardHbEqual (s : State) : Host.Outcome State Fault Refusal := .next (if s.mstate = .off then s else tripGuard s)

/-- No accepted beat for GUARD_TO_MS. -/
def execGuardTimeout (s : State) : Host.Outcome State Fault Refusal := .next (if s.mstate = .off then s else tripGuard s)

end Sys2Proof.Machine
end

