-- ==== Sys2Proof/Machine/Floe.lean ====
section
/-!
DEFINITION. The Floe state machine (R214), clock synchronisation (R209 to R212), channel conditions (R223) and mode switches (R219,
R220).
-/
namespace Sys2Proof.Machine

/-! ### Channels and clock -/

def State.chan (s : State) : Chan → FloeChan
  | .a => s.floe.chA
  | .b => s.floe.chB

def State.updChan (c : Chan) (f : FloeChan → FloeChan) (s : State) : State :=
  s.updFloe fun x => match c with
    | .a => { x with chA := f x.chA }
    | .b => { x with chB := f x.chB }

def chanNum : Chan → Nat
  | .a => 0
  | .b => 1

/-- FCU source of a channel (R279). -/
def chanSource (c : Chan) : Nat := 0x28 + chanNum c

def chanLocked (c : Chan) (s : State) : Bool := lockStands 5 (chanNum c) s

/-- Frames pass on a channel: link up, no lock-out (R223, R275). -/
def chanPasses (c : Chan) (s : State) : Bool := (s.chan c).linkUp && !chanLocked c s

/-- A class 2 condition of a channel; escalated to class 3 it locks the channel out with CH_COND (R223, R284). -/
def channelFault (c : Chan) (s : State) : State := raiseOpen (chanSource c) 2 (some 0x0301) s

/-- The clock that keeps network time: the integration counter while it runs (R211). -/
def State.netClock (s : State) : Clock := if s.tb.integRun then s.tb.integ else s.tb.tb

/-! ### FSTATE (R214, R226) -/

def FState.code : FState → Nat
  | .down => 0 | .listen => 1 | .coldstart => 2 | .integrate => 3 | .sync => 4 | .passive => 5

/-- TB_SYNC in each FSTATE. -/
def syncOf : FState → BitVec 2
  | .down | .listen | .coldstart => 0
  | .integrate | .passive => 1
  | .sync => 2

/-- Enters an FSTATE, with its TB_SYNC and the FSTATE record. -/
def setFState (new : FState) (s : State) : State :=
  if s.floe.fstate = new then s
  else
    record 0x0601 1 0x02A s.floe.fstate.code new.code s.floe.round 0
      ((s.updFloe fun f => { f with fstate := new }).updTb fun t =>
        { t with sync := syncOf new, integRun := t.integRun && decide (new = .integrate ∨ new = .sync) })

/-- Back to LISTEN: what was gathered towards synchronisation is dropped. -/
def toListen (s : State) : State :=
  let s := s.updFloe fun f =>
    { f with coldA := none, coldB := none, coldTake := none, syncNext := false, integGood := 0, integRounds := 0,
             passiveRounds := none, passiveGood := 0, slip := none }
  (setFState .listen s).updTb fun t => { t with integRun := false }

/-- Synchronisation is lost on both channels: LISTEN, and RECOVERY from SERVICE (R31, R97). -/
def loseSync (s : State) : State :=
  let s := toListen s
  if s.inService then leaveService .recovery s else s

/-- Entry into PASSIVE with its fault; the third within 60 minutes falls to LISTEN (R212). -/
def enterPassive (cls : Nat) (s : State) : State :=
  let now := s.tb.ms
  let s := s.updFloe fun f =>
    { f with passiveCnt := satInc 0xFFFF f.passiveCnt, passiveMs := now :: f.passiveMs.filter (withinHour now),
             passiveRounds := some 0, passiveGood := 0 }
  let s := raiseOpen 0x2A cls none s
  if 3 ≤ s.floe.passiveMs.length then loseSync s else setFState .passive s

/-- Synchronisation is reached; from RECOVERY a warm restart follows (R31). In HOLD it waits for the supply (R30). -/
def gainSync (s : State) : State :=
  let s := setFState .sync s
  if s.mstate = .recovery then restart .warm 7 s else s

/-- Both channels have come to be not OK (R214, R223). -/
def bothLost (s : State) : State :=
  if (s.floe.fstate = .sync ∨ s.floe.fstate = .passive) ∧ !s.floe.chA.ok ∧ !s.floe.chB.ok then loseSync s else s

/-! ### Links (R214, R223) -/

/-- The record in force passes the checks of R190, the schedule of INIT_MODE is loaded, and a key is loaded where keyed. -/
def floeConfigured (s : State) : Bool :=
  let c := s.floe.live
  ((floeChecks (0 :: 0 :: c)).all fun x => x.2.2) && roundsFit (roundMs c) s.taskRecords &&
    (vget s.floe.liveSched none (floeInitMode c)).isSome &&
    (!floeKeyed c || s.keys.reg0.isSome || s.keys.reg1.isSome)

/-- FSTATE leaves DOWN; a link that is down is raised at that instant. -/
def leaveDown (s : State) : State :=
  let s := setFState .listen (s.updFloe fun f => { f with mode := BitVec.ofNat 2 (floeInitMode f.live) })
  let s := if s.floe.chA.linkUp then s else channelFault .a s
  if s.floe.chB.linkUp then s else channelFault .b s

def execLinkUp (ch : Chan) (s : State) : Host.Outcome State Fault Refusal :=
  .next (if !s.runs then s
    else
      let s := s.updChan ch fun c => { c with linkUp := true }
      if s.floe.fstate = .down ∧ floeConfigured s then leaveDown s else s)

/-- The recovered clock of a channel is lost, which resets its side of the frame and time-stamp crossings (R354). -/
def dropClock (n : Nat) (f : Fabric) : Fabric :=
  { f with xs := vmod (vmod f.xs n fun x => { x with notReady := true }) (n + 3) fun x => { x with notReady := true } }

/-- A frame in the frame-data crossing is discarded whole and counted in XDROP (R365). -/
def dropFrame (n : Nat) (f : Fabric) : Fabric :=
  { f with xs := vmod f.xs n fun x => { x with xdrop := satInc 0xFFFF x.xdrop } }

/-- The link of a channel is lost, in the course of a frame or not. -/
def execLinkDown (ch : Chan) (s : State) (inFrame : Bool := false) : Host.Outcome State Fault Refusal :=
  .next (if !s.runs || !(s.chan ch).linkUp then s
    else
      let s := s.updChan ch fun c => { c with linkUp := false, ok := false, goodRounds := 0 }
      let s := s.updFabric fun f => dropClock (chanNum ch) (if inFrame then dropFrame (chanNum ch) f else f)
      if s.floe.fstate = .down then s else bothLost (channelFault ch s))

/-- Three rounds without a valid beacon or counted sync frame on a channel; raised once until the channel is OK again. -/
def execChannelSilent (ch : Chan) (s : State) : Host.Outcome State Fault Refusal :=
  let c := s.chan ch
  .next (if !s.runs || s.floe.fstate == .down || decide (c.badRounds < 3) || c.silentRaised then s
    else bothLost (channelFault ch (s.updChan ch fun c => { c with ok := false, goodRounds := 0, silentRaised := true })))

/-- Three rounds without the echo of the own STATUS frame on a channel that is OK. -/
def execEchoMissing (ch : Chan) (s : State) : Host.Outcome State Fault Refusal :=
  let c := s.chan ch
  .next (if !s.runs || s.floe.fstate == .down || decide (c.echoMissRounds < 3) || !c.ok || c.txOff then s
    else channelFault ch (s.updChan ch fun c => { c with txOff := true }))

/-! ### Fault-tolerant midpoint (R210) -/

def devOn (c : Chan) (num : Nat) (ds : List (Nat × Chan × Int)) : Option Int :=
  (ds.find? fun d => d.1 == num && d.2.1 == c).map fun d => d.2.2

/-- The value a SYNC slot gives: the mean of the two channels, truncated toward 0, or the one there is. -/
def slotValue (num : Nat) (ds : List (Nat × Chan × Int)) : Option Int :=
  match devOn .a num ds, devOn .b num ds with
  | some a, some b => some ((a + b).tdiv 2)
  | some a, none => some a
  | none, some b => some b
  | none, none => none

/-- The values of a round: 0 for the module itself where it is a sync node in SYNC. -/
def syncValues (s : State) : List Int :=
  (if floeSyncNode s.floe.live ∧ s.floe.fstate = .sync then [0] else []) ++
    ((s.slots.filter fun x => x.sync && x.owner != floeNode s.floe.live).filterMap fun x => slotValue x.num s.floe.devs)

def insertInt (x : Int) : List Int → List Int
  | [] => [x]
  | y :: ys => if x ≤ y then x :: y :: ys else y :: insertInt x ys

def sortInts (xs : List Int) : List Int := xs.foldr insertInt []

/-- FTM of a list of values; none for no value. -/
def midpoint (xs : List Int) : Option Int :=
  let k := xs.length
  let m := if k ≤ 2 then 0 else if k ≤ 7 then 1 else 2
  let kept := ((sortInts xs).drop m).take (k - 2 * m)
  match kept.head?, kept.getLast? with
  | some lo, some hi => some ((lo + hi).tdiv 2)
  | _, _ => none

/-! ### Corrections (R94, R95, R211) -/

/-- The rate correction of R211 in units of TB_RATE. -/
def rateStep (ftm : Int) (l : Nat) : Int := -roundHalfAway (ftm * 2 ^ 31) l

/-- Adds a state and a rate correction to a clock; the rate is bounded by COMP_LIMIT. -/
def Clock.correct (limit : Nat) (ftm rate : Int) (c : Clock) : Clock :=
  let want := c.rate.toInt + rate
  { c with slew16 := c.slew16 - 16 * ftm,
           rate := if (limit : Int) < want then BitVec.ofNat 32 limit
             else if want < -(limit : Int) then BitVec.ofInt 32 (-(limit : Int)) else BitVec.ofInt 32 want }

/-- Round of the latest PINNED record of the clock that keeps network time, while its rate stays pinned. -/
def State.pinned (s : State) : Option Nat := if s.tb.integRun then s.tb.pinInteg else s.tb.pinRound

def setPinned (r : Option Nat) (s : State) : State :=
  s.updTb fun t => if t.integRun then { t with pinInteg := r } else { t with pinRound := r }

/-- PINNED of a clock, at most once in 1,000 rounds while its rate stays pinned (R95). -/
def recordPinnedRate (want bound : Int) (s : State) : State :=
  let recent := match s.pinned with
    | some r => decide (s.floe.round < r + 1000)
    | none => false
  if recent then s
  else record 0x0901 1 0x200 ((BitVec.ofInt 32 want).toNat) ((BitVec.ofInt 32 bound).toNat) 0 0
    (setPinned (some s.floe.round) s)

/-- The corrections of a round go to the clock that keeps network time. -/
def applyCorrection (ftm : Int) (s : State) : State :=
  let limit := s.tb.compLimit.toNat
  let step := rateStep ftm s.roundNs
  let want := s.netClock.rate.toInt + step
  let s := if (limit : Int) < want then recordPinnedRate want limit s
    else if want < -(limit : Int) then recordPinnedRate want (-(limit : Int)) s
    else setPinned none s
  s.updTb fun t =>
    if t.integRun then { t with integ := t.integ.correct limit ftm step } else { t with tb := t.tb.correct limit ftm step }

/-! ### Channel conditions at the correction point (R218, R223) -/

/-- The own STATUS frame went out on a channel in this round. -/
def statusSent (c : Chan) (s : State) : Bool :=
  s.floe.sent.any fun x => x.2.1 == c && frType (x.2.2.2.drop 14) == 3

/-- Counts a round of a channel: good, silent, echo missing. -/
def judgeRound (passes sent : Bool) (c : FloeChan) : FloeChan :=
  let good := passes && c.beaconNow && c.syncNow
  let goodN := if good then min (c.goodRounds + 1) 2 else 0
  let missing := sent && !c.echoNow
  let ok := passes && (c.ok || goodN == 2)
  { c with goodRounds := goodN, ok := ok, badRounds := if c.heardNow then 0 else c.badRounds + 1,
           silentRaised := c.silentRaised && !ok,
           echoMiss := if missing then satInc 0xFFFF c.echoMiss else c.echoMiss,
           echoMissRounds := if missing then c.echoMissRounds + 1 else 0 }

def judgeChannel (c : Chan) (s : State) : State := s.updChan c (judgeRound (chanPasses c s) (statusSent c s))

/-- A channel on which the own echo deviates from FTM by more than 1,000 ns; none without an echo. -/
def ownDevBad (ftm : Int) (c : FloeChan) : Bool :=
  match c.ownDev with
  | some d => c.echoNow && decide (1000 < (d - ftm).natAbs)
  | none => false

/-- The own deviation is too large on one channel alone: it stops sending there. -/
def stopSending (c : Chan) (s : State) : State :=
  if (s.chan c).txOff then s else channelFault c (s.updChan c fun x => { x with txOff := true })

/-- The limits of R212 in SYNC. `now` is the midpoint of this round, if it has one. -/
def syncLimits (now : Option Int) (s : State) : State :=
  let badA := ownDevBad s.floe.ftm s.floe.chA
  let badB := ownDevBad s.floe.ftm s.floe.chB
  if (now.map fun x => decide (750 < x.natAbs)).getD false || (badA && badB) then enterPassive 1 s
  else if badA then stopSending .a s
  else if badB then stopSending .b s
  else s

/-- A counted round in PASSIVE; the second good one in a row leads back to SYNC, with sending from the next round. -/
def passiveRound (now : Option Int) (s : State) : State :=
  let counted := (s.floe.passiveRounds.map fun n => decide (1 ≤ n)).getD false
  if !counted then s
  else
    let good := (now.map fun x => decide (x.natAbs ≤ 250)).getD false
    let s := s.updFloe fun f => { f with passiveGood := if good then f.passiveGood + 1 else 0 }
    if 2 ≤ s.floe.passiveGood then
      setFState .sync (s.updFloe fun f => { f with mute := true, passiveRounds := none, passiveGood := 0 })
    else s

/-- A round in INTEGRATE; the second good one in a row leads to SYNC at the next round start. -/
def integrateRound (now : Option Int) (s : State) : State :=
  let good := (now.map fun x => decide (x.natAbs ≤ 250)).getD false && decide (s.floe.beaconRank ≠ 0) &&
    !s.floe.mismatch && (s.floe.chA.syncNow || s.floe.chB.syncNow)
  s.updFloe fun f =>
    let n := if good then f.integGood + 1 else 0
    { f with integGood := n, syncNext := f.syncNext || decide (2 ≤ n) }

/-- A deviation of the status block, saturating at ±32,767 (R226). -/
def satDev (d : Int) : Int := max (-32767) (min 32767 d)

/-- DATA of the KIND 0xC record that a lane presents: FTM, 0x8000_0000 when k is 0, and the two own deviations as the status block
shows them (R131, R209). -/
def syncData (s : State) : Dword :=
  let dev (c : FloeChan) (was : Int) : Half := BitVec.ofInt 16 ((c.ownDev.map satDev).getD was)
  twos 32 ((midpoint (syncValues s)).getD (-2147483648)) ++ (dev s.floe.chA s.floe.ownDevA ++ dev s.floe.chB s.floe.ownDevB)

/-- FTM of a voted record. -/
def votedFtm (d : Dword) : Option Int :=
  let x := (hiWord d).toInt
  if x = -2147483648 then none else some x

/-- The results of the round as the voted record gives them (R209, R210, R226). -/
def noteResults (k : Nat) (d : Dword) (s : State) : State :=
  s.updFloe fun f =>
    { f with ftm := (votedFtm d).getD f.ftm, syncUsed := k, ownDevA := (BitVec.ofNat 16 (fld (loWord d) 31 16)).toInt,
             ownDevB := (BitVec.ofNat 16 (fld (loWord d) 15 0)).toInt }

/-- A round whose record has not been voted goes on as one with k = 0, without own deviations (R209). -/
def noRecord (s : State) : State :=
  takeLost 0xC (s.updFloe fun f =>
    { f with syncUsed := 0, chA := { f.chA with ownDev := none }, chB := { f.chB with ownDev := none } })

/-- What the correction point judges in each FSTATE. -/
def judgeState (now : Option Int) (s : State) : State :=
  match s.floe.fstate with
  | .integrate => integrateRound now s
  | .sync => if s.floe.mismatch ∧ s.floe.beaconRank = 0 then loseSync s else syncLimits now s
  | .passive => if s.floe.mismatch ∧ s.floe.beaconRank = 0 then loseSync s else passiveRound now s
  | _ => s

/-- The corrections of the round from its voted record, and the midpoint the limits are judged by. -/
def correctRound (s : State) : Option Int × State :=
  if voteLost 0xC s then (none, noRecord s)
  else
    let d := syncData s
    let t := noteResults (syncValues s).length d s
    (votedFtm d, match votedFtm d with
      | some x => applyCorrection x t
      | none => t)

/-- The channel conditions of the round; where they take the last OK channel, synchronisation is lost (R214, R223). -/
def judgeChannels (s : State) : State :=
  let t := judgeChannel .b (judgeChannel .a s)
  if s.floe.chA.ok ∨ s.floe.chB.ok then bothLost t else t

/-- The correction point of a round (R211). -/
def execCorrectionPoint (s : State) : Host.Outcome State Fault Refusal :=
  .next (match s.floe.fstate with
    | .integrate | .sync | .passive =>
      if !s.runs then s
      else
        let (now, s) := correctRound s
        judgeState now (judgeChannels s)
    | _ => s)

/-! ### Timeouts of R214 -/

/-- No forwarded COLDSTART within 200 µs of sending. -/
def execColdstartTimeout (s : State) : Host.Outcome State Fault Refusal :=
  .next (whileRunning (fun s =>
    if s.floe.fstate = .coldstart ∧ s.floe.coldTake = none ∧ s.floe.coldA = none ∧ s.floe.coldB = none then
      toListen (s.updFloe fun f => { f with coldCnt := satInc 0xFFFF f.coldCnt })
    else s) s)

def execIntegrateTimeout (s : State) : Host.Outcome State Fault Refusal :=
  .next (whileRunning (fun s => if s.floe.fstate = .integrate ∧ 10 ≤ s.floe.integRounds ∧ !s.floe.syncNext then toListen s else s) s)

/-- The ninth counted round in PASSIVE begins. -/
def execPassiveTimeout (s : State) : Host.Outcome State Fault Refusal :=
  .next (whileRunning (fun s =>
    if s.floe.fstate = .passive ∧ (s.floe.passiveRounds.map fun n => decide (9 ≤ n)) = some true then loseSync s
    else s) s)

/-! ### Mode switch (R219 to R221) -/

/-- SWITCH_ROUND starts: the announced mode is adopted and a request for it completes with that round. -/
def switchMode (s : State) : State :=
  let f := s.floe
  let s := record 0x0603 1 0x02A f.mode.toNat f.modeNext.toNat f.switchRound.toNat 0
    (s.updFloe fun f => { f with mode := f.modeNext, swPend := false })
  match f.mreq with
  | some (m, _, _, _) => if m = f.modeNext then endModereq (.words [f.switchRound]) s else s
  | none => s

def execModeSwitch (s : State) : Host.Outcome State Fault Refusal :=
  let f := s.floe
  .next (if !s.runs || !f.swPend || decide (f.round ≠ f.switchRound.toNat) then s
    else match f.fstate with
      | .integrate | .sync | .passive =>
        if (vget f.liveSched none f.modeNext.toNat).isSome then switchMode s
        else
          let s := s.updFloe fun f => { f with swPend := false }
          if f.fstate = .sync then enterPassive 2 s else s
      | _ => s)

end Sys2Proof.Machine
end

