-- ==== Sys2Proof/Machine/Service.lean ====
section
/-!
DEFINITION. Entry into SERVICE (R31, R22, R168, R242, R255).
-/
namespace Sys2Proof.Machine

/-- The reference schedule starts at a round with no task ready; releases count from the origin round (R22, R81). -/
def startSchedule (origin : Nat) (s : State) : State :=
  s.updTasks fun t =>
    { t with origin := origin, refNow := (s.floe.round - origin) * roundMs s.floe.live * 3000000, order := [], ahead := [],
             t := t.t.map fun x => { x with refReady := false, refPos := 0, gone := x.stopped } }

/-- SERVICE begins: change-of-state reporting ends with an empty queue, and missing slots are recorded. -/
def beginService (origin : Nat) (s : State) : State :=
  let s := startSchedule origin s
  let s := s.updIo fun i => { i with cos := [] }
  recordUnscheduled (settleOutputs (enterEff .service s))

/-- The R31 guard "input agreement established" (R168). -/
def agreementHolds (s : State) : Bool := s.twinId == 0 || s.isLeader

/-- The service conditions are met: SERVICE from the next round start, in which the first releases are (R31, R22). In HOLD the
state it came from changes. A twin that joins enters at its entry boundary. -/
def execServiceEntry (s : State) : Host.Outcome State Fault Refusal :=
  .next (whileRunning (fun s =>
    if s.eff = .startup && s.serviceReady && agreementHolds s && !s.power.brownout then
      beginService (s.floe.round + 1) s
    else s) s)

end Sys2Proof.Machine
end

