-- ==== Sys2Proof/Machine/TwinLink.lean ====
section
/-!
DEFINITION. HELLO (R158 to R161), the split of a pair (R177 to R180) and the handshake of a join (R179, R181, R185).
-/
namespace Sys2Proof.Machine

/-! ### HELLO (R159, R161) -/

/-- HELLO body at the instant of sending. -/
def helloBody (s : State) : List Byte :=
  let (hold, peerTx) := match s.twin.peer with
    | some p => (s.tb.tb.ns - p.receipt, p.txTime)
    | none => (0, 0)
  wordsBytes [healthWord s, loWord hold] ++ dwordBytes s.tb.tb.ns ++ dwordBytes peerTx ++
    dwordBytes (actCrcs s).1 ++ dwordBytes (actCrcs s).2 ++ dwordBytes (cfgCrc s)

def execHelloSend (s : State) : Host.Outcome State Fault Refusal :=
  .next (if s.runs then sendMsg 0x01 1 (helloBody s) s else s)

/-- MSTATE, PSTATE and CAPABLE of the latest partner HELLO. -/
def peerMstate (s : State) : Nat := (s.twin.peer.map fun p => fld p.health 31 28).getD 0
def peerPstate (s : State) : Nat := (s.twin.peer.map fun p => fld p.health 27 25).getD 0
def peerCapable (s : State) : Bool := (s.twin.peer.map fun p => tst p.health 22).getD false

/-- The partner serves: SERVICE 2oo3 or 2oo2. -/
def peerServes (s : State) : Bool := decide (peerMstate s = 2 ∨ peerMstate s = 3)

/-- LINK_OK: a HELLO in each of the two latest completed rounds, and a one-way delay of 100 µs or less (R161). -/
def linkHolds (runs : Nat) (d : Int) (s : State) : Bool := linkUsable s && decide (runs = 2 ∧ d ≤ 100000)

/-- The partner is lost: LINK_OK 0, its HELLO shows another pair state, or the beacon reports it missing (R167). -/
def partnerLost (s : State) : Bool :=
  !s.twin.linkOk || decide (peerPstate s ≠ 2) || (s.partnerId == 1 && s.twin.missA) || (s.partnerId == 2 && s.twin.missB)

/-- d and o of a HELLO received at an instant; the half is taken toward 0 (DEDUCED, log entry 45). -/
def helloTimes (receipt : Dword) (b : List Byte) : Int × Int :=
  let d := ((receipt - dwordAt b 4).toInt - (wordAt b 1).toInt).tdiv 2
  (d, (dwordAt b 2).toInt + d - receipt.toInt)

/-- An offset of more than 2 µs in three consecutive rounds is a class 1 fault of the follower. -/
def offsetStep (o : Int) (s : State) : State :=
  if !s.partnerLeads then s.updTwin fun t => { t with offsetNs := o, offsetBad := 0 }
  else
    let bad := if 2000 < o.natAbs then s.twin.offsetBad + 1 else 0
    let s := s.updTwin fun t => { t with offsetNs := o, offsetBad := bad }
    if bad = 3 then raiseOpen 0x30 1 none s else s

/-! ### The checks of R179 -/

/-- Reasons of a join that the joining twin sees, in the order of the table. -/
def joinReason (s : State) : Option Nat :=
  if !s.twin.linkOk then some 1
  else if !(peerCapable s && s.partnerLeads) then some 2
  else if !bankEq s then some 3
  else if s.prog.sched.isSome then some 4
  else if s.reintegrating then some 5
  else if s.twin.split.isSome ∨ s.twin.join.isSome then some 6
  else if s.twin.ps = .removed then some 0x0A
  else none

/-- Reasons of a join that the serving twin sees. -/
def serveReason (s : State) : Option Nat :=
  if !s.twin.linkOk then some 1
  else if !(capable s && s.isLeader) then some 2
  else if !bankEq s then some 3
  else if s.prog.sched.isSome then some 4
  else if s.reintegrating then some 5
  else if s.twin.split.isSome ∨ s.twin.join.isSome then some 6
  else none

/-- Reasons of a split at the splitting twin. -/
def splitReason (s : State) : Option Nat :=
  if !s.twin.linkOk then some 1
  else if !(peerServes s && decide (peerPstate s = 2)) then some 2
  else if s.prog.sched.isSome then some 4
  else if s.reintegrating then some 5
  else if s.twin.split.isSome ∨ s.twin.join.isSome then some 6
  else if peerMstate s ≠ 2 then some 9
  else none

/-- Reasons of a split at the remaining twin. -/
def remainReason (s : State) : Option Nat :=
  if !s.twin.linkOk then some 1
  else if !(s.inService && decide (s.twin.ps = .paired)) then some 2
  else if s.prog.sched.isSome then some 4
  else if s.reintegrating then some 5
  else if s.twin.split.isSome ∨ s.twin.join.isSome then some 6
  else if s.servingLanes.length ≠ 3 then some 9
  else none

/-- The state in which a twin may join (ERR_STATE of R179). -/
def mayJoin (s : State) : Bool :=
  decide (s.eff = .startup) ||
    (s.inService && decide (s.twin.ps = .alone ∨ s.twin.ps = .silent ∨ s.twin.ps = .shadow))

/-! ### Start of a join (R167, R181) -/

/-- JOINREQ is sent and the twin is JOINING: its outputs are suppressed from now on. -/
def startJoin (client : Option (Port × Half)) (s : State) : State :=
  let j : Join :=
    { mine := true, roundP := s.floe.round, client := client, acked := false, cameFrom := s.twin.ps, ackRound := 0,
      unsent := [], cur := none, marked := [], quarters := 0, journal := [], tries := 0, entryRound := none, origin := 0,
      scan := 0 }
  let s := s.updTwin fun t => { t with join := some j }
  settleOutputs (setPState .joining (sendMsg 0x28 3 (roundReason s.floe.round 0) s))

/-- A join starts on its own from ALONE and SILENT, no earlier than 1.0 s after one that was abandoned. -/
def autoJoin (s : State) : State :=
  if (s.twin.ps = .alone ∨ s.twin.ps = .silent) ∧ mayJoin s ∧ s.twin.retryMs ≤ s.tb.ms ∧ joinReason s = none then
    startJoin none s
  else s

/-- What a HELLO changes in the pair (R167, R171, R185). -/
def helloEffects (s : State) : State :=
  let s := if s.twin.ps = .paired ∧ s.isLeader ∧ partnerLost s then setPState .alone s else endWaits s
  let s := match s.twin.join with
    | some j => if j.mine ∧ !peerServes s then dropJoin 2 s else s
    | none => s
  autoJoin s

/-- An accepted HELLO, received at an instant of TB_NS. -/
def helloTaken (receipt : Dword) (b : List Byte) (s : State) : State :=
  let (d, o) := helloTimes receipt b
  let p : PeerHello :=
    { health := wordAt b 0, txTime := dwordAt b 2, receipt := receipt, litCrc := dwordAt b 6, descCrc := dwordAt b 8,
      cfgCrc := dwordAt b 10, round := s.floe.round }
  helloEffects (offsetStep o (s.updTwin fun t =>
    { t with peer := some p, helloNow := true, delayNs := d, linkOk := linkHolds t.helloRuns d s }))

/-- HELLO is received. After a restart of the partner any MSEQ is accepted as the first (R157). -/
def execHello (receipt : Dword) (msg : List Byte) (s : State) (restarted : Bool := false) : Host.Outcome State Fault Refusal :=
  .next (onMessage 0x01 msg (helloTaken receipt)
    (if restarted then s.updTwin fun t => { t with rxSeq := none } else s))

/-- The 1.0 s after an abandoned join is over. -/
def execJoinRetry (s : State) : Host.Outcome State Fault Refusal := .next (whileRunning (fun s => autoJoin s) s)

/-! ### TWIN.SPLIT (R178) -/

def splitExecute (p : Port) (tag : Half) (_ : List Word) (s : State) : Reply × State :=
  if !s.inService ∨ s.twin.ps ≠ .paired then (.err .errState, s)
  else match splitReason s with
    | some r => (.error .errTwin r 0, s)
    | none =>
      let s := pendStart p 0x0A02 tag (spendToken p 0x0A02 s)
      let x : Split := { mine := true, roundS := s.floe.round, client := some (p, tag), acked := false }
      (.pend, sendMsg 0x20 3 (roundReason s.floe.round 0) (s.updTwin fun t => { t with split := some x }))

def handleTwinSplit : Handler := armExecute 0x0A02 splitExecute

def execTwinSplitArm (p : Port) (tag : Half) (s : State) : Host.Outcome State Fault Refusal :=
  .next (arrive handleTwinSplit p 0x0A02 tag (wordsBytes [1, 0]) s)

def execTwinSplitExecute (p : Port) (tag : Half) (token : Word) (s : State) : Host.Outcome State Fault Refusal :=
  .next (arrive handleTwinSplit p 0x0A02 tag (wordsBytes [2, token]) s)

/-- The other twin's request: SPLITACK with 0 or the reason. -/
def splitRequested (b : List Byte) (s : State) : State :=
  let round := (wordAt b 0).toNat
  match remainReason s with
  | some r => sendMsg 0x21 3 (roundReason round r) s
  | none =>
    let x : Split := { mine := false, roundS := round, client := none, acked := true }
    sendMsg 0x21 3 (roundReason round 0) (s.updTwin fun t => { t with split := some x })

def execSplitreq (msg : List Byte) (s : State) : Host.Outcome State Fault Refusal :=
  .next (onMessage 0x20 msg splitRequested s)

/-- The reply to this twin's request. -/
def splitAnswered (b : List Byte) (s : State) : State :=
  match s.twin.split with
  | some x =>
    if !x.mine ∨ x.acked ∨ x.roundS ≠ (wordAt b 0).toNat then s
    else if wordAt b 1 = 0 then s.updTwin fun t => { t with split := some { x with acked := true } }
    else abandonSplit (wordAt b 1).toNat s
  | none => s

def execSplitack (msg : List Byte) (s : State) : Host.Outcome State Fault Refusal :=
  .next (onMessage 0x21 msg splitAnswered s)

/-- The reply has not come by the end of round s + 1. -/
def execSplitackTimeout (s : State) : Host.Outcome State Fault Refusal :=
  .next (whileRunning (fun s =>
    match s.twin.split with
    | some x => if x.mine ∧ !x.acked then openReason dropSplit s else s
    | none => s) s)

/-- The pair states from which a split boundary leads on (R167): the splitting twin is PAIRED or ALONE, the other PAIRED, or
already ALONE. -/
def splitPlaced (s : State) : Bool := decide (s.twin.ps = .paired ∨ s.twin.ps = .alone)

/-- The split boundary has come: the first T0 boundary from round s + 3 on at which the remaining twin is leader. -/
def splitDue (x : Split) (s : State) : Bool :=
  x.acked && splitPlaced s && s.inService && decide (x.roundS + 3 ≤ s.floe.round ∧ s.floe.round ≤ x.roundS + 1000) && atBoundary s &&
    (if x.mine then s.partnerLeads else s.isLeader)

/-- The splitting twin becomes a SHADOW, its command completes with the boundary round, and the frames of cycles released before it
are still sent; the other is ALONE. -/
def splitNow (x : Split) (s : State) : State :=
  if x.mine then
    let s := endSplit (.words [BitVec.ofNat 32 s.floe.round]) s
    let s := s.updTasks fun t => { t with t := t.t.map fun k => { k with shadowDiff := false } }
    settleOutputs (setPState .shadow (s.updTwin fun t => { t with shadowRound := s.floe.round }))
  else setPState .alone (s.updTwin fun t => { t with split := none })

def execSplitBoundary (s : State) : Host.Outcome State Fault Refusal :=
  .next (whileRunning (fun s =>
    match s.twin.split with
    | some x => if splitDue x s then splitNow x s else s
    | none => s) s)

/-- No boundary within 1,000 rounds of round s; R179 has no reason for it, so the record's is a free value
(DESIGN CHOICE, log entry 4). -/
def execSplitNoBoundary (s : State) : Host.Outcome State Fault Refusal :=
  .next (whileRunning (fun s =>
    match s.twin.split with
    | some x =>
      if x.roundS + 1000 < s.floe.round then openReason (fun r s => abandonRecord r 2 (endSplit (.err .errNoBoundary) (sendAbort r s))) s
      else s
    | none => s) s)

/-! ### TWIN.JOIN and the handshake (R181) -/

def joinExecute (p : Port) (tag : Half) (_ : List Word) (s : State) : Reply × State :=
  if !mayJoin s then (.err .errState, s)
  else match joinReason s with
    | some r => (.error .errTwin r 0, s)
    | none => (.pend, startJoin (some (p, tag)) (pendStart p 0x0A03 tag (spendToken p 0x0A03 s)))

def handleTwinJoin : Handler := armExecute 0x0A03 joinExecute

def execTwinJoinArm (p : Port) (tag : Half) (s : State) : Host.Outcome State Fault Refusal :=
  .next (arrive handleTwinJoin p 0x0A03 tag (wordsBytes [1, 0]) s)

def execTwinJoinExecute (p : Port) (tag : Half) (token : Word) (s : State) : Host.Outcome State Fault Refusal :=
  .next (arrive handleTwinJoin p 0x0A03 tag (wordsBytes [2, token]) s)

/-- The partner asks to join: JOINACK with 0 or the reason. The whole stream is then to be sent. -/
def joinRequested (b : List Byte) (s : State) : State :=
  let round := (wordAt b 0).toNat
  match serveReason s with
  | some r => sendMsg 0x29 3 (roundReason round r) s
  | none =>
    let j : Join :=
      { mine := false, roundP := round, client := none, acked := true, cameFrom := s.twin.ps, ackRound := s.floe.round,
        unsent := List.range 3088, cur := none, marked := [], quarters := 0, journal := [], tries := 0, entryRound := none,
        origin := 0, scan := 0 }
    sendMsg 0x29 3 (roundReason round 0) (s.updTwin fun t => { t with join := some j })

def execJoinreq (msg : List Byte) (s : State) : Host.Outcome State Fault Refusal :=
  .next (onMessage 0x28 msg joinRequested s)

/-- The reply to this twin's request. -/
def joinAnswered (b : List Byte) (s : State) : State :=
  match s.twin.join with
  | some j =>
    if !j.mine ∨ j.acked ∨ j.roundP ≠ (wordAt b 0).toNat then s
    else if wordAt b 1 = 0 then s.updTwin fun t => { t with join := some { j with acked := true } }
    else abandonJoin (wordAt b 1).toNat s
  | none => s

def execJoinack (msg : List Byte) (s : State) : Host.Outcome State Fault Refusal :=
  .next (onMessage 0x29 msg joinAnswered s)

/-- No reply within 2 rounds. -/
def execJoinackTimeout (s : State) : Host.Outcome State Fault Refusal :=
  .next (whileRunning (fun s =>
    match s.twin.join with
    | some j => if j.mine ∧ !j.acked then openReason dropJoin s else s
    | none => s) s)

/-- The partner has abandoned the join or split. -/
def abortTaken (b : List Byte) (s : State) : State :=
  let r := (wordAt b 1).toNat
  abandonSplit r (abandonJoin r s)

def execJoinabort (msg : List Byte) (s : State) : Host.Outcome State Fault Refusal :=
  .next (onMessage 0x2C msg abortTaken s)

/-- Fifty T0 boundaries have passed since the bulk pass without an entry. -/
def execJoinNoEntry (s : State) : Host.Outcome State Fault Refusal :=
  .next (whileRunning (fun s =>
    match s.twin.join with
    | some j => if 50 ≤ j.tries then dropJoin 0x0E s else s
    | none => s) s)

end Sys2Proof.Machine
end

