-- ==== Sys2Proof/Machine/JoinStream.lean ====
section
/-!
DEFINITION. The join stream (R182, R183): its 3,088 blocks, STATEBLK, the join check JCHK and the entry boundary.

The pair runtime record and the restart bookkeeping have no layout in the spec: the bytes they take here are the model's (log
entry 46).
-/
namespace Sys2Proof.Machine

/-! ### Content (R182) -/

/-- The first block of the pair runtime record: origin round, scan position, then for each task its agreement block and PUB_SEQ. -/
def runtimeBytes (s : State) : List Byte :=
  wordsBytes [BitVec.ofNat 32 s.tasks.origin, BitVec.ofNat 32 s.voter.scanChunk] ++
    (List.range 8).flatMap fun n =>
      let x := s.task n
      dwordBytes x.prevInSig ++ dwordBytes x.prevEval ++ wordBytes x.pubSeq

/-- A controller status record in three words (R237). The bits W2 [25:23], which STATUS reads as 0, carry here that there is a record,
valid, and which frame is in force. -/
def statusWords (o : Option OcStatus) : List Word :=
  match o with
  | some c => [BitVec.ofNat 32 c.lastOk, c.lastSeq, flag 31 c.lost ||| flag 30 c.never ||| at32 26 c.ocState.toNat |||
      at32 25 1 ||| flag 24 c.valid ||| flag 23 c.fromAlt ||| at32 0 c.lossCnt]
  | none => [0, 0, 0]

/-- Quarter q of the controller status records: NODEs 85·q to 85·q + 84. -/
def statusQuarter (q : Nat) (oc : Tbl OcStatus) : List Byte :=
  wordsBytes (((List.range 85).flatMap fun i => statusWords (Tbl.find oc (85 * q + i))) ++ [0])

/-- A record of 32 bytes: up to seven words, and the CRC-32C over the first 28 bytes (R274, R395). -/
def framRecord (ws : List Word) : List Word :=
  let ws := (ws ++ List.replicate 7 0).take 7
  ws ++ [crc32c (wordsBytes ws)]

/-- A lock-out record as it stands in FRAM (R274). -/
def lockWords (l : LockRec) : List Word :=
  framRecord [at32 24 l.kind.toNat ||| at32 16 l.index.toNat ||| at32 0 l.cause.toNat, l.iceSeq, hiWord l.time, loWord l.time,
    at32 0 l.source.toNat]

/-- The 32 lock-out record slots. -/
def lockArea (f : Fram) : List Byte := (f.locks.take 32).flatMap fun l => wordsBytes (lockWords l)

/-- The restart bookkeeping records of R395 in their order: RESTART_LOG, ICE_MARK, ACT_BANK with its CRCs, FW_MARK, RIME_MARK,
HOME_HDR. Where a record's fields stand within its 28 bytes is the model's (DESIGN CHOICE, log entry 46). -/
def bookRecords (s : State) : List Word :=
  let f := s.fram
  let (lit, desc) := actCrcs s
  framRecord [at32 24 f.startKind.toNat ||| at32 16 f.startCause.toNat, BitVec.ofNat 32 f.startCount] ++
    framRecord [f.iceMark] ++
    framRecord [match s.prog.actBank with
      | some b => if b then 1 else 0
      | none => 0xFFFFFFFF, hiWord lit, loWord lit, hiWord desc, loWord desc] ++
    framRecord (match f.fwMark with
      | some (v, r) => [1, v, BitVec.ofNat 32 r]
      | none => [0, 0, 0]) ++
    framRecord (match f.rimeMark with
      | some (t, c) => [at32 31 1 ||| at32 0 c.toNat, hiWord t, loWord t]
      | none => [0, 0, 0]) ++
    framRecord ([f.rbFirst, f.rbCount, f.rwFirst, f.rwCount, f.commitSeq].map (BitVec.ofNat 32))

/-- Entries of a journal record, offset and value each: a byte of booleans, or a word of four bytes (R120). -/
def journalWords : List (Nat × Byte) → List Word
  | e :: x :: y :: z :: r =>
    if e.1 < 0x8000 then BitVec.ofNat 32 e.1 :: at32 0 e.2.toNat :: journalWords (x :: y :: z :: r)
    else BitVec.ofNat 32 e.1 :: wordAt [e.2, x.2, y.2, z.2] 0 :: journalWords r
  | e :: r => BitVec.ofNat 32 e.1 :: at32 0 e.2.toNat :: journalWords r
  | [] => []

/-- A journal slot: header of task, COMMIT_SEQ, entry count with CONT, CRC-32C, then the entries (R120). -/
def journalSlot (j : Journal) : List Byte :=
  let es := wordsBytes (journalWords j.entries)
  let h := wordsBytes [at32 0 j.task, BitVec.ofNat 32 j.seq, flag 31 j.cont ||| at32 0 (es.length / 8)]
  h ++ wordBytes (crc32c (h ++ es)) ++ es

/-- The records of an incomplete set stand in the two journal slots by the parity of their COMMIT_SEQ (DESIGN CHOICE, log entry 46). -/
def journalBytes (f : Fram) (k : Nat) : List Byte :=
  ((f.partialSet.filter fun j => j.seq % 2 = k).getLast?.map journalSlot).getD []

/-- n bytes of the stream from a stream address that lies in one of its parts. -/
def streamBytes (a n : Nat) (s : State) : List Byte :=
  let fram := a - 16 * 4096
  if a < 4096 then slice (runtimeBytes s) a n
  else if a < 16 * 4096 then slice (statusQuarter ((a - 4096) / 1024) s.tasks.oc) (a % 1024) n
  else if fram < 0x20000 then memBytes s.fram.home fram n
  else if fram < 0x28000 then slice (journalBytes s.fram ((fram - 0x20000) / 0x4000)) (fram % 0x4000) n
  else if fram < 0x28400 then slice (lockArea s.fram) (fram - 0x28000) n
  else if fram < 0x40000 then slice (wordsBytes (bookRecords s)) (fram - 0x28400) n
  else if a < 2128 * 4096 then memBytes s.mem (a - 80 * 4096) n
  else memBytes s.xsram (0x40000 + (a - 2128 * 4096)) n

/-- JCHK: CRC-64 over blocks 80 to 3,087 in ascending order (R183). -/
def joinCheck (s : State) : Dword :=
  finishSig (crc64Fold (crc64Fold crc64Init (memBytes s.mem 0 0x800000)) (memBytes s.xsram 0x40000 0x3C0000))

/-! ### Dirty blocks (R183) -/

/-- The block sent next: while the bulk pass lasts the next one, then the lowest block written after its stream started. -/
def nextBlock (j : Join) : Option Nat :=
  match j.unsent with
  | n :: _ => some n
  | [] => j.marked.head?

/-- The stream of a block starts: what is written to it from now on marks it again. -/
def beginBlock (n : Nat) (j : Join) : Join :=
  { j with unsent := j.unsent.filter (· ≠ n), cur := some (n, 0), marked := j.marked.filter (· ≠ n) }

/-! ### Sending -/

def stateblkBody (n part : Nat) (s : State) : List Byte :=
  wordsBytes [BitVec.ofNat 32 n, BitVec.ofNat 32 part, 0, 0] ++ streamBytes (4096 * n + 1024 * part) 1024 s

/-- One quarter of the block in progress is sent. -/
def sendQuarter (j : Join) (n part : Nat) (s : State) : State :=
  let s := sendMsg 0x2A 5 (stateblkBody n part s) s
  s.updTwin fun t => { t with join := some { j with cur := if part = 3 then none else some (n, part + 1) } }

/-- The T0 boundary that ends the idle gap in progress, where at least 2.0 ms of the gap remain (R177, R183). -/
def gapBoundary (b : Bank) (s : State) : Option Nat :=
  let on := (List.range 8).filter fun n => taskOn n s
  match leadTask s with
  | none => none
  | some lead =>
    let r := nextDue lead s
    if (refAdvance b (slotsNow s) s.tasks).refRunning.isNone && on.all (fun n => decide (r ≤ nextDue n s)) &&
        decide (s.now + 2000000 ≤ r * s.roundNs) then some r
    else none

/-- No block is dirty in an idle gap that ends at a T0 boundary: JOINEND names it as the entry boundary. -/
def endStream (j : Join) (s : State) : State :=
  match s.prog.active.bind fun b => gapBoundary b s with
  | none => s
  | some r =>
    sendMsg 0x2B 3 (wordsBytes [BitVec.ofNat 32 r, 0] ++ dwordBytes (joinCheck s) ++ wordsBytes [0, 0])
      (s.updTwin fun t => { t with join := some { j with entryRound := some r } })

/-- What the serving twin sends next while no other message is queued. -/
def streamNext (j : Join) (s : State) : State :=
  match j.cur with
  | some (n, part) => sendQuarter j n part s
  | none => match nextBlock j with
    | some n => sendQuarter (beginBlock n j) n 0 s
    | none => endStream j s

/-- No other message is queued: what stood in the queue has left. -/
def execStateblkSend (s : State) : Host.Outcome State Fault Refusal :=
  .next (whileRunning (fun s =>
    match s.twin.join with
    | some j =>
      if j.mine || !j.acked || !linkUsable s || decide (s.floe.round ≤ j.ackRound) || j.entryRound.isSome then s
      else streamNext j (drainLink s)
    | none => s) s)

/-! ### Receiving -/

/-- Lock-out records read from their area: 32 slots, kind 0 empty. -/
def readLocks (d : List Byte) : List LockRec :=
  (List.range 32).filterMap fun i =>
    let w (k : Nat) : Word := wordAt d (8 * i + k)
    if fld (w 0) 31 24 = 0 then none
    else some { kind := BitVec.ofNat 8 (fld (w 0) 31 24), index := BitVec.ofNat 8 (fld (w 0) 23 16),
                cause := BitVec.ofNat 16 (fld (w 0) 15 0), iceSeq := w 1, time := dwordAt d (8 * i + 2),
                source := BitVec.ofNat 8 (fld (w 4) 7 0) }

/-- A quarter of a FRAM block: home copy, lock-out records, RESTART_LOG and HOME_HDR. ICE_MARK goes with the Ice Core, which is not
copied (R182); FW_MARK and RIME_MARK speak of the module's own firmware and freeze, and ACT_BANK of the bank that the join found
equal: the joiner's own stand (DESIGN CHOICE, log entry 46). -/
def writeFram (a : Nat) (d : List Byte) (f : Fram) : Fram :=
  if a < 0x20000 then { f with home := memWriteBytes f.home a d }
  else if a = 0x28000 then { f with locks := readLocks d }
  else if a = 0x28400 then
    let n (i : Nat) : Nat := (wordAt d (40 + i)).toNat
    { f with startKind := BitVec.ofNat 8 (fld (wordAt d 0) 31 24), startCause := BitVec.ofNat 8 (fld (wordAt d 0) 23 16),
             startCount := (wordAt d 1).toNat,
             rbFirst := n 0, rbCount := n 1, rwFirst := n 2, rwCount := n 3, commitSeq := n 4, nextCommit := n 4 + 1,
             waiting := [], partialSet := [] }
  else f

/-- The entries of n journal entries read from a slot. -/
def readEntriesOf (m : Mem) (base : Nat) : Nat → List (Nat × Byte)
  | 0 => []
  | n + 1 =>
    let o := (memWord m base).toNat
    (if o < 0x8000 then [(o, memRead m (base + 7))]
     else (List.range 4).map fun i => (o + i, memRead m (base + 4 + i))) ++ readEntriesOf m (base + 8) n

/-- The record in a journal slot, where its CRC-32C holds and it is one of an incomplete set. -/
def readJournal (m : Mem) (k : Nat) : Option Journal :=
  let a := 0x4000 * k
  let n := fld (memWord m (a + 8)) 15 0
  if n ≤ 2046 ∧ memWord m (a + 12) = crc32c (memBytes m a 12 ++ memBytes m (a + 16) (8 * n)) ∧ tst (memWord m (a + 8)) 31 then
    some { task := fld (memWord m a) 7 0, seq := (memWord m (a + 4)).toNat, cont := true, entries := readEntriesOf m (a + 16) n }
  else none

/-- The incomplete set that the journal slots received hold, in the order of COMMIT_SEQ. -/
def journalSet (m : Mem) : List Journal :=
  match readJournal m 0, readJournal m 1 with
  | some x, some y => if x.seq < y.seq then [x, y] else [y, x]
  | some x, none => [x]
  | none, some y => [y]
  | none, none => []

/-- The pair runtime record: origin and scan position are kept for the entry, the agreement blocks are in force. -/
def writeRuntime (d : List Byte) (s : State) : State :=
  let s := s.updTwin fun t =>
    { t with join := t.join.map fun j => { j with origin := (wordAt d 0).toNat, scan := (wordAt d 1).toNat } }
  s.updTasks fun ts =>
    { ts with t := Vector.ofFn fun n : Fin 8 =>
        { ts.t[n] with prevInSig := dwordAt d (2 + 5 * n.val), prevEval := dwordAt d (4 + 5 * n.val),
                       pubSeq := wordAt d (6 + 5 * n.val) } }

/-- A controller status record from its three words. -/
def readStatus (d : List Byte) (i : Nat) : Option OcStatus :=
  let w := wordAt d (3 * i + 2)
  if !tst w 25 then none
  else some { lastOk := (wordAt d (3 * i)).toNat, lastSeq := wordAt d (3 * i + 1), lost := tst w 31, never := tst w 30,
              ocState := BitVec.ofNat 4 (fld w 29 26), valid := tst w 24, lossCnt := fld w 15 0, fromAlt := tst w 23 }

/-- A quarter of the controller status records (R237, R243). -/
def writeStatus (q : Nat) (d : List Byte) (oc : Tbl OcStatus) : Tbl OcStatus :=
  (List.range 85).foldl (fun t i =>
    match readStatus d i with
    | some c => Tbl.put t (85 * q + i) c
    | none => Tbl.del t (85 * q + i)) oc

/-- A quarter of a journal slot is kept with the join. -/
def writeSlots (a : Nat) (d : List Byte) (s : State) : State :=
  s.updTwin fun t => { t with join := t.join.map fun j => { j with journal := memWriteBytes j.journal a d } }

/-- A quarter of a block goes into the joining twin's own memory. -/
def writeQuarter (n part : Nat) (d : List Byte) (s : State) : State :=
  let a := 4096 * n + 1024 * part
  let fram := a - 16 * 4096
  if n = 0 then (if part = 0 then writeRuntime d s else s)
  else if n < 14 then s.updTasks fun t => { t with oc := writeStatus ((a - 4096) / 1024) d t.oc }
  else if n < 16 ∨ 3088 ≤ n then s
  else if 48 ≤ n ∧ n < 56 then writeSlots (fram - 0x20000) d s
  else if n < 80 then s.updFram (writeFram fram d)
  else if n < 2128 then s.updMem fun m => memWriteBytes m (a - 80 * 4096) d
  else s.updXsram fun x => memWriteBytes x (0x40000 + (a - 2128 * 4096)) d

def stateblkTaken (b : List Byte) (s : State) : State :=
  match s.twin.join with
  | some j =>
    if !j.mine ∨ !j.acked then s
    else
      let s := s.updTwin fun t => { t with join := some { j with quarters := j.quarters + 1 } }
      writeQuarter (wordAt b 0).toNat (fld (wordAt b 1) 1 0) (slice b 16 1024) s
  | none => s

def execStateblk (msg : List Byte) (s : State) : Host.Outcome State Fault Refusal :=
  .next (onMessage 0x2A msg stateblkTaken s)

/-- JOIN_LEFT of R186, in JOINING: the blocks of the bulk pass still to come, and after it the dirty block whose quarters are coming
in; of the other dirty blocks the joining twin learns nothing before their stream starts (DEDUCED, log entry 47). -/
def joinLeft (s : State) : Nat :=
  match s.twin.join with
  | some j => if !j.mine then 0 else if j.quarters < 12352 then 3088 - j.quarters / 4 else if j.quarters % 4 = 0 then 0 else 1
  | none => 0

/-- The join check: equal, the twin enters at the round named; else the join is abandoned. -/
def joinEnded (b : List Byte) (s : State) : State :=
  match s.twin.join with
  | some j =>
    if !j.mine ∨ !j.acked then s
    else if dwordAt b 2 = joinCheck s then
      s.updTwin fun t => { t with join := some { j with entryRound := some (wordAt b 0).toNat } }
    else dropJoin 0x0D s
  | none => s

def execJoinend (msg : List Byte) (s : State) : Host.Outcome State Fault Refusal :=
  .next (onMessage 0x2B msg joinEnded s)

/-! ### The entry boundary (R167, R168, R183) -/

/-- The joining twin enters PAIRED as follower with the partner's origin, controller records and journal; no evaluation of its own is
the first after a restart any more, since its state is the partner's. -/
def enterPair (j : Join) (s : State) : State :=
  let s := s.updTwin fun t => { t with join := none }
  let s := s.updVoter fun v => { v with scanChunk := j.scan % 120 }
  let s := s.updFram fun f => { f with partialSet := journalSet j.journal }
  let s := s.updTasks fun t =>
    { t with newEls := [], t := t.t.map fun x => { x with first := false, warm := false, newprg := false, run := none } }
  let s := setPState .paired s
  let s := if s.eff = .startup then beginService j.origin s else settleOutputs (startSchedule j.origin s)
  match j.client with
  | some (p, tag) => complete p 0x0A03 tag (.words [BitVec.ofNat 32 s.floe.round]) s
  | none => s

/-- The round of the entry boundary starts. -/
def joinEntry (s : State) : State :=
  match s.twin.join with
  | some j =>
    if j.entryRound ≠ some s.floe.round then s
    else if j.mine then (if s.eff = .startup ∨ s.inService then enterPair j s else s)
    else setPState .paired (s.updTwin fun t => { t with join := none })
  | none => s

end Sys2Proof.Machine
end

