-- ==== Sys2Proof/Machine/Round.lean ====
section
/-!
DEFINITION. The start of a Floe round (R203): loads of the time base (R214), keys (R190, R197), modes (R220), link supervision and
roles of the twin pair (R161, R164, R167, R118, R185).
-/
namespace Sys2Proof.Machine

/-! ### Time base loads (R214, R97) -/

/-- The first round of a cold start: the own one loads TB_NS, another node's sets the integration counter. -/
def takeColdStart (s : State) : State :=
  match s.floe.coldTake with
  | none => s
  | some (round, own) =>
    let ns := BitVec.ofNat 64 (round.toNat * s.roundNs)
    let s := s.updFloe fun f => { f with coldTake := none, round := round.toNat }
    if own then gainSync (s.updTb fun t => { t with tb := { t.tb with ns := ns } })
    else s.updTb fun t =>
      { t with integRun := true, integ := { ns := ns, frac := 0, rate := t.tb.rate, slew16 := 0 } }

/-- The second good round of INTEGRATE has passed: TB_NS, TB_FRAC and TB_RATE are loaded from the integration counter. -/
def takeSync (s : State) : State :=
  if s.floe.syncNext ∧ s.floe.fstate = .integrate then
    let s := s.updTb fun t =>
      { t with tb := { t.integ with slew16 := 0 }, integRun := false }
    gainSync (s.updFloe fun f => { f with syncNext := false })
  else s

/-! ### The new round -/

/-- Round number on the clock that keeps network time (R93). -/
def roundNow (s : State) : Nat := s.netClock.ns.toNat / s.roundNs

def freshChan (c : FloeChan) : FloeChan :=
  { c with beaconNow := false, heardNow := false, syncNow := false, echoNow := false, ownDev := none }

/-- Counters and marks of a round start afresh; a mode slip, the key slot for sending and the counts of R212 and R214 move on. -/
def openRound (s : State) : State :=
  s.updFloe fun f =>
    { f with round := roundNow s, chA := freshChan f.chA, chB := freshChan f.chB, beaconRank := 0, mismatch := false,
             devs := [], sent := [], mute := false, mode := f.slip.getD f.mode, slip := none, keyCur := f.keyNext,
             integRounds := if f.fstate = .integrate then f.integRounds + 1 else 0,
             passiveRounds := f.passiveRounds.map (· + 1) }

/-- Key slots loaded in SERVICE come into force (R190). -/
def Keys.advance (k : Keys) : Keys :=
  { k with reg0 := k.next0 <|> k.reg0, reg1 := k.next1 <|> k.reg1, next0 := none, next1 := none }

/-! ### Twin pair -/

/-- LINK_OK over the two latest completed rounds (R161). -/
def superviseLink (s : State) : State :=
  s.updTwin fun t =>
    let runs := if t.helloNow then min (t.helloRuns + 1) 2 else 0
    { t with helloNow := false, helloRuns := runs, linkOk := linkHolds runs t.delayNs s }

/-- The roles of the round; an activation that is not yet confirmed ends when the leader changes (R164, R118). -/
def takeRoles (s : State) : State :=
  if s.twin.roles = s.twin.leaderSeen then s
  else
    let was := s.twin.ps
    let s := s.updTwin fun t => { t with roles := t.leaderSeen }
    match s.prog.sched with
    | some a => if !a.confirmed ∧ was = .paired then abandonActivation .errTwin 0 s else s
    | none => s

/-- The pair state at a round start (R167). -/
def pairRound (s : State) : State :=
  match s.twin.ps with
  | .paired => if s.isLeader ∧ partnerLost s then setPState .alone s else s
  | .silent => if s.isLeader then setPState .alone s else s
  | _ => s

/-- What ends a join or a split at a round start (R185). -/
def endHandshakes (s : State) : State :=
  let s := match s.twin.join with
    | some j =>
      if !(if j.mine then s.partnerLeads else s.isLeader) then dropJoin 0x0C s
      else if !s.twin.linkOk then dropJoin 1 s
      else s
    | none => s
  match s.twin.split with
  | some x => if !x.acked ∧ !s.twin.linkOk then dropSplit 1 s else s
  | none => s

/-- T0 boundaries after the bulk pass are counted (R179). -/
def countBoundary (s : State) : State :=
  match s.twin.join with
  | some j =>
    if !j.mine ∧ j.unsent = [] ∧ j.cur = none ∧ s.inService ∧ atBoundary s then
      s.updTwin fun t => { t with join := some { j with tries := j.tries + 1 } }
    else s
  | none => s

/-- The twin's part of a round start. -/
def twinRound (s : State) : State :=
  if s.twinId = 0 then s
  else
    let s := superviseLink s
    let s := settleConfirmation (pairRound (takeRoles s))
    let s := joinEntry (endHandshakes s)
    autoJoin (countBoundary s)

/-! ### Tasks -/

/-- A stopped task passes its would-be release: its frames and outputs end there (R86, R275). -/
def passStopped (s : State) : State :=
  if !s.inService then s
  else s.updTasks fun t =>
    { t with t := t.t.map fun x =>
        if x.stopped ∧ ((s.floe.round - t.origin) * roundMs s.floe.live) % taskPeriod x.cfg = 0 then { x with gone := true }
        else x }

/-- A Floe round starts. The messages queued in the round before have left. -/
def execRoundStart (s : State) : Host.Outcome State Fault Refusal :=
  .next (whileRunning (fun s =>
    let s := takeSync (takeColdStart (drainLink s))
    settleOutputs (passStopped (twinRound (openRound (s.updKeys Keys.advance))))) s)

end Sys2Proof.Machine
end

