-- ==== Sys2Proof/Machine/Observe.lean ====
section
/-!
DEFINITION. What the host can read: the status blocks of every chapter, STATUS (R323, R324) and REG.PEEK (R325, R326).
-/
namespace Sys2Proof.Machine

def w32 (n : Nat) : Word := BitVec.ofNat 32 n

/-! ### Blocks -/

def SnowSt.code : SnowSt → Nat
  | .empty => 0 | .staging => 1 | .staged => 2

/-- The module summary block (R324). -/
def summaryWords (s : State) : List Word :=
  [ at32 28 s.mstate.code ||| at32 26 (if s.mstate = .service then s.qual else 0) |||
      at32 22 (if s.mstate = .hold then s.holdFrom.code else 0) ||| flag 21 (s.prog.actBank == some true) |||
      at32 19 s.fw.snow.code ||| flag 18 s.rimeArmed ||| flag 17 s.maintEn ||| at32 8 s.fram.startKind.toNat |||
      at32 0 s.fram.startCause.toNat,
    w32 s.fw.image.length ]

/-- A task record and its status block (R76, R87). -/
def taskWords (t : TaskSt) : List Word :=
  [t.cfg, w32 t.cycles, w32 t.overruns, w32 t.maxEndUs, t.pubSeq, hiWord t.latchTime, loWord t.latchTime]

def BankSt.code : BankSt → Nat
  | .empty => 0 | .loading => 1 | .loaded => 2 | .verifying => 3 | .valid => 4 | .invalid => 5 | .active => 6

/-- A bank status record (R104). -/
def bankWords (n : Bool) (p : Prog) : List Word :=
  let b := p.bank n
  [ at32 29 b.st.code ||| flag 28 (p.sched.any fun a => a.confirmed && a.bank == n) ||| at32 0 b.failCode.toNat, w32 b.loaded,
    if b.st = .valid ∨ b.st = .active then w32 b.programVersion else 0 ]

/-- TB_SLEW_NS: what is still to be applied, a part of a nanosecond counted whole (R92). -/
def slewNs (c : Clock) : Int :=
  let n : Int := ((c.slew16.natAbs + 15) / 16 : Nat)
  if c.slew16 < 0 then -n else n

/-- TB0 to TB4 (R92). -/
def timeWords (s : State) : List Word :=
  [hiWord s.tb.tb.ns, loWord s.tb.tb.ns, s.tb.tb.frac, s.tb.tb.rate, twos 32 (slewNs s.tb.tb), at32 0 s.tb.sync.toNat]

/-- COMP_LIMIT, the sync-point records, SP_TIME, SP_PEND and SP_MISS (R101, R102). -/
def syncWords (s : State) : List Word :=
  let sp := s.tb.sp.toList
  [s.tb.compLimit] ++ sp.map SyncPoint.cfg ++ sp.flatMap (fun p => [hiWord p.time, loWord p.time]) ++
    [ w32 (sp.foldr (fun p a => bit p.pend + 2 * a) 0), w32 (sp.foldr (fun p a => p.miss + 256 * a) 0) ]

def LaneState.code : LaneState → Nat
  | .serving => 0 | .reset => 1 | .test => 2 | .copy => 3 | .delta => 4 | .entry => 5 | .locked => 6

/-- DIRTY: in COPY the blocks of the bulk pass not yet copied and those marked since, in DELTA those marked (R151). -/
def dirtyBlocks (s : State) (l : LaneSt) : Nat :=
  match l.st with
  | .copy => l.dirty - copiedSince l s + l.marked.length
  | .delta => l.marked.length
  | _ => 0

/-- A lane status block (R151). -/
def laneWords (s : State) (l : LaneSt) : List Word :=
  [ at32 29 l.st.code ||| flag 28 l.lock ||| at32 16 l.lastCause.toNat ||| at32 8 (reintCount s.tb.ms l) ||| at32 0 l.exclTotal,
    w32 l.lastExclMs, at32 16 l.fp.kind.toNat ||| at32 0 l.fp.hi.toNat, hiWord l.fp.lo, loWord l.fp.lo, w32 (dirtyBlocks s l) ]

/-- MODE of the voters; not voting before the lanes serve together, in BOOT and SELFTEST, and with the clocks stopped (DEDUCED, log
entry 72). -/
def voterMode (s : State) : Nat :=
  if s.mstate = .off ∨ s.eff = .boot ∨ s.eff = .selftest ∨ s.mstate = .frozen then 0
  else if s.servingLanes.length = 3 then 1 else if s.servingLanes.length = 2 then 2 else 0

/-- The voter status block (R152). -/
def voterWords (s : State) : List Word :=
  let v := s.voter
  [ at32 30 (voterMode s) ||| flag 29 (v.hbRun && s.inService), w32 v.minor0, w32 v.minor1,
    w32 v.minor2, w32 (v.selftestN / 2 ^ 32), w32 v.selftestN, w32 v.scanSweeps, at32 0 v.scanChunk ]

/-- The twin configuration record; the key reads 0 (R153). -/
def twinRecord (s : State) : List Word :=
  [s.twin.w0, s.twin.w1 ||| flag 0 s.keys.regT.isSome, 0, 0, 0, 0]

/-- The twin status block (R186). -/
def twinWords (s : State) : List Word :=
  let t := s.twin
  [ at32 29 t.ps.code ||| flag 28 s.isLeader ||| at32 26 t.leaderSeen.toNat ||| flag 25 t.linkOk |||
      at32 16 t.silentCause.toNat ||| at32 0 t.epochSeen.toNat,
    twos 32 t.delayNs, twos 32 (if s.partnerLeads then t.offsetNs else 0), w32 t.adopt, w32 t.agreeMiss, w32 t.cmpMismatch, w32 t.cmpMiss,
    at32 16 t.scodeFail ||| at32 0 t.linkRej, at32 16 t.mseqGap ||| at32 0 (joinLeft s), w32 t.lastDivMs, w32 t.shCycles,
    w32 t.shIn, w32 t.shOut ]

/-- The Floe configuration record; the keys read 0 (R189). -/
def floeRecord (s : State) : List Word :=
  (List.range 4).map (nth s.floe.cfg) ++ [flag 1 s.keys.reg1.isSome ||| flag 0 s.keys.reg0.isSome] ++ List.replicate 8 0

/-- W6 to W11 of the Floe status block for one channel (R226). -/
def chanWords (c : FloeChan) : List Word :=
  [ w32 c.rxOk, at32 16 c.rxFcs ||| at32 0 c.rxScode, at32 16 c.rxSeq ||| at32 0 c.rxAge, at32 16 c.rxWin ||| at32 0 c.dupMm,
    at32 16 c.guardCut ||| at32 0 c.echoMiss, w32 c.txFrames ]

/-- The Floe status block (R226). -/
def floeWords (s : State) : List Word :=
  let f := s.floe
  [ at32 29 f.fstate.code ||| at32 27 f.mode.toNat ||| flag 26 f.swPend ||| at32 24 f.modeNext.toNat ||| flag 23 f.chA.ok |||
      flag 22 f.chB.ok ||| flag 21 f.chA.txOff ||| flag 20 f.chB.txOff ||| at32 16 f.syncUsed ||| flag 15 f.keyCur,
    w32 f.round, f.switchRound, twos 32 f.ftm,
    at32 16 (twos 16 f.ownDevA).toNat ||| at32 0 (twos 16 f.ownDevB).toNat, at32 16 f.passiveCnt ||| at32 0 f.coldCnt ] ++
    chanWords f.chA ++ chanWords f.chB

/-- A controller status record (R237). -/
def ocWords (c : OcStatus) : List Word :=
  [ w32 c.lastOk, c.lastSeq, flag 31 c.lost ||| flag 30 c.never ||| at32 26 c.ocState.toNat ||| at32 0 c.lossCnt ]

def FsState.code : FsState → Nat
  | .missing => 0 | .low => 1 | .ok => 2 | .over => 3

/-- BOUND_10US of a rule: t_q of R272 in units of 10 µs; 0 for a disabled rule. -/
def ruleBound (c : List Word) (q : Nat) : Nat :=
  let mask := ioRule c q 0
  if mask = 0 then 0
  else 25 * (List.range 32).foldl (fun m n => if tst mask n then max m (fld (ioIn c n) 21 16) else m) 0 + 185

def inputWord (x : InSt) : Word :=
  at32 30 x.cls.code ||| at32 28 x.raw.code ||| flag 27 x.valid ||| at32 21 x.n ||| at32 15 (min x.evtSupp 63) |||
    at32 0 (min x.ua 32767)

def outputWord (s : State) (k : Nat) : Word :=
  let o := s.io.out k
  flag 31 o.command ||| flag 30 o.rbOn ||| flag 29 o.ovl ||| flag 28 o.openLd ||| flag 27 o.failOn ||| flag 26 o.fbFault |||
    flag 25 (quenched k s) ||| flag 24 s.io.guard.tripped ||| at32 0 (min o.ma 2047)

/-- The I/O status block (R263). -/
def ioWords (s : State) : List Word :=
  let i := s.io
  let free (g : Nat) : Bool := (s.supply g).st == .ok && !lockStands 2 g s
  [ at32 30 i.fs1.st.code ||| at32 28 i.fs2.st.code ||| flag 27 i.gen1 ||| flag 26 i.gen2 ||| flag 25 (free 1) |||
      flag 24 (free 2) ||| flag 23 (lockStands 2 1 s) ||| flag 22 (lockStands 2 2 s) ||| flag 21 (!i.guard.tripped) |||
      at32 0 i.guard.trips,
    at32 16 (min i.fs1.mv 0xFFFF) ||| at32 0 (min i.fs2.mv 0xFFFF),
    at32 16 (bitsOf 16 fun q => (i.rule q).active) ||| at32 0 (bitsOf 16 fun k => quenched k s),
    at32 16 i.cos.length ||| at32 0 i.cosLost ] ++
    (List.range 32).map (fun n => inputWord (i.input n)) ++ (List.range 16).map (outputWord s) ++
    (List.range 16).map fun q =>
      flag 31 (i.rule q).active ||| flag 30 (i.rule q).cond ||| at32 0 (ruleBound i.live q)

/-- A COS record (R255). -/
def CosRec.words (c : CosRec) : List Word :=
  [at32 24 c.input ||| at32 22 c.cls.code, c.seq, hiWord c.time, loWord c.time]

/-- Lock-out record slots 0 to 31; an empty slot reads 0 (R274). -/
def lockSlots (s : State) : List Word :=
  let ws := (s.fram.locks.take 32).flatMap lockWords
  ws ++ List.replicate (256 - ws.length) 0

/-- A port status block (R338). -/
def portWords (q : PortSt) : List Word :=
  [ at32 16 q.crcErr ||| at32 0 q.frameErr, at32 16 q.cmdOvf ||| at32 0 q.respReread, at32 0 q.pend.length, w32 q.commands ]

/-- The lane diagnostic block (R326). -/
def diagWords (l : LaneSt) : List Word :=
  [w32 l.lpEcc, w32 l.sramEcc, at32 16 l.nandRetry ||| at32 0 l.framRetry, at32 16 l.railMv]

/-! ### STATUS (R323) -/

/-- Controllers of the active bank. -/
def ocCount (s : State) : Nat := (s.prog.active.map fun b => b.ocs.length).getD 0

/-- The words of a block without an index. -/
def blockWords (b : Nat) (s : State) : List Word × State :=
  let ports := portWords s.hif.host ++ portWords s.hif.maint
  match b with
  | 0x00 => (summaryWords s, s)
  | 0x01 => (s.tasks.t.toList.flatMap taskWords, s)
  | 0x02 => (bankWords false s.prog ++ bankWords true s.prog, s)
  | 0x03 => (timeWords s ++ syncWords s, s.updTb fun t => { t with sp := t.sp.map fun p => { p with pend := false } })
  | 0x04 => (s.lanes.toList.flatMap (laneWords s), s)
  | 0x05 => (voterWords s, s)
  | 0x06 => (twinRecord s ++ twinWords s, s)
  | 0x07 => (floeRecord s ++ floeWords s, s)
  | 0x09 => (s.io.cfg ++ ioWords s, s)
  | 0x0B => (lockSlots s, s)
  | 0x0C => (ports, s)
  | 0x0D => (canWords .can1 s ++ canWords .can2 s, s)
  | _ =>
    let (now, t) := chainProgress s
    (fabricWords now s ++ cvuWords now s, t)

def statusReply (b entries : Nat) (ws : List Word) : Reply := .words ((at32 16 b ||| at32 0 entries) :: ws)

/-- FIRST and COUNT as the index of the block allows. -/
def indexRules (b : Nat) : List FieldRule :=
  match b with
  | 0x08 => [⟨2, 31, 0, 1, 340⟩]
  | 0x0A => [rsvd 1 31 0, ⟨2, 31, 0, 1, 64⟩]
  | _ => [rsvd 1 31 0, rsvd 2 31 0]

def statusServe (b first count : Nat) (s : State) : Reply × State :=
  if (s.eff = .boot ∨ s.eff = .selftest) ∧ b ≠ 0x00 ∧ b ≠ 0x0A ∧ b ≠ 0x0C then (.err .errState, s)
  else if b = 0x08 then
    let n := min count (ocCount s - first)
    let node (i : Nat) : Nat := (s.prog.active.map fun k => (k.oc (first + i)).node).getD 0
    (statusReply b n ((List.range n).flatMap fun i => ocWords (Tbl.getD s.tasks.oc (node i) .fresh)), s)
  else if b = 0x0A then
    let got := s.io.cos.take count
    (statusReply b got.length (got.flatMap CosRec.words), s.updIo fun i => { i with cos := i.cos.drop count })
  else
    let (ws, t) := blockWords b s
    (statusReply b 1 ws, t)

def handleStatus : Handler := fun _ _ payload s =>
  let ws := bytesWords payload
  let b := fld (nth ws 0) 23 16
  checked ws ([rsvd 0 31 24, ⟨0, 23, 16, 0, 0x0E⟩, rsvd 0 15 0] ++ indexRules b) s
    (if b = 0x08 ∧ ocCount s ≤ (nth ws 1).toNat then (.range 1 31, s)
     else statusServe b (nth ws 1).toNat (nth ws 2).toNat s)

def execStatus (p : Port) (tag : Half) (block : Byte) (first count : Word) (s : State) : Host.Outcome State Fault Refusal :=
  .next (arrive handleStatus p 0x0002 tag (wordsBytes [at32 16 block.toNat, first, count]) s)

/-! ### REG.PEEK (R325, R326) -/

/-- The listed ranges that are not lane-private: base, bytes, words. -/
def peekRanges (now : Nat) (s : State) : List (Nat × Nat × List Word) :=
  let lane (n : Nat) : List Word := laneWords s (s.lane n) ++ List.replicate 10 0
  [ (0x0000, 0x1000, fcuSummary s.fcu ++ fcuEntries s 0 256), (0x1000, 0x100, voterWords s),
    (0x1100, 0x100, lane 0 ++ lane 1 ++ lane 2), (0x2000, 0x100, timeWords s), (0x3000, 0x100, floeWords s),
    (0x4000, 0x100, twinWords s), (0x5000, 0x200, ioWords s), (0x6000, 0x1000, fabricWords now s),
    (0x7000, 0x1000, cvuWords now s), (0x8000, 0x800, canWords .can1 s), (0x8800, 0x800, canWords .can2 s),
    (0x9000, 0x100, portWords s.hif.host ++ portWords s.hif.maint) ]

/-- The word at an address; none outside the listed ranges. -/
def peekWord (rs : List (Nat × Nat × List Word)) (a : Nat) : Option Word :=
  (rs.find? fun r => decide (r.1 ≤ a ∧ a < r.1 + r.2.1)).map fun r => nth r.2.2 ((a - r.1) / 4)

/-- The words of a lane-private read: of lane 0, 1 and 2; a lane that does not serve gives zeros. -/
def privateWords (a count : Nat) (s : State) : List Word :=
  (List.range 3).flatMap fun n =>
    (List.range count).map fun i => if s.serving n then nth (diagWords (s.lane n)) ((a - 0x10000) / 4 + i) else 0

def peekHeader (a count : Nat) (s : State) : List Word := [w32 a, w32 count, hiWord s.tb.tb.ns, loWord s.tb.tb.ns]

def peekServe (a count : Nat) (s : State) : Reply × State :=
  if 0x10000 ≤ a ∧ a < 0x10100 then
    if 0x10100 < a + 4 * count then (.range 0 31, s) else (.words (peekHeader a count s ++ privateWords a count s), s)
  else
    let (now, t) := chainProgress s
    let rs := peekRanges now s
    match (List.range count).mapM fun i => peekWord rs (a + 4 * i) with
    | some ws => (.words (peekHeader a count s ++ ws), if 0x6000 ≤ a + 4 * count ∧ a < 0x8000 then t else s)
    | none => (.range 0 31, s)

def handleRegPeek : Handler := fun _ _ payload s =>
  let ws := bytesWords payload
  let a := (nth ws 0).toNat
  let most := if 0x10000 ≤ a ∧ a < 0x10100 then 340 else 1020
  if a % 4 ≠ 0 then (.range 0 31, s)
  else checked ws [rsvd 1 31 16, ⟨1, 15, 0, 1, most⟩] s (peekServe a (fld (nth ws 1) 15 0) s)

def execRegPeek (p : Port) (tag : Half) (addr : Word) (count : Half) (s : State) : Host.Outcome State Fault Refusal :=
  .next (arrive handleRegPeek p 0x0003 tag (wordsBytes [addr, at32 0 count.toNat]) s)

end Sys2Proof.Machine
end

