-- ==== Sys2Proof/Machine/Start.lean ====
section
/-!
DEFINITION. Starts (R386 to R390): power-on start, firmware slot check and update (R398 to R400), the end of SELFTEST, and
the entry into STARTUP with the restore of retentive variables (R121, R122) and the reading of the records in FRAM (R275,
R395).
-/
namespace Sys2Proof.Machine

/-! ### Power-on start (R387, R395, R406) -/

/-- RIME_MARK that no two lanes agree on is treated as set (R395). -/
def rimeFound (agrees : Bool) (s : State) : Bool := s.fram.rimeMark.isSome || !agrees

/-- ICE_MARK and RESTART_LOG where no two lanes agree: SEQ resumes at the newest NAND SEQ + 1,025, starts count from 0. -/
def bookkeeping (iceAgrees logAgrees : Bool) (s : State) : State :=
  s.updFram fun f =>
    { f with iceMark := if iceAgrees then f.iceMark else (s.ice.ring.getLast?.map IceRec.seq).getD 0,
             startCount := if logAgrees then f.startCount else 0 }

/-- The wrapped key copies are erased (R406). -/
def Keys.unwrapped (k : Keys) : Keys := { k with wrap0 := none, wrap1 := none, wrapT := none }

/-- The supply has stood above the start threshold. A start that finds RIME_MARK set is recorded as a cold one with cause Rime. -/
def execPowerOnStart (rimeAgrees iceAgrees logAgrees : Bool) (s : State) : Host.Outcome State Fault Refusal :=
  .next (if s.mstate ≠ .off ∨ !s.power.swClosed then s
    else
      let s := (bookkeeping iceAgrees logAgrees s).updJtag fun _ => .fresh
      if rimeFound rimeAgrees s then
        startAs .cold 3 ((s.updKeys Keys.unwrapped).updFram fun f => { f with rimeMark := none })
      else startAs .powerOn 0 s)

/-! ### Firmware (R388, R398 to R400) -/

/-- The lanes that check their slot: a locked lane stays excluded (R149). -/
def bootLanes (s : State) : List Nat := (List.range 3).filter fun i => decide ((s.lane i).st ≠ .locked)

/-- The flag of lane i. -/
def laneFlag (a b c : Bool) (i : Nat) : Bool := if i = 0 then a else if i = 1 then b else c

/-- The activation mark and the Snowbank image go. -/
def dropImage (s : State) : State :=
  (s.updFw fun f => { f with snow := .empty, image := [] }).updFram fun f => { f with fwMark := none }

/-- Word i of a firmware image. -/
def imageWord (img : List Byte) (i : Nat) : Word := wordAt img i

def imageRollback (img : List Byte) : Nat := fld (imageWord img 3) 6 0

/-- The format check of R399; hardware issue C is bit 2 of HW_MASK. ROLLBACK and BODY_LEN lie in the ranges of R398. -/
def formatOk (img : List Byte) : Bool :=
  let w := imageWord img
  let body := (w 4).toNat
  decide (256 ≤ img.length) && w 0 == 0x424C4657 && w 1 == 0x00030000 && decide (fld (w 2) 31 24 = 3) &&
    decide (fld (w 3) 31 7 = 0) && decide (imageRollback img ≤ 64) && decide (body % 8 = 0 ∧ 8 ≤ body ∧ body ≤ 33554176) &&
    decide (fld (w 5) 31 16 = 0x7340) && tst (w 5) 2 && ((List.range 10).all fun i => w (6 + i) == 0) &&
    ((List.range 32).all fun i => w (32 + i) == 0) && decide (img.length = 256 + body)

/-- The checks of R388 on the active slot of lane i: format, signature, ROLLBACK at or above ANTI_ROLLBACK. A slot that still holds the
factory image, whose bytes the spec does not give, has the right format and the factory's level (DESIGN CHOICE, log entry 74). -/
def slotPasses (f : Firmware) (sigOk : Bool) (i : Nat) : Bool :=
  sigOk && match vget f.slots none i with
    | some img => formatOk img && decide (f.fuses ≤ imageRollback img)
    | none => decide (f.fuses ≤ Config.factoryRollback.val)

/-- The failing slots are rewritten from the copy of a lane that passed (R388). -/
def repairSlots (passed : List Nat) (f : Firmware) : Firmware :=
  match passed.head? with
  | none => f
  | some k => { f with slots := Vector.ofFn fun i : Fin 3 => if passed.contains i.val then f.slots[i] else vget f.slots none k }

/-- The active slot check: two lanes that pass go on to SELFTEST and mend the third; with fewer the safety device is held in
reset and shows code 1. The operands are the signature checks of the lanes. A FW_MARK without agreement means no activation, and the
Snowbank image is discarded (R395). -/
def execFirmwareSlotCheck (sig0 sig1 sig2 fwMarkAgrees : Bool) (s : State) : Host.Outcome State Fault Refusal :=
  .next (whileRunning (fun s =>
    if s.eff ≠ .boot then s
    else
      let s := if fwMarkAgrees then s else dropImage s
      let passed := (bootLanes s).filter fun i => slotPasses s.fw (laneFlag sig0 sig1 sig2 i) i
      if s.fram.fwMark.isSome then s
      else if 2 ≤ passed.length then enterEff .selftest (s.updFw (repairSlots passed))
      else s.updResetHold fun _ => some 1) s)

/-- A voted check result and the lane in the minority; none where the lanes do not agree. -/
def voteFlags (lanes : List Nat) (r : Nat → Bool) : Option (Bool × Option Nat) :=
  let t := lanes.filter r
  let f := lanes.filter fun i => !r i
  if t.length = f.length then none
  else if f.length < t.length then some (true, f.head?)
  else some (false, t.head?)

/-- A lane whose copy differs, or in the minority of a check result: excluded and locked with cause 0x15. -/
def lockOutLane (s : State) (i : Nat) : State := excludeLane i 0x15 (selfFingerprint 0x15) true s

/-- PARAM0 of FW_REFUSED for the first check that fails; none when all pass. -/
def updateRefusal (sigOk : Bool) (f : Firmware) : Option Nat :=
  if !formatOk f.image then some 3 else if !sigOk then some 1 else if imageRollback f.image < f.fuses then some 2 else none

/-- The image is discarded and the active slot boots. -/
def refuseUpdate (code : Nat) (s : State) : State :=
  let v := imageWord s.fw.image 2
  record 0x0A02 3 0xFFF code v.toNat 0 0 (dropImage s)

/-- The image in the active slot of every serving lane, fuses blown, Snowbank EMPTY, mark cleared, FW_ACT: the new firmware starts. -/
def acceptUpdate (s : State) : State :=
  let old := s.fw.version
  let v := imageWord s.fw.image 2
  let fuses := max s.fw.fuses (imageRollback s.fw.image)
  let lanes := s.servingLanes
  record 0x0A01 2 0xFFF old.toNat v.toNat fuses 0
    (dropImage (s.updFw fun f =>
      { f with version := v, fuses := fuses,
               slots := Vector.ofFn fun i : Fin 3 => if lanes.contains i.val then some f.image else f.slots[i] }))

/-- The boot after FW.ACTIVATE: the checks voted, then the copy and the fuses. A module that has come to SAFE keeps mark and
image (R400). -/
def execFwUpdateBoot (sig0 sig1 sig2 copyBad0 copyBad1 copyBad2 : Bool) (s : State) : Host.Outcome State Fault Refusal :=
  .next (whileRunning (fun s =>
    if s.eff ≠ .boot ∨ s.fram.fwMark.isNone then s
    else match voteFlags s.servingLanes (laneFlag sig0 sig1 sig2) with
      | none => if formatOk s.fw.image then raiseNoAgree s else refuseUpdate 3 s
      | some (sigOk, minority) =>
        let s := if formatOk s.fw.image then minority.toList.foldl lockOutLane s else s
        match updateRefusal sigOk s.fw with
        | some c => refuseUpdate c s
        | none =>
          let s := (s.servingLanes.filter (laneFlag copyBad0 copyBad1 copyBad2)).foldl lockOutLane s
          if s.eff = .boot then acceptUpdate s else s) s)

/-! ### The end of SELFTEST (R269, R389, R390) -/

/-- The lowest code of R432 that applies. -/
def testFailure (logicOk memoryOk guardOk : Bool) (s : State) : Option Nat :=
  if fullTest s && !logicOk then some 2 else if fullTest s && !memoryOk then some 3 else if !guardOk then some 4 else none

/-- The key loader: the stored copies go to the registers; one that fails its integrity check is erased. -/
def Keys.load (ok0 ok1 okT : Bool) (k : Keys) : Keys :=
  let w0 := if ok0 then k.wrap0 else none
  let w1 := if ok1 then k.wrap1 else none
  let wT := if okT then k.wrapT else none
  { k with reg0 := w0, reg1 := w1, regT := wT, wrap0 := w0, wrap1 := w1, wrapT := wT }

/-- A filter starts again (R252). -/
def InSt.again (x : InSt) : InSt :=
  { x with cand := .undef, count := 0, target := x.n, cls := .undef, raw := .undef, bounce := none }

/-- The reintegration test that SELFTEST runs on an excluded lane at a warm restart (R149). -/
def testLane (ok : Bool) (s : State) (i : Nat) : State :=
  if (s.lane i).st ≠ .test then s
  else if ok then s.updLane i fun l => { l with st := .serving }
  else exclusionSteps i 0x20 (selfFingerprint 0x20) true s

/-- The GEN lines of the groups that are not locked out start (R266, R275). -/
def startGroups (s : State) : State :=
  s.updIo fun i => { i with gen1 := !lockStands 2 1 s, gen2 := !lockStands 2 2 s }

/-- FSTATE leaves DOWN where a link is up and the configuration has become valid (R214). -/
def tryListen (s : State) : State :=
  if s.floe.fstate = .down ∧ floeConfigured s ∧ (s.floe.chA.linkUp ∨ s.floe.chB.linkUp) then leaveDown s else s

/-- The tests are over: a failure holds the safety device in reset, success loads the keys. The outputs stay off until STARTUP (R30,
R257). -/
def execSelftestComplete (logicOk memoryOk guardOk wrap0Ok wrap1Ok wrapTwinOk reintOk : Bool) (s : State) :
    Host.Outcome State Fault Refusal :=
  .next (whileRunning (fun s =>
    if s.eff ≠ .selftest ∨ s.testsDone then s
    else match testFailure logicOk memoryOk guardOk s with
      | some n => s.updResetHold fun _ => some n
      | none =>
        let s := if fullTest s then s.updIo fun i => { i with inputs := i.inputs.map InSt.again } else s
        let s := s.updKeys (Keys.load wrap0Ok wrap1Ok wrapTwinOk)
        let s := (List.range 3).foldl (testLane reintOk) s
        tryListen (s.updTestsDone fun _ => true)) s)

/-! ### Entry into STARTUP (R107, R121, R122, R275, R395) -/

/-- A VALID or ACTIVE bank that fails its check becomes INVALID with the code of the check (R72); for a NAND validity record no
code is stated. -/
def checkBank (n : Bool) (r : BankCheck) (s : State) : State :=
  let b := s.prog.bank n
  if r = .pass ∨ ¬(b.st = .valid ∨ b.st = .active) then s
  else
    let (v, s) := if r = .validity then drawFree s else (0, s)
    let code : Half := match r with
      | .litCrc => 0x0103
      | .descCrc => 0x0104
      | _ => openFailCode v
    s.updProg fun p =>
      { p.updBank n fun b => { b with st := .invalid, failCode := code } with
          actBank := if p.actBank = some n then none else p.actBank }

/-- ACT_BANK without agreement: no bank is ACTIVE. -/
def forgetActive (s : State) : State :=
  s.updProg fun p => match p.actBank with
    | some n => { p.updBank n fun b => { b with st := .valid } with actBank := none }
    | none => p

/-- Constants, retentive variables and counters as a restart leaves them (R122). -/
def restoreImage (b : Bank) (f : Fram) (m : Mem) : Mem :=
  let e : Ev := { mem := m, sig := 0 }
  let e := overRange b.constCount (fun i e => e.commit .word (b.constFirst + i) (BitVec.ofNat 64 (b.constValue i))) e
  let e := overRange b.rbCount (fun i e => e.commit .boolean (b.rbFirst + i) (boolVal (homeBool f (b.rbFirst + i)))) e
  let e := overRange b.rwCount
    (fun i e => e.commit .word (b.rwFirst + i) ((homeWord f (b.rwFirst + i)).setWidth 64)) e
  (overRange b.counterCount (fun i e =>
    let (v, d) := counterInit b i
    (e.commit .counter i (BitVec.ofNat 64 v)).commit .cstate i (boolVal d)) e).mem

/-- The restore signature (R133, R135): WKIND 7, WID 0 and ROUND 0, then the restored booleans as bytes, eight in each as the home
copy holds them (DEDUCED, log entry 73), then the words. -/
def restoreSignature (b : Bank) (f : Fram) : Dword :=
  let value (i : Nat) : Bool := decide (i < b.rbFirst + b.rbCount) && homeBool f i
  finishSig (crc64Fold crc64Init (windowBytes 7 0 0 ++
    (List.range (ceilDiv b.rbCount 8)).map (fun k => boolByte value (b.rbFirst + 8 * k)) ++
    (List.range b.rwCount).flatMap fun k => wordBytes (homeWord f (b.rwFirst + k))))

/-- The image restored from the active bank and the home copy, which is laid out for its ranges, and its signature. -/
def restoreElements (s : State) : State :=
  match s.prog.active with
  | none => s
  | some b =>
    ((s.updVoter fun v => { v with restoreSig := restoreSignature b s.fram }).updMem (restoreImage b s.fram)).updFram
      (reformatHome b)

/-- A lock-out record of a task stops it again (R275). -/
def stopLocked (s : State) (n : Nat) : State :=
  if lockStands 3 n s then s.updTask n fun x => { x with stopped := true } else s

/-- Lock-out records reimposed (R275). -/
def reimpose (s : State) : State := (List.range 8).foldl stopLocked s

/-- The last steps of a start. A restore or HOME_HDR without agreement is of class 4, lock-out records without agreement a module
lock-out; a module lock-out record leads from STARTUP to SAFE (R31). In STARTUP the GEN lines start, but not on the brownout path (R31,
R257). -/
def execStartupReached (bank0 bank1 : BankCheck) (retentive : Agreement) (locksAgree actBankAgrees homeAgrees : Bool)
    (s : State) : Host.Outcome State Fault Refusal :=
  .next (whileRunning (fun s =>
    if s.eff ≠ .selftest ∨ !s.testsDone then s
    else
      let s := checkBank true bank1 (checkBank false bank0 s)
      let s := if actBankAgrees then s else forgetActive s
      let s := restoreElements s
      let s := if homeAgrees then voteAgreement retentive 7 raiseNoAgree s else raiseNoAgree s
      let s := if locksAgree then reimpose s else raiseOpen 0x04 4 (some 0x0006) s
      if s.eff ≠ .selftest then s
      else
        let s := enterEff .startup s
        tryListen (if lockStands 1 0 s then enterSafe s else if s.power.brownout then s else startGroups s)) s)

end Sys2Proof.Machine
end

