-- ==== Sys2Proof/Machine/Power.lean ====
section
/-!
DEFINITION. Supply (R31, R416 to R419), the actions of R318, Dormant (R396, R397) and the freeze (R405).
-/
namespace Sys2Proof.Machine

/-! ### Hold (R31, R417) -/

/-- HOLD pauses the state copy of a lane (R149): what has been copied so far stays, the rest goes on after it. -/
def pauseCopy (s : State) : State := s.updLanes fun v => v.map (syncCopy s)
def resumeCopy (s : State) : State :=
  s.updLanes fun v => v.map fun l => if l.st = .copy then { l with copyFrom := s.cyc } else l

/-- HOLD is entered and recorded with the supply input, before STATE in the order of their sources (R294); the state it came from is
remembered. -/
def enterHold (mv : Word) (s : State) : State :=
  let old := s.mstate
  enterState .hold (record 0x0206 1 0x042 1 mv.toNat 0 0 ((pauseCopy s).updHoldFrom fun _ => old))

/-- States that leave for HOLD when the supply fails; a device held in reset shows no behaviour (R31). -/
def canHold (s : State) : Bool :=
  s.runs && !decide (s.mstate = .hold)

def holdIf (mv : Word) (s : State) : State := if canHold s then enterHold mv s else s

/-- The thresholds of R416 in mV; where a device's own lies between its minimum and maximum is not asked: the row says that it was
crossed, and no device's threshold lies beyond these bounds (DEDUCED, log entry 22). -/
def belowUndervoltage (mv : Word) : Bool := decide (mv.toNat ≤ 13400)
def aboveStart (mv : Word) : Bool := decide (13600 ≤ mv.toNat)
def aboveOvervoltage (mv : Word) : Bool := decide (157000 ≤ mv.toNat)
def belowReconnect (mv : Word) : Bool := decide (mv.toNat ≤ 156000)
def belowBrownout (storeMv : Word) : Bool := decide (storeMv.toNat ≤ 30600)

/-- The continuous operating range of R415. -/
def inRange (mv : Word) : Bool := decide (14400 ≤ mv.toNat ∧ mv.toNat ≤ 154000)

def execUndervoltage (mv : Word) (s : State) : Host.Outcome State Fault Refusal :=
  .next (if belowUndervoltage mv then holdIf mv s else s)

/-- Back to the state HOLD was entered from; a module that regained synchronisation in HOLD leaves RECOVERY now. -/
def leaveHold (mv : Word) (s : State) : State :=
  let back := s.holdFrom
  let s := enterState back (record 0x0206 1 0x042 0 mv.toNat 0 0 s)
  let s := (resumeCopy s).updHoldFrom fun _ => .off
  if back = .recovery ∧ s.floe.fstate = .sync then restart .warm 7 s else s

/-- The supply input is restored, above the start threshold: after the brownout path a warm restart, else the state HOLD came from. The
input switch must be closed, and after an overvoltage the input within the continuous range (R418, R419). -/
def execSupplyRestored (mv : Word) (s : State) : Host.Outcome State Fault Refusal :=
  .next (whileRunning (fun s =>
    if s.mstate ≠ .hold ∨ !s.power.swClosed ∨ !aboveStart mv ∨ s.power.overvolt ∧ !inRange mv then s
    else
      let s := s.updPower fun p => { p with overvolt := false }
      if s.power.brownout then restart .warm 4 s else leaveHold mv s) s)

/-- The brownout path, taken where the store has reached its threshold: source 0x42 at class 1, outputs all off, commits and pages completed; no task is released any more. -/
def execBrownout (s : State) (storeMv : Word := 0) : Host.Outcome State Fault Refusal :=
  .next (whileRunning (fun s =>
    if s.mstate ≠ .hold ∨ s.power.brownout ∨ !belowBrownout storeMv then s
    else
      let s := raiseOpen 0x42 1 none (s.updPower fun p => { p with brownout := true })
      beforeRestart (stopGroup 1 (stopGroup 2 s))) s)

/-- The input switch opens above the overvoltage threshold; the converter's input then lies below the undervoltage threshold. -/
def execOvervoltageDisconnect (mv : Word) (s : State) : Host.Outcome State Fault Refusal :=
  .next (if aboveOvervoltage mv then holdIf mv (s.updPower fun p => { p with swClosed := false, overvolt := true }) else s)

def execOvervoltageReconnect (s : State) (mv : Word := 0) : Host.Outcome State Fault Refusal :=
  .next (if belowReconnect mv then s.updPower fun p => { p with swClosed := true } else s)

/-! ### Dormant (R357, R381, R396, R397) -/

/-- A channel on entry into DORMANT. -/
def sleepCan (c : CanSt) : CanSt := if tst (nth c.cfg 0) 24 then { stopCan c with st := .sleep } else stopCan c

/-- The entry into DORMANT. -/
def enterDormant (s : State) : State :=
  let s := setFState .down s
  let s := s.updTwin fun t => { t with txQueue := [] }
  let s := stopGroup 1 (stopGroup 2 s)
  let s := s.updFram commitAll
  let s := ((s.updCan1 sleepCan).updCan2 sleepCan).updXsram fun x => clearTxreq .can2 (clearTxreq .can1 x)
  enterState .dormant s

/-- A channel after Dormant: class V afresh, a channel stopped until the next restart stays so (R380). -/
def CanSt.wake (c : CanSt) : CanSt := { c.restart with halted := c.halted }

/-- A task after Dormant: no evaluation has taken place since, and what its first one finds has not changed. -/
def TaskSt.wake (t : TaskSt) : TaskSt :=
  { TaskSt.fresh with cfg := t.cfg, stopped := t.stopped, first := t.first, warm := t.warm, newprg := t.newprg }

/-- Learned filter lengths are class D: kept through Dormant (R253). Leaving Dormant is no restart: a stored record waits on (R10,
R247). -/
def Io.wake (i : Io) : Io :=
  let f := Io.restart i.live
  { f with cfg := i.cfg, inputs := Vector.ofFn fun n : Fin 32 => { f.inputs[n] with n := i.inputs[n].n, target := i.inputs[n].n } }

/-- Records in the queues of the Ice Core stay; cursors, DROPS and NDROPS are class V (R299). -/
def Ice.wake (i : Ice) : Ice := { i with drops := 0, ndrops := 0, hostCur := none, maintCur := none }

/-- The bank statuses are class K; LOADED_BYTES, a pending verification and a scheduled activation are class V (R104). -/
def Prog.wake (p : Prog) : Prog :=
  { p with bank0 := { p.bank0 with loaded := 0, verify := none }, bank1 := { p.bank1 with loaded := 0, verify := none },
           sched := none, remapFrom := none, report := none }

/-- A stored twin record waits for a restart (R154). -/
def Twin.wake (locked : Bool) (t : Twin) : Twin :=
  { t.restart true locked with liveW0 := t.liveW0, liveW1 := t.liveW1, ps := pairStart (fld t.liveW0 31 30) locked }

/-- A stored Floe record and stored schedules wait for a restart (R190, R205). -/
def Floe.wake (f : Floe) : Floe := { f.restart true with live := f.live, liveSched := f.liveSched }

/-- Records held at their source while the Ice Core was gated enter its queue now (R357). -/
def releaseHeld (s : State) : State :=
  s.ice.held.foldl (fun s r => emit r s) (s.updIce fun i => { i with held := [] })

/-- Every item after Dormant by its class (R10, R394, R397). -/
def wakeItems (s : State) : State :=
  { s with
      resetHold := none, testsDone := false, fromDormant := true,
      power := { s.power with brownout := false, wakeReq := false }, mem := warmImage s.mem,
      xsram := canBuffers 0x3D400 s.can2.record (canBuffers 0x3C000 s.can1.record []),
      tb := s.tb.restart true, lanes := s.lanes.map (LaneSt.restart true), voter := .fresh, fcu := .fresh,
      ice := s.ice.wake, prog := s.prog.wake,
      tasks := { Tasks.fresh with t := s.tasks.t.map TaskSt.wake, enLocked := s.tasks.enLocked },
      twin := s.twin.wake (lockStands 4 0 s), floe := s.floe.wake, io := s.io.wake, hif := .fresh,
      fabric := s.fabric.restart, can1 := s.can1.wake, can2 := s.can2.wake, rimeArmed := false }

/-- The wake source can wake the module. -/
def wakes (src : WakeSource) (s : State) : Bool :=
  match src with
  | .hostSelect => true
  | .can c => (s.can c).st == .sleep && s.power.wakeReq

def execDormantWake (src : WakeSource) (s : State) : Host.Outcome State Fault Refusal :=
  .next (if s.mstate ≠ .dormant ∨ !wakes src s then s else enterState .selftest (releaseHeld (wakeItems s)))

/-! ### The actions of R318 -/

/-- A restart or state change in the states that R31 lists; elsewhere nothing happens. -/
def actIn (states : List MState) (f : State → State) (s : State) : State := if states.contains s.mstate then f s else s

def runAction (a : Action) (s : State) : State :=
  match a with
  | .rstWarm => actIn [.startup, .service, .test, .recovery] (restart .warm 1) s
  | .rstCold => actIn [.startup, .service, .test, .recovery, .safe] (restart .cold 1) s
  | .testExit => actIn [.test] (restart .cold 6) s
  | .fwActivate =>
    actIn [.startup, .service, .test, .recovery]
      (fun s => restart .warm 5 (s.updFram fun f => { f with fwMark := some (imageWord s.fw.image 2, imageRollback s.fw.image) })) s
  | .dormant => actIn [.startup] (fun s => if anyEnabled s then s else enterDormant s) s
  | .lockReset => actIn [.startup, .service, .test, .recovery, .safe] (restart .cold 2) s

/-- An action is due: its response has been read, or 100 ms have passed since it was queued (R318). -/
def actionDue (now : Nat) (a : Action × Port × Nat × Nat) : Bool := decide (a.2.2.1 = 0 ∨ a.2.2.2 + 100 ≤ now)

/-- The first action that is due takes place. In HOLD, which serves no command of R318, it waits for the state HOLD came from (DESIGN
CHOICE, log entry 75). -/
def execRestartCommandAction (s : State) : Host.Outcome State Fault Refusal :=
  .next (whileRunning (fun s =>
    if s.mstate = .hold then s
    else match s.hif.actions.find? (actionDue s.tb.ms) with
      | none => s
      | some a => runAction a.1 (s.updHif fun h => { h with actions := h.actions.erase a })) s)

/-! ### Freeze (R390, R405, R407) -/

/-- Rime status at the freeze: FROZEN, KEYS_ZERO, all 14 domains stopped, STOP_CYC, state code, TB_NS low. -/
def freezeStat (stopCycles : BitVec 4) (s : State) : Dword :=
  (at32 31 1 ||| at32 30 1 ||| at32 16 0x3FFF ||| at32 12 stopCycles.toNat ||| at32 4 s.mstate.code) ++ loWord s.tb.tb.ns

/-- FREEZE falls: acted on with the strap fitted and Rime armed. Keys zeroed, every domain stopped, RIME_MARK written, TAP reset. The clock
of the CAN channels stops before a frame in progress could end (DEDUCED, log entry 58). -/
def execFreeze (stopCycles : BitVec 4) (s : State) : Host.Outcome State Fault Refusal :=
  .next (if !s.maintEn || !s.rimeArmed || decide (s.mstate = .off ∨ s.mstate = .frozen) then s
    else
      let stat := freezeStat stopCycles s
      let mark := (s.tb.tb.ns, BitVec.ofNat 4 s.mstate.code)
      let (_, t) := drawFree s
      let t := stopGroup 1 (stopGroup 2 (t.updKeys Keys.zeroed))
      let t := haltCan .can2 (haltCan .can1 t)
      let t := t.updFram fun f => { f with rimeMark := some mark }
      let t := t.updJtag fun _ => { Jtag.fresh with stat := stat, frozenAt := s.freeCtr }
      (t.updMstate fun _ => .frozen).updHoldFrom fun _ => .off)

end Sys2Proof.Machine
end

