-- ==== Sys2Proof/Machine/Recorder.lean ====
section
/-!
DEFINITION. Faults as the FCU sees them (R277 to R280), the Ice Core's storing (R294, R295) and the sync points (R102).
-/
namespace Sys2Proof.Machine

/-- A source's accepted pattern leaves healthy: its lines, class code and detail. -/
def execFaultRaised (source : Byte) (rails : BitVec 2) (code : BitVec 3) (detail : Word) (s : State) :
    Host.Outcome State Fault Refusal :=
  .next (if !s.runs || decide (rails = 1) then s
    else presentPattern source.toNat rails code.toNat detail none s)

/-- A source returns to healthy. -/
def execFaultEnd (source : Byte) (ms : Word) (s : State) : Host.Outcome State Fault Refusal :=
  .next (if !s.runs || decide ((s.fcuSource source.toNat).real = 1) then s else endPattern source.toNat ms.toNat s)

/-- The Ice Core stores the oldest record of its inbound queue. -/
def execIceRecordStore (s : State) : Host.Outcome State Fault Refusal := .next (if !s.runs then s else iceTake s)

/-- A page that is due goes to the NAND ring of each lane. A lane whose own NAND fails after 3 retries has cause 0x15 (R138), and the
write failure is a class 1 fault of the Ice Core (R279). -/
def execNandPageWrite (failed : Option LaneId) (s : State) : Host.Outcome State Fault Refusal :=
  .next (if s.runs && pageDue s then
      let s := countRetries (fun l => { l with nandRetry := min 0xFFFF (l.nandRetry + 3) }) failed (pageWrite s)
      let s := laneFaultIn 0x15 failed s
      if failed.isSome then raiseOpen 0x40 1 none s else s
    else s)

/-- TB_NS has reached the instant of a sync point in this CD7 cycle: n · L + OFFSET_US · 1,000 for a round n with n mod (EVERY + 1) = 0
(R102). A cycle adds 8 or 9 ns to TB_NS (R92). -/
def pointReached (cfg : Word) (s : State) : Bool :=
  let off := 1000 * fld cfg 15 0
  decide (off ≤ s.now ∧ (s.now - off) % s.roundNs < 9 ∧ (s.now - off) / s.roundNs % (fld cfg 23 16 + 1) = 0)

/-- A sync point fires, in every state in which the time base counts: SP_TIME, SP_PEND, and SP_MISS where SP_PEND is still set. -/
def execSyncPointFire (k : Fin 4) (s : State) : Host.Outcome State Fault Refusal :=
  .next (if s.mstate = .off ∨ s.mstate = .frozen ∨ s.resetHold.isSome ∨ !tst (vget s.tb.sp .fresh k.val).cfg 31 ∨
        !pointReached (vget s.tb.sp .fresh k.val).cfg s then s
    else s.updTb fun t =>
      { t with sp := vmod t.sp k.val fun p =>
          { p with time := t.tb.ns, pend := true, miss := if p.pend then satInc 0xFF p.miss else p.miss } })

end Sys2Proof.Machine
end

