-- ==== Sys2Proof/Machine/Pins.lean ====
section
/-!
DEFINITION. What the pins and lamps show: HRDY and HIRQ# (R307, R308), the six LEDs (R431, R432), and what JTAG makes the pins do
(R403). Every one follows from the state.
-/
namespace Sys2Proof.Machine

/-- HRDY: the host port is served. -/
def hrdy (s : State) : Bool := portServed .host s

/-- Some sync point waits to be read. -/
def spIrq (s : State) : Bool := s.tb.sp.toList.any SyncPoint.pend

/-- The COS queue is not empty. -/
def cosIrq (s : State) : Bool := !s.io.cos.isEmpty

/-- HIRQ# is low. -/
def hirqLow (s : State) : Bool := !s.hif.host.resps.isEmpty || spIrq s || cosIrq s

inductive Lamp where
  | dark | green | amber | red | greenFlash | amberFlash | amberFast | greenAmber | greenBlip | code (n : Nat)
  deriving DecidableEq, Repr

def ledPwr (s : State) : Lamp :=
  match s.mstate with
  | .off => .dark
  | .hold => .amber
  | .dormant => .greenBlip
  | _ => .green

def ledState (s : State) : Lamp :=
  match s.mstate with
  | .boot | .selftest => .amber
  | .startup => .amberFlash
  | .service => if s.servingLanes.length = 3 then .green else .greenFlash
  | .test => .greenAmber
  | .recovery => .amberFast
  | .safe | .frozen => .red
  | .off | .hold | .dormant => .dark

def ledFloe (c : Chan) (s : State) : Lamp :=
  if s.mstate = .hold ∨ s.mstate = .dormant ∨ s.mstate = .off then .dark
  else if (s.chan c).txOff ∨ chanLocked c s then .red
  else if !(s.chan c).linkUp then .dark
  else if (s.chan c).ok then .green
  else .greenFlash

def ledTwin (s : State) : Lamp :=
  match s.twin.ps with
  | .single => .dark
  | .paired => .green
  | .alone => .greenFlash
  | .silent | .joining | .shadow => .amber
  | .removed => .red

def ledFault (s : State) : Lamp :=
  match s.resetHold with
  | some n => .code n
  | none =>
    if !s.fram.locks.isEmpty ∨ s.mstate = .frozen then .red
    else if unack s.fcu 1 || unack s.fcu 2 then .amber
    else .dark

/-- What drives the outputs of the safety device's pins: its function, or the boundary register in FROZEN. -/
inductive PinDrive where
  | function | boundary (cells : Dword) | highZ
  deriving DecidableEq, Repr

def pinDrive (s : State) : PinDrive :=
  if s.mstate ≠ .frozen then .function
  else if s.jtag.ir = 0x00 ∨ s.jtag.ir = 0x03 then .boundary s.jtag.boundary
  else if s.jtag.ir = 0x04 then .highZ
  else .function

end Sys2Proof.Machine
end

