-- ==== Sys2Proof/Machine/Commands.lean ====
section
/-!
DEFINITION. The host port and the mailboxes (R303 to R314): transactions on the pins, the taking and checking of a packet, and
completions.
-/
namespace Sys2Proof.Machine

/-! ### Transactions (R303 to R307) -/

/-- A transaction reaches the port only while HRDY is high (R307). -/
def whenReady (f : State → State) (s : State) : State := if hrdy s then f s else s

def countFrameErr (s : State) : State := s.updPort .host fun q => { q with frameErr := satInc 0xFFFF q.frameErr }

/-- WRITE_CMD with the bytes after the instruction; the first case of R304 that applies. -/
def writeCommand (bytes : List Byte) (s : State) : State :=
  if 4 ≤ s.hif.host.cmds.length then mailboxPut .host bytes s
  else if bytes.length < 16 then countFrameErr s
  else mailboxPut .host (bytes.take 4112) s

def execWriteCmd (bytes : List Byte) (s : State) : Host.Outcome State Fault Refusal :=
  .next (whenReady (writeCommand bytes) s)

/-- What the host reads on HIO. -/
def drive (bytes : List Byte) (s : State) : State := s.updHif fun h => { h with hio := bytes }

/-- READ_RESP of n bytes: the oldest response and zeros beyond it; it leaves the mailbox once all of it is read. -/
def readResponse (n : Nat) (s : State) : State :=
  match s.hif.host.resps with
  | [] => drive (List.replicate n 0) s
  | r :: rest =>
    let s := drive (r.take n ++ List.replicate (n - r.length) 0) s
    if n < r.length then s.updPort .host fun q => { q with respReread := satInc 0xFFFF q.respReread }
    else noteRead .host (s.updPort .host fun q => { q with resps := rest })

def execReadResp (nbytes : Nat) (s : State) : Host.Outcome State Fault Refusal :=
  .next (whenReady (readResponse nbytes) s)

/-- W0 of the port status word (R306). -/
def portStatus (s : State) : Word :=
  let q := s.hif.host
  at32 29 (4 - q.cmds.length) ||| at32 26 q.resps.length ||| flag 25 (spIrq s) ||| flag 24 (cosIrq s) |||
    flag 23 (!decide (s.eff = .boot ∨ s.eff = .selftest)) ||| at32 0 ((q.resps.head?.map fun r => r.length - 16).getD 0)

def execReadStat (s : State) : Host.Outcome State Fault Refusal :=
  .next (whenReady (fun s => drive (wordsBytes [portStatus s, ~~~portStatus s]) s) s)

/-- A transaction that is none of the three: without clocks ignored, else counted where R303 says so. -/
def execInvalidTransaction (clocks : Nat) (code : Byte) (s : State) : Host.Outcome State Fault Refusal :=
  .next (whenReady (fun s =>
    if clocks = 1 ∨ (2 ≤ clocks ∧ code ≠ 0x01 ∧ code ≠ 0x02 ∧ code ≠ 0x05) then countFrameErr s else s) s)

/-! ### The taking of a command (R311, R312) -/

/-- The handler of an OPCODE of R319. -/
def handlerOf (op : Half) : Handler :=
  match op.toNat with
  | 0x0001 => handleIdent
  | 0x0002 => handleStatus
  | 0x0003 => handleRegPeek
  | 0x0101 => handleRstWarm
  | 0x0102 => handleRstCold
  | 0x0103 => handlePwrDormant
  | 0x0104 => handleTestEnter
  | 0x0105 => handleTestExit
  | 0x0201 => handleTaskCfg
  | 0x0202 => handleIoCfg
  | 0x0301 => handleTimeSet
  | 0x0401 => handlePrgLoad
  | 0x0402 => handlePrgVerify
  | 0x0403 => handlePrgActivate
  | 0x0501 => handleFwStage
  | 0x0502 => handleFwActivate
  | 0x0601 => handleImgRead
  | 0x0602 => handleHinWrite
  | 0x0701 => handleIceOpen
  | 0x0702 => handleIceRead
  | 0x0801 => handleFcuRead
  | 0x0802 => handleFcuAck
  | 0x0803 => handleFcuForce
  | 0x0901 => handleLockArm
  | 0x0902 => handleLockReset
  | 0x0A01 => handleTwinCfg
  | 0x0A02 => handleTwinSplit
  | 0x0A03 => handleTwinJoin
  | 0x0B01 => handleFloeCfg
  | 0x0B02 => handleFloeSched
  | 0x0B03 => handleFloeModereq
  | 0x0C01 => handleArbCfg
  | 0x0C02 => handleArbCounters
  | 0x0C10 => handleCvuRun
  | 0x0D01 => handleCanCfg
  | 0x0D02 => handleCanSend
  | 0x0D03 => handleCanRead false
  | 0x0E01 => handleRimeArm
  | _ => fun _ _ _ s => (.err .errOpcode, s)

def headWord (pkt : List Byte) (i : Nat) : Word := wordAt pkt i

def pktOpcode (pkt : List Byte) : Half := BitVec.ofNat 16 (fld (headWord pkt 0) 15 0)
def pktTag (pkt : List Byte) : Half := BitVec.ofNat 16 (fld (headWord pkt 1) 31 16)
def pktLen (pkt : List Byte) : Nat := fld (headWord pkt 1) 15 0

/-- HCRC of a packet: over it with the field taken as 0 (R310). -/
def pktCrc (pkt : List Byte) : Word := crc32c (pkt.take 12 ++ wordBytes 0 ++ pkt.drop 16)

/-- Checks 1 to 3. A packet that the lanes read with a poisoned beat fails HCRC (R340). -/
def wireRefusal (poisoned : Bool) (pkt : List Byte) : Option Reply :=
  if fld (headWord pkt 0) 31 16 ≠ 0x424C then some (.err .errMagic)
  else if 4096 < pktLen pkt then some (.len 0 (pktLen pkt))
  else if pkt.length ≠ 16 + pktLen pkt then some (.len (pkt.length - 16) (pktLen pkt))
  else if poisoned || headWord pkt 3 != pktCrc pkt then some (.err .errCrc)
  else none

/-- Check 5, for an OPCODE that check 4 finds listed: the offset of FLAGS or of STATUS. -/
def flagRefusal (pkt : List Byte) : Option Reply :=
  if (catalogueRow (pktOpcode pkt)).isNone then none
  else if fld (headWord pkt 2) 31 16 ≠ 0 then some (.error .errRange 8 0)
  else if fld (headWord pkt 2) 15 0 ≠ 0 then some (.error .errRange 10 0)
  else none

def countCrcErr (p : Port) (s : State) : State := s.updPort p fun q => { q with crcErr := satInc 0xFFFF q.crcErr }

/-- The reply to a packet, checked in the order of R311. -/
def servePacket (poisoned : Bool) (p : Port) (pkt : List Byte) (s : State) : Reply × State :=
  match wireRefusal poisoned pkt with
  | some r => (r, countCrcErr p s)
  | none => match flagRefusal pkt with
    | some r => (r, s)
    | none => serve (handlerOf (pktOpcode pkt)) p (pktOpcode pkt) (pktTag pkt) (pkt.drop 16) s

/-- The oldest command of a mailbox is taken, once its response has a place. -/
def takeOldest (poisoned : Bool) (p : Port) (s : State) : State :=
  match (s.port p).cmds with
  | [] => s
  | pkt :: rest =>
    if !portServed p s || !placeFree p s then s
    else
      let s := takeCommand p (s.updPort p fun q => { q with cmds := rest })
      let s := if poisoned then s.updFabric fun f => { f with eccUncorr := satInc 0xFFFF f.eccUncorr } else s
      let (r, t) := servePacket poisoned p pkt s
      respond (voteLost 4 s) p (pktOpcode pkt) (pktTag pkt) r t

def execCommandTaken (p : Port) (s : State) (poisoned : Bool := false) : Host.Outcome State Fault Refusal :=
  .next (takeOldest poisoned p s)

/-- Completions that wait take the free places, in their order (R314). -/
def execCompletionQueued (p : Port) (s : State) : Host.Outcome State Fault Refusal :=
  .next (if portServed p s then s.updPort p flushWaiting else s)

end Sys2Proof.Machine
end

