-- ==== Sys2Proof/Machine/FloeRx.lean ====
section
/-!
DEFINITION. Reception of Floe frames (R199 to R202, R207, R209), beacons (R162, R207, R220), cold starts received (R214 to R216) and
maintenance fragments (R224, R225).
-/
namespace Sys2Proof.Machine

/-! ### Receive buffers (R199) -/

/-- A frame as it is compared: without TRANSIT_NS, which each star writes anew, and without padding (DEDUCED, log entry 41). -/
def frameCore (p : List Byte) : List Byte := (zeroTransit p).take (32 + frDlen p)

/-- PRIMARY and ALT of one key after a frame. -/
def rxStep (ch : Chan) (p : List Byte) (b : Option RxBuf) : RxBuf :=
  match b with
  | none => { primary := p, alt := none, altCh := ch, prCh := ch }
  | some b =>
    if frSeq p ≠ frSeq b.primary then { primary := p, alt := none, altCh := ch, prCh := ch }
    else if b.alt.isNone ∧ frameCore p ≠ frameCore b.primary then { b with alt := some p, altCh := ch }
    else b

def storeRx (key : Nat) (ch : Chan) (p : List Byte) (s : State) : State :=
  s.updFloe fun f => { f with rx := Tbl.put f.rx key (rxStep ch p (Tbl.find f.rx key)) }

/-! ### The slot in which a frame arrived (R199, R209) -/

/-- Start of the round on the clock that keeps network time. -/
def State.roundStartNs (s : State) : Nat := s.floe.round * s.roundNs

/-- Offset of a frame from the round start, transit time removed. -/
def frameOffset (arrival : Nat) (p : List Byte) (s : State) : Int :=
  (arrival : Int) - (s.roundStartNs : Int) - (frTransit p : Int)

/-- The slot in whose window the offset lies: the last one that starts no later than 1,250 ns after it. -/
def arrivalSlot (off : Int) (xs : List Slot) : Option Slot :=
  (xs.filter fun x => decide ((x.start : Int) ≤ off + 1250)).getLast?

/-! ### Beacons (R207, R162) -/

def bcWord (p : List Byte) (i : Nat) : Word := wordAt (frData p) i
def bcStar (p : List Byte) : Nat := fld (bcWord p 0) 31 30
def bcRun (p : List Byte) : Bool := tst (bcWord p 0) 29
def bcMode (p : List Byte) : Nat := fld (bcWord p 0) 28 27
def bcSwitch (p : List Byte) : Bool := tst (bcWord p 0) 26
def bcModeNext (p : List Byte) : Nat := fld (bcWord p 0) 25 24
def bcPairs (p : List Byte) : Nat := fld (bcWord p 0) 23 16
def bcKeyNext (p : List Byte) : Bool := tst (bcWord p 0) 15

/-- Number of the star in STAR_ID, by its node number. -/
def starOf (owner : Nat) : Nat := owner - 0xFFD

/-- Every condition on a beacon but R200 and the round. -/
def beaconBody (x : Slot) (p : List Byte) : Bool :=
  decide (bcStar p = starOf x.owner) && decide (bcPairs p ≤ 64) && decide (frDlen p = 16 + 8 * bcPairs p)

/-- The leadership block of a pair, as its two words. -/
def leaderBlock (pair : Nat) (p : List Byte) : Option (Word × Word) :=
  ((List.range (bcPairs p)).map fun i => (bcWord p (4 + 2 * i), bcWord p (5 + 2 * i))).find? fun b => fld b.1 31 16 == pair

/-- What the accepted beacon tells a twin pair (R167, R171). -/
def beaconTwin (s : State) : State :=
  if s.twin.ps ≠ .paired then s
  else if (s.twinId = 1 ∧ s.twin.missA) ∨ (s.twinId = 2 ∧ s.twin.missB) then goSilent 5 1 s
  else if s.isLeader ∧ ((s.partnerId = 1 ∧ s.twin.missA) ∨ (s.partnerId = 2 ∧ s.twin.missB)) then setPState .alone s
  else endWaits s

/-- The leadership block is read. -/
def readBlock (b : Word × Word) (s : State) : State :=
  beaconTwin (s.updTwin fun t =>
    { t with epochSeen := BitVec.ofNat 16 (fld b.1 15 0), leaderSeen := BitVec.ofNat 2 (fld b.2 31 30),
             missA := tst b.2 29, missB := tst b.2 28 })

/-- MODE_CUR differs from the module's mode: nothing more is sent in this round (R220). -/
def modeSlip (m : Nat) (s : State) : State :=
  raiseOpen 0x2A 1 none (s.updFloe fun f =>
    { f with mute := true, slip := some (BitVec.ofNat 2 m), modeSlip := satInc 0xFFFF f.modeSlip })

/-- An announcement of another mode than the one requested ends the request (R219). -/
def announce (s : State) : State :=
  match s.floe.mreq with
  | some (m, _, _, _) => if s.floe.swPend ∧ s.floe.modeNext ≠ m then endModereq (.err .errModeBusy) s else s
  | none => s

/-- The beacon of the round, of rank 2 for star A and 1 for star B, is accepted. Without a block for the module's PAIR_ID the leadership
values of the beacon before stand (DEDUCED, log entry 49). -/
def acceptBeacon (ch : Chan) (rank : Nat) (p : List Byte) (s : State) : State :=
  let s := s.updFloe fun f =>
    { f with beaconRank := rank, mismatch := decide (f.fstate = .integrate ∧ (bcWord p 1).toNat ≠ f.round),
             swPend := bcSwitch p, modeNext := BitVec.ofNat 2 (bcModeNext p), switchRound := bcWord p 2,
             keyNext := bcKeyNext p }
  let s := s.updChan ch fun c => { c with beaconNow := true }
  let s := if bcMode p ≠ s.floe.mode.toNat ∧ s.floe.slip = none then modeSlip (bcMode p) s else s
  let s := announce s
  match leaderBlock (fld s.twin.liveW0 15 0) p with
  | some b => readBlock b s
  | none => s

/-- A beacon that has passed R200; star A sends in slot 0 and star B in slot 1. -/
def beaconArrived (ch : Chan) (x : Slot) (p : List Byte) (s : State) : State :=
  let rank := 3 - starOf x.owner
  if !beaconBody x p || decide (x.num + 1 ≠ starOf x.owner) then s
  else if s.floe.fstate ≠ .integrate ∧ (bcWord p 1).toNat ≠ s.floe.round then
    s.updFloe fun f => { f with mismatch := true }
  else
    let s := s.updChan ch fun c => { c with heardNow := true }
    if s.floe.beaconRank < rank then acceptBeacon ch rank p s
    else if s.floe.beaconRank = rank then s.updChan ch fun c => { c with beaconNow := true }
    else s

/-! ### Sync frames (R209) -/

/-- A frame in a SYNC slot that passes the checks of the lanes counts with its deviation. -/
def countSync (ch : Chan) (x : Slot) (dev : Int) (ftype : Nat) (p : List Byte) (s : State) : State :=
  if x.sync && frValid s.floe.live s.keys ftype x.maxd x.owner p && (devOn ch x.num s.floe.devs).isNone then
    (s.updFloe fun f => { f with devs := f.devs ++ [(x.num, ch, dev)] }).updChan ch fun c =>
      { c with syncNow := true, heardNow := true }
  else s

/-! ### The kinds of slot -/

/-- The node is a controller of the active bank: its frames are checked and counted at the latch (R200). -/
def isController (node : Nat) (s : State) : Bool :=
  (s.prog.active.map fun b => b.ocs.any fun c => c.2.node == node).getD false

def statusArrived (ch : Chan) (x : Slot) (dev : Int) (p : List Byte) (s : State) : State :=
  let s := storeRx x.owner ch p (countSync ch x dev 3 p s)
  if isController x.owner s then s
  else countCheck (if frValid s.floe.live s.keys 3 x.maxd x.owner p then .ok else .code) ch s

def dataArrived (ch : Chan) (x : Slot) (dev : Int) (p : List Byte) (s : State) : State :=
  storeRx (dataKey (frId p)) ch p (countSync ch x dev 4 p s)

/-- The SEQ history of the maintenance slot stands under this key. -/
def maintKey : Nat := 0x20000

def maintArrived (ch : Chan) (x : Slot) (p : List Byte) (s : State) : State :=
  if x.owner ≠ floeMaintTerm s.floe.live then s
  else if !frValid s.floe.live s.keys 5 x.maxd x.owner p then countCheck .code ch s
  else if !seqAhead (Tbl.find s.floe.seqHist maintKey) (frSeq p) then countCheck .seq ch s
  else countCheck .ok ch (s.updFloe fun f =>
    { f with seqHist := Tbl.put f.seqHist maintKey (frSeq p), maintRx := f.maintRx ++ [p.take (32 + frDlen p)] })

/-- The echo of the own STATUS frame gives OWN_DEV (R212); every other own frame is discarded. -/
def ownFrame (ch : Chan) (x : Slot) (dev : Int) (p : List Byte) (s : State) : State :=
  if x.kind == .status && frType p == 3 && frSrc p == x.owner then
    s.updChan ch fun c => { c with echoNow := true, ownDev := some dev }
  else s

/-- A frame inside the window of its slot. -/
def slotFrame (ch : Chan) (x : Slot) (dev : Int) (p : List Byte) (s : State) : State :=
  if x.owner = floeNode s.floe.live then ownFrame ch x dev p s
  else if !x.rx then s
  else match x.kind with
    | .beacon =>
      if frValid s.floe.live s.keys 1 x.maxd x.owner p then beaconArrived ch x p (countCheck .ok ch s)
      else countCheck .code ch s
    | .status => statusArrived ch x dev p s
    | .data => dataArrived ch x dev p s
    | .maint => maintArrived ch x p s
    | _ => s

def ringOverflow (ch : Chan) (s : State) : State := s.updChan ch fun c => { c with ringOvf := satInc 0xFFFF c.ringOvf }

/-- A beat of the ring entry is poisoned: the frame is not received (R340). -/
def poisonRead (s : State) : State := s.updFabric fun f => { f with eccUncorr := satInc 0xFFFF f.eccUncorr }

/-- A frame while the module follows the schedule. The MAC uses the echo of its own STATUS frame itself; every other frame goes through
the receive ring (R199, R343). -/
def roundFrame (ch : Chan) (arrival : Nat) (fate : RingFate) (p : List Byte) (s : State) : State :=
  let off := frameOffset arrival p s
  match arrivalSlot off s.slots with
  | none => s.updChan ch fun c => { c with rxWin := satInc 0xFFFF c.rxWin }
  | some x =>
    if 1250 < off - x.start then s.updChan ch fun c => { c with rxWin := satInc 0xFFFF c.rxWin }
    else if x.owner = floeNode s.floe.live ∨ !x.rx then slotFrame ch x (off - x.start) p s
    else match fate with
      | .stored => slotFrame ch x (off - x.start) p s
      | .full => ringOverflow ch s
      | .poisoned => poisonRead s

/-! ### LISTEN (R214) -/

/-- A valid beacon with RUN 1 sets the integration counter. The rate goes on from TB_RATE (DEDUCED, log entry 42). -/
def integrateFrom (x : Slot) (p : List Byte) (s : State) : State :=
  let round := (bcWord p 1).toNat
  let s := s.updFloe fun f =>
    { f with round := round, mode := BitVec.ofNat 2 (bcMode p), keyNext := bcKeyNext p, integGood := 0, integRounds := 0,
             syncNext := false }
  setFState .integrate (s.updTb fun t =>
    { t with integRun := true,
             integ := { ns := BitVec.ofNat 64 (round * (1000000 * roundMs s.floe.live) + x.start + frTransit p), frac := 0,
                        rate := t.tb.rate, slew16 := 0 } })

/-- A frame of a star in LISTEN, before a round is known: its slot is 0 for star A and 1 for star B. Of an idle beacon KEY_NEXT is kept,
the key slot of COLDSTART frames (R215; DESIGN CHOICE, log entry 68). -/
def listenFrame (ch : Chan) (p : List Byte) (s : State) : State :=
  match s.slots[frSrc p - 0xFFE]? with
  | none => s
  | some x =>
    if frSrc p < 0xFFE ∨ x.owner ≠ frSrc p then s
    else if !frValid s.floe.live s.keys 1 x.maxd x.owner p then countCheck .code ch s
    else
      let s := countCheck .ok ch s
      if !beaconBody x p then s
      else if bcRun p then integrateFrom x p s
      else s.updFloe fun f => { f with idleCyc := some s.cyc, idleKey := bcKeyNext p }

/-- The frame-data and time-stamp crossings of a channel are open (R354). -/
def crossingsOpen (ch : Chan) (s : State) : Bool :=
  !(vget s.fabric.xs .fresh (chanNum ch)).notReady && !(vget s.fabric.xs .fresh (chanNum ch + 3)).notReady

def countFcs (ch : Chan) (s : State) : State := s.updChan ch fun c => { c with rxFcs := satInc 0xFFFF c.rxFcs }

/-- An Ethernet frame arrives on a channel; `arrival` is its instant on the clock that keeps network time. A tagged frame and one of
another EtherType is discarded without a count (R192). -/
def execFrameReceive (ch : Chan) (arrival : Dword) (fcsOk : Bool) (frame : List Byte) (s : State)
    (fate : RingFate := .stored) : Host.Outcome State Fault Refusal :=
  .next (if !s.runs || s.floe.fstate == .down || !chanPasses ch s || !crossingsOpen ch s then s
    else match ethPayload 0x88B5 frame with
      | none => s
      | some p =>
        if !fcsOk then countFcs ch s
        else match s.floe.fstate with
          | .listen => match fate with
            | .stored => listenFrame ch p s
            | .full => ringOverflow ch s
            | .poisoned => poisonRead s
          | .integrate | .sync | .passive => roundFrame ch arrival.toNat fate p s
          | _ => s)

/-! ### Cold start received (R215, R216) -/

/-- A COLDSTART frame that passes R200. -/
def coldOk (p : List Byte) (s : State) : Bool :=
  frValid s.floe.live s.keys 2 8 (frSrc p) p && decide (frDlen p = 8 ∧ fld (wordAt (frData p) 1) 31 2 = 0)

/-- What a COLDSTART says. -/
def coldFrame (arrival : Dword) (p : List Byte) : ColdRx :=
  { node := frSrc p, firstRound := wordAt (frData p) 0, mode := BitVec.ofNat 2 (fld (wordAt (frData p) 1) 1 0),
    sentNs := arrival - BitVec.ofNat 64 (frTransit p) }

/-- A COLDSTART is checked, counted and held for the decision. -/
def coldArrived (ch : Chan) (arrival : Dword) (p : List Byte) (s : State) : State :=
  if !coldOk p s then countCheck .code ch s
  else
    (countCheck .ok ch s).updFloe fun f => match ch with
      | .a => { f with coldA := f.coldA <|> some (coldFrame arrival p) }
      | .b => { f with coldB := f.coldB <|> some (coldFrame arrival p) }

/-- The forwarded COLDSTART of a channel arrives. -/
def execColdstartReceive (ch : Chan) (arrival : Dword) (frame : List Byte) (s : State)
    (fcsOk : Bool := true) : Host.Outcome State Fault Refusal :=
  .next (if !s.runs || !chanPasses ch s || !crossingsOpen ch s || !decide (s.floe.fstate = .listen ∨ s.floe.fstate = .coldstart) then s
    else match ethPayload 0x88B5 frame with
      | none => s
      | some p => if fcsOk then coldArrived ch arrival p s else countFcs ch s)

/-- The frame decided on is adopted: the own one is waited for in COLDSTART, another node's leads to INTEGRATE. -/
def adoptCold (c : ColdRx) (s : State) : State :=
  let own := decide (c.node = floeNode s.floe.live)
  let s := s.updFloe fun f => { f with coldA := none, coldB := none }
  match s.floe.fstate, own with
  | .coldstart, true => s.updFloe fun f => { f with coldTake := some (c.firstRound, true), mode := c.mode }
  | .listen, false | .coldstart, false =>
    setFState .integrate (s.updFloe fun f =>
      { f with coldTake := some (c.firstRound, false), mode := c.mode, integGood := 0, integRounds := 0, syncNext := false })
  | _, _ => s

/-- The 20 µs are over: channel A's frame decides, otherwise channel B's. -/
def execColdstartDecision (s : State) : Host.Outcome State Fault Refusal :=
  .next (whileRunning (fun s =>
    match s.floe.coldA, s.floe.coldB with
    | some c, _ => adoptCold c s
    | none, some c => adoptCold c s
    | none, none => s) s)

/-! ### Maintenance fragments (R224, R225) -/

/-- A fragment opens a packet. -/
def fragFirst (round : Nat) (d : List Byte) : FragSt :=
  { pktId := BitVec.ofNat 16 (fld (wordAt d 1) 31 16), cnt := fld (wordAt d 0) 7 0, next := 1,
    pktLen := fld (wordAt d 1) 15 0, round := round, bytes := d.drop 8 }

/-- What the fragments still to come of a discarded packet meet: no FRAG follows it. -/
def fragDead (round : Nat) (d : List Byte) : FragSt := { fragFirst round d with next := 256, bytes := [] }

/-- The fragment continues the packet in progress: same packet, next FRAG, next round. -/
def fragContinues (round : Nat) (d : List Byte) (x : FragSt) : Bool :=
  decide (x.next = fld (wordAt d 0) 15 8 ∧ x.cnt = fld (wordAt d 0) 7 0 ∧ x.pktId.toNat = fld (wordAt d 1) 31 16 ∧
    x.pktLen = fld (wordAt d 1) 15 0 ∧ x.round + 1 = round)

/-- A fragment that opens a packet has a length a packet can have. -/
def fragOpens (d : List Byte) : Bool :=
  decide (fld (wordAt d 0) 15 8 = 0 ∧ fld (wordAt d 0) 7 0 ≠ 0 ∧ 16 ≤ fld (wordAt d 1) 15 0 ∧ fld (wordAt d 1) 15 0 ≤ 4112)

/-- The packet in progress after a fragment, and how many packets it discards. -/
def fragStep (round : Nat) (d : List Byte) (old : Option FragSt) : FragSt × Nat :=
  match old with
  | some x =>
    if fragContinues round d x then ({ x with next := x.next + 1, round := round, bytes := x.bytes ++ d.drop 8 }, 0)
    else
      let known := x.next = 256 ∧ x.pktId.toNat = fld (wordAt d 1) 31 16
      if fragOpens d then (fragFirst round d, if x.next = 256 then 0 else 1)
      else (fragDead round d, if known then 0 else 1)
  | none => if fragOpens d then (fragFirst round d, 0) else (fragDead round d, 1)

def countDiscards (n : Nat) (s : State) : State :=
  s.updPort .maint fun q => { q with frameErr := min (q.frameErr + n) 0xFFFF }

/-- A complete packet enters the maintenance mailbox; one with fewer bytes than PKT_LEN is discarded. -/
def fragDone (x : FragSt) (s : State) : State :=
  let s := s.updPort .maint fun q => { q with frags := none }
  if x.bytes.length < x.pktLen then countDiscards 1 s else mailboxPut .maint (x.bytes.take x.pktLen) s

/-- The fragment of a MAINT frame is taken; packets discarded count in FRAME_ERR (R338). -/
def takeFragment (d : List Byte) (s : State) : State :=
  if !portServed .maint s || decide (d.length < 8 ∨ fld (wordAt d 0) 31 20 ≠ floeNode s.floe.live ∨ fld (wordAt d 0) 19 16 ≠ 0) then s
  else
    let (x, n) := fragStep s.floe.round d s.hif.maint.frags
    let s := countDiscards n (s.updPort .maint fun q => { q with frags := some x })
    if x.next = x.cnt then fragDone x s else s

/-- The lanes take the fragment of a MAINT frame that FRAME_RECEIVE has checked and received: from MAINT_TERM, in its MAINT slot with RX 1,
SCODE and SEQ right (R200, R225). -/
def execMaintFragmentReceive (payload : List Byte) (s : State) : Host.Outcome State Fault Refusal :=
  let p := payload.take (32 + frDlen payload)
  .next (if !s.floe.maintRx.contains p then s
    else takeFragment (frData p) (s.updFloe fun f => { f with maintRx := f.maintRx.erase p }))

end Sys2Proof.Machine
end

