-- ==== Sys2Proof/Machine/FloeTx.lean ====
section
/-!
DEFINITION. Sending of Floe frames: DATA, STATUS and MAINT in the module's own slots (R203, R206, R208, R173, R217, R224) and
COLDSTART (R214, R215).
-/
namespace Sys2Proof.Machine

/-! ### Bodies -/

def sumSat (top a b : Nat) : Nat := min top (a + b)

/-- The STATUS body (R208); in SAFE only the health word. -/
def statusBody (s : State) : List Byte :=
  if s.eff = .safe then wordsBytes [healthWord s, 0, 0, 0, 0, 0]
  else
    let f := s.floe
    wordsBytes
      [ healthWord s,
        at32 29 f.fstate.code ||| at32 27 f.mode.toNat ||| flag 26 f.mreq.isSome |||
          at32 24 ((f.mreq.map fun m => m.1.toNat).getD 0) ||| flag 23 f.chA.ok ||| flag 22 f.chB.ok,
        at32 16 (sumSat 0xFFFF f.chA.dupMm f.chB.dupMm) ||| at32 0 f.dupFrame.toNat, twos 32 f.ftm,
        at32 16 (sumSat 0xFFFF f.chA.guardCut f.chB.guardCut) ||| at32 0 (sumSat 0xFFFF f.chA.rxWin f.chB.rxWin), 0 ]

/-- The states in which STATUS and MAINT frames are sent (R206). -/
def fullStatus (s : State) : Bool := decide (s.eff = .startup ∨ s.eff = .test ∨ s.eff = .service)

/-- The twin's sending rule at the slot (R173). -/
def twinSends (agreed : Bool) (s : State) : Bool :=
  match s.twin.ps with
  | .single => true
  | .alone => s.isLeader
  | .paired => s.isLeader || agreed || leaderLost s
  | _ => false

/-- A publication that this twin sends in this round: by the sending rule, and at a twin that has split the cycles released before the
boundary, by the rule that held for it there (R173, R178). -/
def sendsPub (p : Pub) (s : State) : Bool :=
  p.round == s.floe.round &&
    (twinSends p.agreed s || (s.twin.ps == .shadow && decide (p.rel < s.twin.shadowRound) && (p.agreed || leaderLost s)))

/-- The published frame that is due in a DATA slot of this round, of two publications the later (R27, R85, R221). -/
def dueFrame (fid : Nat) (s : State) : Option (List Byte) :=
  (List.range 8).findSome? fun t =>
    if taskLive t s then
      (s.task t).pubs.reverse.findSome? fun p => if sendsPub p s then (p.frames.find? fun f => f.1 == fid).map (·.2) else none
    else none

/-- One fragment of the oldest response of the maintenance slot, as the data of a MAINT frame. -/
def maintData (maxd : Nat) (s : State) : Option (List Byte) :=
  match s.hif.maint.resps with
  | [] => none
  | r :: _ =>
    let per := maxd - 8
    let q := s.hif.maint
    let part := (r.drop (per * q.txFrag)).take per
    some (wordsBytes [at32 20 (floeMaintTerm s.floe.live) ||| at32 8 q.txFrag ||| at32 0 (ceilDiv r.length per),
        at32 16 q.txPkt.toNat ||| at32 0 r.length] ++ part ++ List.replicate (roundUp 4 part.length - part.length) 0)

/-- The fragment has left; after the last one the response is gone, which counts as read. -/
def nextFragment (maxd : Nat) (s : State) : State :=
  match s.hif.maint.resps with
  | [] => s
  | r :: rest =>
    if ceilDiv r.length (maxd - 8) ≤ s.hif.maint.txFrag + 1 then
      noteRead .maint (s.updPort .maint fun q => { q with resps := rest, txFrag := 0, txPkt := q.txPkt + 1 })
    else s.updPort .maint fun q => { q with txFrag := q.txFrag + 1 }

/-! ### On the wire -/

/-- The channels on which a slot's frame is sent (R206, R223). -/
def sendsOn (x : Slot) (c : Chan) (s : State) : Bool := x.on c && chanPasses c s && !(s.chan c).txOff

/-- The guardian has cut the frame on a channel (R217). -/
def guardCut (c : Chan) (s : State) : State :=
  raiseOpen (chanSource c) 1 none (s.updChan c fun x => { x with guardCut := satInc 0xFFFF x.guardCut })

def countTx (c : Chan) (s : State) : State := s.updChan c fun x => { x with txFrames := satInc 0xFFFFFFFF x.txFrames }

/-- A transmission on one channel: the channel, the start of its first bit after START_NS in ns, a poisoned beat among what the MAC
reads, and the instant after START_NS at which the guardian closes the driver, if it does. -/
structure Tx where
  ch     : Chan
  late   : Int
  poison : Bool
  close  : Option Int

/-- The guardian's window of a slot closes at T_wire(MAX_DLEN) − 96 ns + 125 ns after START_NS (R196, R217). -/
def windowClose (x : Slot) : Int := (wireNs x.maxd : Int) + 29

/-- A frame with its preamble, start delimiter and FCS lasts beyond the window. -/
def Tx.isCut (t : Tx) (frame : List Byte) : Bool :=
  (t.close.map fun c => decide (c < t.late + 8 * ((frame.length : Int) + 12))).getD false

/-- The bytes of a frame that lie wholly in the window, which opens 125 ns before START_NS. -/
def Tx.passed (t : Tx) (frame : List Byte) : List Byte :=
  match t.close with
  | none => frame
  | some c => (frame.take ((c - t.late) / 8 - 8).toNat).drop ((-118 - t.late) / 8 - 8).toNat

/-- The frame as the channel carries it, and whether its FCS is right: a MAC that reads a poisoned beat ends it with a wrong one
(R217, R340). -/
def Tx.wire (t : Tx) (frame : List Byte) : Bool × List Byte :=
  (!t.poison && !t.isCut frame && decide ((t.passed frame).length = frame.length), t.passed frame)

/-- A payload leaves on a channel, and the guardian cuts it where its window closes first. -/
def putOnWire (num : Nat) (p : List Byte) (s : State) (t : Tx) : State :=
  let frame := ethFrame 0x03464C000000 (nodeAddress (frSrc p)) 0x88B5 p
  let w := t.wire frame
  let s := countTx t.ch (s.updFloe fun f => { f with sent := f.sent ++ [(num, t.ch, w.1, w.2)] })
  if t.isCut frame then guardCut t.ch s else s

/-- The selected key slot is empty: nothing is sent, and the fault is raised once until a frame can be sent again (R197). -/
def keyMissing (s : State) : State :=
  if s.floe.keyEmpty then s else raiseOpen 0x2B 2 none (s.updFloe fun f => { f with keyEmpty := true })

def keyLoaded (sel : Bool) (s : State) : Bool := !floeKeyed s.floe.live || (s.keys.slot sel).isSome

/-- A STATUS or MAINT frame of this node at an instant. -/
def nodeFrame (ftype : Nat) (ns : Nat) (sel : Bool) (data : List Byte) (s : State) : Option (List Byte) :=
  buildFrame s.floe.live s.keys ftype (floeNode s.floe.live) sel 0 data (s.floe.nodeSeq + 1) (macrotick ns)

def advanceSeq (s : State) : State := s.updFloe fun f => { f with nodeSeq := f.nodeSeq + 1, keyEmpty := false }

/-- The frame of an own slot, and what sending it does beside; none where the slot stays empty. -/
def slotPayload (x : Slot) (s : State) : Option (Option (List Byte) × (State → State)) :=
  let ns := s.roundStartNs + x.start
  match x.kind with
  | .status =>
    if fullStatus s ∨ s.eff = .safe then some (nodeFrame 3 ns s.floe.keyCur (statusBody s) s, advanceSeq) else none
  | .maint =>
    if fullStatus s then (maintData x.maxd s).map fun d =>
        (nodeFrame 5 ns s.floe.keyCur d s, fun s => nextFragment x.maxd (advanceSeq s))
    else none
  | .data =>
    if s.eff = .service then (dueFrame x.fid s).map fun p =>
        (if keyLoaded (frKeySel p) s then some p else none, fun s => s.updFloe fun f => { f with keyEmpty := false })
    else none
  | _ => none

/-- The frame of one own slot leaves on the channels of the transmissions that may send. -/
def sendSlot (x : Slot) (ts : List Tx) (s : State) : State :=
  match ts.filter fun t => sendsOn x t.ch s with
  | [] => s
  | on => match slotPayload x s with
    | none => s
    | some (none, _) => keyMissing s
    | some (some p, after) => on.foldl (putOnWire x.num p) (after s)

/-- The start of slot `slot` of the mode in use. On channels A and B the first bit leaves `lateA` and `lateB` ns after START_NS; `poisonA`
and `poisonB` say that the MAC of the channel read a poisoned beat. -/
def execFrameTransmit (slot : Nat) (lateA lateB : Int) (s : State) (poisonA poisonB : Bool := false) :
    Host.Outcome State Fault Refusal :=
  .next (if !s.runs || s.floe.fstate != .sync || s.floe.mute then s
    else match s.slots[slot]? with
      | none => s
      | some x =>
        if x.owner = floeNode s.floe.live then
          sendSlot x [⟨.a, lateA, poisonA, some (windowClose x)⟩, ⟨.b, lateB, poisonB, some (windowClose x)⟩] s
        else s)

/-! ### Cold start sent (R214, R215) -/

/-- FIRST_ROUND of a COLDSTART sent now. -/
def firstRound (s : State) : Nat := ceilDiv (s.now + 1000000) s.roundNs + 1

/-- The number under which a COLDSTART stands among the frames sent: it has no slot. -/
def coldSlot : Nat := 0xFFFF

def coldAllowed (s : State) : Bool :=
  floeColdEn s.floe.live && decide (s.eff = .startup ∨ s.eff = .test) &&
    (s.floe.idleCyc.map fun c => decide (s.cyc ≤ c + 250000)).getD false

def sendCold (s : State) : State :=
  let data := wordsBytes [BitVec.ofNat 32 (firstRound s), at32 0 (floeInitMode s.floe.live)]
  match nodeFrame 2 s.now s.floe.idleKey data s with
  | none => keyMissing s
  | some p =>
    let on := [Chan.a, .b].filter fun c => chanPasses c s && !(s.chan c).txOff
    setFState .coldstart ((on.map fun c => ⟨c, 0, false, none⟩).foldl (putOnWire coldSlot p) (advanceSeq s))

/-- The listen timer expires: COLDSTART is sent where R214 allows it, else the timer starts again. -/
def execListenTimerExpiry (s : State) : Host.Outcome State Fault Refusal :=
  .next (if s.runs && s.floe.fstate == .listen && coldAllowed s then sendCold s else s)

end Sys2Proof.Machine
end

