-- ==== Sys2Proof/Machine/JtagRows.lean ====
section
/-!
DEFINITION. The JTAG port and the Rime registers (R403, R404, R407, R408). One row is one scan: the instruction is loaded, its
data register captured, shifted out and updated.
-/
namespace Sys2Proof.Machine

/-- The instruction register has captured and shifted out 0b0000_0001, the instruction stands in it, and its data register of n bits
has been shifted out. -/
def scanOut (code : Byte) (n : Nat) (v : BitVec 384) (s : State) : State :=
  s.updJtag fun j => { j with ir := code, irOut := 1, tdo := v, tdoLen := n }

/-- The one-bit bypass register captures 0 (IEEE 1149.1). -/
def bypassScan (code : Byte) (s : State) : State := scanOut code 1 0 s

/-- An instruction of every powered state. -/
def powered (f : State → State) (s : State) : State := if s.mstate = .off then s else f s

/-- An instruction of FROZEN; elsewhere it acts as BYPASS. -/
def frozenOnly (code : Byte) (f : State → State) (s : State) : State :=
  powered (fun s => if s.mstate = .frozen then f s else bypassScan code s) s

/-- The boundary register: captured cells out, the bits shifted in kept. -/
def boundaryScan (code : Byte) (shiftIn : Dword) (s : State) : State :=
  let n := s.freeCtr
  let (_, s) := drawFree s
  (scanOut code Config.boundaryLen ((Config.boundary n).setWidth 384) s).updJtag fun j => { j with boundary := shiftIn }

def execTapReset (s : State) : Host.Outcome State Fault Refusal :=
  .next (powered (fun s => s.updJtag fun j => { j with ir := 0x02 }) s)

def execExtest (shiftIn : Dword) (s : State) : Host.Outcome State Fault Refusal :=
  .next (frozenOnly 0x00 (boundaryScan 0x00 shiftIn) s)

def execSamplePreload (shiftIn : Dword) (s : State) : Host.Outcome State Fault Refusal :=
  .next (powered (boundaryScan 0x01 shiftIn) s)

/-- VERSION 0x3, PART 0x7340, MANUF 0x253 and 1, on hardware issue C. -/
def execIdcode (s : State) : Host.Outcome State Fault Refusal := .next (powered (scanOut 0x02 32 0x373404A7) s)

def execClamp (s : State) : Host.Outcome State Fault Refusal := .next (frozenOnly 0x03 (bypassScan 0x03) s)

def execHighz (s : State) : Host.Outcome State Fault Refusal := .next (frozenOnly 0x04 (bypassScan 0x04) s)

/-- IDENT W0 in bits 383 to 352 down to W11 in bits 31 to 0. -/
def identBits (s : State) : BitVec 384 := BitVec.ofNat 384 (beNat (wordsBytes (identWords s)))

def execIdread (s : State) : Host.Outcome State Fault Refusal := .next (powered (fun s => scanOut 0x10 384 (identBits s) s) s)

/-- Codes that do not act as BYPASS: the listed instructions where they are available. -/
def notBypass (code : Byte) (s : State) : Bool :=
  [0x01, 0x02, 0x10].contains code.toNat ||
    (decide (s.mstate = .frozen) && [0x00, 0x03, 0x04, 0x20, 0x21, 0x22].contains code.toNat)

/-- BYPASS, or a code that acts as BYPASS: a reserved one, or an instruction where it is not available. -/
def execBypass (_ : Bool) (s : State) (code : Byte := 0xFF) : Host.Outcome State Fault Refusal :=
  .next (powered (fun s => if notBypass code s then s else bypassScan code s) s)

def execRimeStat (s : State) : Host.Outcome State Fault Refusal :=
  .next (frozenOnly 0x20 (fun s => scanOut 0x20 64 (s.jtag.stat.setWidth 384) s) s)

/-! ### Rime chains (R408) -/

/-- Words of a chain; 0 for a reserved one. -/
def chainLength (c : Nat) : Nat :=
  if c ≤ 2 then 6144 else if c ≤ 5 then 2097152 else
  match c with
  | 6 => 2048 | 7 => 1048576 | 8 => 524288 | 9 => 4096 | 10 => 3072 | 11 => 256 | _ => 0

/-- Chains that are read once. -/
def chainOnce (c : Nat) : Bool := [0, 1, 2, 6, 9, 10, 11].contains c

/-- A word of a chain: the image of a serving lane and the Exchange SRAM where the manual gives their layout. -/
def chainWord (c i : Nat) (s : State) : Word :=
  if 3 ≤ c ∧ c ≤ 5 ∧ 4 * i < 0x780000 ∧ s.serving (c - 3) then memWord s.mem (4 * i)
  else if c = 7 ∧ 6 ≤ areaOf (4 * i) ∧ !areaOpen (areaOf (4 * i)) then memWord s.xsram (4 * i)
  else Config.chainWord s.jtag.frozenAt c i

/-- RIME_SEL: a once-read chain goes on where it was left. -/
def selectChain (value : Word) (s : State) : State :=
  let c := fld value 31 24
  s.updJtag fun j =>
    { j with chain := BitVec.ofNat 8 c, ptr := if chainOnce c then Tbl.getD j.onceRead c 0 else fld value 23 0 }

def execRimeSel (value : Word) (s : State) : Host.Outcome State Fault Refusal :=
  .next (frozenOnly 0x21 (fun s => selectChain value (scanOut 0x21 32 0 s)) s)

/-- WORD, CHAIN_ID and INDEX at the pointer; beyond the end WORD and INDEX read 0 and CHAIN_ID 0xFF. -/
def rimeWord (s : State) : List Byte :=
  let c := s.jtag.chain.toNat
  let i := s.jtag.ptr
  if i < chainLength c then wordBytes (chainWord c i s) ++ [s.jtag.chain] ++ beBytes 3 i
  else wordBytes 0 ++ [0xFF] ++ beBytes 3 0

/-- The 72 bits of RIME_READ with their CRC-8. -/
def rimeData (s : State) : BitVec 384 := BitVec.ofNat 384 (beNat (rimeWord s ++ [crc8 (rimeWord s)]))

/-- The pointer advances at Update-DR; a once-read chain keeps how far it has been shifted out. -/
def nextRimeWord (j : Jtag) : Jtag :=
  let p := j.ptr + 1
  { j with ptr := p, onceRead := if chainOnce j.chain.toNat then Tbl.put j.onceRead j.chain.toNat p else j.onceRead }

def execRimeRead (s : State) : Host.Outcome State Fault Refusal :=
  .next (frozenOnly 0x22 (fun s => (scanOut 0x22 72 (rimeData s) s).updJtag nextRimeWord) s)

end Sys2Proof.Machine
end

