-- ==== Sys2Proof/Machine/Dispatch.lean ====
section
/-!
DEFINITION. One arm per command: a direct call of its meaning.
-/
namespace Sys2Proof.Machine

/-- The effect of a command on everything but the queue. -/
def exec (i : Instr) (s : State) : Host.Outcome State Fault Refusal :=
  match i with
  | .writeCmd bytes => Sys2Proof.Machine.execWriteCmd bytes s
  | .readResp nbytes => Sys2Proof.Machine.execReadResp nbytes s
  | .readStat => Sys2Proof.Machine.execReadStat s
  | .invalidTransaction clocks code => Sys2Proof.Machine.execInvalidTransaction clocks code s
  | .commandTaken p poisoned => Sys2Proof.Machine.execCommandTaken p s poisoned
  | .completionQueued p => Sys2Proof.Machine.execCompletionQueued p s
  | .restartCommandAction => Sys2Proof.Machine.execRestartCommandAction s
  | .maintFragmentReceive payload => Sys2Proof.Machine.execMaintFragmentReceive payload s
  | .ident p tag => Sys2Proof.Machine.execIdent p tag s
  | .status p tag block first count => Sys2Proof.Machine.execStatus p tag block first count s
  | .regPeek p tag addr count => Sys2Proof.Machine.execRegPeek p tag addr count s
  | .rstWarmArm p tag => Sys2Proof.Machine.execRstWarmArm p tag s
  | .rstWarmExecute p tag token => Sys2Proof.Machine.execRstWarmExecute p tag token s
  | .rstColdArm p tag => Sys2Proof.Machine.execRstColdArm p tag s
  | .rstColdExecute p tag token => Sys2Proof.Machine.execRstColdExecute p tag token s
  | .pwrDormantArm p tag => Sys2Proof.Machine.execPwrDormantArm p tag s
  | .pwrDormantExecute p tag token => Sys2Proof.Machine.execPwrDormantExecute p tag token s
  | .testEnterArm p tag => Sys2Proof.Machine.execTestEnterArm p tag s
  | .testEnterExecute p tag token => Sys2Proof.Machine.execTestEnterExecute p tag token s
  | .testExitArm p tag => Sys2Proof.Machine.execTestExitArm p tag s
  | .testExitExecute p tag token => Sys2Proof.Machine.execTestExitExecute p tag token s
  | .taskCfg p tag task record => Sys2Proof.Machine.execTaskCfg p tag task record s
  | .taskCfgArm p tag task record => Sys2Proof.Machine.execTaskCfgArm p tag task record s
  | .taskCfgExecute p tag token task record => Sys2Proof.Machine.execTaskCfgExecute p tag token task record s
  | .ioCfg p tag record => Sys2Proof.Machine.execIoCfg p tag record s
  | .timeSet p tag setRate setTime time rate => Sys2Proof.Machine.execTimeSet p tag setRate setTime time rate s
  | .timeSetSyncPoints p tag sp0 sp1 sp2 sp3 => Sys2Proof.Machine.execTimeSetSyncPoints p tag sp0 sp1 sp2 sp3 s
  | .prgLoad p tag first offset data => Sys2Proof.Machine.execPrgLoad p tag first offset data s
  | .prgVerify p tag => Sys2Proof.Machine.execPrgVerify p tag s
  | .verifyComplete nandEqual => Sys2Proof.Machine.execVerifyComplete nandEqual s
  | .prgActivateArm p tag litCrc descCrc => Sys2Proof.Machine.execPrgActivateArm p tag litCrc descCrc s
  | .prgActivateExecute p tag token litCrc descCrc => Sys2Proof.Machine.execPrgActivateExecute p tag token litCrc descCrc s
  | .fwStage p tag first last offset data => Sys2Proof.Machine.execFwStage p tag first last offset data s
  | .fwActivateArm p tag => Sys2Proof.Machine.execFwActivateArm p tag s
  | .fwActivateExecute p tag token => Sys2Proof.Machine.execFwActivateExecute p tag token s
  | .imgRead p tag task addr length => Sys2Proof.Machine.execImgRead p tag task addr length s
  | .hinWrite p tag first count data => Sys2Proof.Machine.execHinWrite p tag first count data s
  | .iceOpen p tag minSev nand origin startSeq => Sys2Proof.Machine.execIceOpen p tag minSev nand origin startSeq s
  | .iceRead p tag count eccFailed => Sys2Proof.Machine.execIceRead p tag count eccFailed s
  | .fcuRead p tag first count => Sys2Proof.Machine.execFcuRead p tag first count s
  | .fcuAck p tag all source => Sys2Proof.Machine.execFcuAck p tag all source s
  | .fcuForce p tag fclass pattern source => Sys2Proof.Machine.execFcuForce p tag fclass pattern source s
  | .lockArm p tag kind index => Sys2Proof.Machine.execLockArm p tag kind index s
  | .lockReset p tag kind index token => Sys2Proof.Machine.execLockReset p tag kind index token s
  | .twinCfg p tag record => Sys2Proof.Machine.execTwinCfg p tag record s
  | .twinSplitArm p tag => Sys2Proof.Machine.execTwinSplitArm p tag s
  | .twinSplitExecute p tag token => Sys2Proof.Machine.execTwinSplitExecute p tag token s
  | .twinJoinArm p tag => Sys2Proof.Machine.execTwinJoinArm p tag s
  | .twinJoinExecute p tag token => Sys2Proof.Machine.execTwinJoinExecute p tag token s
  | .floeCfg p tag record => Sys2Proof.Machine.execFloeCfg p tag record s
  | .floeCfgArm p tag record => Sys2Proof.Machine.execFloeCfgArm p tag record s
  | .floeCfgExecute p tag token record => Sys2Proof.Machine.execFloeCfgExecute p tag token record s
  | .floeSched p tag mode first last offset entries => Sys2Proof.Machine.execFloeSched p tag mode first last offset entries s
  | .floeSchedClear p tag mode => Sys2Proof.Machine.execFloeSchedClear p tag mode s
  | .floeModereq p tag mode => Sys2Proof.Machine.execFloeModereq p tag mode s
  | .modereqTimeout => Sys2Proof.Machine.execModereqTimeout s
  | .arbCfg p tag record => Sys2Proof.Machine.execArbCfg p tag record s
  | .arbCounters p tag clear => Sys2Proof.Machine.execArbCounters p tag clear s
  | .cvuRun p tag descriptors data => Sys2Proof.Machine.execCvuRun p tag descriptors data s
  | .cvuChainComplete poisoned corrected => Sys2Proof.Machine.execCvuChainComplete poisoned s corrected
  | .canCfg p tag ch record => Sys2Proof.Machine.execCanCfg p tag ch record s
  | .canSend p tag ch buf resume oneShot w2 w3 data => Sys2Proof.Machine.execCanSend p tag ch buf resume oneShot w2 w3 data s
  | .canSendAbort p tag ch buf => Sys2Proof.Machine.execCanSendAbort p tag ch buf s
  | .canSendResume p tag ch buf => Sys2Proof.Machine.execCanSendResume p tag ch buf s
  | .canRead p tag ch first count newOnly cutOff => Sys2Proof.Machine.execCanRead p tag ch first count newOnly s cutOff
  | .rimeArmArm p tag => Sys2Proof.Machine.execRimeArmArm p tag s
  | .rimeArmExecute p tag token => Sys2Proof.Machine.execRimeArmExecute p tag token s
  | .powerOnStart rimeAgrees iceAgrees logAgrees => Sys2Proof.Machine.execPowerOnStart rimeAgrees iceAgrees logAgrees s
  | .firmwareSlotCheck pass0 pass1 pass2 fwMarkAgrees => Sys2Proof.Machine.execFirmwareSlotCheck pass0 pass1 pass2 fwMarkAgrees s
  | .fwUpdateBoot sig0 sig1 sig2 copyBad0 copyBad1 copyBad2 => Sys2Proof.Machine.execFwUpdateBoot sig0 sig1 sig2 copyBad0 copyBad1 copyBad2 s
  | .selftestComplete logicOk memoryOk guardOk wrap0Ok wrap1Ok wrapTwinOk reintOk => Sys2Proof.Machine.execSelftestComplete logicOk memoryOk guardOk wrap0Ok wrap1Ok wrapTwinOk reintOk s
  | .startupReached bank0 bank1 retentive locksAgree actBankAgrees homeAgrees => Sys2Proof.Machine.execStartupReached bank0 bank1 retentive locksAgree actBankAgrees homeAgrees s
  | .serviceEntry => Sys2Proof.Machine.execServiceEntry s
  | .undervoltage mv => Sys2Proof.Machine.execUndervoltage mv s
  | .supplyRestored mv => Sys2Proof.Machine.execSupplyRestored mv s
  | .brownout storeMv => Sys2Proof.Machine.execBrownout s storeMv
  | .overvoltageDisconnect mv => Sys2Proof.Machine.execOvervoltageDisconnect mv s
  | .overvoltageReconnect mv => Sys2Proof.Machine.execOvervoltageReconnect s mv
  | .laneRailsLost => Sys2Proof.Machine.execLaneRailsLost s
  | .laneRailWindowFault lane mv => Sys2Proof.Machine.execLaneRailWindowFault lane s mv
  | .laneRailsCommonMode => Sys2Proof.Machine.execLaneRailsCommonMode s
  | .dormantWake src => Sys2Proof.Machine.execDormantWake src s
  | .freeze stopCycles => Sys2Proof.Machine.execFreeze stopCycles s
  | .tapReset => Sys2Proof.Machine.execTapReset s
  | .extest shiftIn => Sys2Proof.Machine.execExtest shiftIn s
  | .samplePreload shiftIn => Sys2Proof.Machine.execSamplePreload shiftIn s
  | .idcode => Sys2Proof.Machine.execIdcode s
  | .clamp => Sys2Proof.Machine.execClamp s
  | .highz => Sys2Proof.Machine.execHighz s
  | .idread => Sys2Proof.Machine.execIdread s
  | .rimeStat => Sys2Proof.Machine.execRimeStat s
  | .rimeSel value => Sys2Proof.Machine.execRimeSel value s
  | .rimeRead => Sys2Proof.Machine.execRimeRead s
  | .bypass shiftIn code => Sys2Proof.Machine.execBypass shiftIn s code
  | .roundStart => Sys2Proof.Machine.execRoundStart s
  | .taskRelease t => Sys2Proof.Machine.execTaskRelease t s
  | .sliceCopyComplete t => Sys2Proof.Machine.execSliceCopyComplete t s
  | .evaluationStart t fault => Sys2Proof.Machine.execEvaluationStart t fault s
  | .taskYield t => Sys2Proof.Machine.execTaskYield t s
  | .taskEnd t endTime backlog => Sys2Proof.Machine.execTaskEnd t endTime backlog s
  | .deadlineInstant t literal => Sys2Proof.Machine.execDeadlineInstant t literal s
  | .framCommitComplete failed => Sys2Proof.Machine.execFramCommitComplete failed s
  | .activationBoundary => Sys2Proof.Machine.execActivationBoundary s
  | .activationNoBoundary => Sys2Proof.Machine.execActivationNoBoundary s
  | .actConfirmTimeout => Sys2Proof.Machine.execActConfirmTimeout s
  | .frameTransmit slot lateA lateB poisonA poisonB => Sys2Proof.Machine.execFrameTransmit slot lateA lateB s poisonA poisonB
  | .frameReceive ch arrival fcsOk frame fate => Sys2Proof.Machine.execFrameReceive ch arrival fcsOk frame s fate
  | .correctionPoint => Sys2Proof.Machine.execCorrectionPoint s
  | .listenTimerExpiry => Sys2Proof.Machine.execListenTimerExpiry s
  | .coldstartReceive ch arrival frame fcsOk => Sys2Proof.Machine.execColdstartReceive ch arrival frame s fcsOk
  | .coldstartDecision => Sys2Proof.Machine.execColdstartDecision s
  | .coldstartTimeout => Sys2Proof.Machine.execColdstartTimeout s
  | .integrateTimeout => Sys2Proof.Machine.execIntegrateTimeout s
  | .passiveTimeout => Sys2Proof.Machine.execPassiveTimeout s
  | .linkUp ch => Sys2Proof.Machine.execLinkUp ch s
  | .linkDown ch inFrame => Sys2Proof.Machine.execLinkDown ch s inFrame
  | .channelSilent ch => Sys2Proof.Machine.execChannelSilent ch s
  | .echoMissing ch => Sys2Proof.Machine.execEchoMissing ch s
  | .modeSwitch => Sys2Proof.Machine.execModeSwitch s
  | .helloSend => Sys2Proof.Machine.execHelloSend s
  | .hello receipt msg restarted => Sys2Proof.Machine.execHello receipt msg s restarted
  | .actfwd msg => Sys2Proof.Machine.execActfwd msg s
  | .actprop msg => Sys2Proof.Machine.execActprop msg s
  | .actconf msg => Sys2Proof.Machine.execActconf msg s
  | .insig msg => Sys2Proof.Machine.execInsig msg s
  | .inslice msg => Sys2Proof.Machine.execInslice msg s
  | .twcmp msg => Sys2Proof.Machine.execTwcmp msg s
  | .stsig msg => Sys2Proof.Machine.execStsig msg s
  | .splitreq msg => Sys2Proof.Machine.execSplitreq msg s
  | .splitack msg => Sys2Proof.Machine.execSplitack msg s
  | .splitackTimeout => Sys2Proof.Machine.execSplitackTimeout s
  | .splitBoundary => Sys2Proof.Machine.execSplitBoundary s
  | .splitNoBoundary => Sys2Proof.Machine.execSplitNoBoundary s
  | .joinreq msg => Sys2Proof.Machine.execJoinreq msg s
  | .joinack msg => Sys2Proof.Machine.execJoinack msg s
  | .joinackTimeout => Sys2Proof.Machine.execJoinackTimeout s
  | .stateblkSend => Sys2Proof.Machine.execStateblkSend s
  | .stateblk msg => Sys2Proof.Machine.execStateblk msg s
  | .joinend msg => Sys2Proof.Machine.execJoinend msg s
  | .joinabort msg => Sys2Proof.Machine.execJoinabort msg s
  | .joinNoEntry => Sys2Proof.Machine.execJoinNoEntry s
  | .joinRetry => Sys2Proof.Machine.execJoinRetry s
  | .agreeTimeout t => Sys2Proof.Machine.execAgreeTimeout t s
  | .voteRecord r0 r1 r2 votersAgree parityOk inPath => Sys2Proof.Machine.execVoteRecord r0 r1 r2 votersAgree parityOk s inPath
  | .laneWatchdogExpiry lane => Sys2Proof.Machine.execLaneWatchdogExpiry lane s
  | .reintResetElapsed lane => Sys2Proof.Machine.execReintResetElapsed lane s
  | .reintTestComplete lane passed => Sys2Proof.Machine.execReintTestComplete lane passed s
  | .reintBulkCopyDone lane => Sys2Proof.Machine.execReintBulkCopyDone lane s
  | .reintDeltaEmpty lane => Sys2Proof.Machine.execReintDeltaEmpty lane s
  | .reintGapsExhausted lane => Sys2Proof.Machine.execReintGapsExhausted lane s
  | .scanStep => Sys2Proof.Machine.execScanStep s
  | .quenchEvaluation => Sys2Proof.Machine.execQuenchEvaluation s
  | .inputSample microamps => Sys2Proof.Machine.execInputSample microamps s
  | .fieldSupplySample mv1 mv2 => Sys2Proof.Machine.execFieldSupplySample mv1 mv2 s
  | .outputReadbackSample mvMa => Sys2Proof.Machine.execOutputReadbackSample mvMa s
  | .testPulseStart k => Sys2Proof.Machine.execTestPulseStart k s
  | .testPulseEnd k readOff fell => Sys2Proof.Machine.execTestPulseEnd k readOff fell s
  | .discriminationEnd g readOn => Sys2Proof.Machine.execDiscriminationEnd g readOn s
  | .outputOverload k ma => Sys2Proof.Machine.execOutputOverload k ma s
  | .ovlClear k => Sys2Proof.Machine.execOvlClear k s
  | .openLoad k => Sys2Proof.Machine.execOpenLoad k s
  | .feedbackFault k => Sys2Proof.Machine.execFeedbackFault k s
  | .guardBeat sincePrevUs => Sys2Proof.Machine.execGuardBeat sincePrevUs s
  | .guardHbEqual => Sys2Proof.Machine.execGuardHbEqual s
  | .guardTimeout => Sys2Proof.Machine.execGuardTimeout s
  | .syncPointFire k => Sys2Proof.Machine.execSyncPointFire k s
  | .faultRaised source rails code detail => Sys2Proof.Machine.execFaultRaised source rails code detail s
  | .faultEnd source ms => Sys2Proof.Machine.execFaultEnd source ms s
  | .iceRecordStore => Sys2Proof.Machine.execIceRecordStore s
  | .nandPageWrite failed => Sys2Proof.Machine.execNandPageWrite failed s
  | .arbiterDecision waits => Sys2Proof.Machine.execArbiterDecision waits s
  | .crossingResync x discarded => Sys2Proof.Machine.execCrossingResync x discarded s
  | .pulseTransfer x pulses => Sys2Proof.Machine.execPulseTransfer x pulses s
  | .onlineTestStep ok => Sys2Proof.Machine.execOnlineTestStep ok s
  | .canFrameReceive ch frame sof => Sys2Proof.Machine.execCanFrameReceive ch frame sof s
  | .canTxComplete ch buf sof loopDelayNs => Sys2Proof.Machine.execCanTxComplete ch buf sof loopDelayNs s
  | .canCollision ch buf => Sys2Proof.Machine.execCanCollision ch buf s
  | .canBusOff ch => Sys2Proof.Machine.execCanBusOff ch s
  | .canBoHoldExpiry ch => Sys2Proof.Machine.execCanBoHoldExpiry ch s
  | .canBusOffRecovery ch => Sys2Proof.Machine.execCanBusOffRecovery ch s
  | .canProtocolException ch => Sys2Proof.Machine.execCanProtocolException ch s
  | .canLockTimeout ch buf => Sys2Proof.Machine.execCanLockTimeout ch buf s
  | .canWake ch frame => Sys2Proof.Machine.execCanWake ch s frame
  | .canBusError ch err transmitting buf phase => Sys2Proof.Machine.execCanBusError ch err transmitting buf s phase
  | .canIntegration ch => Sys2Proof.Machine.execCanIntegration ch s

end Sys2Proof.Machine
end

