-- ==== Sys2Proof/Machine/Tick.lean ====
section
/-!
DEFINITION. One cycle of CD7: the time base (R92, R94), the integration counter (R211), CAN_TS (R378) and the 1 ms counter
(R142). It is what a step does on an empty queue (DESIGN CHOICE, log entry 3).
-/
namespace Sys2Proof.Machine

/-- TB_NS and TB_FRAC as one count of 2^-32 ns (R92). -/
def Clock.count (c : Clock) : BitVec 96 := c.ns ++ c.frac

def Clock.withCount (x : BitVec 96) (c : Clock) : Clock :=
  { c with ns := BitVec.ofNat 64 (x.toNat >>> 32), frac := BitVec.ofNat 32 x.toNat }

/-- The slew of one CD7 cycle in sixteenths of a nanosecond: the sign of what is still to be applied (R94). -/
def Clock.slewStep (c : Clock) : Int := if 0 < c.slew16 then 1 else if c.slew16 < 0 then -1 else 0

/-- The increment of R92 in units of 2^-32 ns: 8 ns, the rate part and the slew part. -/
def Clock.increment (c : Clock) : Int := 8 * 2 ^ 32 + 8 * c.rate.toInt + c.slewStep * 2 ^ 28

def Clock.tick (c : Clock) : Clock :=
  { c.withCount (c.count + BitVec.ofInt 96 c.increment) with slew16 := c.slew16 - c.slewStep }

/-- A count of CD7 cycles: at `n` it starts again, and the flag says so. -/
def cycleCount (n c : Nat) : Nat × Bool := if c + 1 < n then (c + 1, false) else (0, true)

/-- All counters of CD7 that run on their own. -/
def TimeBase.tick (t : TimeBase) : TimeBase :=
  let ms := cycleCount 125000 t.msCyc
  let can := cycleCount 125 t.canCyc
  { t with tb := t.tb.tick, integ := if t.integRun then t.integ.tick else t.integ,
           msCyc := ms.1, ms := if ms.2 then t.ms + 1 else t.ms,
           canCyc := can.1, canTs := if can.2 then t.canTs + 1 else t.canTs }

/-- One CD7 cycle passes; in OFF, in FROZEN and in a device held in reset the domain stands still (R30, R388, R405). -/
def tick (s : State) : State :=
  if s.mstate = .off ∨ s.mstate = .frozen ∨ s.resetHold.isSome then s else s.updTb TimeBase.tick

end Sys2Proof.Machine
end

