-- ==== Sys2Proof/Safety.lean ====
section
/-!
DEFINITION. The words in which statements are made: a sound state, a host command that its port takes and does not refuse at
the entry, the answer it gets, a twin message that is accepted.
-/
namespace Sys2Proof.Machine

/-! ### Sound states -/

/-- A lane's own memories are in canonical form. -/
def LaneSt.memoriesWf (l : LaneSt) : Bool := Memory.wf l.img && Memory.wf l.ownFram.home

/-- Every sparse memory is in canonical form: image, Exchange SRAM, retentive home copy, each lane's own, and the journal slots a
joining twin has received. -/
def State.memoriesWf (s : State) : Bool :=
  Memory.wf s.mem && Memory.wf s.xsram && Memory.wf s.fram.home && s.lanes.toList.all LaneSt.memoriesWf &&
    (s.twin.join.map fun j => Memory.wf j.journal).getD true

/-- A port's mailboxes are four deep and its pending places eight (R312, R313). -/
def portBounded (q : PortSt) : Bool := decide (q.cmds.length ≤ 4 ∧ q.resps.length ≤ 4 ∧ q.pend.length ≤ 8)

/-- Every queue of a fixed depth is within it (R255, R294, R295, R312, R313). -/
def State.queuesBounded (s : State) : Bool :=
  portBounded s.hif.host && portBounded s.hif.maint &&
    decide (s.ice.inbound.length ≤ 64 ∧ s.ice.store.length ≤ 65536 ∧ s.ice.nandQueue.length ≤ 2048 ∧
      s.ice.ring.length ≤ 262144 ∧ s.io.cos.length ≤ 64)

/-! ### What a write marks -/

/-- A lane without its state copy: the blocks still to copy, those written since, and its own memories (R147). -/
def LaneSt.unmarked (l : LaneSt) : LaneSt := { l with dirty := 0, copyFrom := 0, marked := [], img := [], ownFram := .fresh }

/-- A state without what a write marks for a lane's state copy and for a join stream (R147, R183). -/
def State.unmarked (s : State) : State :=
  { s with lanes := s.lanes.map LaneSt.unmarked,
           twin := { s.twin with join := s.twin.join.map fun j => { j with marked := [] } } }

/-! ### Host commands -/

/-- A host command as a port takes it. -/
structure HostCommand where
  port    : Port
  op      : Half
  tag     : Half
  payload : List Byte
  deriving DecidableEq, Repr

/-- Words at the front of a payload, bytes behind them. -/
def wordsThen (ws : List Word) (data : List Byte) : List Byte := wordsBytes ws ++ data

/-- OPCODE, TAG and payload of the rows that are host commands (R309, R319). -/
def hostCommand : Instr → Option HostCommand
  | .ident p tag => some ⟨p, 0x0001, tag, []⟩
  | .status p tag block first count => some ⟨p, 0x0002, tag, wordsBytes [at32 16 block.toNat, first, count]⟩
  | .regPeek p tag addr count => some ⟨p, 0x0003, tag, wordsBytes [addr, at32 0 count.toNat]⟩
  | .rstWarmArm p tag => some ⟨p, 0x0101, tag, wordsBytes [1, 0]⟩
  | .rstWarmExecute p tag token => some ⟨p, 0x0101, tag, wordsBytes [2, token]⟩
  | .rstColdArm p tag => some ⟨p, 0x0102, tag, wordsBytes [1, 0]⟩
  | .rstColdExecute p tag token => some ⟨p, 0x0102, tag, wordsBytes [2, token]⟩
  | .pwrDormantArm p tag => some ⟨p, 0x0103, tag, wordsBytes [1, 0]⟩
  | .pwrDormantExecute p tag token => some ⟨p, 0x0103, tag, wordsBytes [2, token]⟩
  | .testEnterArm p tag => some ⟨p, 0x0104, tag, wordsBytes [1, 0]⟩
  | .testEnterExecute p tag token => some ⟨p, 0x0104, tag, wordsBytes [2, token]⟩
  | .testExitArm p tag => some ⟨p, 0x0105, tag, wordsBytes [1, 0]⟩
  | .testExitExecute p tag token => some ⟨p, 0x0105, tag, wordsBytes [2, token]⟩
  | .taskCfg p tag task r => some ⟨p, 0x0201, tag, wordsBytes [0, 0, at32 0 task.toNat, r]⟩
  | .taskCfgArm p tag task r => some ⟨p, 0x0201, tag, wordsBytes [1, 0, at32 0 task.toNat, r]⟩
  | .taskCfgExecute p tag token task r => some ⟨p, 0x0201, tag, wordsBytes [2, token, at32 0 task.toNat, r]⟩
  | .ioCfg p tag record => some ⟨p, 0x0202, tag, wordsBytes record⟩
  | .timeSet p tag setRate setTime time rate =>
    some ⟨p, 0x0301, tag, wordsBytes [flag 1 setRate ||| flag 0 setTime, hiWord time, loWord time, rate]⟩
  | .timeSetSyncPoints p tag sp0 sp1 sp2 sp3 => some ⟨p, 0x0301, tag, wordsBytes [0, 0, 0, 0, sp0, sp1, sp2, sp3]⟩
  | .prgLoad p tag first offset data => some ⟨p, 0x0401, tag, wordsThen [flag 0 first, offset] data⟩
  | .prgVerify p tag => some ⟨p, 0x0402, tag, []⟩
  | .prgActivateArm p tag lit desc => some ⟨p, 0x0403, tag, wordsBytes [1, 0] ++ dwordBytes lit ++ dwordBytes desc⟩
  | .prgActivateExecute p tag token lit desc =>
    some ⟨p, 0x0403, tag, wordsBytes [2, token] ++ dwordBytes lit ++ dwordBytes desc⟩
  | .fwStage p tag first last offset data => some ⟨p, 0x0501, tag, wordsThen [flag 1 last ||| flag 0 first, offset] data⟩
  | .fwActivateArm p tag => some ⟨p, 0x0502, tag, wordsBytes [1, 0]⟩
  | .fwActivateExecute p tag token => some ⟨p, 0x0502, tag, wordsBytes [2, token]⟩
  | .imgRead p tag task addr length => some ⟨p, 0x0601, tag, wordsBytes [at32 0 task.toNat, addr, length]⟩
  | .hinWrite p tag first count data => some ⟨p, 0x0602, tag, wordsThen [first, count] data⟩
  | .iceOpen p tag minSev nand origin start =>
    some ⟨p, 0x0701, tag, wordsBytes [at32 4 minSev.toNat ||| flag 2 nand ||| at32 0 origin.toNat, start]⟩
  | .iceRead p tag count _ => some ⟨p, 0x0702, tag, wordsBytes [at32 0 count.toNat]⟩
  | .fcuRead p tag first count => some ⟨p, 0x0801, tag, wordsBytes [at32 16 count.toNat ||| at32 0 first.toNat]⟩
  | .fcuAck p tag all src => some ⟨p, 0x0802, tag, wordsBytes [flag 31 all ||| at32 0 src.toNat]⟩
  | .fcuForce p tag cls pattern src =>
    some ⟨p, 0x0803, tag, wordsBytes [at32 12 cls.toNat ||| at32 8 pattern.toNat ||| at32 0 src.toNat]⟩
  | .lockArm p tag kind index => some ⟨p, 0x0901, tag, wordsBytes [lockWord kind index]⟩
  | .lockReset p tag kind index token => some ⟨p, 0x0902, tag, wordsBytes [lockWord kind index, token]⟩
  | .twinCfg p tag record => some ⟨p, 0x0A01, tag, wordsBytes record⟩
  | .twinSplitArm p tag => some ⟨p, 0x0A02, tag, wordsBytes [1, 0]⟩
  | .twinSplitExecute p tag token => some ⟨p, 0x0A02, tag, wordsBytes [2, token]⟩
  | .twinJoinArm p tag => some ⟨p, 0x0A03, tag, wordsBytes [1, 0]⟩
  | .twinJoinExecute p tag token => some ⟨p, 0x0A03, tag, wordsBytes [2, token]⟩
  | .floeCfg p tag record => some ⟨p, 0x0B01, tag, wordsBytes (0 :: 0 :: record)⟩
  | .floeCfgArm p tag record => some ⟨p, 0x0B01, tag, wordsBytes (1 :: 0 :: record)⟩
  | .floeCfgExecute p tag token record => some ⟨p, 0x0B01, tag, wordsBytes (2 :: token :: record)⟩
  | .floeSched p tag mode first last offset entries =>
    some ⟨p, 0x0B02, tag, wordsBytes ((flag 9 last ||| flag 8 first ||| at32 0 mode.toNat) :: offset :: entries)⟩
  | .floeSchedClear p tag mode => some ⟨p, 0x0B02, tag, wordsBytes [flag 10 true ||| at32 0 mode.toNat, 0]⟩
  | .floeModereq p tag mode => some ⟨p, 0x0B03, tag, wordsBytes [at32 0 mode.toNat]⟩
  | .arbCfg p tag record => some ⟨p, 0x0C01, tag, wordsBytes record⟩
  | .arbCounters p tag clear => some ⟨p, 0x0C02, tag, wordsBytes [flag 0 clear]⟩
  | .cvuRun p tag ds data =>
    some ⟨p, 0x0C10, tag, wordsThen ((at32 16 data.length ||| at32 0 (ds.length / 10)) :: ds) data⟩
  | .canCfg p tag ch record => some ⟨p, 0x0D01, tag, wordsBytes (at32 0 (canNum ch) :: record)⟩
  | .canSend p tag ch buf resume once w2 w3 data => some ⟨p, 0x0D02, tag, sendPayload ch buf false resume once w2 w3 data⟩
  | .canSendAbort p tag ch buf => some ⟨p, 0x0D02, tag, sendPayload ch buf true false false 0 0 []⟩
  | .canSendResume p tag ch buf => some ⟨p, 0x0D02, tag, sendPayload ch buf false true false 0 0 []⟩
  | .canRead p tag ch first count newOnly _ =>
    some ⟨p, 0x0D03, tag, wordsBytes [at32 0 (canNum ch), at32 8 first.toNat ||| at32 0 count.toNat, flag 0 newOnly]⟩
  | .rimeArmArm p tag => some ⟨p, 0x0E01, tag, wordsBytes [1, 0]⟩
  | .rimeArmExecute p tag token => some ⟨p, 0x0E01, tag, wordsBytes [2, token]⟩
  | _ => none

/-- The handler that a row's command meets: ICE.READ carries the records whose SRAM words fail ECC in it (R298), CAN.READ whether a
lane was excluded in the course of it (R385). -/
def rowHandler (i : Instr) (op : Half) : Handler :=
  match i with
  | .iceRead _ _ _ eccFailed => readWindow eccFailed
  | .canRead _ _ _ _ _ _ cutOff => handleCanRead cutOff
  | _ => handlerOf op

/-- The port is served, no command waits before this one, and its response has a place (R307, R312). -/
def takenAtOnce (p : Port) (s : State) : Bool := portServed p s && (s.port p).cmds.isEmpty && placeFree p s

/-- It is taken at once, and no vote on response words has failed (R29, R339). -/
def takesNow (p : Port) (s : State) : Bool := takenAtOnce p s && !voteLost 4 s

/-- Checks 6 to 11 of R311 pass. -/
def entryPasses (c : HostCommand) (s : State) : Bool :=
  (lenFault c.op c.payload).isNone &&
    match catalogueRow c.op with
    | some row => (entryRefusal row c.port c.op c.tag c.payload s).isNone
    | none => false

/-- A host command that its port takes at once and that meets no refusal before its own checks. -/
def ready (i : Instr) (s : State) : Bool :=
  match hostCommand i with
  | some c => takesNow c.port s && entryPasses c s
  | none => false

/-- The port's mailbox after the command's response has been queued behind the completions that waited (R312, R314). -/
def respsAfter (c : HostCommand) (r : Reply) (s : State) : List (List Byte) :=
  (flushWaiting (s.port c.port)).resps ++ [responsePacket c.op c.tag r]

/-- A host command answers a next state, in which its one response is queued. -/
def answers (i : Instr) (r : Reply) (s t : State) : Prop :=
  exec i s = .next t ∧
    match hostCommand i with
    | some c => (t.port c.port).resps = respsAfter c r s
    | none => False

/-- The record of R321 and R293 for a configuration command that was answered OK. -/
def configRecorded (i : Instr) (s t : State) : Prop :=
  match hostCommand i with
  | some c => t.ice = (recordConfig c.port c.op c.payload .done s).ice
  | none => False

/-- A completion of an operation that was pending waits for its place in the mailbox (R314). -/
def completed (p : Port) (op tag : Half) (r : Reply) (s t : State) : Prop :=
  ({ opcode := op, tag := tag } ∈ (s.port p).pend) →
    completionPacket op tag r ∈ (t.port p).waiting

/-! ### Twin messages -/

/-- The twin message that an Ethernet frame carries (R156). -/
def frameMessage (f : List Byte) : List Byte := (ethPayload 0x88B6 f).getD []

/-- A frame of the twin link with a message of a type that passes every check of R157. -/
def accepted (mtype : Nat) (f : List Byte) (s : State) : Bool :=
  let m := frameMessage f
  (ethPayload 0x88B6 f).isSome && s.runs && decide (s.twinId ≠ 0 ∧ fld (msgWord m 0) 31 24 = mtype) &&
    msgCodeOk s.keys.regT m && msgPlaced m s

/-! ### Faults -/

/-- A source that is healthy and not forced: what is raised next is decided (R278, R288). -/
def quietSource (src : Nat) (s : State) : Bool :=
  (s.fcuSource src).real == 1 && (s.fcuSource src).rail == 1 && (s.fcuSource src).force.isNone

/-- Nothing is unacknowledged: no fault escalates (R280). -/
def noneUnacked (s : State) : Bool := s.fcu.sources.all fun e => e.2.unack == 0

end Sys2Proof.Machine
end

