-- ==== Sys2Proof/Certificates/Slice0/Obligations.lean ====
section
/-!
DEFINITION. The statements for the provers: what the block and each of its commands do, from the numbered rules of spec/. Every
statement holds in every state that meets its own hypotheses, whether or not a run reaches it.
-/
section
open Sys2Proof Sys2Proof.Machine


/-- A step runs the command at the front of the queue on the state with the queue's rest. -/
def Obligations.StepRunsFrontCommand : Prop :=
  ∀ (c : Instr) (rest : List Instr) (s : State),
    s.pending = c :: rest → step s = exec c { s with pending := rest }

/-- On an empty queue one CD7 cycle passes (log entry 3): the time base gains 8 ns, its rate part and 1/16 ns of slew, the slew
moves towards 0, and nothing but the counters of CD7 changes; where the domain stands still, nothing changes (R92, R94). -/
def Obligations.EmptyQueueIsOneCycle : Prop :=
  ∀ s : State, s.pending = [] →
    ∃ t, step s = .next t ∧ { t with tb := s.tb } = s ∧
      (s.mstate = .off ∨ s.mstate = .frozen ∨ s.resetHold.isSome = true → t = s) ∧
      (s.mstate ≠ .off → s.mstate ≠ .frozen → s.resetHold = none →
        (t.tb.tb.count : BitVec 96) = s.tb.tb.count +
            BitVec.ofInt 96 (8 * 2 ^ 32 + 8 * s.tb.tb.rate.toInt + s.tb.tb.slew16.sign * 2 ^ 28) ∧
          t.tb.tb.slew16 = s.tb.tb.slew16 - s.tb.tb.slew16.sign ∧ t.tb.tb.rate = s.tb.tb.rate ∧
          t.tb.sync = s.tb.sync ∧ t.tb.sp = s.tb.sp ∧ t.tb.compLimit = s.tb.compLimit)

/-- The state after a power-on start: BOOT with an empty image, mailboxes and queue, three lanes serving, no keys in the
registers, TB_NS and its rate 0, TB_SYNC 0, COMP_LIMIT 858,993, the pair state SINGLE, Floe DOWN, both groups off and their
supplies MISSING; the three memories in canonical form, every queue of a fixed depth within it. That a machine with factory
records, no bank loaded and nothing written stands in BOOT is the model choice of log entry 2. -/
def Obligations.ResetStateIsSound : Prop :=
  (State.reset.pending = [] ∧ State.reset.mstate = .boot ∧ State.reset.mem = [] ∧
    State.reset.tb.tb = { ns := 0, frac := 0, rate := 0, slew16 := 0 } ∧ State.reset.tb.sync = 0 ∧
    State.reset.tb.compLimit = 858993 ∧ State.reset.servingLanes = [0, 1, 2] ∧
    State.reset.hif.host.cmds = [] ∧ State.reset.hif.host.resps = [] ∧ State.reset.hif.host.pend = [] ∧
    State.reset.hif.host.tokens = [] ∧ State.reset.hif.host.prevToken = 0 ∧ portStatus State.reset = 0x80000000 ∧
    State.reset.keys.reg0 = none ∧ State.reset.keys.reg1 = none ∧ State.reset.keys.regT = none ∧
    State.reset.rimeArmed = false ∧ State.reset.twin.ps = .single ∧ State.reset.floe.fstate = .down ∧
    State.reset.io.gen1 = false ∧ State.reset.io.gen2 = false ∧ State.reset.prog.actBank = none ∧
    State.reset.io.fs1.st = .missing ∧ State.reset.io.fs2.st = .missing) ∧
  (State.reset.memoriesWf = true) ∧
  (State.reset.queuesBounded = true)

/-- Every step keeps the three memories in canonical form. -/
def Obligations.StepKeepsMemoriesCanonical : Prop :=
  ∀ s t : State, s.memoriesWf = true → step s = .next t → t.memoriesWf = true

/-- Every step keeps every queue of a fixed depth within it: mailboxes of 4, 8 pending operations, the inbound queue of 64, the
SRAM store of 65,536, the NAND queue of 2,048, the ring of 262,144, the COS queue of 64. -/
def Obligations.StepKeepsQueuesBounded : Prop :=
  ∀ s t : State, s.queuesBounded = true → step s = .next t → t.queuesBounded = true

/-- FROZEN is held: no command ends it but the loss of the lane rails, which leads to OFF, and none changes anything but the JTAG
port, the supply switch, the output guard with its own oscillator and the model's count of free values. No command makes a GEN
line toggle. OFF is left only by a power-on start; every other command changes nothing but the supply switch. -/
def Obligations.FrozenAndOffAreHeld : Prop :=
  (∀ (c : Instr) (s t : State), s.mstate = .frozen → exec c s = .next t →
    (t.mstate = .frozen ∧ { t with jtag := s.jtag, freeCtr := s.freeCtr, power := s.power, io := s.io } = s ∨
      c = .laneRailsLost ∧ t.mstate = .off ∧
        { t with mstate := s.mstate, io := s.io, can1 := s.can1, can2 := s.can2, xsram := s.xsram } = s) ∧
      (t.io.gen1 = true → s.io.gen1 = true) ∧ (t.io.gen2 = true → s.io.gen2 = true)) ∧
  (∀ (c : Instr) (s t : State), s.mstate = .off → exec c s = .next t →
    (∃ a b d, c = .powerOnStart a b d) ∨ { t with power := s.power } = s)

/-- No command leads from SAFE back to SERVICE, STARTUP, TEST or RECOVERY: SAFE is left only through a restart, for HOLD, or for
FROZEN or OFF. -/
def Obligations.SafeIsLeftByRestart : Prop :=
  ∀ (c : Instr) (s t : State), s.mstate = .safe → exec c s = .next t →
    t.mstate = .safe ∨ t.mstate = .hold ∨ t.mstate = .boot ∨ t.mstate = .frozen ∨ t.mstate = .off

/-- SERVICE is entered only by the service conditions being met or, by a joining twin, at the start of a round; in HOLD the state
it came from counts. -/
def Obligations.ServiceIsEnteredOnce : Prop :=
  ∀ (c : Instr) (s t : State), s.eff ≠ .service → exec c s = .next t → t.eff = .service →
    c = .serviceEntry ∨ c = .roundStart

/-- READ_RESP: with HRDY high the oldest response is driven from its first byte, with zeros beyond it and alone when the mailbox
is empty; the response leaves the mailbox once all of its bytes have been clocked out, else it stays and RESP_REREAD counts. -/
def Obligations.ReadRespReturnsOldest : Prop :=
  ∀ (n : Nat) (s : State), portServed .host s = true →
    (s.hif.host.resps = [] →
      ∃ t, exec (.readResp n) s = .next t ∧ t.hif.hio = List.replicate n 0 ∧
        { t with hif := { t.hif with hio := s.hif.hio } } = s) ∧
    (∀ r rest, s.hif.host.resps = r :: rest →
      ∃ t, exec (.readResp n) s = .next t ∧ t.hif.hio = r.take n ++ List.replicate (n - r.length) 0 ∧
        { t with hif := s.hif } = s ∧ t.hif.maint = s.hif.maint ∧
        (r.length ≤ n → t.hif.host = { s.hif.host with resps := rest }) ∧
        (n < r.length →
          t.hif.host = { s.hif.host with respReread := satInc 0xFFFF s.hif.host.respReread }))

/-- Transactions of the host port. With HRDY high, WRITE_CMD: a full mailbox discards and counts CMD_OVF, fewer than 16 bytes
count FRAME_ERR, else the first 4,112 bytes enter the mailbox (R304); READ_STAT drives the status word and its complement (R306);
a transaction of one clock, or with an unknown instruction, counts FRAME_ERR; one without clocks is ignored (R303). With HRDY low
a transaction is ignored (R307). -/
def Obligations.PortTransactionsAct : Prop :=
  (∀ s : State, portServed .host s = true →
    (∀ bytes, s.hif.host.cmds.length < 4 → 16 ≤ bytes.length →
      ∃ t, exec (.writeCmd bytes) s = .next t ∧
        t = s.updPort .host fun q => { q with cmds := q.cmds ++ [bytes.take 4112] }) ∧
    (∀ bytes, 4 ≤ s.hif.host.cmds.length →
      exec (.writeCmd bytes) s = .next (s.updPort .host fun q => { q with cmdOvf := satInc 0xFFFF q.cmdOvf })) ∧
    (∀ bytes, s.hif.host.cmds.length < 4 → bytes.length < 16 →
      exec (.writeCmd bytes) s = .next (s.updPort .host fun q => { q with frameErr := satInc 0xFFFF q.frameErr })) ∧
    (∃ t, exec .readStat s = .next t ∧ t.hif.hio = wordsBytes [portStatus s, ~~~portStatus s] ∧
        { t with hif := { t.hif with hio := s.hif.hio } } = s) ∧
    (∀ n code, (n = 1 ∨ 2 ≤ n ∧ code ≠ 0x01 ∧ code ≠ 0x02 ∧ code ≠ 0x05) →
      exec (.invalidTransaction n code) s =
        .next (s.updPort .host fun q => { q with frameErr := satInc 0xFFFF q.frameErr })) ∧
    (∀ code, exec (.invalidTransaction 0 code) s = .next s)) ∧
  (∀ s : State, portServed .host s = false →
    (∀ bytes, exec (.writeCmd bytes) s = .next s) ∧ (∀ n, exec (.readResp n) s = .next s) ∧
      exec .readStat s = .next s ∧ ∀ n code, exec (.invalidTransaction n code) s = .next s)

/-- A host command that its port takes at once gets exactly one response, behind the completions that waited, with its OPCODE and
TAG; it is counted, and the other port's mailboxes stay as they are (R309, R312 to R314). -/
def Obligations.TakenCommandIsAnsweredOnce : Prop :=
  (∀ (i : Instr) (c : HostCommand) (s : State), hostCommand i = some c → takesNow c.port s = true →
    ∃ t r, exec i s = .next t ∧ (t.port c.port).resps = respsAfter c r s ∧ (t.port c.port).cmds = [] ∧
      (t.port c.port).commands = satInc 0xFFFFFFFF (s.port c.port).commands ∧
      ∀ q, q ≠ c.port → (t.port q).cmds = (s.port q).cmds ∧ (t.port q).resps = (s.port q).resps ∧
        (t.port q).commands = (s.port q).commands) ∧
  (∀ (i : Instr) (c : HostCommand) (s : State), hostCommand i = some c → takenAtOnce c.port s = true → voteLost 4 s = true →
    ∃ t, exec i s = .next t ∧ (t.port c.port).resps = (flushWaiting (s.port c.port)).resps ∧
      (t.port c.port).commands = satInc 0xFFFFFFFF (s.port c.port).commands)

/-- A host command that must wait is queued in its packet, or discarded and counted in CMD_OVF when no place is free; one at a
port that is not served does nothing. Nothing else changes (R304, R307, R312). -/
def Obligations.CommandWaitsItsTurn : Prop :=
  ∀ (i : Instr) (c : HostCommand) (s : State), hostCommand i = some c →
    (portServed c.port s = false → exec i s = .next s) ∧
    (portServed c.port s = true → takenAtOnce c.port s = false → (s.port c.port).cmds.length < 4 →
      exec i s = .next (s.updPort c.port fun q => { q with cmds := q.cmds ++ [commandPacket c.op c.tag c.payload] })) ∧
    (portServed c.port s = true → takenAtOnce c.port s = false → 4 ≤ (s.port c.port).cmds.length →
      exec i s = .next (s.updPort c.port fun q => { q with cmdOvf := satInc 0xFFFF q.cmdOvf }))

/-- The checks 6 to 11 of R311 in their order: the first that fails gives the response, and with it nothing but the port and, for
a configuration command past check 10, the Ice Core's inbound queue changes. -/
def Obligations.EntryChecksInOrder : Prop :=
  ∀ (i : Instr) (c : HostCommand) (row : CmdRow) (s : State), hostCommand i = some c → takesNow c.port s = true →
    catalogueRow c.op = some row →
    let busyTag := (s.port c.port).pend.any fun o => o.tag == c.tag
    let full := needsPlace row.kind c.payload && decide (8 ≤ (s.port c.port).pend.length)
    let barred := c.port == .maint && !remoteAllows (remoteLevel s) c.op c.payload
    let noToken := (isExecute row.kind c.payload || c.op == 0x0902) && !executeToken c.port c.op c.payload s
    (busyTag = true → ∃ t, answers i (.err .errTag) s t ∧ { t with hif := s.hif } = s) ∧
    (busyTag = false → full = true → ∃ t, answers i (.err .errBusy) s t ∧ { t with hif := s.hif } = s) ∧
    (busyTag = false → full = false → barred = true →
      ∃ t, answers i (.err .errRemote) s t ∧ { t with hif := s.hif } = s) ∧
    (busyTag = false → full = false → barred = false → noToken = true →
      ∃ t, answers i (.err .errToken) s t ∧ { t with hif := s.hif } = s) ∧
    (busyTag = false → full = false → barred = false → noToken = false → stateServes row c.op s = false →
      ∃ t, answers i (.err .errState) s t ∧ { t with hif := s.hif } = s) ∧
    (busyTag = false → full = false → barred = false → noToken = false → stateServes row c.op s = true →
      ∀ k, lenFault c.op c.payload = some k →
        ∃ t, answers i (.len k c.payload.length) s t ∧ { t with hif := s.hif, ice := s.ice } = s)

/-- A refused command changes nothing: whatever a handler of the catalogue refuses leaves the state as it was, but for the load of
a schedule that a refusal at LAST ends (R205, R311). -/
def Obligations.RefusedCommandChangesNothing : Prop :=
  ∀ (i : Instr) (c : HostCommand) (s u : State) (r : Reply), hostCommand i = some c →
    rowHandler i c.op c.port c.tag c.payload s = (r, u) → r.code ≠ .ok → r.code ≠ .pending →
    { u with floe := { u.floe with loads := s.floe.loads } } = s ∧ (c.op ≠ 0x0B02 → u = s)

/-- The mailboxes. COMMAND_TAKEN takes the oldest packet, serves it by its OPCODE and queues one response (R311, R312);
COMPLETION_QUEUED moves waiting completions into the free places in their order (R314); the last fragment of a maintenance packet
puts the packet into the mailbox, an earlier one is kept (R224). -/
def Obligations.MailboxEvents : Prop :=
  (∀ (p : Port) (poisoned : Bool) (pkt : List Byte) (rest : List (List Byte)) (s : State),
    portServed p s = true → placeFree p s = true → voteLost 4 s = false → (s.port p).cmds = pkt :: rest →
      ∃ t r, exec (.commandTaken p poisoned) s = .next t ∧ (t.port p).cmds = rest ∧
        (t.port p).resps = (flushWaiting (s.port p)).resps ++ [responsePacket (pktOpcode pkt) (pktTag pkt) r] ∧
        (t.port p).commands = satInc 0xFFFFFFFF (s.port p).commands ∧
        (wireRefusal poisoned pkt = none → flagRefusal pkt = none → catalogueRow (pktOpcode pkt) = none →
          r = .err .errOpcode) ∧
        (∀ w, wireRefusal poisoned pkt = some w → r = w ∧ (t.port p).crcErr = satInc 0xFFFF (s.port p).crcErr ∧
          { t with hif := s.hif, fabric := s.fabric } = s ∧
          t.fabric = if poisoned then { s.fabric with eccUncorr := satInc 0xFFFF s.fabric.eccUncorr } else s.fabric)) ∧
  (∀ (p : Port) (s : State), portServed p s = true →
      ∃ t, exec (.completionQueued p) s = .next t ∧ { t with hif := s.hif } = s ∧
        (t.port p).resps = (s.port p).resps ++ (s.port p).waiting.take (4 - (s.port p).resps.length) ∧
        (t.port p).waiting = (s.port p).waiting.drop (4 - (s.port p).resps.length)) ∧
  (∀ (f : List Byte) (s : State), portServed .maint s = true → s.floe.maintRx.contains f = true →
      f.take (32 + frDlen f) = f → 8 ≤ (frData f).length →
      fld (wordAt (frData f) 0) 31 20 = floeNode s.floe.live → fld (wordAt (frData f) 0) 19 16 = 0 →
      s.hif.maint.frags = none → fragOpens (frData f) = true →
      ∃ t, exec (.maintFragmentReceive f) s = .next t ∧ { t with hif := s.hif, floe := s.floe } = s ∧
        t.floe = { s.floe with maintRx := s.floe.maintRx.erase f } ∧ t.hif.host = s.hif.host ∧
        (fld (wordAt (frData f) 0) 7 0 ≠ 1 → t.hif.maint.frags = some (fragFirst s.floe.round (frData f)) ∧
          t.hif.maint.cmds = s.hif.maint.cmds) ∧
        (fld (wordAt (frData f) 0) 7 0 = 1 → fld (wordAt (frData f) 1) 15 0 ≤ ((frData f).drop 8).length →
          s.hif.maint.cmds.length < 4 →
          t.hif.maint.cmds = s.hif.maint.cmds ++ [((frData f).drop 8).take (fld (wordAt (frData f) 1) 15 0)] ∧
          t.hif.maint.frags = none)) ∧
  (∀ (f : List Byte) (s : State), s.floe.maintRx.contains (f.take (32 + frDlen f)) = false →
      exec (.maintFragmentReceive f) s = .next s)

/-- Commands that only read. IDENT answers the identity words (R322). STATUS answers the block's header and words; block 0x03
clears every SP_PEND, block 0x0A takes the records it returns out of the COS queue (R323). REG.PEEK answers its header and the
words read, three per address in the lane-private range (R325). Nothing else changes but the port and the count of free values. -/
def Obligations.IdentStatusPeekAnswer : Prop :=
  ∀ (p : Port) (tag : Half) (s : State),
    (ready (.ident p tag) s = true →
      ∃ t, answers (.ident p tag) (.words (identWords s)) s t ∧ { t with hif := s.hif } = s) ∧
    (∀ block first count, ready (.status p tag block first count) s = true → block.toNat ≤ 0x0E →
      (s.eff = .boot ∨ s.eff = .selftest → block = 0x00 ∨ block = 0x0A ∨ block = 0x0C) →
      (block = 0x08 → 1 ≤ count.toNat ∧ count.toNat ≤ 340 ∧ first.toNat < ocCount s) →
      (block = 0x0A → first = 0 ∧ 1 ≤ count.toNat ∧ count.toNat ≤ 64) →
      (block ≠ 0x08 → block ≠ 0x0A → first = 0 ∧ count = 0) →
      ∃ t n ws, answers (.status p tag block first count) (statusReply block.toNat n ws) s t ∧
        { t with hif := s.hif, tb := s.tb, io := s.io, freeCtr := s.freeCtr } = s ∧
        (block ≠ 0x08 → block ≠ 0x0A → n = 1 ∧ ws = (blockWords block.toNat (takeCommand p s)).1) ∧
        (block = 0x00 → ws = summaryWords s) ∧
        (∀ b, s.prog.active = some b → block = 0x08 → n = min count.toNat (b.ocs.length - first.toNat) ∧
          ws = (List.range n).flatMap fun i => ocWords (Tbl.getD s.tasks.oc (b.oc (first.toNat + i)).node .fresh)) ∧
        (block ≠ 0x03 → t.tb = s.tb) ∧ (block = 0x03 → t.tb.sp = s.tb.sp.map fun x => { x with pend := false }) ∧
        (block ≠ 0x0A → t.io = s.io) ∧
        (block = 0x0A → n = min count.toNat s.io.cos.length ∧ ws = (s.io.cos.take count.toNat).flatMap CosRec.words ∧
          t.io = { s.io with cos := s.io.cos.drop count.toNat })) ∧
    (∀ addr count, ready (.regPeek p tag addr count) s = true → addr.toNat % 4 = 0 → 1 ≤ count.toNat →
      count.toNat ≤ 1020 → (∀ k, k < count.toNat → (peekWord (peekRanges 0 s) (addr.toNat + 4 * k)).isSome = true) →
      ∃ t ws, answers (.regPeek p tag addr count) (.words (peekHeader addr.toNat count.toNat s ++ ws)) s t ∧
        (∃ now, ws = (List.range count.toNat).map fun k =>
          (peekWord (peekRanges now (takeCommand p s)) (addr.toNat + 4 * k)).getD 0) ∧
        { t with hif := s.hif, freeCtr := s.freeCtr } = s) ∧
    (∀ addr count, ready (.regPeek p tag addr count) s = true → addr.toNat % 4 = 0 → 1 ≤ count.toNat →
      count.toNat ≤ 340 → 0x10000 ≤ addr.toNat → addr.toNat + 4 * count.toNat ≤ 0x10100 →
      ∃ t, answers (.regPeek p tag addr count)
          (.words (peekHeader addr.toNat count.toNat s ++ privateWords addr.toNat count.toNat s)) s t ∧
        { t with hif := s.hif } = s)

/-- What an arm leaves: the token in W0 of the response, W1 0, what the command adds from W2; the token replaces the port's
earlier one of the same OPCODE and becomes its previous token; it is the CRC-32C over the previous token, TB_NS and the OPCODE, 0
replaced by 1 (R317). -/
def Obligations.ArmAnswersToken : Prop :=
  ∀ (p : Port) (tag : Half) (s : State),
    let armed (i : Instr) (op : Half) (bound extra : List Word) : Prop :=
      ∃ t, answers i (.words (tokenOf (s.port p).prevToken s.tb.tb.ns op :: 0 :: extra)) s t ∧
        (t.port p).prevToken = tokenOf (s.port p).prevToken s.tb.tb.ns op ∧
        (t.port p).tokens = (s.port p).tokens.filter (fun x => x.opcode ≠ op) ++
          [{ opcode := op, bound := bound, value := tokenOf (s.port p).prevToken s.tb.tb.ns op, ms := s.tb.ms }] ∧
        { t with hif := s.hif, ice := s.ice } = s ∧
        (op ≠ 0x0201 → op ≠ 0x0B01 → t.ice = s.ice) ∧ (op = 0x0201 ∨ op = 0x0B01 → configRecorded i s t)
    (∀ x ∈ [(Instr.rstWarmArm p tag, (0x0101 : Half)), (.rstColdArm p tag, 0x0102), (.pwrDormantArm p tag, 0x0103),
        (.testEnterArm p tag, 0x0104), (.testExitArm p tag, 0x0105), (.fwActivateArm p tag, 0x0502),
        (.twinSplitArm p tag, 0x0A02), (.twinJoinArm p tag, 0x0A03), (.rimeArmArm p tag, 0x0E01)],
      ready x.1 s = true → armed x.1 x.2 [0] []) ∧
    (∀ lit desc, ready (.prgActivateArm p tag lit desc) s = true →
      let b := s.prog.standby
      armed (.prgActivateArm p tag lit desc) 0x0403 [0, hiWord lit, loWord lit, hiWord desc, loWord desc]
        [BitVec.ofNat 32 (if b.st = .valid then b.programVersion else 0), BitVec.ofNat 32 (loadU b s.taskRecords),
         hiWord b.litCrc, loWord b.litCrc, hiWord b.descCrc, loWord b.descCrc]) ∧
    (∀ kind index, ready (.lockArm p tag kind index) s = true → 1 ≤ kind.toNat → kind.toNat ≤ 5 →
      lockStands kind.toNat index.toNat s = true →
      armed (.lockArm p tag kind index) 0x0901 [lockWord kind index] []) ∧
    (∀ task r, ready (.taskCfgArm p tag task r) s = true → s.inService = true → clearsEn task.toNat r s = true →
      ((taskChecks s.floe.cfg [1, 0, at32 0 task.toNat, r]).all fun x => x.2.2) = true →
      armed (.taskCfgArm p tag task r) 0x0201 [0, at32 0 task.toNat, r] []) ∧
    (∀ record, ready (.floeCfgArm p tag record) s = true → s.inService = true → loadsOtherKey record s = true →
      ((floeChecks (1 :: 0 :: record)).all fun x => x.2.2) = true →
      armed (.floeCfgArm p tag record) 0x0B01 (0 :: record) [])

/-- The commands of R318: OK, the token used up, and the restart or state change queued behind the response, from the instant at
which it is queued. PWR.DORMANT needs every task disabled, FW.ACTIVATE a staged image and no activation, reintegration, join or
split in progress (R332, R333). TEST.ENTER leads to TEST at once; RIME.ARM, with the strap fitted, arms Rime (R31, R332). Both use
their token up. -/
def Obligations.ExecutesAct : Prop :=
  (∀ (p : Port) (tag : Half) (token : Word) (s : State),
    let queued (i : Instr) (op : Half) (a : Action) : Prop :=
      ∃ t, answers i .done s t ∧ t.hif.actions = s.hif.actions ++ [(a, p, (t.port p).resps.length, s.tb.ms)] ∧
        (t.port p).tokens = (s.port p).tokens.filter (fun x => x.opcode ≠ op) ∧ { t with hif := s.hif } = s
    (ready (.rstWarmExecute p tag token) s = true → queued (.rstWarmExecute p tag token) 0x0101 .rstWarm) ∧
    (ready (.rstColdExecute p tag token) s = true → queued (.rstColdExecute p tag token) 0x0102 .rstCold) ∧
    (ready (.testExitExecute p tag token) s = true → queued (.testExitExecute p tag token) 0x0105 .testExit) ∧
    (ready (.pwrDormantExecute p tag token) s = true → anyEnabled s = false →
      queued (.pwrDormantExecute p tag token) 0x0103 .dormant) ∧
    (ready (.fwActivateExecute p tag token) s = true → s.fw.snow = .staged → s.prog.sched = none →
      s.reintegrating = false → s.twin.join = none → s.twin.split = none →
      queued (.fwActivateExecute p tag token) 0x0502 .fwActivate)) ∧
  (∀ (p : Port) (tag : Half) (token : Word) (s : State),
    (ready (.testEnterExecute p tag token) s = true →
      ∃ t, answers (.testEnterExecute p tag token) .done s t ∧ t.eff = .test ∧
        (s.mstate ≠ .hold → t.mstate = .test ∧ t.holdFrom = s.holdFrom) ∧ (s.mstate = .hold → t.mstate = .hold) ∧
        (t.port p).tokens = (s.port p).tokens.filter (fun x => x.opcode ≠ 0x0104) ∧
        { t with hif := s.hif, ice := s.ice, mstate := s.mstate, holdFrom := s.holdFrom } = s) ∧
    (ready (.rimeArmExecute p tag token) s = true → s.maintEn = true →
      ∃ t, answers (.rimeArmExecute p tag token) .done s t ∧ t.rimeArmed = true ∧
        (t.port p).tokens = (s.port p).tokens.filter (fun x => x.opcode ≠ 0x0E01) ∧
        { t with hif := s.hif, ice := s.ice, rimeArmed := s.rimeArmed } = s))

/-- LOCK.RESET with the record standing, a valid press after the arm and the cause gone: OK, the record is cleared, the press and
the token are used up, LOCK_CLEAR is recorded, and the cold restart waits behind the response (R276, R318, R335). -/
def Obligations.LockResetClearsRecord : Prop :=
  ∀ (p : Port) (tag : Half) (kind index : Byte) (token : Word) (l : LockRec) (g1 g2 : Bool) (s : State),
    ready (.lockReset p tag kind index token) s = true →
    findLock kind.toNat index.toNat s = some l → validPress (lockArmMs p s) s = some (g1, g2) →
    causeGone l g1 g2 s = true →
    ∃ t, answers (.lockReset p tag kind index token) .done s t ∧
      t.fram = { s.fram with locks := s.fram.locks.erase l } ∧
      t.io = { s.io with ack := { s.io.ack with done := none } } ∧
      t.hif.actions = s.hif.actions ++ [(.lockReset, p, (t.port p).resps.length, s.tb.ms)] ∧
      (t.port p).tokens = (s.port p).tokens.filter (fun x => x.opcode ≠ 0x0901) ∧
      t.ice = (record 0x0204 3 (portSrc p) kind.toNat index.toNat l.cause.toNat 0 s).ice ∧
      State.unmarked { t with hif := s.hif, fram := s.fram, io := s.io, ice := s.ice } = s.unmarked

/-- The configuration commands whose fields hold: the record is stored, OK is answered, CFG_WRITE is recorded, and nothing else
changes. A record that R247, R154, R190 defer to the next restart leaves the one in force as it is; the arbiter's comes into force
at once (R350); a CAN record stops its channel, clears its buffers and integrates again (R367), or waits for the frame in progress
to end (R385; whether one is in progress is a free value, log entry 4). -/
def Obligations.ConfigurationIsStored : Prop :=
  ∀ (p : Port) (tag : Half) (s : State),
    (∀ task r, ready (.taskCfg p tag task r) s = true →
      ((taskChecks s.floe.cfg [0, 0, at32 0 task.toNat, r]).all fun x => x.2.2) = true → s.inService = false →
      (taskEn r = true → s.tasks.enLocked = false) →
      (∀ b, s.prog.active = some b → loadRefused b (s.taskRecords.set task.toNat r) = false) →
      ∃ t, answers (.taskCfg p tag task r) .done s t ∧ configRecorded (.taskCfg p tag task r) s t ∧
        (t.task task.toNat).cfg = r ∧ (∀ n, n ≠ task.toNat → t.task n = s.task n) ∧
        { t with hif := s.hif, ice := s.ice, tasks := s.tasks } = s) ∧
    (∀ record, ready (.ioCfg p tag record) s = true → ((ioChecks record).all fun x => x.2.2) = true →
      ∃ t, answers (.ioCfg p tag record) .done s t ∧ configRecorded (.ioCfg p tag record) s t ∧
        t.io = { s.io with cfg := record } ∧ { t with hif := s.hif, ice := s.ice, io := s.io } = s) ∧
    (∀ record, ready (.twinCfg p tag record) s = true → fld (nth record 0) 31 30 ≤ 2 → fld (nth record 0) 29 16 = 0 →
      1 ≤ fld (nth record 0) 15 0 → fld (nth record 0) 15 0 ≤ 0xFFFE → 200 ≤ fld (nth record 1) 31 16 →
      fld (nth record 1) 31 16 ≤ 20000 → fld (nth record 1) 15 2 = 0 →
      ∃ t, answers (.twinCfg p tag record) .done s t ∧ configRecorded (.twinCfg p tag record) s t ∧
        t.twin = { s.twin with w0 := nth record 0, w1 := nth record 1 &&& 0xFFFF0000 } ∧
        t.keys = (if tst (nth record 1) 1 then { s.keys with wrapT := some (keyAt record 2) } else s.keys) ∧
        { t with hif := s.hif, ice := s.ice, twin := s.twin, keys := s.keys } = s) ∧
    (∀ record, ready (.floeCfg p tag record) s = true → ((floeChecks (0 :: 0 :: record)).all fun x => x.2.2) = true →
      s.inService = false → roundsFit (roundMs record) s.taskRecords = true →
      ∃ t, answers (.floeCfg p tag record) .done s t ∧ configRecorded (.floeCfg p tag record) s t ∧
        t.floe = { s.floe with cfg := record.take 4 } ∧ t.keys = loadFloeKeys record s.keys ∧
        { t with hif := s.hif, ice := s.ice, floe := s.floe, keys := s.keys } = s) ∧
    (∀ record, ready (.arbCfg p tag record) s = true → firstBad record (arbRules record) = none →
      ∃ t, answers (.arbCfg p tag record) .done s t ∧ configRecorded (.arbCfg p tag record) s t ∧
        t.fabric = { s.fabric with arbRec := record, arbLive := record } ∧
        { t with hif := s.hif, ice := s.ice, fabric := s.fabric } = s) ∧
    (∀ ch record, ready (.canCfg p tag ch record) s = true →
      ((canChecks (at32 0 (canNum ch) :: record)).all fun x => x.2.2) = true →
      (fld (nth record 0) 28 27 = 2 → s.mstate = .test) →
      let loaded : CanSt := { s.can ch with cfg := record, st := .stopped, integrating := tst (nth record 0) 31, tec := 0,
                                            recv := 0, oneShot := 0, cur := none, wait := none }
      let waits : CanSt := { s.can ch with wait := some (.load record) }
      ∃ t, answers (.canCfg p tag ch record) .done s t ∧ configRecorded (.canCfg p tag ch record) s t ∧
        (t.can ch = loaded ∧ t.xsram = canBuffers (canBase ch) record s.xsram ∨ t.can ch = waits ∧ t.xsram = s.xsram) ∧
        (onBus (s.can ch) = false → (s.can ch).wait = none → t.can ch = loaded) ∧
        ((s.can ch).wait.isSome = true → t.can ch = waits) ∧ (∀ d, d ≠ ch → t.can d = s.can d) ∧
        { t with hif := s.hif, ice := s.ice, can1 := s.can1, can2 := s.can2, xsram := s.xsram, freeCtr := s.freeCtr } = s)

/-- What SERVICE accepts: TASK.CFG may clear EN of an enabled task, which is then released no more; after the last enabled task
STARTUP follows with the right to enable locked (R31, R77, R86). FLOE.CFG may load the key slot that is not selected, for the next
round (R190). -/
def Obligations.ServiceConfigurationExecutes : Prop :=
  ∀ (p : Port) (tag : Half) (token : Word) (s : State), s.inService = true →
    (∀ task r, ready (.taskCfgExecute p tag token task r) s = true → clearsEn task.toNat r s = true →
      ((taskChecks s.floe.cfg [2, token, at32 0 task.toNat, r]).all fun x => x.2.2) = true →
      ∃ t, answers (.taskCfgExecute p tag token task r) .done s t ∧ (t.task task.toNat).cfg = r ∧
        (t.task task.toNat).stopped = true ∧ (∀ n, n ≠ task.toNat → t.task n = s.task n) ∧
        ((∀ n, n < 8 → n ≠ task.toNat → taskEn (s.task n).cfg = false) → t.eff = .startup ∧ t.tasks.enLocked = true) ∧
        (∀ n, n < 8 → n ≠ task.toNat → taskEn (s.task n).cfg = true → t.mstate = s.mstate ∧ t.eff = .service)) ∧
    (∀ record, ready (.floeCfgExecute p tag token record) s = true → loadsOtherKey record s = true →
      ((floeChecks (2 :: token :: record)).all fun x => x.2.2) = true →
      ∃ t, answers (.floeCfgExecute p tag token record) .done s t ∧ t.keys = keyLoadService record s.keys ∧
        { t with hif := s.hif, ice := s.ice, keys := s.keys } = s)

/-- TIME.SET: outside synchronisation TB_NS is loaded with TB_FRAC and the slew cleared, and TB_RATE within COMP_LIMIT (R96); the
other form stores the four sync-point records (R101). -/
def Obligations.TimeSetLoads : Prop :=
  ∀ (p : Port) (tag : Half) (s : State),
    (∀ setRate setTime time rate, ready (.timeSet p tag setRate setTime time rate) s = true →
      s.tb.sync ≠ 1 → s.tb.sync ≠ 2 → rate.toInt.natAbs ≤ s.tb.compLimit.toNat →
      ∃ t, answers (.timeSet p tag setRate setTime time rate) .done s t ∧
        t.tb.tb.ns = (if setTime then time else s.tb.tb.ns) ∧ t.tb.tb.frac = (if setTime then 0 else s.tb.tb.frac) ∧
        t.tb.tb.slew16 = (if setTime then 0 else s.tb.tb.slew16) ∧
        t.tb.tb.rate = (if setRate then rate else s.tb.tb.rate) ∧ { t.tb with tb := s.tb.tb } = s.tb ∧
        { t with hif := s.hif, ice := s.ice, tb := s.tb } = s) ∧
    (∀ sp0 sp1 sp2 sp3, ready (.timeSetSyncPoints p tag sp0 sp1 sp2 sp3) s = true →
      (∀ w ∈ [sp0, sp1, sp2, sp3], fld w 30 24 = 0 ∧ fld w 15 0 < 1000 * roundMs s.floe.live) →
      ∃ t, answers (.timeSetSyncPoints p tag sp0 sp1 sp2 sp3) .done s t ∧
        (∀ k : Fin 4, t.tb.sp[k] = { s.tb.sp[k] with cfg := nth [sp0, sp1, sp2, sp3] k.val }) ∧
        { t.tb with sp := s.tb.sp } = s.tb ∧ { t with hif := s.hif, ice := s.ice, tb := s.tb } = s)

/-- FLOE.SCHED. A chunk with FIRST at offset 0, or one that follows the entries its port has loaded, is kept; with LAST the
schedule that passes R205 is stored for its mode and the load ends. CLEAR removes the schedule of a mode other than INIT_MODE
(R205, R337). FLOE.MODEREQ in SYNC, for a loaded mode other than the one in use and with no request waiting, is PENDING from this
round on (R219); 50 rounds without its announcement it completes with ERR_TIMEOUT. -/
def Obligations.SchedulesAndModes : Prop :=
  (∀ (p : Port) (tag : Half) (mode : BitVec 2) (s : State),
    (∀ first last offset entries all, ready (.floeSched p tag mode first last offset entries) s = true →
      (last = true ∨ entries ≠ []) →
      (first = true ∧ offset = 0 ∧ all = entries ∨
        first = false ∧ ∃ l, Tbl.find s.floe.loads mode.toNat = some l ∧ l.owner = p ∧
          offset.toNat = l.entries.length / 4 ∧ all = l.entries ++ entries) →
      (last = true → schedRefusal s.floe.cfg (otherModes mode.toNat s.floe) all = none) →
      ∃ t, answers (.floeSched p tag mode first last offset entries) .done s t ∧
        (last = false → Tbl.find t.floe.loads mode.toNat = some { owner := p, entries := all } ∧ t.ice = s.ice ∧
          t.floe.sched = s.floe.sched) ∧
        (last = true → Tbl.find t.floe.loads mode.toNat = none ∧ vget t.floe.sched none mode.toNat = some all ∧
          ∀ m, m ≠ mode.toNat → vget t.floe.sched none m = vget s.floe.sched none m) ∧
        { t with hif := s.hif, ice := s.ice, floe := s.floe } = s ∧
        { t.floe with loads := s.floe.loads, sched := s.floe.sched } = s.floe) ∧
    (ready (.floeSchedClear p tag mode) s = true → mode.toNat ≠ floeInitMode s.floe.cfg →
      ∃ t, answers (.floeSchedClear p tag mode) .done s t ∧ vget t.floe.sched none mode.toNat = none ∧
        Tbl.find t.floe.loads mode.toNat = none ∧
        (∀ m, m ≠ mode.toNat → vget t.floe.sched none m = vget s.floe.sched none m) ∧
        { t with hif := s.hif, floe := s.floe } = s ∧
        { t.floe with loads := s.floe.loads, sched := s.floe.sched } = s.floe)) ∧
  ((∀ (p : Port) (tag : Half) (mode : BitVec 2) (s : State), ready (.floeModereq p tag mode) s = true →
    s.floe.fstate = .sync → (vget s.floe.liveSched none mode.toNat).isSome = true → mode ≠ s.floe.mode →
    s.floe.mreq = none →
    ∃ t, answers (.floeModereq p tag mode) .pend s t ∧
      t.floe = { s.floe with mreq := some (mode, p, tag, s.floe.round) } ∧
      (t.port p).pend = (s.port p).pend ++ [{ opcode := 0x0B03, tag := tag }] ∧
      { t with hif := s.hif, floe := s.floe } = s) ∧
  (∀ (m : BitVec 2) (p : Port) (tag : Half) (r : Nat) (s : State), s.runs = true → s.floe.mreq = some (m, p, tag, r) →
    ¬(s.floe.swPend = true ∧ s.floe.modeNext = m) →
    ∃ t, exec .modereqTimeout s = .next t ∧ t.floe = { s.floe with mreq := none } ∧
      completed p 0x0B03 tag (.err .errTimeout) s t ∧ { t with hif := s.hif, floe := s.floe } = s))

/-- PRG.LOAD into the standby bank: a first chunk at offset 0 starts a new file, a later one of the owning port at LOADED_BYTES
continues it; the answer is LOADED_BYTES; a later chunk that brings the whole file makes the bank LOADED, before it is LOADING.
PRG.VERIFY puts a complete bank into VERIFYING and is PENDING; its end makes the bank VALID with the slot counts, or INVALID with
the code of the first check that fails, and completes (R72, R104 to R106, R334). -/
def Obligations.ProgramLoadAndVerify : Prop :=
  (∀ (p : Port) (tag : Half) (first : Bool) (offset : Word) (data file : List Byte) (s : State),
    ready (.prgLoad p tag first offset data) s = true →
    (first = true ∧ s.prog.standby.st ≠ .verifying ∧ s.prog.sched = none ∧ offset = 0 ∧ file = data ∨
      first = false ∧ s.prog.standby.st = .loading ∧ s.prog.standby.owner = p ∧
        offset.toNat = s.prog.standby.loaded ∧ file = s.prog.standby.file ++ data) →
    (∀ n, fileTotal file = some n → file.length ≤ n) →
    ∃ t, answers (.prgLoad p tag first offset data) (.words [BitVec.ofNat 32 file.length]) s t ∧ t.prog.standby.file = file ∧
      t.prog.standby.loaded = file.length ∧ t.prog.standby.owner = p ∧
      t.prog.standby.st = (if first = false ∧ fileTotal file = some file.length then .loaded else .loading) ∧
      t.prog.actBank = s.prog.actBank ∧ (∀ b, s.prog.actBank = some b → t.prog.bank b = s.prog.bank b) ∧
      { t with hif := s.hif, prog := s.prog } = s) ∧
  (∀ (p : Port) (tag : Half) (s : State), ready (.prgVerify p tag) s = true →
    s.prog.standby.st = .loaded ∨ s.prog.standby.st = .valid ∨ s.prog.standby.st = .invalid →
    ∃ t, answers (.prgVerify p tag) .pend s t ∧
      t.prog.standby = { s.prog.standby with st := .verifying, verify := some (p, tag) } ∧
      (t.port p).pend = (s.port p).pend ++ [{ opcode := 0x0402, tag := tag }] ∧
      { t with hif := s.hif, prog := s.prog } = s) ∧
  (∀ (equal : Bool) (s : State), s.runs = true → s.prog.standby.st = .verifying →
    ∃ t, exec (.verifyComplete equal) s = .next t ∧ { t with hif := s.hif, prog := s.prog, freeCtr := s.freeCtr } = s ∧
      t.prog.actBank = s.prog.actBank ∧ t.prog.standby.file = s.prog.standby.file ∧ t.prog.standby.verify = none ∧
      (∀ v, s.prog.standby.verdict = some v → t.prog.standby.st = .invalid ∧ t.prog.standby.failCode = v.code ∧
        ∀ p tag, s.prog.standby.verify = some (p, tag) →
          completed p 0x0402 tag (.words (verdictWords v.code v.inDesc v.offset [])) s t) ∧
      (s.prog.standby.verdict = none → equal = false → t.prog.standby.st = .invalid ∧ t.prog.standby.failCode ≠ 0 ∧
        ∀ p tag, s.prog.standby.verify = some (p, tag) → { opcode := 0x0402, tag := tag } ∈ (s.port p).pend →
          ∃ r, completionPacket 0x0402 tag r ∈ (t.port p).waiting) ∧
      (s.prog.standby.verdict = none → equal = true → t.prog.standby.st = .valid ∧ t.prog.standby.failCode = 0 ∧
        t.prog.standby.slots = s.prog.standby.slotCounts ∧
        ∀ p tag, s.prog.standby.verify = some (p, tag) →
          completed p 0x0402 tag (.words (verdictWords 0 false 0 s.prog.standby.slotCounts)) s t))

/-- PRG.ACTIVATE that R109 does not refuse is PENDING. In SERVICE, outside a pair, it is scheduled from this round, in a pair the
leader proposes it and the follower forwards it (R117, R119); in STARTUP and TEST the banks switch at once: the standby bank is
ACTIVE, the old one VALID, NEWPRG is set for every task and the operation completes (R108, R110). At the boundary the same switch
is made, and its completion waits for the first task end in the new bank (R111, R112, R119). Without a boundary, or without the
confirmation of the pair, the activation is abandoned and completes with ERR_NO_BOUNDARY or ERR_TWIN (R111, R117); the leader
tells the follower of a missing confirmation by a proposal with that result (log entry 67). -/
def Obligations.ActivationSwitchesBanks : Prop :=
  (∀ (p : Port) (tag : Half) (token : Word) (lit desc : Dword) (s : State),
    ready (.prgActivateExecute p tag token lit desc) s = true → activationRefusal lit desc s = none →
    ∃ t, answers (.prgActivateExecute p tag token lit desc) .pend s t ∧
      (s.inService = true → s.twin.ps ≠ .paired →
        t.prog = { s.prog with sched := some { bank := s.prog.standbyNo, roundA := s.floe.round, client := some (p, tag),
                                               confirmed := true, sent := false, litCrc := lit, descCrc := desc } } ∧
        (t.port p).pend = (s.port p).pend ++ [{ opcode := 0x0403, tag := tag }] ∧
        { t with hif := s.hif, prog := s.prog } = s) ∧
      (s.inService = true → s.twin.ps = .paired → linkUsable s = true →
        t.prog = { s.prog with sched := some { bank := s.prog.standbyNo, roundA := s.floe.round, client := some (p, tag),
                                               confirmed := false, sent := false, litCrc := lit, descCrc := desc } } ∧
        t.twin = { s.twin with
          txQueue := insertMsg 3 (twinMessage (if s.isLeader then 0x03 else 0x02) (actBody s.floe.round 0 lit desc) s) s.twin.txQueue } ∧
        (t.port p).pend = (s.port p).pend ++ [{ opcode := 0x0403, tag := tag }] ∧
        { t with hif := s.hif, prog := s.prog, twin := s.twin } = s) ∧
      (s.inService = false → t.prog.actBank = some s.prog.standbyNo ∧ (t.prog.bank s.prog.standbyNo).st = .active ∧
        (∀ o, s.prog.actBank = some o → (t.prog.bank o).st = .valid) ∧ (∀ n, n < 8 → (t.task n).newprg = true) ∧
        completionPacket 0x0403 tag (activationOk s.floe.round s.tb.tb.ns) ∈ (t.port p).waiting)) ∧
  (∀ (a : Activation) (old : Bank) (s : State), s.runs = true → s.inService = true → s.prog.sched = some a →
    a.confirmed = true → a.roundA + 5 ≤ s.floe.round → s.floe.round ≤ a.roundA + 1000 → atBoundary s = true → (s.prog.bank a.bank).st = .valid →
    s.prog.active = some old → (∀ n, n < 8 → s.run n = none) → heldDiffers old (s.prog.bank a.bank) s.mem = none →
    ∃ t, exec .activationBoundary s = .next t ∧ t.prog.actBank = some a.bank ∧ (t.prog.bank a.bank).st = .active ∧
      t.prog.sched = none ∧ t.prog.report = a.client.map (fun c => (c, s.floe.round, s.tb.tb.ns)) ∧
      t.mem = s.mem ∧ ∀ n, n < 8 → (t.task n).newprg = true) ∧
  (∀ (a : Activation) (s : State), s.runs = true → s.prog.sched = some a → a.roundA + 1000 < s.floe.round →
    ∃ t, exec .activationNoBoundary s = .next t ∧ t.prog = { s.prog with sched := none } ∧
      (∀ p tag, a.client = some (p, tag) → completed p 0x0403 tag (.error .errNoBoundary 0 0) s t) ∧
      { t with hif := s.hif, prog := s.prog, ice := s.ice } = s) ∧
  (∀ (a : Activation) (s : State), s.runs = true → s.prog.sched = some a → a.confirmed = false →
    ∃ t, exec .actConfirmTimeout s = .next t ∧ t.prog = { s.prog with sched := none } ∧
      (∀ p tag, a.client = some (p, tag) → completed p 0x0403 tag (.error .errTwin 0 0) s t) ∧
      { t with hif := s.hif, prog := s.prog, ice := s.ice, twin := s.twin } = s ∧
      (¬(s.twin.ps = .paired ∧ s.isLeader = true) → t.twin = s.twin) ∧
      (s.twin.ps = .paired → s.isLeader = true → linkUsable s = true → t.twin = { s.twin with
        txQueue := insertMsg 3 (twinMessage 0x03 (actBody a.roundA Code.errTwin.value a.litCrc a.descCrc) s) s.twin.txQueue }))

/-- Activation over the twin link (R117): the leader takes a forwarded execute as a proposal and sends it, the follower takes a
proposal and sends its confirmation, the leader takes the confirmation of the round it proposed as the schedule. -/
def Obligations.ActivationOverTheLink : Prop :=
  (∀ (f : List Byte) (s : State), accepted 0x02 f s = true → s.twin.ps = .paired → s.isLeader = true →
    let b := msgBody (frameMessage f)
    activationRefusal (bodyLit b) (bodyDesc b) s = none →
    ∃ t, exec (.actfwd f) s = .next t ∧
      t.prog = { s.prog with sched := some { bank := s.prog.standbyNo, roundA := s.floe.round, client := none, confirmed := false,
                                             sent := false, litCrc := bodyLit b, descCrc := bodyDesc b } } ∧
      (linkUsable s = true → t.twin.txQueue =
        insertMsg 3 (twinMessage 0x03 (actBody s.floe.round 0 (bodyLit b) (bodyDesc b)) s) s.twin.txQueue) ∧
      { t with twin := s.twin, prog := s.prog } = s) ∧
  (∀ (f : List Byte) (s : State), accepted 0x03 f s = true → s.twin.ps = .paired → s.isLeader = false →
    let b := msgBody (frameMessage f)
    wordAt b 1 = 0 → (∀ a, s.prog.sched = some a → a.confirmed = false) →
    activationRefusal (bodyLit b) (bodyDesc b) { s with prog := { s.prog with sched := none } } = none →
    ∃ t, exec (.actprop f) s = .next t ∧
      t.prog = { s.prog with sched := some { bank := s.prog.standbyNo, roundA := (wordAt b 0).toNat, client := waitingClient s,
                                             confirmed := false, sent := true, litCrc := bodyLit b, descCrc := bodyDesc b } } ∧
      (linkUsable s = true → t.twin.txQueue =
        insertMsg 3 (twinMessage 0x04 (actBody (wordAt b 0).toNat 0 (bodyLit b) (bodyDesc b)) s) s.twin.txQueue) ∧
      { t with twin := s.twin, prog := s.prog } = s) ∧
  (∀ (f : List Byte) (a : Activation) (s : State), accepted 0x04 f s = true → s.prog.sched = some a → a.confirmed = false →
    let b := msgBody (frameMessage f)
    a.roundA = (wordAt b 0).toNat → wordAt b 1 = 0 →
    ∃ t, exec (.actconf f) s = .next t ∧ t.prog = { s.prog with sched := some { a with confirmed := true } } ∧
      { t with twin := s.twin, prog := s.prog } = s)

/-- FW.STAGE: a first chunk starts the image, a later one of the owning port at SNOW_BYTES continues it; with LAST it is STAGED.
The answer is the number of bytes staged (R333). IMG.READ within the image is PENDING: in SERVICE it waits for its task's end,
outside SERVICE its copy, with the header's unpublished flag set, completes at once (R327, R328). HIN.WRITE copies the half in
force, stores the words whose bits lie below HIN_COUNT, and switches halves; bytes outside the other half and outside the words
stored do not change (R329, R343). -/
def Obligations.ImagesAndHostInputs : Prop :=
  (∀ (p : Port) (tag : Half) (first last : Bool) (offset : Word) (data image : List Byte) (s : State),
    ready (.fwStage p tag first last offset data) s = true →
    (first = true ∧ offset = 0 ∧ image = data ∨
      first = false ∧ s.fw.snow = .staging ∧ s.fw.owner = p ∧ offset.toNat = s.fw.image.length ∧ image = s.fw.image ++ data) →
    image.length ≤ 33554432 →
    ∃ t, answers (.fwStage p tag first last offset data) (.words [BitVec.ofNat 32 image.length]) s t ∧
      t.fw = { s.fw with snow := if last then .staged else .staging, image := image, owner := p } ∧
      { t with hif := s.hif, fw := s.fw } = s) ∧
  ((∀ (p : Port) (tag : Half) (task : BitVec 3) (addr length : Word) (s : State),
    ready (.imgRead p tag task addr length) s = true → addr.toNat % 4 = 0 → length.toNat % 4 = 0 → 4 ≤ length.toNat →
    length.toNat ≤ 4080 → addr.toNat + length.toNat ≤ 0x780000 →
    let w : ImgWait := { port := p, tag := tag, task := task.toNat, addr := addr.toNat, length := length.toNat }
    ∃ t, answers (.imgRead p tag task addr length) .pend s t ∧
      State.unmarked { t with hif := s.hif, xsram := s.xsram } = s.unmarked ∧
      (s.inService = true → t.xsram = s.xsram ∧ (t.port p).pend = (s.port p).pend ++ [{ opcode := 0x0601, tag := tag }] ∧
        t.hif.imgs = s.hif.imgs ++ [w]) ∧
      (s.inService = false →
        completionPacket 0x0601 tag { code := .ok, payload := imageCopy w true s } ∈ (t.port p).waiting)) ∧
  (∀ (p : Port) (tag : Half) (first count : Word) (data : List Byte) (s : State),
    ready (.hinWrite p tag first count data) s = true → first.toNat % 32 = 0 → count.toNat % 32 = 0 → 32 ≤ count.toNat →
    count.toNat ≤ 32704 → first.toNat + count.toNat ≤ roundUp 32 (hinBits s) →
    ∃ t, answers (.hinWrite p tag first count data) .done s t ∧ t.hif.hinHalf = !s.hif.hinHalf ∧
      { t with hif := s.hif, xsram := s.xsram } = s ∧
      (∀ k, 32 * (k + 1) ≤ count.toNat → first.toNat + 32 * (k + 1) ≤ hinBits s → Memory.wf s.xsram = true →
        memWord t.xsram (hinBase (!s.hif.hinHalf) + 4 * (first.toNat / 32 + k)) = wordAt data k) ∧
      (∀ k i, 32 * (k + 1) ≤ count.toNat → i < 32 → hinBits s ≤ 65536 → Memory.wf s.xsram = true →
        (memWord t.xsram (hinBase (!s.hif.hinHalf) + 4 * (first.toNat / 32 + k))).getLsbD i =
          if first.toNat + 32 * k + i < hinBits s then (wordAt data k).getLsbD i
          else (memWord s.xsram (hinBase s.hif.hinHalf + 4 * (first.toNat / 32 + k))).getLsbD i) ∧
      (∀ i, i < 0x2000 → (i < 4 * (first.toNat / 32) ∨ 4 * ((first.toNat + count.toNat) / 32) ≤ i) →
        Memory.wf s.xsram = true →
        memRead t.xsram (hinBase (!s.hif.hinHalf) + i) = memRead s.xsram (hinBase s.hif.hinHalf + i)) ∧
      (∀ a, (a < hinBase (!s.hif.hinHalf) ∨ hinBase (!s.hif.hinHalf) + 0x2000 ≤ a) →
        (a < hinBase (!s.hif.hinHalf) + 4 * (first.toNat / 32) ∨
          hinBase (!s.hif.hinHalf) + 4 * ((first.toNat + count.toNat) / 32) ≤ a) →
        Memory.wf s.xsram = true → memRead t.xsram a = memRead s.xsram a)))

/-- The commands of the Ice Core and of fault collection. ICE.OPEN sets the port's cursor and answers its window; ICE.READ answers
the records at the cursor and moves it on, without those whose words fail ECC, which raise source 0x40 (R296 to R298). FCU.READ
answers the summary and the entries (R286). FCU.ACK clears UNACK of the sources named and answers how many had any (R285).
FCU.FORCE sets the source's force (R288). -/
def Obligations.RecorderCommands : Prop :=
  ∀ (p : Port) (tag : Half) (s : State),
    (∀ minSev nand origin start, ready (.iceOpen p tag minSev nand origin start) s = true → minSev.toNat ≤ 4 →
      origin.toNat ≤ 2 →
      ∃ t c, answers (.iceOpen p tag minSev nand origin start) (.words (iceWindow s.ice c 0).1) s t ∧
        t.ice = s.ice.setCursor p c ∧ c.nand = nand ∧ c.minSev = minSev.toNat ∧
        (origin = 2 → c.pos = start) ∧ (origin = 1 → c.pos = s.ice.frontier nand) ∧
        (origin = 0 → c.pos = (((s.ice.storeOf nand).head?).map IceRec.seq).getD (s.ice.frontier nand)) ∧
        { t with hif := s.hif, ice := s.ice } = s) ∧
    (∀ count failed c, ready (.iceRead p tag count failed) s = true → count.toNat ≤ 120 → s.ice.cursor p = some c →
      let w := iceWindow (s.ice.readable failed) c count.toNat
      ∃ t, answers (.iceRead p tag count failed) (.words w.1) s t ∧
        { t with hif := s.hif } =
          (let u := s.updIce fun i => i.setCursor p { c with pos := w.2 }
           let v := if !c.nand && s.ice.store.any (fun r => failed.contains r.seq) then raiseOpen 0x40 1 none u else u
           { v with hif := s.hif })) ∧
    (∀ first count, ready (.fcuRead p tag first count) s = true → 1 ≤ count.toNat →
      first.toNat + count.toNat ≤ 256 →
      ∃ t, answers (.fcuRead p tag first count) (.words (fcuSummary s.fcu ++ fcuEntries s first.toNat count.toNat)) s t ∧
        { t with hif := s.hif } = s) ∧
    (∀ all src, ready (.fcuAck p tag all src) s = true → (all = true → src = 0) →
      ∃ t n, answers (.fcuAck p tag all src) (.words [BitVec.ofNat 32 n]) s t ∧
        n = (s.fcu.sources.filter fun e => (all || e.1 == src.toNat) && e.2.unack != 0).length ∧
        (∀ e ∈ t.fcu.sources, all = true ∨ e.1 = src.toNat → e.2.unack = 0) ∧
        (∀ e ∈ s.fcu.sources, all = false → e.1 ≠ src.toNat → e ∈ t.fcu.sources) ∧
        { t.fcu with sources := s.fcu.sources } = s.fcu ∧ { t with hif := s.hif, fcu := s.fcu, ice := s.ice } = s) ∧
    (∀ cls pattern src, ready (.fcuForce p tag cls pattern src) s = true → cls.toNat ≤ 4 → sourceListed src.toNat = true →
      ∃ t, answers (.fcuForce p tag cls pattern src) .done s t ∧
        (t.fcuSource src.toNat).force = (forcePattern pattern.toNat).map fun q => (q, cls))

/-- ARB.COUNTERS answers TB_NS, the counters and DECISIONS, and with CLEAR 1 starts them at 0 (R351). CVU.RUN whose descriptors
pass R360 and R361 queues the chain and is PENDING; the oldest chain starts: its inline data are staged and it takes its sources
as they stand (model choice, log entry 71). When the oldest chain is complete it leaves the queue, the next one starts, CVU_RUNS,
CVU_BYTES, the ECC errors and in compare mode CVU_MISM count, and the operation completes (R340, R361, R362). -/
def Obligations.FabricCommands : Prop :=
  (∀ (p : Port) (tag : Half) (clear : Bool) (s : State), ready (.arbCounters p tag clear) s = true →
    ∃ t, answers (.arbCounters p tag clear) (.words ([hiWord s.tb.tb.ns, loWord s.tb.tb.ns] ++ counterWords s.fabric ++
        [BitVec.ofNat 32 s.fabric.decisions])) s t ∧
      (clear = false → t.fabric = s.fabric) ∧
      (clear = true → t.fabric.decisions = 0 ∧ counterWords t.fabric = List.replicate 36 0 ∧
        t.fabric.arbLive = s.fabric.arbLive) ∧ { t with hif := s.hif, fabric := s.fabric } = s) ∧
  (∀ (p : Port) (tag : Half) (ds : List Word) (data : List Byte) (s : State), ready (.cvuRun p tag ds data) s = true →
    ds.length % 10 = 0 → 10 ≤ ds.length → ds.length ≤ 160 → data.length < 65536 →
    chainFault ds (ds.length / 10) 0 0 = none → orderFault ds (ds.length / 10) = none →
    ∃ t, answers (.cvuRun p tag ds data) .pend s t ∧
      (t.port p).pend = (s.port p).pend ++ [{ opcode := 0x0C10, tag := tag }] ∧
      (s.fabric.chains = [] → t.xsram = memWriteBytes s.xsram 0x3F000 data ∧
        let bs := (chainSources ds (ds.length / 10) (s.updXsram fun x => memWriteBytes x 0x3F000 data)).1
        t.fabric = { s.fabric with
          chains := [{ port := p, tag := tag, descs := ds, data := data, stage := 0, snap := some bs }] }) ∧
      (∀ c rest, s.fabric.chains = c :: rest → c.snap ≠ none → t.xsram = s.xsram ∧ t.freeCtr = s.freeCtr ∧
        t.fabric = { s.fabric with chains := s.fabric.chains ++
          [{ port := p, tag := tag, descs := ds, data := data, stage := 0, snap := none }] }) ∧
      { t with hif := s.hif, fabric := s.fabric, xsram := s.xsram, freeCtr := s.freeCtr } = s) ∧
  (∀ (poisoned : List Nat) (corrected : Nat) (c : Chain) (rest : List Chain) (s : State), s.runs = true →
    s.fabric.chains = c :: rest →
    ∃ t r, exec (.cvuChainComplete poisoned corrected) s = .next t ∧ t.fabric.chains.drop 1 = rest.drop 1 ∧
      (rest = [] → t.fabric.chains = []) ∧
      (∀ d, rest.head? = some d → ∃ bs, t.fabric.chains.head? = some { d with snap := some bs }) ∧
      t.fabric.cvuRuns = satInc 0xFFFFFFFF s.fabric.cvuRuns ∧
      t.fabric.cvuBytes = satAdd 0xFFFFFFFF s.fabric.cvuBytes
        (((List.range (c.descs.length / 10)).map (dLen c.descs)).foldl (· + ·) 0) ∧
      t.fabric.eccUncorr = satAdd 0xFFFF s.fabric.eccUncorr poisoned.length ∧
      t.fabric.eccCorr = satAdd 0xFFFF s.fabric.eccCorr corrected ∧
      completed c.port 0x0C10 c.tag r s t ∧ r.code = .ok ∧
      (dCmp c.descs 0 = false →
        r = .words (readReply (chainResults c !poisoned.isEmpty)) ∧ t.fabric.cvuMism = s.fabric.cvuMism) ∧
      (dCmp c.descs 0 = true → ∃ u,
        let fs := (matchFlags c.descs ((List.range (c.descs.length / 10)).zip (chainResults c !poisoned.isEmpty)) u).1
        r = .words (compareReply fs) ∧
        t.fabric.cvuMism = satAdd 0xFFFFFFFF s.fabric.cvuMism (fs.filter (· = false)).length) ∧
      { t with hif := s.hif, fabric := s.fabric, freeCtr := s.freeCtr, xsram := s.xsram } = s)

/-- Events of the fabric. Of the requesters present at a decision, one with the least effective rank wins, at a reserved grant one
that has waited longest, equal ones by the longer wait and then the lower number (R348); it counts one grant. A resync discards
what a FIFO crossing holds and reopens it once both its sides are out of reset (R354), more than 16 pulses set OVF on a pulse
crossing (R355), a passed test step moves the cycle on and a failed one starts it again (R391). -/
def Obligations.FabricEvents : Prop :=
  (∀ (waits : List (Option Nat)) (s : State), s.runs = true → presentReqs waits ≠ [] →
    ∃ t i w, exec (.arbiterDecision waits) s = .next t ∧ i < 12 ∧ waits.getD i none = some w ∧
      t.fabric.decisions = s.fabric.decisions + 1 ∧ t.fabric.winner = some i ∧
      (vget t.fabric.reqs .fresh i).grants = satInc 0xFFFFFFFF (vget s.fabric.reqs .fresh i).grants ∧
      (∀ j, j ≠ i → (vget t.fabric.reqs .fresh j).grants = (vget s.fabric.reqs .fresh j).grants) ∧
      (∀ j v, j < 12 → j ≠ i → waits.getD j none = some v →
        servedBefore s.fabric (decide ((s.fabric.decisions + 1) % arbN s.fabric = 0)) (i, w) (j, v) = true) ∧
      { t with fabric := s.fabric, ice := s.ice } = s) ∧
  (∀ (x : Fin 17) (n : Nat) (s : State), s.runs = true → isFifo x.val = true →
    ∃ t, exec (.crossingResync x n) s = .next t ∧
      vget t.fabric.xs .fresh x.val = { vget s.fabric.xs .fresh x.val with
        notReady := (vget s.fabric.xs .fresh x.val).notReady && !sidesReady x.val s,
        xdrop := satAdd 0xFFFF (vget s.fabric.xs .fresh x.val).xdrop n } ∧
      (∀ k, k ≠ x.val → vget t.fabric.xs .fresh k = vget s.fabric.xs .fresh k) ∧ { t with fabric := s.fabric } = s) ∧
  (∀ (x : Fin 17) (n : Nat) (s : State), s.runs = true → isPulse x.val = true →
    (n ≤ 16 → exec (.pulseTransfer x n) s = .next s) ∧
    (16 < n → ∃ t, exec (.pulseTransfer x n) s = .next t ∧ (vget t.fabric.xs .fresh x.val).ovf = true ∧
      ∀ k, k ≠ x.val → vget t.fabric.xs .fresh k = vget s.fabric.xs .fresh k)) ∧
  (∀ (ok : Bool) (s : State), s.runs = true →
    s.mstate = .startup ∨ s.mstate = .service ∨ s.mstate = .test ∨ s.mstate = .recovery →
    ∃ t, exec (.onlineTestStep ok) s = .next t ∧
      (ok = true → t.fabric.bistPos = (s.fabric.bistPos + 1) % 6189 ∧ { t with fabric := s.fabric } = s) ∧
      (ok = false → t.fabric.bistPos = 0 ∧ (quietSource 0x0B s = true → t.mstate = .safe)))

/-- CAN.SEND of a frame that the channel and the buffer take fills the buffer and sets its TXREQ; ABORT withdraws a request that
is not on the bus, and one that may be on the bus is not tried again (its W1 is 0, so it names buffer 0: model reading, log entry
58); RESUME clears SUSP and COLL; the answer is the buffer's W0. CAN.READ answers CAN_TS and the buffers, and releasing a receive
buffer clears NEW and OVR; a read cut off by an exclusion leaves the last buffer locked (R376, R379, R383, R385). Nothing outside
the channel and its buffers changes. -/
def Obligations.CanCommands : Prop :=
  ∀ (p : Port) (tag : Half) (ch : CanCh) (s : State), canRefuses ch s = false → Memory.wf s.xsram = true →
    let inBuffers (a : Nat) : Prop := canBase ch ≤ a ∧ a < canBase ch + 5120
    let framed (t : State) : Prop :=
      (∀ a, ¬inBuffers a → memRead t.xsram a = memRead s.xsram a) ∧ (∀ d, d ≠ ch → t.can d = s.can d) ∧
        { t with hif := s.hif, xsram := s.xsram, can1 := s.can1, can2 := s.can2, freeCtr := s.freeCtr } = s
    (∀ buf resume once w2 w3 data, ready (.canSend p tag ch buf resume once w2 w3 data) s = true →
      (resume = true → w2 ≠ 0 ∨ w3 ≠ 0 ∨ data ≠ []) →
      ((sendChecks (s.can ch) false true
          [at32 8 (canNum ch) ||| flag 6 resume ||| flag 5 once, at32 0 buf.toNat, w2, w3] data).all fun x => x.2.2) = true →
      (resume = false → bufHas ch buf.toNat bTxreq s = false ∧ bufHas ch buf.toNat bSusp s = false) →
      ∃ t, answers (.canSend p tag ch buf resume once w2 w3 data) (.words [bufWord ch buf.toNat 0 t]) s t ∧
        bufHas ch buf.toNat bTxreq t = true ∧ bufHas ch buf.toNat bTxok t = false ∧ bufWord ch buf.toNat 1 t = w2 ∧
        bufWord ch buf.toNat 2 t = w3 ∧ memBytes t.xsram (bufAddr ch buf.toNat + 16) 64 = slice data 0 64 ∧ framed t) ∧
    (ready (.canSendAbort p tag ch 0) s = true →
      ∃ t, answers (.canSendAbort p tag ch 0) (.words [bufWord ch 0 0 t]) s t ∧
        ((s.can ch).cur ≠ some 0 → bufHas ch 0 bTxreq t = false) ∧
        (bufHas ch 0 bTxreq t = false ∨ ((t.can ch).oneShot &&& oneShotBit 0) ≠ 0) ∧ framed t) ∧
    (∀ buf, buf ≠ 0 → ready (.canSendAbort p tag ch buf) s = true →
      ∃ t, answers (.canSendAbort p tag ch buf) (.range 1 5) s t ∧ { t with hif := s.hif } = s) ∧
    (∀ buf, ready (.canSendResume p tag ch buf) s = true →
      ∃ t, answers (.canSendResume p tag ch buf) (.words [bufWord ch buf.toNat 0 t]) s t ∧
        bufWord ch buf.toNat 0 t = bufWord ch buf.toNat 0 s &&& ~~~(bSusp ||| bColl) ∧ framed t) ∧
    (∀ first count newOnly cutOff, ready (.canRead p tag ch first count newOnly cutOff) s = true → 1 ≤ count.toNat →
      count.toNat ≤ 50 → first.toNat ≤ 63 → first.toNat + count.toNat ≤ 64 →
      let bs := readBufs ch first.toNat count.toNat newOnly s
      ∃ t r, answers (.canRead p tag ch first count newOnly cutOff) r s t ∧ r.code = .ok ∧
        r.payload = wordsBytes [s.tb.canTs, BitVec.ofNat 32 bs.length] ++ bs.flatMap (fun b => bufBytes ch b s) ∧
        (∀ b ∈ if cutOff then bs.dropLast else bs, canDir (s.can ch) b = 1 →
          bufHas ch b bNew t = false ∧ bufHas ch b bOvr t = false ∧ bufHas ch b bLock t = false) ∧
        (∀ b, cutOff = true → bs.getLast? = some b → bufWord ch b 0 t = bufWord ch b 0 s ||| bLock) ∧
        (∀ b, b < 64 → b ∉ bs → bufWord ch b 0 t = bufWord ch b 0 s) ∧ framed t)

/-- Frames on the bus, for a channel that takes part and for which nothing waits. A received frame goes, with its time, to the
lowest matching receive buffer that is neither locked nor NEW (R375); a completed transmission clears TXREQ, sets TXOK, writes the
time and counts (R377, R379); a collision counts in COLL, and the sixteenth in succession suspends the buffer (R379). -/
def Obligations.CanFrames : Prop :=
  ∀ (ch : CanCh) (s : State), canUp ch s = true → (s.can ch).wait = none → Memory.wf s.xsram = true →
    (∀ (f : CanFrame) (sof : Word) (b : Nat), (f.fdf = true → canFd (s.can ch) = true) → f.data.length ≤ 64 → b < 64 →
      filterMatches (s.can ch) (frameW1 f) b = true → bufHas ch b bLock s = false → bufHas ch b bNew s = false →
      (∀ k, k < b → filterMatches (s.can ch) (frameW1 f) k = true → bufHas ch k bLock s = true ∨ bufHas ch k bNew s = true) →
      ∃ t, exec (.canFrameReceive ch f sof) s = .next t ∧ bufHas ch b bNew t = true ∧ bufWord ch b 1 t = frameW1 f ∧
        bufWord ch b 2 t = frameW2 f ∧ bufWord ch b 3 t = sof ∧
        memBytes t.xsram (bufAddr ch b + 16) 64 = slice f.data 0 64 ∧
        (t.can ch).rxOk = satInc 0xFFFFFFFF (s.can ch).rxOk ∧ (∀ d, d ≠ ch → t.can d = s.can d) ∧
        (∀ a, a < bufAddr ch b ∨ bufAddr ch b + 80 ≤ a → memRead t.xsram a = memRead s.xsram a) ∧
        { t with xsram := s.xsram, can1 := s.can1, can2 := s.can2, freeCtr := s.freeCtr } = s) ∧
    (∀ (b : Fin 64) (sof delay : Word), canMode (s.can ch) = 0 → mayBeSent ch b.val s = true →
      ∃ t, exec (.canTxComplete ch b sof delay) s = .next t ∧ bufHas ch b.val bTxreq t = false ∧
        bufHas ch b.val bTxok t = true ∧ bufWord ch b.val 3 t = sof ∧ bufColl ch b.val t = 0 ∧
        (t.can ch).txOk = satInc 0xFFFFFFFF (s.can ch).txOk ∧ (t.can ch).tec = (s.can ch).tec - 1 ∧
        (∀ d, d ≠ ch → t.can d = s.can d) ∧
        (∀ a, a < bufAddr ch b.val ∨ bufAddr ch b.val + 80 ≤ a → memRead t.xsram a = memRead s.xsram a) ∧
        { t with xsram := s.xsram, can1 := s.can1, can2 := s.can2 } = s) ∧
    (∀ (b : Fin 64) (sof delay : Word), canMode (s.can ch) = 2 → mayBeSent ch b.val s = true →
      ∃ t, exec (.canTxComplete ch b sof delay) s = .next t ∧ (t.can ch).txOk = satInc 0xFFFFFFFF (s.can ch).txOk) ∧
    (∀ b : Fin 64, canMode (s.can ch) ≠ 1 → mayBeSent ch b.val s = true →
      ∃ t, exec (.canCollision ch b) s = .next t ∧ bufColl ch b.val t = min 16 (bufColl ch b.val s + 1) ∧
        (15 ≤ bufColl ch b.val s → bufHas ch b.val bSusp t = true ∧ bufHas ch b.val bTxreq t = false) ∧
        (bufColl ch b.val s < 15 → (t.can ch).tec = min 256 ((s.can ch).tec + 8)))

/-- Conditions of a channel. TEC past 255 leads to bus-off, counted once (R379); after BO_HOLD_MS and 128 × 11 recessive bits the
channel is error-active with both counters 0; integration ends with the channel on the bus, loopback only in TEST; a recessive FDF
bit without FD_EN counts and integrates again (R373); an error counts REC or TEC by the phase it is met in and stands in LEC
(R384); a read lock that stands for 100 µs is released and counted (R376); a sleeping transceiver raises the wake request at a
pattern or frame that its record names (R381). -/
def Obligations.CanConditions : Prop :=
  ∀ (ch : CanCh) (s : State),
    (canUp ch s = true → 256 ≤ (s.can ch).tec →
      ∃ t, exec (.canBusOff ch) s = .next t ∧ (t.can ch).busOffCnt = satInc 0xFFFF (s.can ch).busOffCnt ∧
        (t.can ch).st ≠ .active ∧ (t.can ch).st ≠ .passive ∧ (t.can ch).cur = none ∧ canUp ch t = false) ∧
    (canState s = true → (s.can ch).st = .busOffHold →
      ∃ t, exec (.canBoHoldExpiry ch) s = .next t ∧ t.can ch = { s.can ch with st := .busOff } ∧
        { t with can1 := s.can1, can2 := s.can2 } = s) ∧
    (canState s = true → (s.can ch).st = .busOff →
      ∃ t, exec (.canBusOffRecovery ch) s = .next t ∧ (t.can ch).st = .active ∧ (t.can ch).tec = 0 ∧ (t.can ch).recv = 0 ∧
        { t with can1 := s.can1, can2 := s.can2 } = s) ∧
    (canState s = true → canEn (s.can ch) = true → (s.can ch).integrating = true → (s.can ch).halted = false →
      (canMode (s.can ch) = 2 → s.eff = .test) →
      ∃ t, exec (.canIntegration ch) s = .next t ∧ (t.can ch).integrating = false ∧ (t.can ch).st ≠ .stopped ∧
        { t with can1 := s.can1, can2 := s.can2 } = s) ∧
    (canUp ch s = true → (s.can ch).wait = none → canFd (s.can ch) = false →
      ∃ t, exec (.canProtocolException ch) s = .next t ∧
        t.can ch = { s.can ch with protExc := satInc 0xFFFF (s.can ch).protExc, integrating := true, cur := none } ∧
        { t with can1 := s.can1, can2 := s.can2 } = s) ∧
    (∀ err phase b, canUp ch s = true → (s.can ch).wait = none → err ≠ .arbitration →
      ∃ t, exec (.canBusError ch err false b phase) s = .next t ∧ (t.can ch).lec = errorCode err ∧
        (t.can ch).recv = min 128 ((s.can ch).recv + recStep phase) ∧ (t.can ch).tec = (s.can ch).tec ∧
        { t with can1 := s.can1, can2 := s.can2 } = s) ∧
    (∀ err phase (b : Fin 64), canUp ch s = true → (s.can ch).wait = none → err ≠ .arbitration → canMode (s.can ch) ≠ 1 →
      phase = .inFlag ∨ phase = .afterFlag ∨ mayBeSent ch b.val s = true →
      ∃ t, exec (.canBusError ch err true b phase) s = .next t ∧ (t.can ch).lec = errorCode err ∧
        (t.can ch).tec = (if tecCounts err phase (s.can ch) then min 256 ((s.can ch).tec + 8) else (s.can ch).tec) ∧
        (t.can ch).recv = (s.can ch).recv ∧ { t with can1 := s.can1, can2 := s.can2, xsram := s.xsram } = s) ∧
    (∀ b : Fin 64, canState s = true → bufHas ch b.val bLock s = true → Memory.wf s.xsram = true →
      ∃ t, exec (.canLockTimeout ch b) s = .next t ∧ bufHas ch b.val bLock t = false ∧
        t.can ch = { s.can ch with lockTo := satInc 0xFFFF (s.can ch).lockTo } ∧
        (∀ a, a < bufAddr ch b.val ∨ bufAddr ch b.val + 4 ≤ a → memRead t.xsram a = memRead s.xsram a) ∧
        { t with can1 := s.can1, can2 := s.can2, xsram := s.xsram } = s) ∧
    (∀ frame, s.mstate = .dormant → (s.can ch).st = .sleep → wakesOn (s.can ch) frame = true →
      ∃ t, exec (.canWake ch frame) s = .next t ∧ t.power = { s.power with wakeReq := true } ∧ { t with power := s.power } = s)

/-- A power-on start in OFF with the input switch closed enters BOOT with an empty image, three lanes serving, empty mailboxes, no
keys in the registers and the start's kind noted; one that finds the Rime mark also erases the wrapped keys and counts as a cold
restart (R387, R394, R406). Programs, task records and lock-out records are kept. -/
def Obligations.PowerOnStart : Prop :=
  ∀ (rime ice log : Bool) (s : State), s.mstate = .off → s.power.swClosed = true →
    ∃ t, exec (.powerOnStart rime ice log) s = .next t ∧ t.mstate = .boot ∧ t.mem = [] ∧ t.servingLanes = [0, 1, 2] ∧
      t.hif = .fresh ∧ t.keys.reg0 = none ∧ t.keys.reg1 = none ∧ t.keys.regT = none ∧ t.tb.tb.ns = 0 ∧
      t.fram.locks = s.fram.locks ∧ (∀ n, n < 8 → (t.task n).cfg = (s.task n).cfg) ∧ t.prog.actBank = s.prog.actBank ∧
      (rime = true → s.fram.rimeMark = none → t.fram.startKind = 1 ∧ t.fram.startCause = 0 ∧ t.keys.wrap0 = s.keys.wrap0) ∧
      (rime = false ∨ s.fram.rimeMark.isSome = true → t.fram.startKind = 2 ∧ t.fram.startCause = 3 ∧
        t.fram.rimeMark = none ∧ t.keys.wrap0 = none ∧ t.keys.wrap1 = none ∧ t.keys.wrapT = none)

/-- BOOT and SELFTEST. Two slots that pass lead to SELFTEST and mend the others, fewer hold the safety device in reset with code 1
(R388). An update whose image passes its checks in every lane becomes the firmware and blows its fuses; one that does not is
discarded and the firmware stays (R399, R400). Tests that pass load the keys whose copies are sound and mark the tests done, the
lowest failure holds the device in reset (R389, R390). -/
def Obligations.BootAndSelftest : Prop :=
  (∀ (g0 g1 g2 agree : Bool) (s : State), s.runs = true → s.eff = .boot → s.fram.fwMark = none →
    let passed := (bootLanes s).filter fun i => slotPasses s.fw (laneFlag g0 g1 g2 i) i
    ∃ t, exec (.firmwareSlotCheck g0 g1 g2 agree) s = .next t ∧
      (2 ≤ passed.length → t.eff = .selftest ∧ t.resetHold = none ∧
        ∀ i k, i < 3 → passed.head? = some k →
          vget t.fw.slots none i = if i ∈ passed then vget s.fw.slots none i else vget s.fw.slots none k) ∧
      (passed.length < 2 → t.resetHold = some 1 ∧ t.mstate = s.mstate ∧ t.fw.slots = s.fw.slots)) ∧
  (∀ (sig : Bool) (s : State), s.runs = true → s.eff = .boot → s.fram.fwMark.isSome = true → 2 ≤ s.servingLanes.length →
    ∃ t, exec (.fwUpdateBoot sig sig sig false false false) s = .next t ∧ t.fram.fwMark = none ∧ t.fw.snow = .empty ∧
      t.fw.image = [] ∧ t.servingLanes = s.servingLanes ∧
      (updateRefusal sig s.fw = none → t.fw.version = imageWord s.fw.image 2 ∧
        t.fw.fuses = max s.fw.fuses (imageRollback s.fw.image) ∧
        ∀ i ∈ s.servingLanes, vget t.fw.slots none i = some s.fw.image) ∧
      (updateRefusal sig s.fw ≠ none → t.fw.version = s.fw.version ∧ t.fw.fuses = s.fw.fuses ∧ t.fw.slots = s.fw.slots)) ∧
  (∀ (logic memory guard w0 w1 wT reint : Bool) (s : State), s.runs = true → s.eff = .selftest → s.testsDone = false →
    ∃ t, exec (.selftestComplete logic memory guard w0 w1 wT reint) s = .next t ∧
      (∀ n, testFailure logic memory guard s = some n → t.resetHold = some n ∧ t.testsDone = false ∧ t.keys = s.keys) ∧
      (testFailure logic memory guard s = none → t.testsDone = true ∧ t.resetHold = none ∧
        t.keys.reg0 = (if w0 then s.keys.wrap0 else none) ∧ t.keys.reg1 = (if w1 then s.keys.wrap1 else none) ∧
        t.keys.regT = (if wT then s.keys.wrapT else none)))

/-- The last steps of a start, every bank, restore and bookkeeping item being in order: the restore signature is taken over what
is restored (R133, R135) and STARTUP is entered, in which the output groups that no lock-out record holds are switched on (R30,
R266); a module lock-out record leads on to SAFE (R31, R275, R386). SERVICE from the next round start when the conditions of R31
hold: the release origin is that round, every task of the reference schedule starts with nothing ready, and the COS queue is empty
(R22, R31, R255). -/
def Obligations.StartupAndServiceAreEntered : Prop :=
  (∀ s : State, s.runs = true → s.eff = .selftest → s.testsDone = true →
    ∃ t, exec (.startupReached .pass .pass .all true true true) s = .next t ∧ (t.eff = .startup ∨ t.mstate = .safe) ∧
      (lockStands 1 0 s = true → t.mstate = .safe) ∧
      (lockStands 1 0 s = false → s.floe.chA.linkUp = s.floe.chB.linkUp → t.eff = .startup ∧
        (s.power.brownout = false → t.io.gen1 = !lockStands 2 1 s ∧ t.io.gen2 = !lockStands 2 2 s)) ∧
      (∀ b, s.prog.active = some b → t.voter.restoreSig = restoreSignature b s.fram) ∧
      t.prog.actBank = s.prog.actBank ∧ (∀ n, n < 8 → lockStands 3 n s = true → (t.task n).stopped = true)) ∧
  (∀ s : State, s.runs = true → s.eff = .startup → s.serviceReady = true → agreementHolds s = true →
    s.power.brownout = false →
    ∃ t, exec .serviceEntry s = .next t ∧ t.eff = .service ∧ t.tasks.origin = s.floe.round + 1 ∧ t.io.cos = [] ∧
      (∀ n, n < 8 → (t.task n).refReady = false ∧ (t.task n).run = (s.task n).run) ∧
      { t with mstate := s.mstate, holdFrom := s.holdFrom, tasks := s.tasks, io := s.io, ice := s.ice } = s)

/-- Supply. UNDERVOLTAGE below its threshold leads to HOLD from every running state, remembers it and pauses the copy of a lane
(R31, R149, R416, R417); the overvoltage switch opens and closes, opening leads to HOLD as well (R418); a restored supply leads
back, or through a warm restart after the brownout path (R30, R419). The brownout path ends every commit and stops both groups,
and persistence being in force it writes every page. The loss of two lane rails is OFF with both groups and both CAN channels
stopped (R31, R382). -/
def Obligations.SupplyEvents : Prop :=
  (∀ (mv : Word) (s : State), s.runs = true → s.mstate ≠ .hold →
    (belowUndervoltage mv = false → exec (.undervoltage mv) s = .next s) ∧
    (belowUndervoltage mv = true → ∃ t, exec (.undervoltage mv) s = .next t ∧ t.mstate = .hold ∧ t.holdFrom = s.mstate ∧
      t.lanes = s.lanes.map (syncCopy s) ∧
      t.ice = (recordState s.mstate .hold (record 0x0206 1 0x042 1 mv.toNat 0 0 s)).ice ∧
      { t with mstate := s.mstate, holdFrom := s.holdFrom, ice := s.ice, lanes := s.lanes } = s)) ∧
  (∀ (mv : Word) (s : State), aboveOvervoltage mv = true →
    ∃ t, exec (.overvoltageDisconnect mv) s = .next t ∧ t.power = { s.power with swClosed := false, overvolt := true } ∧
      (s.runs = true → t.mstate = .hold) ∧ (s.runs = false → { t with power := s.power } = s)) ∧
  (∀ (mv : Word) (s : State), belowReconnect mv = true →
    exec (.overvoltageReconnect mv) s = .next (s.updPower fun p => { p with swClosed := true })) ∧
  (∀ (mv : Word) (s : State), s.runs = true → s.mstate = .hold →
    (s.power.swClosed = false ∨ aboveStart mv = false → exec (.supplyRestored mv) s = .next s) ∧
    (s.power.swClosed = true → aboveStart mv = true → (s.power.overvolt = true → inRange mv = true) →
      ∃ t, exec (.supplyRestored mv) s = .next t ∧ t.power.overvolt = false ∧
      (s.power.brownout = true → t.mstate = .boot ∧ t.fram.startKind = 3 ∧ t.fram.startCause = 4) ∧
      (s.power.brownout = false → ¬(s.holdFrom = .recovery ∧ s.floe.fstate = .sync) → t.mstate = s.holdFrom ∧
        t.power = { s.power with overvolt := false } ∧
        State.unmarked { t with mstate := s.mstate, holdFrom := s.holdFrom, ice := s.ice, power := s.power } = s.unmarked))) ∧
  (∀ (mv : Word) (s : State), s.runs = true → s.mstate = .hold → s.power.brownout = false →
    (belowBrownout mv = false → exec (.brownout mv) s = .next s) ∧
    (belowBrownout mv = true → ∃ t, exec (.brownout mv) s = .next t ∧ t.power.brownout = true ∧ t.io.gen1 = false ∧
      t.io.gen2 = false ∧ t.fram.waiting = [] ∧ (s.ice.stopped = false → t.ice.nandQueue = []) ∧ t.mem = s.mem)) ∧
  (∀ s : State, s.mstate ≠ .off →
    ∃ t, exec .laneRailsLost s = .next t ∧ t.mstate = .off ∧ t.io.gen1 = false ∧ t.io.gen2 = false ∧
      (∀ ch, (t.can ch).st = .stopped ∧ (t.can ch).cur = none) ∧
      { t with mstate := s.mstate, io := s.io, can1 := s.can1, can2 := s.can2, xsram := s.xsram } = s)

/-- Of the actions that accepted commands of R318 have queued, the first whose response has been read, or which has waited 100 ms,
is taken, in the states that R31 lists; in HOLD all of them wait (model choice, log entry 75). A wake source ends DORMANT:
SELFTEST follows, with the programs and their bank states, keys, lock-out records, records in force and learned filter lengths
kept (R10, R253, R397). FREEZE, with the strap fitted and Rime armed, zeroes the key registers, stops both groups and the CAN
channels, writes the mark and holds the module in FROZEN (R390, R405); without the strap, or not armed, it does nothing. -/
def Obligations.ActionsWakeAndFreeze : Prop :=
  (∀ s : State, s.runs = true →
    (s.mstate = .hold ∨ s.hif.actions.find? (actionDue s.tb.ms) = none → exec .restartCommandAction s = .next s) ∧
    (∀ a p n ms, s.mstate ≠ .hold → s.hif.actions.find? (actionDue s.tb.ms) = some (a, p, n, ms) →
      ∃ t, exec .restartCommandAction s = .next t ∧
        (s.mstate = .startup ∨ s.mstate = .service ∨ s.mstate = .test ∨ s.mstate = .recovery →
          (a = .rstWarm → t.mstate = .boot ∧ t.fram.startKind = 3 ∧ t.fram.startCause = 1) ∧
          (a = .fwActivate → t.mstate = .boot ∧ t.fram.startKind = 3 ∧ t.fram.startCause = 5 ∧
            t.fram.fwMark = some (imageWord s.fw.image 2, imageRollback s.fw.image))) ∧
        (s.mstate = .startup ∨ s.mstate = .service ∨ s.mstate = .test ∨ s.mstate = .recovery ∨ s.mstate = .safe →
          (a = .rstCold → t.mstate = .boot ∧ t.fram.startKind = 2 ∧ t.fram.startCause = 1) ∧
          (a = .lockReset → t.mstate = .boot ∧ t.fram.startKind = 2 ∧ t.fram.startCause = 2)) ∧
        (s.mstate = .test → a = .testExit → t.mstate = .boot ∧ t.fram.startKind = 2 ∧ t.fram.startCause = 6) ∧
        (s.mstate = .startup → a = .dormant → anyEnabled s = false →
          t.mstate = .dormant ∧ t.io.gen1 = false ∧ t.io.gen2 = false ∧ t.twin.txQueue = []) ∧
        (s.mstate = .boot ∨ s.mstate = .selftest →
          t.hif = { s.hif with actions := s.hif.actions.erase (a, p, n, ms) } ∧ { t with hif := s.hif } = s))) ∧
  ((∀ (src : WakeSource) (s : State), s.mstate = .dormant → wakes src s = true →
    ∃ t, exec (.dormantWake src) s = .next t ∧ t.mstate = .selftest ∧ t.fram = s.fram ∧ t.keys = s.keys ∧
      t.prog.actBank = s.prog.actBank ∧ t.prog.bank0.st = s.prog.bank0.st ∧ t.prog.bank1.st = s.prog.bank1.st ∧
      t.io.live = s.io.live ∧ t.floe.live = s.floe.live ∧ t.twin.liveW0 = s.twin.liveW0 ∧ t.twin.liveW1 = s.twin.liveW1 ∧
      (∀ n, n < 8 → (t.task n).cfg = (s.task n).cfg) ∧ (∀ n, n < 32 → (t.io.input n).n = (s.io.input n).n)) ∧
  (∀ (stop : BitVec 4) (s : State), s.maintEn = true → s.rimeArmed = true → s.mstate ≠ .off → s.mstate ≠ .frozen →
    ∃ t, exec (.freeze stop) s = .next t ∧ t.mstate = .frozen ∧ t.keys.reg0 = none ∧ t.keys.reg1 = none ∧
      t.keys.regT = none ∧ t.keys.wrap0 = s.keys.wrap0 ∧ t.io.gen1 = false ∧ t.io.gen2 = false ∧
      (∀ ch, (t.can ch).st = .stopped ∧ (t.can ch).cur = none) ∧ t.jtag.stat = freezeStat stop s ∧
      t.fram.rimeMark = some (s.tb.tb.ns, BitVec.ofNat 4 s.mstate.code) ∧ t.mem = s.mem ∧ t.tb = s.tb ∧ t.ice = s.ice) ∧
  (∀ (stop : BitVec 4) (s : State), s.maintEn = false ∨ s.rimeArmed = false → exec (.freeze stop) s = .next s))

/-- One scan of each instruction. A powered module answers IDCODE 0x373404A7 in 32 bits, the identity words in 384 bits for
IDREAD, and 0 in one bit for BYPASS and for every code that acts as it; SAMPLE/PRELOAD keeps the bits shifted in; a reset of the
TAP selects IDCODE. In FROZEN EXTEST takes its bits, CLAMP and HIGHZ select the bypass register, RIME_STAT shifts out the status
of the freeze, RIME_SEL sets chain and pointer, RIME_READ shifts out the word at the pointer and moves on; elsewhere these act as
BYPASS. Nothing but the port and the count of free values changes (R403, R407, R408). Every scan of the instruction register
shifts out 0b0000_0001. -/
def Obligations.JtagScans : Prop :=
  ∀ s : State, s.mstate ≠ .off →
    let scanned (i : Instr) (ir : Byte) (n : Nat) (v : BitVec 384) : Prop :=
      ∃ t, exec i s = .next t ∧ t.jtag.ir = ir ∧ t.jtag.irOut = 1 ∧ t.jtag.tdoLen = n ∧ t.jtag.tdo = v ∧
        { t with jtag := s.jtag } = s
    (∃ t, exec .tapReset s = .next t ∧ t.jtag = { s.jtag with ir := 0x02 } ∧ { t with jtag := s.jtag } = s) ∧
    scanned .idcode 0x02 32 0x373404A7 ∧ scanned .idread 0x10 384 (identBits s) ∧
    (∀ code b, notBypass code s = false → scanned (.bypass b code) code 1 0) ∧
    (∀ x, ∃ t, exec (.samplePreload x) s = .next t ∧ t.jtag.ir = 0x01 ∧ t.jtag.boundary = x ∧
      { t with jtag := s.jtag, freeCtr := s.freeCtr } = s) ∧
    (s.mstate ≠ .frozen → (∀ x, scanned (.extest x) 0x00 1 0) ∧ scanned .clamp 0x03 1 0 ∧ scanned .highz 0x04 1 0 ∧
      scanned .rimeStat 0x20 1 0 ∧ (∀ w, scanned (.rimeSel w) 0x21 1 0) ∧ scanned .rimeRead 0x22 1 0) ∧
    (s.mstate = .frozen →
      (∀ x, ∃ t, exec (.extest x) s = .next t ∧ t.jtag.ir = 0x00 ∧ t.jtag.boundary = x ∧ pinDrive t = .boundary x ∧
        { t with jtag := s.jtag, freeCtr := s.freeCtr } = s) ∧
      scanned .clamp 0x03 1 0 ∧ (∃ t, exec .highz s = .next t ∧ pinDrive t = .highZ ∧ { t with jtag := s.jtag } = s) ∧
      scanned .rimeStat 0x20 64 (s.jtag.stat.setWidth 384) ∧
      (∀ w, ∃ t, exec (.rimeSel w) s = .next t ∧ t.jtag.chain.toNat = fld w 31 24 ∧
        (chainOnce (fld w 31 24) = false → t.jtag.ptr = fld w 23 0) ∧ { t with jtag := s.jtag } = s) ∧
      (∃ t, exec .rimeRead s = .next t ∧ t.jtag.tdoLen = 72 ∧ t.jtag.tdo = rimeData s ∧ t.jtag.ptr = s.jtag.ptr + 1 ∧
        { t with jtag := s.jtag } = s))

/-- A vote of three serving lanes. Equal records leave every lane serving; a minority of a kind of R131 is excluded, the two
others serve on, and the minority is counted; records without a majority, voters that disagree, or a parity error, raise a class 4
fault and exclude nobody, and the record is not passed on (R17, R130, R131, R139, R143). A self-test record with the number that
is due passes (R132). The TAG counters go on from the records (R127). -/
def Obligations.VotesOfThreeLanes : Prop :=
  ∀ (r0 r1 r2 : VRec) (inPath : Bool) (s : State), s.runs = true → s.servingLanes = [0, 1, 2] →
    (r0 = r1 → r1 = r2 → r0.kind.toNat ≠ 0xA →
      ∃ t, exec (.voteRecord r0 r1 r2 true true inPath) s = .next t ∧ { t with lanes := s.lanes } = s ∧
        ∀ i, i < 3 → t.lane i = { s.lane i with tag := r0.tag + 1 }) ∧
    (r0 = r1 → r1 = r2 → r0.kind = 0xA → r0.data = BitVec.ofNat 64 s.voter.selftestN →
      ∃ t, exec (.voteRecord r0 r1 r2 true true inPath) s = .next t ∧
        t.voter = { s.voter with selftestN := s.voter.selftestN + 1, selftestMs := s.tb.ms } ∧
        { t with lanes := s.lanes, voter := s.voter } = s) ∧
    (r0 = r1 → r1 ≠ r2 → kindVotes r0.kind.toNat = true →
      ∃ t, exec (.voteRecord r0 r1 r2 true true inPath) s = .next t ∧ t.servingLanes = [0, 1] ∧
        t.voter.minor2 = satInc 0xFFFFFFFF s.voter.minor2 ∧ (t.lane 2).lastCause = BitVec.ofNat 8 (minorityCause r0 r2)) ∧
    (r0 = r2 → r0 ≠ r1 → kindVotes r0.kind.toNat = true →
      ∃ t, exec (.voteRecord r0 r1 r2 true true inPath) s = .next t ∧ t.servingLanes = [0, 2] ∧
        t.voter.minor1 = satInc 0xFFFFFFFF s.voter.minor1 ∧ (t.lane 1).lastCause = BitVec.ofNat 8 (minorityCause r0 r1)) ∧
    (r1 = r2 → r0 ≠ r1 → kindVotes r1.kind.toNat = true →
      ∃ t, exec (.voteRecord r0 r1 r2 true true inPath) s = .next t ∧ t.servingLanes = [1, 2] ∧
        t.voter.minor0 = satInc 0xFFFFFFFF s.voter.minor0 ∧ (t.lane 0).lastCause = BitVec.ofNat 8 (minorityCause r1 r0)) ∧
    (r0 ≠ r1 → r0 ≠ r2 → r1 ≠ r2 → isSelftest (laneRecord r0 r1 r2) [0, 1, 2] = false → quietSource 0x04 s = true →
      s.mstate ≠ .safe →
      ∃ t, exec (.voteRecord r0 r1 r2 true true inPath) s = .next t ∧ t.mstate = .safe ∧ t.servingLanes = [0, 1, 2] ∧
        ∀ i, i < 3 → voteLost (laneRecord r0 r1 r2 i).kind.toNat t = true) ∧
    (∀ parity, quietSource 0x01 s = true → s.mstate ≠ .safe →
      ∃ t, exec (.voteRecord r0 r1 r2 false parity inPath) s = .next t ∧ t.mstate = .safe ∧ t.servingLanes = [0, 1, 2] ∧
        ∀ i, i < 3 → voteLost (laneRecord r0 r1 r2 i).kind.toNat t = true) ∧
    (quietSource 0x03 s = true → s.mstate ≠ .safe →
      ∃ t, exec (.voteRecord r0 r1 r2 true false inPath) s = .next t ∧ t.mstate = .safe ∧ t.servingLanes = [0, 1, 2] ∧
        ∀ i, i < 3 → voteLost (laneRecord r0 r1 r2 i).kind.toNat t = true)

/-- Faults of a lane, with all three serving: the watchdog and the rail monitor exclude it, RAIL_MV shows the voltage that was
found, the others serve on (R124, R138, R326); a common mode of the rails is a class 4 fault. Reintegration of an excluded lane:
reset, test, bulk copy of 2,128 blocks, delta, entry; a whole bulk pass gives the lane the image as it stands, the delta gives it
the blocks written since; a failed test locks the lane; an exhausted delta excludes it anew with cause 0x21 (R145 to R149). A scan
step that is due moves to the next of 120 chunks, and at other times there is none (R136). -/
def Obligations.LanesLeaveAndReturn : Prop :=
  (∀ (mv : Half) (s : State), s.runs = true → s.servingLanes = [0, 1, 2] →
    (∀ lane : LaneId, ∃ t, exec (.laneRailWindowFault lane mv) s = .next t ∧ (t.lane lane.val).railMv = mv.toNat) ∧
    (∀ x ∈ [(fun l => Instr.laneWatchdogExpiry l, (0x16 : Nat)), (fun l => Instr.laneRailWindowFault l mv, 0x13)],
      ∀ lane : LaneId, ∃ t, exec (x.1 lane) s = .next t ∧
        ((t.lane lane.val).st = .reset ∨ (t.lane lane.val).st = .locked ∧ (t.lane lane.val).lock = true) ∧
        (t.lane lane.val).lastCause = BitVec.ofNat 8 x.2 ∧
        (t.lane lane.val).exclTotal = satInc 0xFF (s.lane lane.val).exclTotal ∧
        (∀ j, j < 3 → j ≠ lane.val → t.lane j = s.lane j) ∧ t.mem = s.mem) ∧
    (quietSource 0x0D s = true → s.mstate ≠ .safe →
      ∃ t, exec .laneRailsCommonMode s = .next t ∧ t.mstate = .safe ∧ t.servingLanes = s.servingLanes ∧
        lockStands 1 0 t = true)) ∧
  (∀ (lane : LaneId) (s : State), s.runs = true →
    ((s.lane lane.val).st = .reset →
      ∃ t, exec (.reintResetElapsed lane) s = .next t ∧ t.lane lane.val = { s.lane lane.val with st := .test } ∧
        { t with lanes := s.lanes } = s) ∧
    ((s.lane lane.val).st = .test → s.eff ≠ .boot → s.eff ≠ .selftest → s.twin.join = none →
      ∃ t, exec (.reintTestComplete lane true) s = .next t ∧
        t.lane lane.val =
          { s.lane lane.val with st := .copy, dirty := 2128, copyFrom := s.cyc, marked := [], gaps := 0, img := [] } ∧
        { t with lanes := s.lanes } = s) ∧
    ((s.lane lane.val).st = .test → s.eff ≠ .boot → s.eff ≠ .selftest → (s.lane lane.val).lock = false →
      ∃ t, exec (.reintTestComplete lane false) s = .next t ∧ (t.lane lane.val).st = .locked ∧
        (t.lane lane.val).lock = true ∧ (t.lane lane.val).lastCause = 0x20 ∧
        (t.lane lane.val).exclTotal = satInc 0xFF (s.lane lane.val).exclTotal ∧
        (∀ j, j < 3 → j ≠ lane.val → t.lane j = s.lane j) ∧ t.mem = s.mem) ∧
    ((s.lane lane.val).st = .copy → s.mstate ≠ .hold →
      ∃ t, exec (.reintBulkCopyDone lane) s = .next t ∧ (t.lane lane.val).st = .delta ∧ (t.lane lane.val).dirty = 0 ∧
        (t.lane lane.val).marked = (s.lane lane.val).marked ∧
        ((s.lane lane.val).dirty = 2128 → ∀ a, a < 0x780000 → memRead (t.lane lane.val).img a = memRead s.mem a) ∧
        { t with lanes := s.lanes } = s) ∧
    ((s.lane lane.val).st = .delta → s.mstate ≠ .hold →
      ∃ t, exec (.reintDeltaEmpty lane) s = .next t ∧ (t.lane lane.val).st = .entry ∧ (t.lane lane.val).dirty = 0 ∧
        (t.lane lane.val).marked = [] ∧
        (∀ a, (imageBlock a ∉ (s.lane lane.val).marked → memRead (s.lane lane.val).img a = memRead s.mem a) →
          memRead (t.lane lane.val).img a = memRead s.mem a) ∧
        { t with lanes := s.lanes } = s) ∧
    ((s.lane lane.val).st = .delta →
      ∃ t, exec (.reintGapsExhausted lane) s = .next t ∧ (t.lane lane.val).lastCause = 0x21 ∧
        ((t.lane lane.val).st = .reset ∨ (t.lane lane.val).st = .locked)) ∧
    (scanDue s = true →
      ∃ t, exec .scanStep s = .next t ∧ t.voter.scanChunk = (s.voter.scanChunk + 1) % 120 ∧
        t.voter.scanRound = some s.floe.round ∧ t.mem = s.mem) ∧
    (scanDue s = false → exec .scanStep s = .next s))

/-- A round start: the round number is taken from the clock that keeps network time, a slipped mode and the announced key slot
come into force, key slots loaded in SERVICE are loaded, what was sent and measured in the round before is forgotten (R93, R190,
R197, R203, R220). -/
def Obligations.RoundStarts : Prop :=
  ∀ s : State, s.runs = true → s.floe.coldTake = none → ¬(s.floe.syncNext = true ∧ s.floe.fstate = .integrate) →
    ∃ t, exec .roundStart s = .next t ∧ t.floe.round = s.netClock.ns.toNat / s.roundNs ∧ t.floe.keyCur = s.floe.keyNext ∧
      t.floe.mode = s.floe.slip.getD s.floe.mode ∧ t.floe.slip = none ∧ t.floe.mute = false ∧ t.floe.sent = [] ∧
      t.floe.devs = [] ∧ t.floe.beaconRank = 0 ∧ t.keys = s.keys.advance ∧ t.floe.fstate = s.floe.fstate

/-- A release that is due freezes the slice at this instant and puts the cycle in progress (R22, R23); one that finds the earlier
cycle in progress is an overrun and not carried out (R90). -/
def Obligations.ReleaseStartsCycle : Prop :=
  ∀ (n : TaskId) (b : Bank) (s : State), s.runs = true → s.prog.active = some b → s.inService = true →
    s.power.brownout = false → s.twin.ps ≠ .joining → releaseDue n.val s = true →
    (s.run n.val = none →
      ∃ t c, exec (.taskRelease n) s = .next t ∧ t.run n.val = some c ∧ c.release = s.tb.tb.ns ∧
        c.relRound = s.floe.round ∧ c.started = false ∧ c.inSig = none ∧ c.agreed = false ∧ c.overrun = false ∧
        (t.task n.val).latchTime = s.tb.tb.ns ∧ t.mem = s.mem) ∧
    (∀ c, s.run n.val = some c → c.relRound ≠ s.floe.round →
      ∃ t, exec (.taskRelease n) s = .next t ∧ (t.task n.val).overruns = satInc 0xFFFFFFFF (s.task n.val).overruns ∧
        (t.run n.val).map Cycle.release = some c.release) ∧
    (∀ c, s.run n.val = some c → c.relRound = s.floe.round → exec (.taskRelease n) s = .next s)

/-- The copied slice gets its input signature, CRC-64 over the window header and the slice (R24, R133); outside a pair the
agreement is complete with it. The evaluation then begins once no other task stands before it, a task that yields stops at the
boundary with its equations evaluated up to there, and it goes on from there (R48, R82). An input signature that was not voted
lets nothing begin (R17, R24). A lane that detects a fault of R138 on itself as its evaluation begins or goes on is excluded, and
nothing else differs (R75). -/
def Obligations.CycleRuns : Prop :=
  ∀ (n : TaskId) (b : Bank) (c : Cycle) (s : State), s.runs = true → s.prog.active = some b → s.run n.val = some c →
    (c.inSig = none → voteLost 1 s = false →
      ∃ t d, exec (.sliceCopyComplete n) s = .next t ∧ t.run n.val = some d ∧
        d.inSig = some (finishSig (crc64Fold (crc64Fold crc64Init
          (windowBytes 1 n.val (BitVec.ofNat 32 (c.relRound - s.tasks.origin)))) c.slice)) ∧ d.role = s.isLeader ∧
        (s.twin.ps ≠ .paired → d.agreed = true) ∧ d.slice = c.slice ∧ t.mem = s.mem) ∧
    (c.inSig = none → voteLost 1 s = true → exec (.sliceCopyComplete n) s = .next (takeLost 1 s)) ∧
    (c.agreed = true ∨ c.unagreed = true → mayRun n.val s = true → c.started = false → voteLost 1 s = true →
      exec (.evaluationStart n none) s = .next (takeLost 1 s)) ∧
    (c.agreed = true ∨ c.unagreed = true → mayRun n.val s = true → c.started = false → voteLost 1 s = false →
      s.prog.remapFrom = none →
      ∃ t d, exec (.evaluationStart n none) s = .next t ∧ t.run n.val = some d ∧ d.started = true ∧ d.paused = false ∧ d.pc = 0 ∧
        d.yieldAt = c.yieldAt ∧
        State.unmarked { t with mem := s.mem, tasks := s.tasks, floe := s.floe, ice := s.ice } = s.unmarked) ∧
    (c.agreed = true ∨ c.unagreed = true → mayRun n.val s = true → c.started = false → voteLost 1 s = false →
      s.prog.remapFrom ≠ none →
      ∃ t d, exec (.evaluationStart n none) s = .next t ∧ t.run n.val = some d ∧ d.started = true ∧ d.pc = 0 ∧
        t.prog.remapFrom = none) ∧
    (c.agreed = true ∨ c.unagreed = true → mayRun n.val s = true → c.started = true →
      ∃ t, exec (.evaluationStart n none) s = .next t ∧ t.run n.val = some { c with paused := false } ∧
        { t with tasks := s.tasks } = s) ∧
    (∀ l k, c.agreed = true ∨ c.unagreed = true → mayRun n.val s = true → c.started = true ∨ voteLost 1 s = false →
      ∃ u, exec (.evaluationStart n none) s = .next u ∧
        exec (.evaluationStart n (some (l, k))) s = .next (laneFault l.val (evalFaultCause k) u)) ∧
    (∀ off rest, c.started = true → c.paused = false → c.yieldAt = off :: rest →
      ∃ t d, exec (.taskYield n) s = .next t ∧ t.run n.val = some d ∧ d.paused = true ∧ d.yieldAt = rest ∧ d.pc = off ∧
        t.mem = (runEquations (evalCtx b n.val s) (b.equations n.val) c.pc off { mem := s.mem, sig := c.sig }).mem ∧
        State.unmarked { t with mem := s.mem, tasks := s.tasks } = s.unmarked)

/-- A task end evaluates the rest of the segment and ends the cycle: it counts, FIRST and NEWPRG are over, the evaluation
signature opens the next slice; a cycle in time that is not suppressed, not locked out, and whose votes were passed on, publishes;
one whose output or evaluation vote failed does not (R17, R85, R88, R299). A cycle that has not ended at its deadline instant
overruns once (R89). A lane with a commit backlog is excluded for cause 0x14 beside that (R138). A journal record is complete:
with CONT 1 it waits for the rest of its set, else the whole set is applied to the home copy and COMMIT_SEQ is its number (R120).
A lane whose write fails after three retries counts them and is excluded for cause 0x15 beside that (R138, R326). -/
def Obligations.CyclesEndAndCommit : Prop :=
  (∀ (n : TaskId) (b : Bank) (c : Cycle) (s : State), s.runs = true → s.prog.active = some b → s.run n.val = some c →
    (∀ stop : Dword, c.started = true → c.paused = false → c.yieldAt = [] →
      ∃ t, exec (.taskEnd n stop none) s = .next t ∧ t.run n.val = none ∧ (t.task n.val).first = false ∧
        (t.task n.val).newprg = false ∧ (t.task n.val).cycles = satInc 0xFFFFFFFF (s.task n.val).cycles ∧
        t.mem = (runEquations (evalCtx b n.val s) (b.equations n.val) c.pc (b.taskLen n.val)
          { mem := s.mem, sig := c.sig }).mem ∧
        (stop.toNat ≤ deadlineNs n.val c s → c.overrun = false → suppressed s = false →
          voteLost 2 s = false → voteLost 3 s = false → lockStands 3 n.val s = false →
          s.eff = .service ∨ s.eff = .startup → (t.task n.val).pubSeq = (s.task n.val).pubSeq + 1) ∧
        (voteLost 2 s = true ∨ voteLost 3 s = true ∨ lockStands 3 n.val s = true ∨ c.overrun = true →
          (t.task n.val).pubSeq = (s.task n.val).pubSeq) ∧
        ∀ l, exec (.taskEnd n stop (some l)) s = .next (laneFault l.val 0x14 t)) ∧
    (∀ literal, c.overrun = false →
      ∃ t, exec (.deadlineInstant n literal) s = .next t ∧ (t.run n.val).map Cycle.overrun = some true ∧
        (t.task n.val).overruns = satInc 0xFFFFFFFF (s.task n.val).overruns ∧ t.mem = s.mem) ∧
    (∀ literal, c.overrun = true → exec (.deadlineInstant n literal) s = .next s)) ∧
  (∀ (j : Journal) (rest : List Journal) (s : State), s.runs = true → s.fram.waiting = j :: rest →
    ∃ t, exec (.framCommitComplete none) s = .next t ∧ t.fram.waiting = rest ∧
      (j.cont = true → t.fram.home = s.fram.home ∧ t.fram.partialSet = s.fram.partialSet ++ [j] ∧
        t.fram.commitSeq = s.fram.commitSeq) ∧
      (j.cont = false → t.fram.home = (s.fram.partialSet ++ [j]).foldl applyJournal s.fram.home ∧
        t.fram.partialSet = [] ∧ t.fram.commitSeq = j.seq) ∧
      State.unmarked { t with fram := s.fram } = s.unmarked ∧
      ∀ l, exec (.framCommitComplete (some l)) s = .next (laneFault l.val 0x15
        (t.updLane l.val fun x => { x with framRetry := min 0xFFFF (x.framRetry + 3) })))

/-- Frames of a module in SYNC. The STATUS frame of an own slot leaves, as an Ethernet frame, on the channels that send, cut where
the guardian's window closes, and takes the next sequence number (R192, R206, R208, R217); a DATA frame received in its slot's
window is stored under its FRAME_ID, but not where its ring is full or a beat is poisoned (R199, R340, R343), and a frame of
another EtherType or with a wrong FCS is none (R192, R202); the correction point takes the voted midpoint of the round's
deviations as FTM and slews the clock by it, and a round without a voted record goes on as one without deviations (R209 to R211,
R226); at SWITCH_ROUND the announced mode is adopted (R220). -/
def Obligations.FloeRounds : Prop :=
  ∀ s : State, s.runs = true → s.floe.fstate = .sync →
    (∀ (k : Nat) (x : Slot) (p : List Byte) (la lb : Int) (pa pb : Bool), s.floe.mute = false → s.slots[k]? = some x →
      x.owner = floeNode s.floe.live → x.kind = .status → fullStatus s = true ∨ s.eff = .safe →
      (sendsOn x .a s || sendsOn x .b s) = true →
      nodeFrame 3 (s.roundStartNs + x.start) s.floe.keyCur (statusBody s) s = some p →
      let f := ethFrame 0x03464C000000 (nodeAddress (frSrc p)) 0x88B5 p
      let on := [Tx.mk .a la pa (some (windowClose x)), Tx.mk .b lb pb (some (windowClose x))].filter fun w => sendsOn x w.ch s
      ∃ t, exec (.frameTransmit k la lb pa pb) s = .next t ∧
        t.floe.sent = s.floe.sent ++ on.map (fun w => (x.num, w.ch, (w.wire f).1, (w.wire f).2)) ∧
        t.floe.nodeSeq = s.floe.nodeSeq + 1 ∧
        ((∀ w ∈ on, w.isCut f = false) → { t with floe := s.floe } = s)) ∧
    (∀ (ch : Chan) (arrival : Dword) (fate : RingFate) (f p : List Byte) (x : Slot), chanPasses ch s = true →
      crossingsOpen ch s = true → ethPayload 0x88B5 f = some p →
      arrivalSlot (frameOffset arrival.toNat p s) s.slots = some x → frameOffset arrival.toNat p s - x.start ≤ 1250 →
      x.owner ≠ floeNode s.floe.live → x.rx = true → x.kind = .data →
      ∃ t, exec (.frameReceive ch arrival true f fate) s = .next t ∧
        (fate = .stored → Tbl.find t.floe.rx (0x10000 + frId p) =
          some (rxStep ch p (Tbl.find s.floe.rx (0x10000 + frId p))) ∧ { t with floe := s.floe } = s) ∧
        (fate = .full → t = s.updChan ch fun c => { c with ringOvf := satInc 0xFFFF c.ringOvf }) ∧
        (fate = .poisoned → t = s.updFabric fun g => { g with eccUncorr := satInc 0xFFFF g.eccUncorr })) ∧
    (∀ (ch : Chan) (arrival : Dword) (fcs : Bool) (fate : RingFate) (f : List Byte), chanPasses ch s = true →
      crossingsOpen ch s = true →
      (ethPayload 0x88B5 f = none → exec (.frameReceive ch arrival fcs f fate) s = .next s) ∧
      ((ethPayload 0x88B5 f).isSome = true → exec (.frameReceive ch arrival false f fate) s =
        .next (s.updChan ch fun c => { c with rxFcs := satInc 0xFFFF c.rxFcs }))) ∧
    (voteLost 0xC s = false → ∃ t, exec .correctionPoint s = .next t ∧
      t.floe.ftm = (votedFtm (syncData s)).getD s.floe.ftm ∧ t.floe.syncUsed = (syncValues s).length ∧
      (∀ x, midpoint (syncValues s) = some x → x.natAbs < 2 ^ 31 → votedFtm (syncData s) = some x ∧
        (s.tb.integRun = false → s.tb.compLimit.toNat < 2 ^ 31 →
        t.tb.tb.slew16 = s.tb.tb.slew16 - 16 * x ∧ t.tb.tb.ns = s.tb.tb.ns ∧
        t.tb.tb.rate.toInt = max (-(s.tb.compLimit.toNat : Int)) (min (s.tb.compLimit.toNat : Int)
          (s.tb.tb.rate.toInt + rateStep x s.roundNs))))) ∧
    (voteLost 0xC s = true → ∃ t, exec .correctionPoint s = .next t ∧ t.floe.ftm = s.floe.ftm ∧ t.floe.syncUsed = 0 ∧
      t.tb.tb = s.tb.tb) ∧
    (s.floe.swPend = true → s.floe.round = s.floe.switchRound.toNat →
      (vget s.floe.liveSched none s.floe.modeNext.toNat).isSome = true →
      ∃ t, exec .modeSwitch s = .next t ∧ t.floe.mode = s.floe.modeNext ∧ t.floe.swPend = false ∧
        { t with floe := s.floe, ice := s.ice, hif := s.hif } = s)

/-- The way into synchronisation. With a link up and a valid configuration FSTATE leaves DOWN for LISTEN; the listen timer sends
COLDSTART where R214 allows it; a valid COLDSTART is held, channel A's first, and decides: the own one is taken for the next
round, another node's leads to INTEGRATE; the timeouts lead back to LISTEN, from SERVICE by way of RECOVERY (R31, R214 to R216).
-/
def Obligations.FloeStates : Prop :=
  ∀ s : State, s.runs = true →
    (∀ ch, ∃ t, exec (.linkUp ch) s = .next t ∧ (t.chan ch).linkUp = true ∧
      (s.floe.fstate = .down → floeConfigured s = true → t.floe.fstate = .listen) ∧
      (s.floe.fstate ≠ .down → { t with floe := s.floe } = s)) ∧
    (∀ p, s.floe.fstate = .listen → coldAllowed s = true →
      nodeFrame 2 s.now s.floe.idleKey (wordsBytes [BitVec.ofNat 32 (firstRound s), at32 0 (floeInitMode s.floe.live)]) s =
        some p →
      ∃ t, exec .listenTimerExpiry s = .next t ∧ t.floe.fstate = .coldstart ∧ t.floe.nodeSeq = s.floe.nodeSeq + 1) ∧
    (∀ arrival f p, s.floe.fstate = .listen ∨ s.floe.fstate = .coldstart → chanPasses .a s = true → crossingsOpen .a s = true →
      ethPayload 0x88B5 f = some p → coldOk p s = true → s.floe.coldA = none →
      ∃ t c, exec (.coldstartReceive .a arrival f true) s = .next t ∧ t.floe.coldA = some c ∧ c.node = frSrc p ∧
        c.firstRound = wordAt (frData p) 0 ∧ { t with floe := s.floe } = s) ∧
    (∀ c, s.floe.coldA = some c → s.floe.fstate = .coldstart → c.node = floeNode s.floe.live →
      ∃ t, exec .coldstartDecision s = .next t ∧ t.floe.coldTake = some (c.firstRound, true) ∧ t.floe.mode = c.mode ∧
        t.floe.fstate = .coldstart ∧ { t with floe := s.floe } = s) ∧
    (∀ c, s.floe.coldA = some c → s.floe.fstate = .listen ∨ s.floe.fstate = .coldstart → c.node ≠ floeNode s.floe.live →
      ∃ t, exec .coldstartDecision s = .next t ∧ t.floe.coldTake = some (c.firstRound, false) ∧
        t.floe.fstate = .integrate ∧ t.tb.sync = 1) ∧
    (s.floe.fstate = .coldstart → s.floe.coldTake = none → s.floe.coldA = none → s.floe.coldB = none →
      ∃ t, exec .coldstartTimeout s = .next t ∧ t.floe.fstate = .listen ∧ t.tb.sync = 0 ∧
        t.floe.coldCnt = satInc 0xFFFF s.floe.coldCnt) ∧
    (s.floe.fstate = .integrate → 10 ≤ s.floe.integRounds → s.floe.syncNext = false →
      ∃ t, exec .integrateTimeout s = .next t ∧ t.floe.fstate = .listen ∧ t.tb.integRun = false) ∧
    (∀ k, s.floe.fstate = .passive → s.floe.passiveRounds = some k → 9 ≤ k →
      ∃ t, exec .passiveTimeout s = .next t ∧ t.floe.fstate = .listen ∧ (s.eff = .service → t.eff = .recovery))

/-- Conditions of a channel: a lost link, which resets its crossings and drops a frame in progress (R354, R365), three silent
rounds and three missing echoes take it out of use or stop its sending, each with a fault of the channel's source (R223). -/
def Obligations.ChannelConditions : Prop :=
  ∀ (ch : Chan) (s : State), s.runs = true →
    (∀ inFrame, (s.chan ch).linkUp = true →
      ∃ t, exec (.linkDown ch inFrame) s = .next t ∧ (t.chan ch).linkUp = false ∧ (t.chan ch).ok = false ∧
        (vget t.fabric.xs .fresh (chanNum ch)).xdrop =
          (if inFrame then satInc 0xFFFF (vget s.fabric.xs .fresh (chanNum ch)).xdrop else (vget s.fabric.xs .fresh (chanNum ch)).xdrop) ∧
        (vget t.fabric.xs .fresh (chanNum ch)).notReady = true ∧ (vget t.fabric.xs .fresh (chanNum ch + 3)).notReady = true) ∧
    (s.floe.fstate ≠ .down → 3 ≤ (s.chan ch).badRounds → (s.chan ch).silentRaised = false →
      ∃ t, exec (.channelSilent ch) s = .next t ∧ (t.chan ch).ok = false ∧ (t.chan ch).silentRaised = true ∧
        (s.floe.fstate = .sync → (∀ d, d ≠ ch → (s.chan d).ok = false) → t.floe.fstate = .listen)) ∧
    (s.floe.fstate ≠ .down → 3 ≤ (s.chan ch).echoMissRounds → (s.chan ch).ok = true → (s.chan ch).txOff = false →
      ∃ t, exec (.echoMissing ch) s = .next t ∧ (t.chan ch).txOff = true ∧
        (∀ d, d ≠ ch → (t.chan d).txOff = (s.chan d).txOff) ∧
        (quietSource (chanSource ch) s = true →
          (t.fcuSource (chanSource ch)).count = satInc 0xFFFF (s.fcuSource (chanSource ch)).count))

/-- Messages of the link. A tagged frame or one of another EtherType, one of a wrong type, at a module without TWIN_ID or that
does not run, does nothing; one whose code is wrong counts in SCODE_FAIL, one that is misplaced in LINK_REJ (R154, R156, R157). An
accepted HELLO, any MSEQ being accepted where the partner has restarted, becomes the partner's latest, with its receipt and the
link delay (R157, R159, R161); HELLO is sent at priority 1 (R158). After 1.0 s a twin ALONE or SILENT that may join asks to join
(R167, R181). -/
def Obligations.TwinMessagesAreChecked : Prop :=
  (∀ (f : List Byte) (s : State), ∀ x ∈ [(Instr.actfwd f, (0x02 : Nat)), (.actprop f, 0x03), (.actconf f, 0x04), (.insig f, 0x10),
      (.inslice f, 0x11), (.twcmp f, 0x12), (.stsig f, 0x13), (.splitreq f, 0x20), (.splitack f, 0x21), (.joinreq f, 0x28),
      (.joinack f, 0x29), (.stateblk f, 0x2A), (.joinend f, 0x2B), (.joinabort f, 0x2C)],
    (ethPayload 0x88B6 f = none ∨ s.runs = false ∨ s.twinId = 0 ∨ fld (msgWord (frameMessage f) 0) 31 24 ≠ x.2 → exec x.1 s = .next s) ∧
    ((ethPayload 0x88B6 f).isSome = true → s.runs = true → s.twinId ≠ 0 → fld (msgWord (frameMessage f) 0) 31 24 = x.2 → msgCodeOk s.keys.regT (frameMessage f) = false →
      exec x.1 s = .next (s.updTwin fun t => { t with scodeFail := satInc 0xFFFF t.scodeFail })) ∧
    ((ethPayload 0x88B6 f).isSome = true → s.runs = true → s.twinId ≠ 0 → fld (msgWord (frameMessage f) 0) 31 24 = x.2 → msgCodeOk s.keys.regT (frameMessage f) = true → msgPlaced (frameMessage f) s = false →
      twinConflict (frameMessage f) s = false →
      exec x.1 s = .next (s.updTwin fun t => { t with linkRej := satInc 0xFFFF t.linkRej }))) ∧
  (∀ (receipt : Dword) (restarted : Bool) (f : List Byte) (s : State),
    accepted 0x01 f (if restarted then s.updTwin fun t => { t with rxSeq := none } else s) = true →
    ∃ t p, exec (.hello receipt f restarted) s = .next t ∧ t.twin.peer = some p ∧ p.health = wordAt (msgBody (frameMessage f)) 0 ∧
      p.txTime = dwordAt (msgBody (frameMessage f)) 2 ∧ p.receipt = receipt ∧ p.round = s.floe.round ∧
      t.twin.rxSeq = some (msgWord (frameMessage f) 1) ∧ t.twin.helloNow = true ∧
      t.twin.delayNs = ((receipt - dwordAt (msgBody (frameMessage f)) 4).toInt - (wordAt (msgBody (frameMessage f)) 1).toInt).tdiv 2 ∧
      t.twin.offsetNs = (dwordAt (msgBody (frameMessage f)) 2).toInt + t.twin.delayNs - receipt.toInt ∧ t.mem = s.mem ∧ t.keys = s.keys) ∧
  (∀ s : State, s.runs = true →
    (linkUsable s = true → exec .helloSend s = .next (s.updTwin fun t =>
      { t with txQueue := insertMsg 1 (twinMessage 0x01 (helloBody s) s) t.txQueue })) ∧
    (linkUsable s = false → exec .helloSend s = .next s)) ∧
  (∀ s : State, s.runs = true → s.twin.ps = .alone ∨ s.twin.ps = .silent → mayJoin s = true → s.twin.retryMs ≤ s.tb.ms →
    joinReason s = none → linkUsable s = true →
    ∃ t j, exec .joinRetry s = .next t ∧ t.twin.ps = .joining ∧ t.twin.join = some j ∧ j.mine = true ∧ j.acked = false ∧
      j.roundP = s.floe.round ∧ j.cameFrom = s.twin.ps ∧ j.client = none ∧
      t.twin.txQueue = insertMsg 3 (twinMessage 0x28 (roundReason s.floe.round 0) s) s.twin.txQueue ∧
      { t with twin := s.twin, io := s.io, ice := s.ice } = s)

/-- A split of the pair. TWIN.SPLIT that R179 does not refuse is PENDING and asks the partner, which answers with 0 or its reason;
with 0 the split waits for its boundary, where the splitting twin becomes SHADOW and the other ALONE; a refusal, a missing answer
or no boundary ends it and completes the operation, and of what is given up here the partner is told by JOINABORT (R158, R177 to
R179). -/
def Obligations.SplitOfThePair : Prop :=
  (∀ (p : Port) (tag : Half) (token : Word) (s : State), ready (.twinSplitExecute p tag token) s = true →
    s.inService = true → s.twin.ps = .paired → splitReason s = none → linkUsable s = true →
    ∃ t, answers (.twinSplitExecute p tag token) .pend s t ∧
      t.twin = { s.twin with
        split := some { mine := true, roundS := s.floe.round, client := some (p, tag), acked := false },
        txQueue := insertMsg 3 (twinMessage 0x20 (roundReason s.floe.round 0) s) s.twin.txQueue } ∧
      (t.port p).pend = (s.port p).pend ++ [{ opcode := 0x0A02, tag := tag }] ∧ { t with hif := s.hif, twin := s.twin } = s) ∧
  (∀ (f : List Byte) (s : State), accepted 0x20 f s = true →
    ∃ t, exec (.splitreq f) s = .next t ∧ { t with twin := s.twin } = s ∧
      (∀ r, remainReason s = some r → t.twin.split = s.twin.split ∧ t.twin.txQueue =
        insertMsg 3 (twinMessage 0x21 (roundReason (wordAt (msgBody (frameMessage f)) 0).toNat r) s) s.twin.txQueue) ∧
      (remainReason s = none → t.twin.split =
          some { mine := false, roundS := (wordAt (msgBody (frameMessage f)) 0).toNat, client := none, acked := true } ∧ t.twin.txQueue =
        insertMsg 3 (twinMessage 0x21 (roundReason (wordAt (msgBody (frameMessage f)) 0).toNat 0) s) s.twin.txQueue)) ∧
  (∀ (f : List Byte) (x : Split) (s : State), accepted 0x21 f s = true → s.twin.split = some x → x.mine = true →
    x.acked = false → x.roundS = (wordAt (msgBody (frameMessage f)) 0).toNat →
    ∃ t, exec (.splitack f) s = .next t ∧
      (wordAt (msgBody (frameMessage f)) 1 = 0 → t.twin.split = some { x with acked := true } ∧ { t with twin := s.twin } = s) ∧
      (wordAt (msgBody (frameMessage f)) 1 ≠ 0 → t.twin.split = none ∧ ∀ p tag, x.client = some (p, tag) →
        completed p 0x0A02 tag (.error .errTwin (wordAt (msgBody (frameMessage f)) 1).toNat 0) s t)) ∧
  (∀ (x : Split) (s : State), s.runs = true → s.twin.split = some x →
    (x.mine = true → x.acked = false → ∃ t r, exec .splitackTimeout s = .next t ∧ t.twin.split = none ∧
      (linkUsable s = true → t.twin.txQueue = insertMsg 3 (twinMessage 0x2C (roundReason 0 r) s) s.twin.txQueue) ∧
      ∀ p tag, x.client = some (p, tag) → completed p 0x0A02 tag (.error .errTwin r 0) s t) ∧
    (splitDue x s = true → ∃ t, exec .splitBoundary s = .next t ∧ t.twin.split = none ∧
      t.twin.ps = (if x.mine then .shadow else .alone) ∧ t.mem = s.mem ∧ (x.mine = true → t.twin.shadowRound = s.floe.round) ∧
      ∀ p tag, x.mine = true → x.client = some (p, tag) →
        completed p 0x0A02 tag (.words [BitVec.ofNat 32 s.floe.round]) s t) ∧
    (x.roundS + 1000 < s.floe.round → ∃ t r, exec .splitNoBoundary s = .next t ∧ t.twin.split = none ∧
      (linkUsable s = true → t.twin.txQueue = insertMsg 3 (twinMessage 0x2C (roundReason 0 r) s) s.twin.txQueue) ∧
      ∀ p tag, x.client = some (p, tag) → completed p 0x0A02 tag (.err .errNoBoundary) s t))

/-- A join. TWIN.JOIN that R179 does not refuse is PENDING, and the twin is JOINING; the partner answers with 0 or its reason and,
with 0, owes the whole stream, and each block again that is written after its stream began; a refusal, a missing answer,
JOINABORT, a join check that differs or fifty boundaries without an entry end it and complete the operation (R179, R181, R183,
R185). The serving twin sends the quarters of a block in order (R182); the joining one stores each in its own memory, and with an
equal join check notes the entry round (R183). -/
def Obligations.JoinOfThePair : Prop :=
  (∀ (p : Port) (tag : Half) (token : Word) (s : State), ready (.twinJoinExecute p tag token) s = true →
    mayJoin s = true → joinReason s = none →
    ∃ t j, answers (.twinJoinExecute p tag token) .pend s t ∧ t.twin.ps = .joining ∧ t.twin.join = some j ∧
      j.mine = true ∧ j.acked = false ∧ j.client = some (p, tag) ∧ j.roundP = s.floe.round ∧
      (t.port p).pend = (s.port p).pend ++ [{ opcode := 0x0A03, tag := tag }] ∧
      { t with hif := s.hif, twin := s.twin, io := s.io, ice := s.ice, tasks := s.tasks } = s) ∧
  (∀ (f : List Byte) (s : State), accepted 0x28 f s = true →
    ∃ t, exec (.joinreq f) s = .next t ∧ { t with twin := s.twin } = s ∧
      (∀ r, serveReason s = some r → t.twin.join = s.twin.join ∧ t.twin.txQueue =
        insertMsg 3 (twinMessage 0x29 (roundReason (wordAt (msgBody (frameMessage f)) 0).toNat r) s) s.twin.txQueue) ∧
      (serveReason s = none → t.twin.txQueue =
          insertMsg 3 (twinMessage 0x29 (roundReason (wordAt (msgBody (frameMessage f)) 0).toNat 0) s) s.twin.txQueue ∧
        ∃ j, t.twin.join = some j ∧ j.mine = false ∧ j.acked = true ∧ j.roundP = (wordAt (msgBody (frameMessage f)) 0).toNat ∧
          j.unsent = List.range 3088 ∧ j.entryRound = none)) ∧
  (∀ (f : List Byte) (j : Join) (s : State), accepted 0x29 f s = true → s.twin.join = some j → j.mine = true →
    j.acked = false → j.roundP = (wordAt (msgBody (frameMessage f)) 0).toNat →
    ∃ t, exec (.joinack f) s = .next t ∧
      (wordAt (msgBody (frameMessage f)) 1 = 0 → t.twin.join = some { j with acked := true } ∧ { t with twin := s.twin } = s) ∧
      (wordAt (msgBody (frameMessage f)) 1 ≠ 0 → t.twin.join = none ∧ t.twin.retryMs = s.tb.ms + 1000 ∧
        (s.twin.ps = .joining → t.twin.ps = j.cameFrom) ∧ ∀ p tag, j.client = some (p, tag) →
          completed p 0x0A03 tag (.error .errTwin (wordAt (msgBody (frameMessage f)) 1).toNat 0) s t)) ∧
  (∀ (j : Join) (s : State), s.runs = true → s.twin.join = some j →
    (j.mine = true → j.acked = false → ∃ t r, exec .joinackTimeout s = .next t ∧ t.twin.join = none ∧
      ∀ p tag, j.client = some (p, tag) → completed p 0x0A03 tag (.error .errTwin r 0) s t) ∧
    (50 ≤ j.tries → ∃ t, exec .joinNoEntry s = .next t ∧ t.twin.join = none ∧
      ∀ p tag, j.client = some (p, tag) → completed p 0x0A03 tag (.error .errTwin 0x0E 0) s t) ∧
    (j.mine = false → j.acked = true → linkUsable s = true → j.ackRound < s.floe.round → j.entryRound = none →
      (∀ n part, j.cur = some (n, part) → ∃ t, exec .stateblkSend s = .next t ∧ { t with twin := s.twin } = s ∧
        t.twin.txQueue = [(5, twinMessage 0x2A (stateblkBody n part s) s)] ∧
        t.twin.txSeq = s.twin.txSeq + BitVec.ofNat 32 s.twin.txQueue.length ∧
        t.twin.join = some { j with cur := if part = 3 then none else some (n, part + 1) }) ∧
      (∀ n rest, j.cur = none → j.unsent = n :: rest → ∃ t d, exec .stateblkSend s = .next t ∧ { t with twin := s.twin } = s ∧
        t.twin.txQueue = [(5, twinMessage 0x2A (stateblkBody n 0 s) s)] ∧ t.twin.join = some d ∧ d.cur = some (n, 1) ∧
        n ∉ d.unsent) ∧
      (∀ n rest, j.cur = none → j.unsent = [] → j.marked = n :: rest → ∃ t d, exec .stateblkSend s = .next t ∧
        { t with twin := s.twin } = s ∧ t.twin.txQueue = [(5, twinMessage 0x2A (stateblkBody n 0 s) s)] ∧
        t.twin.join = some d ∧ d.cur = some (n, 1) ∧ n ∉ d.marked))) ∧
  (∀ (f : List Byte) (s : State), accepted 0x2C f s = true →
    ∃ t, exec (.joinabort f) s = .next t ∧ t.twin.join = none ∧ t.twin.split = none) ∧
  (∀ (f : List Byte) (j : Join) (s : State), s.twin.join = some j → j.mine = true → j.acked = true →
    (accepted 0x2A f s = true → ∃ t, exec (.stateblk f) s = .next t ∧
      t.twin.join.map Join.quarters = some (j.quarters + 1) ∧
      (∀ b, b < 32 → (wordAt (msgBody (frameMessage f)) 0).toNat = 16 + b →
        t.fram.home = memWriteBytes s.fram.home (4096 * b + 1024 * fld (wordAt (msgBody (frameMessage f)) 1) 1 0)
          (slice (msgBody (frameMessage f)) 16 1024) ∧ { t with twin := s.twin, fram := s.fram } = s) ∧
      (∀ b, b < 2048 → (wordAt (msgBody (frameMessage f)) 0).toNat = 80 + b →
        t.mem = memWriteBytes s.mem (4096 * b + 1024 * fld (wordAt (msgBody (frameMessage f)) 1) 1 0) (slice (msgBody (frameMessage f)) 16 1024) ∧
          { t with twin := s.twin, mem := s.mem } = s) ∧
      (∀ b, b < 960 → (wordAt (msgBody (frameMessage f)) 0).toNat = 2128 + b →
        t.xsram =
            memWriteBytes s.xsram (0x40000 + 4096 * b + 1024 * fld (wordAt (msgBody (frameMessage f)) 1) 1 0) (slice (msgBody (frameMessage f)) 16 1024) ∧
          { t with twin := s.twin, xsram := s.xsram } = s)) ∧
    (accepted 0x2B f s = true → ∃ t, exec (.joinend f) s = .next t ∧
      (dwordAt (msgBody (frameMessage f)) 2 = joinCheck s →
        t.twin.join = some { j with entryRound := some (wordAt (msgBody (frameMessage f)) 0).toNat } ∧ { t with twin := s.twin } = s) ∧
      (dwordAt (msgBody (frameMessage f)) 2 ≠ joinCheck s → t.twin.join = none ∧
        ∀ p tag, j.client = some (p, tag) → completed p 0x0A03 tag (.error .errTwin 0x0D 0) s t)))

/-- The pair at work. The partner's INSIG is noted for its cycle and, equal to the own one, completes the agreement; equal roles
in the two make twin B leave the pair (R165); the leader's slice, once whole, replaces the follower's, which leaves the pair when
it does not give the leader's signature (R170). Without agreement in time the leader goes on, the follower evaluates its own slice
and leaves the pair unless the leader is known to be lost (R171). A task-end comparison that differs counts and enters the
divergence history of both, and the follower leaves the pair (R175); so does a scan or remap signature that differs. -/
def Obligations.PairAgreesAndCompares : Prop :=
  (∀ (f : List Byte) (c : Cycle) (s : State), accepted 0x10 f s = true →
    let n := fld (wordAt (msgBody (frameMessage f)) 0) 2 0
    s.run n = some c → c.relRound = (wordAt (msgBody (frameMessage f)) 1).toNat → c.peerSig = none →
    ∃ t d, exec (.insig f) s = .next t ∧ t.run n = some d ∧
      d.peerSig = some (tst (wordAt (msgBody (frameMessage f)) 0) 31, dwordAt (msgBody (frameMessage f)) 2) ∧ d.slice = c.slice ∧ t.mem = s.mem ∧
      (∀ own, s.twin.ps = .paired → c.inSig = some own → tst (wordAt (msgBody (frameMessage f)) 0) 31 = !c.role →
        own = dwordAt (msgBody (frameMessage f)) 2 ∨ c.role = true → d.agreed = true ∧ t.twin.ps = .paired) ∧
      (∀ own, s.twin.ps = .paired → c.inSig = some own → tst (wordAt (msgBody (frameMessage f)) 0) 31 = c.role →
        d.agreed = true ∧ (s.twinId = 2 → t.twin.ps = .silent ∧ t.twin.silentCause = 4))) ∧
  (∀ (f : List Byte) (c : Cycle) (s : State), accepted 0x11 f s = true →
    let n := fld (wordAt (msgBody (frameMessage f)) 0) 2 0
    let got := c.adopted ++ (msgBody (frameMessage f)).drop 16
    let whole := (wordAt (msgBody (frameMessage f)) 3).toNat
    s.run n = some c → s.twin.ps = .paired → s.isLeader = false → c.agreed = false → c.unagreed = false →
    c.relRound = (wordAt (msgBody (frameMessage f)) 1).toNat → (wordAt (msgBody (frameMessage f)) 2).toNat = c.adopted.length →
    ∃ t d, exec (.inslice f) s = .next t ∧ t.run n = some d ∧ t.mem = s.mem ∧
      (got.length < whole → d = { c with adopted := got }) ∧
      (whole ≤ got.length → d.slice = got.take whole ∧ d.agreed = true ∧
        (c.peerSig.map (·.2) = d.inSig → t.twin.ps = .paired ∧ t.twin.adopt = satInc 0xFFFFFFFF s.twin.adopt) ∧
        (c.peerSig.map (·.2) ≠ d.inSig → t.twin.ps = .silent ∧ t.twin.silentCause = 2))) ∧
  (∀ (n : TaskId) (c : Cycle) (s : State), s.runs = true → s.twin.ps = .paired → s.run n.val = some c →
    c.inSig.isSome = true → c.agreed = false → c.unagreed = false →
    ∃ t d, exec (.agreeTimeout n) s = .next t ∧ t.run n.val = some d ∧ d.slice = c.slice ∧ t.mem = s.mem ∧
      (s.isLeader = true → d.agreed = true ∧ t.twin.ps = .paired ∧
        t.twin.agreeMiss = satInc 0xFFFFFFFF s.twin.agreeMiss) ∧
      (s.isLeader = false → d.unagreed = true ∧ t.twin.ps = if leaderLost s then .paired else .silent)) ∧
  (∀ (f : List Byte) (own : Nat × Bool × Dword × Dword × Word) (s : State), accepted 0x12 f s = true →
    let b := msgBody (frameMessage f)
    let n := fld (wordAt b 0) 2 0
    let peer := ((wordAt b 1).toNat, tst (wordAt b 0) 31, dwordAt b 2, dwordAt b 4)
    s.twin.ps = .paired → (s.task n).ownCmp = some own → own.1 = peer.1 →
    ∃ t, exec (.twcmp f) s = .next t ∧ (t.task n).ownCmp = none ∧ (t.task n).peerCmp = none ∧ t.mem = s.mem ∧
      (comparisonData own peer = 0 → t.twin.ps = .paired ∧ t.twin.cmpMismatch = s.twin.cmpMismatch) ∧
      (comparisonData own peer ≠ 0 → t.twin.cmpMismatch = satInc 0xFFFFFFFF s.twin.cmpMismatch ∧
        t.twin.hasDiv = true ∧ t.twin.lastDivMs = s.tb.ms ∧
        (s.isLeader = true → t.twin.ps = .paired) ∧
        (s.isLeader = false → (t.twin.ps = .silent ∨ t.twin.ps = .removed) ∧ t.twin.silentCause = 1))) ∧
  (∀ (f : List Byte) (k w : Byte) (r : Word) (own : Dword) (s : State), accepted 0x13 f s = true →
    s.twin.ps = .paired → s.twin.ownSt = some (k, w, r, own) → fld (wordAt (msgBody (frameMessage f)) 0) 31 24 = k.toNat →
    fld (wordAt (msgBody (frameMessage f)) 0) 23 16 = w.toNat → wordAt (msgBody (frameMessage f)) 1 = r →
    ∃ t, exec (.stsig f) s = .next t ∧ t.twin.ownSt = none ∧ t.twin.peerSt = none ∧
      (own = dwordAt (msgBody (frameMessage f)) 2 → t.twin.ps = .paired ∧ t.twin.cmpMismatch = s.twin.cmpMismatch) ∧
      (own ≠ dwordAt (msgBody (frameMessage f)) 2 → t.twin.cmpMismatch = satInc 0xFFFFFFFF s.twin.cmpMismatch ∧
        (s.isLeader = false → t.twin.ps = .silent ∨ t.twin.ps = .removed)))

/-- One sample of every input, but while logic and memory BIST run. Its class is that of R251: BREAK with EN 0; UNDEF where the
converters differ, FS1 is not OK or a test pulse of the feedback output's group runs; else the class of its current by WB_EN, each
boundary belonging to the range above it. The counter filter takes it, and its candidate becomes the filtered class when the count
reaches N (R252). Nothing but the inputs, the reports and the press changes. -/
def Obligations.InputsAreClassified : Prop :=
  ∀ (currents : List (Nat × Nat)) (s : State), s.runs = true → bistRuns s = false →
    ∃ t, exec (.inputSample currents) s = .next t ∧ { t with io := s.io, ice := s.ice } = s ∧ t.io.outs = s.io.outs ∧
      t.io.rules = s.io.rules ∧ t.io.gen1 = s.io.gen1 ∧ t.io.gen2 = s.io.gen2 ∧
      ∀ n, n < 32 →
        let en := tst (ioIn s.io.live n) 31
        let wb := tst (ioIn s.io.live n) 30
        let a := (currents.getD n (0, 0)).1
        let b := (currents.getD n (0, 0)).2
        let isClass (ua : Nat) (c : InClass) : Prop :=
          (c = .on ↔ 4000 ≤ ua) ∧ (c = .off ↔ (wb = true → 800 ≤ ua) ∧ ua < 3000) ∧ (c = .brk ↔ wb = true ∧ ua < 500)
        (en = false → (t.io.input n).raw = .brk) ∧
        (en = true → s.io.fs1.st ≠ .ok ∨ feedbackPulse n s = true → (t.io.input n).raw = .undef) ∧
        (∀ ca cb, isClass a ca → isClass b cb → en = true → ca ≠ cb → (t.io.input n).raw = .undef) ∧
        (∀ c, isClass a c → isClass b c → en = true → s.io.fs1.st = .ok → feedbackPulse n s = false →
          (t.io.input n).raw = c) ∧
        (let x := filterStep (sampleClass n (a, b) s) { s.io.input n with ua := min a 0x7FFF }
         (x.count < x.target → t.io.input n = x) ∧ (x.target ≤ x.count → (t.io.input n).cls = x.cand))

/-- Samples of the supplies, readback and quench rules. A supply takes the state of its band after 4 samples, OK after 400 (R264).
A readback is ON from 12.0 V and OFF up to 5.0 V (R258). Each rule is evaluated from the filtered inputs; a result that was not
voted has no effect and no beat follows it (R17, R150, R271). -/
def Obligations.SamplesAreTaken : Prop :=
  ∀ s : State, s.runs = true →
    (∀ mv1 mv2, ∃ t, exec (.fieldSupplySample mv1 mv2) s = .next t ∧ t.io.fs1 = supplyStep mv1 s.io.fs1 ∧
      t.io.fs2 = supplyStep mv2 s.io.fs2 ∧ t.mem = s.mem ∧ t.mstate = s.mstate) ∧
    (∀ readings, ∃ t, exec (.outputReadbackSample readings) s = .next t ∧ t.mem = s.mem ∧ t.mstate = s.mstate ∧
      ∀ k, k < 16 → ((t.io.out k).rbOn = true ↔ 12000 ≤ (readings.getD k (0, 0)).1) ∧
        ((t.io.out k).rbOff = true ↔ (readings.getD k (0, 0)).1 ≤ 5000) ∧
        (t.io.out k).ma = min (readings.getD k (0, 0)).2 0x7FF) ∧
    (quenchState s = true → voteLost 5 s = true → exec .quenchEvaluation s = .next (stopHeartbeat (takeLost 5 s))) ∧
    (quenchState s = true → voteLost 5 s = false → ∃ t, exec .quenchEvaluation s = .next t ∧ t.mem = s.mem ∧ t.io.inputs = s.io.inputs ∧
      ∀ q, q < 16 → t.io.rule q = ruleStep s.io.live q s.io (s.io.rule q) ∧
        (ioRule s.io.live q 0 ≠ 0 → ruleCond s.io.live q s.io = true → (t.io.rule q).active = true) ∧
        (ioRule s.io.live q 0 ≠ 0 → tst (ioRule s.io.live q 2) 30 = false →
          (t.io.rule q).active = ruleCond s.io.live q s.io))

/-- Test pulses, wiring faults and the faults of an output. A pulse of an energised output opens it for its time; when it pulls
down another output its group is locked out, and the other group with it where that output is of the other (R259, R261). The end
of a discrimination locks its group out, whatever the output reads, and both where it reads ON and the other group is energised
(R262); the rest of the module stays in service. Overload latches the output off until its command has been 0 for 1.0 s; an open
load is shown; a feedback that differs locks the group out (R260, R270). The output guard. A beat 0.5 to 2.0 ms after the one
before is accepted, the sixteenth in a row arms a tripped guard; a faster beat, heartbeat lines equal for more than 2 µs and a
time without beats trip it, at class 4 in SERVICE and HOLD (R267, R268); in DORMANT its record is held until the module wakes
(R357). A tripped guard counts no second trip. -/
def Obligations.OutputsFaultAndGuard : Prop :=
  (∀ s : State, s.runs = true →
    (∀ k : Fin 16, energised k.val s = true → outPulseEn k.val s = true → (s.io.out k.val).cmdCyc + 250000 ≤ s.cyc →
      ∃ t, exec (.testPulseStart k) s = .next t ∧ t = s.updOut k.val (fun o => { o with pulse := true }) ∧
        energised k.val t = false) ∧
    (∀ (k : Fin 16) (fell : BitVec 16), (s.io.out k.val).pulse = true →
      let u := s.updOut k.val fun o => { o with pulse := false }
      (fellOutputs k.val fell u = [] → exec (.testPulseEnd k true fell) s = .next u) ∧
      (∀ j ∈ fellOutputs k.val fell u, noneUnacked s = true → quietSource (0x1F + groupOf k.val) s = true →
        ∀ readOff, ∃ t, exec (.testPulseEnd k readOff fell) s = .next t ∧ t.mstate = s.mstate ∧
          lockStands 2 (groupOf k.val) t = true ∧ t.gen (groupOf k.val) = false ∧
          (groupOf j ≠ groupOf k.val → lockStands 2 1 t = true ∧ lockStands 2 2 t = true ∧
            t.io.gen1 = false ∧ t.io.gen2 = false))) ∧
    (∀ (g : Fin 2) (k : Nat) (readOn : Bool), s.disc (g.val + 1) = some k → noneUnacked s = true →
      quietSource (0x20 + g.val) s = true →
      ∃ t, exec (.discriminationEnd g readOn) s = .next t ∧ t.disc (g.val + 1) = none ∧
        lockStands 2 (g.val + 1) t = true ∧ t.gen (g.val + 1) = false ∧ t.mem = s.mem ∧ t.mstate = s.mstate ∧
        (readOn = true → groupEnergised (2 - g.val) s = true →
          lockStands 2 1 t = true ∧ lockStands 2 2 t = true ∧ t.io.gen1 = false ∧ t.io.gen2 = false)) ∧
    (∀ (k : Fin 16) (ma : Nat), (s.io.out k.val).ovl = false →
      ∃ t, exec (.outputOverload k ma) s = .next t ∧ (t.io.out k.val).ovl = true ∧ energised k.val t = false ∧
        { t with io := s.io, fcu := s.fcu, ice := s.ice, freeCtr := s.freeCtr } = s) ∧
    (∀ k : Fin 16, (s.io.out k.val).ovl = true → commandOf k.val s = false → (s.io.out k.val).command = false →
      (s.io.out k.val).cmdCyc + 125000000 ≤ s.cyc →
      exec (.ovlClear k) s = .next (s.updOut k.val fun o => { o with ovl := false })) ∧
    (∀ k : Fin 16, tst (ioOut s.io.live k.val) 27 = true → energised k.val s = true → (s.io.out k.val).openLd = false →
      ∃ t, exec (.openLoad k) s = .next t ∧ (t.io.out k.val).openLd = true ∧ { t with io := s.io, ice := s.ice } = s) ∧
    (∀ k : Fin 16, feedbackDiffers k.val s = true → noneUnacked s = true → quietSource (0x21 + groupOf k.val) s = true →
      ∃ t, exec (.feedbackFault k) s = .next t ∧ (t.io.out k.val).fbFault = true ∧ lockStands 2 (groupOf k.val) t = true ∧
        t.gen (groupOf k.val) = false ∧ t.mstate = s.mstate ∧ t.mem = s.mem)) ∧
  (∀ s : State, s.mstate ≠ .off →
    (∀ us, 500 ≤ us → us ≤ 2000 → ∃ t, exec (.guardBeat us) s = .next t ∧ t.io.guard.lastBeatMs = s.tb.ms ∧
      t.io.guard.trips = s.io.guard.trips ∧ { t with io := s.io } = s ∧ t.io.outs = s.io.outs ∧
      (s.io.guard.tripped = true → s.io.guard.accepted = 15 → t.io.guard.tripped = false) ∧
      (s.io.guard.tripped = true → s.io.guard.accepted < 15 →
        t.io.guard.tripped = true ∧ t.io.guard.accepted = s.io.guard.accepted + 1)) ∧
    (∀ us, 2000 < us → ∃ t, exec (.guardBeat us) s = .next t ∧ t.io.guard = { s.io.guard with accepted := 0 } ∧
      { t with io := s.io } = s) ∧
    ∀ i, (i = .guardHbEqual ∨ i = .guardTimeout ∨ ∃ us, us < 500 ∧ i = .guardBeat us) →
      ∃ t, exec i s = .next t ∧ t.io.guard.tripped = true ∧ t.io.guard.accepted = 0 ∧
        t.io.guard.trips = (if s.io.guard.tripped then s.io.guard.trips else satInc 0xFF s.io.guard.trips) ∧
        (s.io.guard.tripped = true → { t with io := s.io } = s) ∧
        (s.io.guard.tripped = false → s.mstate = .dormant → ∃ r, t.ice.held = s.ice.held ++ [r] ∧ r.code = 0x0805) ∧
        (s.io.guard.tripped = false → s.mstate = .service ∨ s.mstate = .hold → quietSource 0x0C s = true →
          t.mstate = .safe ∧ t.io.gen1 = false ∧ t.io.gen2 = false ∧ lockStands 1 0 t = true))

/-- A listed source that leaves healthy is decided by R280: one class more when its pattern is broken, 4 for a collector, one
class more when a fault of its class is unacknowledged, 4 where class 3 has no target; the bit of the final class joins its
UNACK_MASK. It counts; final class 4 locks the module out and leads to SAFE, final class 3 locks its target out; below that
nothing but the fault collection and the recorder changes (R279, R280, R283). -/
def Obligations.FaultsAreDecided : Prop :=
  ∀ (src : Byte) (rails : BitVec 2) (code : BitVec 3) (detail : Word) (s : State), s.runs = true → rails ≠ 1 →
    sourceListed src.toNat = true → quietSource src.toNat s = true →
    let held (k : Nat) : Prop := ∃ e ∈ s.fcu.sources, tst e.2.unack (k - 1) = true
    ∃ t c0 c1 c2 c3, exec (.faultRaised src rails code detail) s = .next t ∧
      c0 = min code.toNat 4 ∧
      (rails = 2 → c1 = c0) ∧ (rails ≠ 2 → c1 = min (c0 + 1) 4) ∧
      (src.toNat < 8 → c2 = 4) ∧ (8 ≤ src.toNat → 1 ≤ c1 → c1 ≤ 3 → held c1 → c2 = c1 + 1) ∧
      (8 ≤ src.toNat → ¬(1 ≤ c1 ∧ c1 ≤ 3 ∧ held c1) → c2 = c1) ∧
      (c2 = 3 → classThreeTarget src.toNat = none → c3 = 4) ∧ (¬(c2 = 3 ∧ classThreeTarget src.toNat = none) → c3 = c2) ∧
      (t.fcuSource src.toNat).lastClass = c3 ∧
      (1 ≤ c3 → (t.fcuSource src.toNat).unack = (s.fcuSource src.toNat).unack ||| (1#4 <<< (c3 - 1))) ∧
      (c3 = 0 → (t.fcuSource src.toNat).unack = (s.fcuSource src.toNat).unack) ∧
      (t.fcuSource src.toNat).count = satInc 0xFFFF (s.fcuSource src.toNat).count ∧
      (c3 = 4 → t.mstate = .safe ∧ lockStands 1 0 t = true) ∧
      (∀ kind index, c3 = 3 → (classThreeTarget src.toNat).bind targetRecord = some (kind, index) →
        lockStands kind index t = true) ∧
      (c3 ≤ 2 → { t with fcu := s.fcu, ice := s.ice } = s)

/-- A fault that ends, the Ice Core's storing and the sync points. A source without a force is healthy again and keeps its counts
(R278). The oldest inbound record is stored under the next SEQ, and queued for the NAND from severity 2 (R294, R295); a page that
is due goes to the ring of 262,144, and a lane that fails to write it counts its retries, is excluded, and is a fault of source
0x40 (R138, R279, R326). A sync point whose instant has come notes the time, and a miss when it was still pending (R102). -/
def Obligations.RecordsAreStored : Prop :=
  (∀ (src : Byte) (ms : Word) (s : State), s.runs = true → (s.fcuSource src.toNat).real ≠ 1 →
    (s.fcuSource src.toNat).force = none →
    ∃ t, exec (.faultEnd src ms) s = .next t ∧
      t.fcuSource src.toNat = { s.fcuSource src.toNat with real := 1, rail := 1 } ∧
      (∀ n, n ≠ src.toNat → t.fcuSource n = s.fcuSource n) ∧ { t with fcu := s.fcu, ice := s.ice } = s) ∧
  (∀ (r : IceRec) (rest store : List IceRec) (s : State), s.runs = true → s.ice.inbound = r :: rest →
    storePlace { r with seq := s.ice.nextSeq } s.ice.store = some store →
    r.sev < 2 ∨ s.ice.nandQueue.length < 2048 →
    ∃ t, exec .iceRecordStore s = .next t ∧ t.ice.inbound = rest ∧ t.ice.store = store ∧
      t.ice.nextSeq = s.ice.nextSeq + 1 ∧ t.ice.nandQueue = (if 2 ≤ r.sev ∧ s.ice.stopped = false then
        s.ice.nandQueue ++ [({ r with seq := s.ice.nextSeq }, s.tb.ms)] else s.ice.nandQueue) ∧
      { t with ice := s.ice, fcu := s.fcu, fram := s.fram } = s) ∧
  (∀ s : State, s.runs = true → pageDue s = true →
    ∃ t, exec (.nandPageWrite none) s = .next t ∧ t.ice.nandQueue = s.ice.nandQueue.drop 128 ∧ t.ice.ring.length ≤ 262144 ∧
      (∃ old, t.ice.ring = old ++ (s.ice.nandQueue.take 128).map (·.1) ∧ old <:+ s.ice.ring) ∧
      { t with ice := s.ice } = s ∧
      ∀ l, exec (.nandPageWrite (some l)) s = .next (raiseOpen 0x40 1 none (laneFault l.val 0x15
        (t.updLane l.val fun x => { x with nandRetry := min 0xFFFF (x.nandRetry + 3) })))) ∧
  (∀ (k : Fin 4) (s : State), s.mstate ≠ .off → s.mstate ≠ .frozen → s.resetHold = none →
    tst (vget s.tb.sp .fresh k.val).cfg 31 = true →
    (pointReached (vget s.tb.sp .fresh k.val).cfg s = false → exec (.syncPointFire k) s = .next s) ∧
    (pointReached (vget s.tb.sp .fresh k.val).cfg s = true → ∃ t, exec (.syncPointFire k) s = .next t ∧ { t with tb := s.tb } = s ∧ { t.tb with sp := s.tb.sp } = s.tb ∧
      t.tb.sp[k] = { s.tb.sp[k] with time := s.tb.tb.ns, pend := true,
                                     miss := if s.tb.sp[k].pend then satInc 0xFF s.tb.sp[k].miss else s.tb.sp[k].miss } ∧
      ∀ j : Fin 4, j ≠ k → t.tb.sp[j] = s.tb.sp[j]))

/-- EDGE and WCMP factors and the WORD head, as the image reads. EDGE compares its source with the detector's memory, and the
commit stores the source there (R53); WCMP compares the words that its INDEX and its ARG name (R55); WORD writes its target only
when its guard is 1 (R62). -/
def Obligations.FactorsAndWordHead : Prop :=
  (∀ (c : EvalCtx) (m : Mem) (o : Operand) (a : Lit), o.lit.op = 0x3 → o.arg = some a →
    let source := boolRead m a.idx != a.neg
    let before := edgeRead m o.lit.idx
    (o.lit.mod % 8 = 0 → factorValue c m o = ((source && !before) != o.lit.neg)) ∧
    (o.lit.mod % 8 = 1 → factorValue c m o = ((!source && before) != o.lit.neg)) ∧
    (o.lit.mod % 8 = 2 → factorValue c m o = ((source != before) != o.lit.neg)) ∧
    ∀ e : Ev, Memory.wf e.mem = true → edgeRead (commitEdges m [o] e).mem o.lit.idx = source) ∧
  (∀ (c : EvalCtx) (m : Mem) (o : Operand) (b : Lit), o.lit.op = 0x4 → o.arg = some b →
    let x := wordRead m o.lit.idx
    let y := wordRead m b.idx
    let holds (p : Prop) : Prop := (factorValue c m o = true ↔ (p ↔ o.lit.neg = false))
    (o.lit.mod % 8 = 0 → holds (x = y)) ∧ (o.lit.mod % 8 = 1 → holds (x.toNat < y.toNat)) ∧
    (o.lit.mod % 8 = 2 → holds (x.toNat ≤ y.toNat)) ∧ (o.lit.mod % 8 = 3 → holds (x.toInt < y.toInt)) ∧
    (o.lit.mod % 8 = 4 → holds (x.toInt ≤ y.toInt)) ∧ (o.lit.mod % 8 = 5 → holds (x &&& y ≠ 0))) ∧
  (∀ (c : EvalCtx) (q : Equation) (a : Lit) (s2 s3 : Bool) (e : Ev), q.head.op = 0x9 → q.args.head? = some a →
    Memory.wf e.mem = true →
    let x := wordRead e.mem a.idx
    let before := wordRead e.mem q.head.idx
    let after := wordRead (headStep c q true s2 s3 e).mem q.head.idx
    (q.head.mod = 0 → after = x) ∧ (q.head.mod = 1 → after.toNat = (before.toNat + x.toNat) % 2 ^ 32) ∧
    (q.head.mod = 2 → (after.toNat : Int) = ((before.toNat : Int) - x.toNat) % 2 ^ 32) ∧
    (q.head.mod = 3 → after = before &&& x) ∧ (q.head.mod = 4 → after = before ||| x) ∧
    (q.head.mod = 5 → after = before ^^^ x) ∧
    (∀ i, i < 0x100000 + 4 * q.head.idx ∨ 0x100000 + 4 * q.head.idx + 4 ≤ i →
      memRead (headStep c q true s2 s3 e).mem i = memRead e.mem i) ∧ headStep c q false s2 s3 e = e)

/-- Timers, as the image reads after the head's writes: the rows of R59 in their order, for an evaluation that is not the first
after a warm restart. Q is the boolean its ARG names, less that ARG's NEG. -/
def Obligations.TimersFollowTheirTables : Prop :=
  ∀ (c : EvalCtx) (q : Equation) (a : Lit) (inn s2 s3 : Bool) (e : Ev), q.head.op = 0x7 → q.args.head? = some a →
    Memory.wf e.mem = true → c.warm = false → q.head.idx < 262144 → a.idx < 8388608 →
    let i := q.head.idx
    let m := e.mem
    let after := (headStep c q inn s2 s3 e).mem
    let p := c.bank.timerPreset i
    let sum := (elapsedRead m i).toNat + c.delta
    let reads (run done prev : Bool) (elapsed : Nat) (out : Bool) : Prop :=
      timerState after i = BitVec.ofNat 8 (bit run + 2 * bit done + 4 * bit prev) ∧ (elapsedRead after i).toNat = elapsed ∧
        (boolRead after a.idx != a.neg) = out
    let run := tst (timerState m i) 0
    let done := tst (timerState m i) 1
    let prev := tst (timerState m i) 2
    let el := (elapsedRead m i).toNat
    sum < 2 ^ 32 →
    (q.head.mod = 0 →
      (inn = false → reads false false false 0 false) ∧
      (inn = true → done = true → reads run true false el true) ∧
      (inn = true → done = false → run = true → p ≤ sum → reads false true false sum true) ∧
      (inn = true → done = false → run = true → sum < p → reads true false false sum false) ∧
      (inn = true → done = false → run = false → p = 0 → reads false true false 0 true) ∧
      (inn = true → done = false → run = false → 0 < p → reads true false false 0 false)) ∧
    (q.head.mod = 1 →
      (inn = true → reads false true false 0 true) ∧
      (inn = false → run = true → p ≤ sum → reads false false false sum false) ∧
      (inn = false → run = true → sum < p → reads true done false sum done) ∧
      (inn = false → run = false → done = true → p = 0 → reads false false false 0 false) ∧
      (inn = false → run = false → done = true → 0 < p → reads true true false 0 true) ∧
      (inn = false → run = false → done = false → reads false false false el false)) ∧
    (q.head.mod = 2 →
      (run = true → p ≤ sum → reads false true inn sum false) ∧
      (run = true → sum < p → reads true done inn sum true) ∧
      (inn = true → run = false → prev = false → p = 0 → reads false true true 0 false) ∧
      (inn = true → run = false → prev = false → 0 < p → reads true false true 0 true) ∧
      (inn = true → run = false → prev = true → reads false done true el false) ∧
      (inn = false → run = false → reads false false false el false))

/-- CLAIM on a set of 1 to 64 different resources, as the image reads: ACQUIRE with its guard takes a set that is free and unheld,
whole or not at all; RELEASE frees what the mask holds; DROP frees one held entry. Q is 1 while the group holds its set (R64). -/
def Obligations.ClaimsTakeSetsWhole : Prop :=
  ∀ (c : EvalCtx) (q : Equation) (a : Lit) (s1 s2 s3 : Bool) (e : Ev), q.head.op = 0xB → q.args.head? = some a →
    Memory.wf e.mem = true → q.head.idx < 65536 → a.idx < 8388608 →
    let g := q.head.idx
    let set := c.bank.claimSet g
    let before := maskRead e.mem g
    let after := (headStep c q s1 s2 s3 e).mem
    let out := boolRead after a.idx != a.neg
    set ≠ [] → set.length ≤ 64 → set.Nodup → (∀ r ∈ set, r < 8388608) →
    (q.head.mod < 2 → a.idx ∉ set) →
    let asBefore : Prop := maskRead after g = before ∧ ∀ r ∈ set, boolRead after r = boolRead e.mem r
    (q.head.mod = 0 →
      (s1 = false → asBefore ∧ out = (before != 0)) ∧ (s1 = true → before ≠ 0 → asBefore ∧ out = true) ∧
      (s1 = true → before = 0 → (∀ r ∈ set, boolRead e.mem r = false) →
        (∀ r ∈ set, boolRead after r = true) ∧ (maskRead after g).toNat = 2 ^ set.length - 1 ∧ out = true) ∧
      (s1 = true → before = 0 → (∃ r ∈ set, boolRead e.mem r = true) → asBefore ∧ out = false)) ∧
    (q.head.mod = 1 →
      (s1 = false → asBefore ∧ out = (before != 0)) ∧
      (s1 = true → maskRead after g = 0 ∧ out = false ∧ ∀ i r, set[i]? = some r →
        boolRead after r = (boolRead e.mem r && !tst before i))) ∧
    (q.head.mod = 2 → ∀ i, set[i]? = some a.idx →
      (s1 = true → tst before i = true → boolRead after a.idx = false ∧ maskRead after g = before &&& ~~~(1#64 <<< i) ∧
        ∀ r ∈ set, r ≠ a.idx → boolRead after r = boolRead e.mem r) ∧
      (¬(s1 = true ∧ tst before i = true) → after = e.mem))

end
end

