-- ==== Sys2Proof/Laws/Bytes.lean ====
section
/-!
SUPPORT. Byte strings, words and bit fields: lengths, and that what is written as bytes reads back.
-/
namespace Sys2Proof.Machine

@[simp] theorem beBytes_length (n x : Nat) : (beBytes n x).length = n := by
  induction n with
  | zero => rfl
  | succ n ih => simp [beBytes, ih]

@[simp] theorem wordBytes_length (w : Word) : (wordBytes w).length = 4 := beBytes_length 4 w.toNat

@[simp] theorem dwordBytes_length (w : Dword) : (dwordBytes w).length = 8 := beBytes_length 8 w.toNat

@[simp] theorem wordsBytes_nil : wordsBytes [] = [] := rfl

@[simp] theorem wordsBytes_cons (w : Word) (ws : List Word) : wordsBytes (w :: ws) = wordBytes w ++ wordsBytes ws := rfl

@[simp] theorem wordsBytes_append (a b : List Word) : wordsBytes (a ++ b) = wordsBytes a ++ wordsBytes b :=
  List.flatMap_append

@[simp] theorem wordsBytes_length (ws : List Word) : (wordsBytes ws).length = 4 * ws.length := by
  induction ws with
  | nil => rfl
  | cons w ws ih => simp [ih]; omega

theorem beNat_foldl (bs : List Byte) (a : Nat) :
    bs.foldl (fun a b => a * 256 + b.toNat) a = a * 256 ^ bs.length + beNat bs := by
  induction bs generalizing a with
  | nil => simp [beNat]
  | cons b bs ih =>
    have e : beNat (b :: bs) = b.toNat * 256 ^ bs.length + beNat bs := by
      rw [beNat, List.foldl_cons, ih]
      simp
    rw [List.foldl_cons, ih, List.length_cons, e, pow_succ]
    ring

theorem beNat_cons (b : Byte) (bs : List Byte) : beNat (b :: bs) = b.toNat * 256 ^ bs.length + beNat bs := by
  rw [beNat, List.foldl_cons, beNat_foldl]
  simp

theorem beNat_lt (bs : List Byte) : beNat bs < 256 ^ bs.length := by
  induction bs with
  | nil => simp [beNat]
  | cons b bs ih =>
    have h : b.toNat + 1 ≤ 256 := by omega
    have := Nat.mul_le_mul_right (256 ^ bs.length) h
    rw [beNat_cons, List.length_cons, pow_succ]
    linarith

/-- A number written in n bytes reads back modulo 256 ^ n. -/
theorem beNat_beBytes (n x : Nat) : beNat (beBytes n x) = x % 256 ^ n := by
  induction n with
  | zero => simp [beBytes, beNat, Nat.mod_one]
  | succ n ih =>
    rw [beBytes, beNat_cons, ih, beBytes_length, BitVec.toNat_ofNat, Nat.shiftRight_eq_div_pow, pow_mul]
    have : x % 256 ^ (n + 1) = x % (256 ^ n * 256) := by rw [pow_succ]
    rw [this, Nat.mod_mul]
    norm_num
    ring

@[simp] theorem beNat_wordBytes (w : Word) : beNat (wordBytes w) = w.toNat := by
  rw [wordBytes, beNat_beBytes]
  exact Nat.mod_eq_of_lt (by simpa using w.isLt)

@[simp] theorem beNat_dwordBytes (w : Dword) : beNat (dwordBytes w) = w.toNat := by
  rw [dwordBytes, beNat_beBytes]
  exact Nat.mod_eq_of_lt (by simpa using w.isLt)

@[simp] theorem slice_length (bs : List Byte) (off n : Nat) : (slice bs off n).length = n := by
  simp [slice]

/-- Bytes that stand behind a prefix. -/
theorem slice_append (a b c : List Byte) : slice (a ++ (b ++ c)) a.length b.length = b := by
  simp [slice]

theorem slice_eq_take {bs : List Byte} {off n : Nat} (h : off + n ≤ bs.length) :
    slice bs off n = (bs.drop off).take n := by
  have : min n (bs.length - off) = n := by omega
  simp [slice, this]

theorem wordAt_append (ws : List Word) (w : Word) (rest : List Byte) :
    wordAt (wordsBytes ws ++ (wordBytes w ++ rest)) ws.length = w := by
  have h := slice_append (wordsBytes ws) (wordBytes w) rest
  simp only [wordsBytes_length, wordBytes_length] at h
  simp [wordAt, beAt, h]

/-- Word i of words laid out as bytes, whatever follows them. -/
theorem wordAt_wordsBytes {ws : List Word} {i : Nat} (h : i < ws.length) (rest : List Byte) :
    wordAt (wordsBytes ws ++ rest) i = ws[i] := by
  have e : ws = ws.take i ++ ws[i] :: ws.drop (i + 1) := by simp
  have hl : (ws.take i).length = i := by simp; omega
  have key := wordAt_append (ws.take i) ws[i] (wordsBytes (ws.drop (i + 1)) ++ rest)
  rw [hl, ← List.append_assoc (wordBytes _), ← wordsBytes_cons, ← List.append_assoc, ← wordsBytes_append, ← e] at key
  exact key

/-- Words laid out as bytes read back. -/
theorem bytesWords_wordsBytes (ws : List Word) : bytesWords (wordsBytes ws) = ws := by
  apply List.ext_getElem
  · simp [bytesWords]
  · intro i h1 h2
    have := wordAt_wordsBytes h2 []
    simpa [bytesWords] using this

/-- The 64-bit value of two neighbouring words of a byte string. -/
theorem dwordAt_eq (bs : List Byte) (i : Nat) (h : 4 * i + 8 ≤ bs.length) :
    dwordAt bs i = dwordOf (wordAt bs i) (wordAt bs (i + 1)) := by
  have hs : slice bs (4 * i) 8 = slice bs (4 * i) 4 ++ slice bs (4 * (i + 1)) 4 := by
    rw [slice_eq_take h, slice_eq_take (by omega), slice_eq_take (by omega)]
    have : bs.drop (4 * (i + 1)) = (bs.drop (4 * i)).drop 4 := by rw [List.drop_drop]; congr 1
    rw [this, ← List.take_add]
  have hb : beAt bs (4 * i) 8 = beAt bs (4 * i) 4 * 2 ^ 32 + beAt bs (4 * (i + 1)) 4 := by
    have h4 : beNat (slice bs (4 * i) 4 ++ slice bs (4 * (i + 1)) 4) =
        beNat (slice bs (4 * i) 4) * 256 ^ 4 + beNat (slice bs (4 * (i + 1)) 4) := by
      rw [beNat, List.foldl_append, beNat_foldl]
      simp [beNat]
    rw [beAt, hs, h4]
    norm_num [beAt]
  have l1 : beAt bs (4 * i) 4 < 2 ^ 32 := by
    have := beNat_lt (slice bs (4 * i) 4); norm_num at this; simpa [beAt] using this
  have l2 : beAt bs (4 * (i + 1)) 4 < 2 ^ 32 := by
    have := beNat_lt (slice bs (4 * (i + 1)) 4); norm_num at this; simpa [beAt] using this
  apply BitVec.eq_of_toNat_eq
  simp only [dwordAt, dwordOf, wordAt, BitVec.toNat_append, BitVec.toNat_ofNat, hb]
  rw [Nat.mod_eq_of_lt l1, Nat.mod_eq_of_lt l2, ← Nat.shiftLeft_add_eq_or_of_lt l2, Nat.shiftLeft_eq]
  exact Nat.mod_eq_of_lt (by omega)

theorem fld_lt {w : Nat} (x : BitVec w) (hi lo : Nat) : fld x hi lo < 2 ^ (hi + 1 - lo) := Nat.mod_lt _ (by positivity)

end Sys2Proof.Machine
end

