-- ==== Sys2Proof/Laws/Mem.lean ====
section
/-! SUPPORT. The memory operations: a read after a write, and that every operation keeps the canonical form. -/
namespace Sys2Proof.Machine

theorem Memory.wfFrom_mono {lo lo' : Nat} {m : Mem} (h : lo' ≤ lo) (w : Memory.wfFrom lo m = true) :
    Memory.wfFrom lo' m = true := by
  cases m with
  | nil => rfl
  | cons e m =>
    obtain ⟨a, b⟩ := e
    simp only [Memory.wfFrom, Bool.and_eq_true, decide_eq_true_eq] at w ⊢
    exact ⟨⟨by omega, w.1.2⟩, w.2⟩

/-- Below the first listed address every byte reads 0. -/
theorem memRead_below {lo x : Nat} {m : Mem} (w : Memory.wfFrom lo m = true) (h : x < lo) : memRead m x = 0 := by
  induction m generalizing lo with
  | nil => rfl
  | cons e m ih =>
    obtain ⟨a, b⟩ := e
    simp only [Memory.wfFrom, Bool.and_eq_true, decide_eq_true_eq] at w
    rw [memRead, if_neg (by omega)]
    exact ih w.2 (by omega)

theorem memWrite_wfFrom {lo x : Nat} {m : Mem} (v : Byte) (w : Memory.wfFrom lo m = true) (h : lo ≤ x) :
    Memory.wfFrom lo (memWrite m x v) = true := by
  induction m generalizing lo with
  | nil =>
    by_cases hv : v = 0#8
    · simp [memWrite, hv, Memory.wfFrom]
    · simp [memWrite, hv, Memory.wfFrom, h]
  | cons e m ih =>
    obtain ⟨a, b⟩ := e
    have w0 := w
    simp only [Memory.wfFrom, Bool.and_eq_true, decide_eq_true_eq] at w
    obtain ⟨⟨hla, hb⟩, hm⟩ := w
    simp only [memWrite]
    split
    · next hx =>
      by_cases hv : v = 0#8
      · simpa [hv] using w0
      · simp [Memory.wfFrom, h, hv, hm]
        exact ⟨by omega, hb⟩
    · split
      · next hx =>
        subst hx
        by_cases hv : v = 0#8
        · simpa [hv] using Memory.wfFrom_mono (by omega) hm
        · simp [Memory.wfFrom, h, hv, hm]
      · simp only [Memory.wfFrom, Bool.and_eq_true, decide_eq_true_eq]
        exact ⟨⟨hla, hb⟩, ih hm (by omega)⟩

/-- A write keeps the canonical form. -/
theorem memWrite_wf {m : Mem} (x : Nat) (v : Byte) (w : Memory.wf m = true) : Memory.wf (memWrite m x v) = true :=
  memWrite_wfFrom v w (Nat.zero_le x)

theorem memRead_memWrite_from {lo : Nat} {m : Mem} (w : Memory.wfFrom lo m = true) (x y : Nat) (v : Byte) :
    memRead (memWrite m x v) y = if x = y then v else memRead m y := by
  induction m generalizing lo with
  | nil => by_cases hv : v = 0#8 <;> simp [memWrite, hv, memRead]
  | cons e m ih =>
    obtain ⟨a, b⟩ := e
    simp only [Memory.wfFrom, Bool.and_eq_true, decide_eq_true_eq] at w
    have hb := fun z (hz : z < a + 1) => memRead_below w.2 hz
    simp only [memWrite]
    split
    · by_cases hv : v = 0#8
      · by_cases hxy : x = y
        · subst hxy; simp [hv, memRead, hb x (by omega)]; intro h; omega
        · simp [hv, hxy]
      · by_cases hxy : x = y <;> simp [hv, hxy, memRead]
    · split
      · next hx =>
        subst hx
        by_cases hv : v = 0#8
        · by_cases hxy : x = y
          · subst hxy; simp [hv, hb x (by omega)]
          · simp [hv, hxy, memRead]
        · by_cases hxy : x = y <;> simp [hv, hxy, memRead]
      · by_cases hay : a = y
        · subst hay; simp [memRead]; intro h; omega
        · simp only [memRead, if_neg hay]; exact ih w.2

/-- Reading back: the byte written, and every other byte as before. -/
theorem memRead_memWrite {m : Mem} (w : Memory.wf m = true) (x y : Nat) (v : Byte) :
    memRead (memWrite m x v) y = if x = y then v else memRead m y :=
  memRead_memWrite_from w x y v

theorem memWriteBytes_wf {m : Mem} (x : Nat) (vs : List Byte) (w : Memory.wf m = true) :
    Memory.wf (memWriteBytes m x vs) = true := by
  induction vs generalizing m x with
  | nil => exact w
  | cons v vs ih => exact ih (x + 1) (memWrite_wf x v w)

theorem memWriteWord_wf {m : Mem} (x : Nat) (v : Word) (w : Memory.wf m = true) :
    Memory.wf (memWriteWord m x v) = true :=
  memWriteBytes_wf x _ w

/-- A write of consecutive bytes leaves every byte outside them alone. -/
theorem memRead_memWriteBytes_outside {m : Mem} (w : Memory.wf m = true) (x : Nat) (vs : List Byte) (y : Nat)
    (h : y < x ∨ x + vs.length ≤ y) : memRead (memWriteBytes m x vs) y = memRead m y := by
  induction vs generalizing m x with
  | nil => rfl
  | cons v vs ih =>
    simp only [List.length_cons] at h
    rw [memWriteBytes, ih (memWrite_wf x v w) (x + 1) (by omega), memRead_memWrite w, if_neg (by omega)]

theorem memKeep_wfFrom {lo : Nat} {m : Mem} (p : Nat → Bool) (w : Memory.wfFrom lo m = true) :
    Memory.wfFrom lo (memKeep p m) = true := by
  induction m generalizing lo with
  | nil => rfl
  | cons e m ih =>
    obtain ⟨a, b⟩ := e
    simp only [Memory.wfFrom, Bool.and_eq_true, decide_eq_true_eq] at w
    unfold memKeep
    rw [List.filter_cons]
    split
    · simp only [Memory.wfFrom, Bool.and_eq_true, decide_eq_true_eq]
      exact ⟨w.1, ih w.2⟩
    · exact Memory.wfFrom_mono (by omega) (ih w.2)

theorem memKeep_wf {m : Mem} (p : Nat → Bool) (w : Memory.wf m = true) : Memory.wf (memKeep p m) = true :=
  memKeep_wfFrom p w

theorem memClear_wf {m : Mem} (lo n : Nat) (w : Memory.wf m = true) : Memory.wf (memClear m lo n) = true :=
  memKeep_wf _ w

/-- Every listed address lies below a bound. -/
def memBelow (hi : Nat) (m : Mem) : Prop := ∀ e ∈ m, e.1 < hi

theorem memAppend_wfFrom {lo hi : Nat} {m n : Mem} (wm : Memory.wfFrom lo m = true) (hm : memBelow hi m)
    (wn : Memory.wfFrom hi n = true) (h : lo ≤ hi) : Memory.wfFrom lo (m ++ n) = true := by
  induction m generalizing lo with
  | nil => exact Memory.wfFrom_mono h wn
  | cons e m ih =>
    obtain ⟨a, b⟩ := e
    simp only [Memory.wfFrom, Bool.and_eq_true, decide_eq_true_eq, List.cons_append] at wm ⊢
    exact ⟨wm.1, ih wm.2 (fun e he => hm e (by simp [he])) (hm (a, b) (by simp))⟩

theorem memKeep_from {lo hi : Nat} {m : Mem} (p : Nat → Bool) (w : Memory.wfFrom lo m = true) (hp : ∀ a, p a = true → hi ≤ a) :
    Memory.wfFrom hi (memKeep p m) = true := by
  induction m generalizing lo with
  | nil => rfl
  | cons e m ih =>
    obtain ⟨a, b⟩ := e
    simp only [Memory.wfFrom, Bool.and_eq_true, decide_eq_true_eq] at w
    unfold memKeep
    rw [List.filter_cons]
    split
    · next hpa =>
      simp only [Memory.wfFrom, Bool.and_eq_true, decide_eq_true_eq]
      exact ⟨⟨hp a hpa, w.1.2⟩, memKeep_wfFrom p w.2⟩
    · exact ih w.2

theorem memKeep_below {hi : Nat} (p : Nat → Bool) (m : Mem) (hp : ∀ a, p a = true → a < hi) : memBelow hi (memKeep p m) := by
  intro e he
  exact hp _ (List.mem_filter.mp he).2

/-- A byte of a filtered memory: the byte where the predicate keeps the address, 0 elsewhere. -/
theorem memRead_memKeep (p : Nat → Bool) (m : Mem) (x : Nat) :
    memRead (memKeep p m) x = if p x = true then memRead m x else 0 := by
  induction m with
  | nil => simp [memKeep, memRead]
  | cons e m ih =>
    obtain ⟨a, b⟩ := e
    unfold memKeep at ih ⊢
    rw [List.filter_cons]
    by_cases hx : a = x
    · subst hx
      by_cases hp : p a = true <;> simp [hp, memRead, ih]
    · by_cases hp : p a = true <;> simp [hp, hx, memRead, ih]

/-- A cleared range reads 0, and every other byte reads as before. -/
theorem memRead_memClear (m : Mem) (lo n x : Nat) :
    memRead (memClear m lo n) x = if x < lo ∨ lo + n ≤ x then memRead m x else 0 := by
  simp [memClear, memRead_memKeep]

theorem memRead_append_right {m n : Mem} {x : Nat} (h : ∀ e ∈ m, e.1 ≠ x) : memRead (m ++ n) x = memRead n x := by
  induction m with
  | nil => rfl
  | cons e m ih =>
    rw [List.cons_append, memRead, if_neg (h e (by simp)), ih fun e he => h e (by simp [he])]

theorem memRead_append_left {m n : Mem} {x : Nat} (h : memRead n x = 0) : memRead (m ++ n) x = memRead m x := by
  induction m with
  | nil => exact h
  | cons e m ih => rw [List.cons_append, memRead, memRead, ih]

/-- A replaced range reads as the other memory, and every other byte reads as before. -/
theorem memRead_memReplace (old new : Mem) (lo n x : Nat) :
    memRead (memReplace old new lo n) x = if lo ≤ x ∧ x < lo + n then memRead new x else memRead old x := by
  have dropped : ∀ (p : Nat → Bool) (m : Mem), p x = false → ∀ e ∈ memKeep p m, e.1 ≠ x := by
    intro p m hp e he hx
    have := (List.mem_filter.mp he).2
    simp only [hx, hp] at this
    cases this
  unfold memReplace
  rcases Nat.lt_or_ge x lo with h | h
  · rw [if_neg (by omega), List.append_assoc, memRead_append_left, memRead_memKeep, if_pos (by simpa using h)]
    rw [memRead_append_left] <;> rw [memRead_memKeep, if_neg (by simp; omega)]
  · rcases Nat.lt_or_ge x (lo + n) with h' | h'
    · rw [if_pos ⟨h, h'⟩, List.append_assoc, memRead_append_right (dropped _ _ (by simpa using h)), memRead_append_left,
        memRead_memKeep, if_pos (by simp; omega)]
      rw [memRead_memKeep, if_neg (by simp; omega)]
    · rw [if_neg (by omega), List.append_assoc, memRead_append_right (dropped _ _ (by simpa using h)),
        memRead_append_right (dropped _ _ (by simp; omega)), memRead_memKeep, if_pos (by simpa using h')]

/-- Replacing a range by that of another memory keeps the canonical form. -/
theorem memReplace_wf {old new : Mem} (lo n : Nat) (wo : Memory.wf old = true) (wn : Memory.wf new = true) :
    Memory.wf (memReplace old new lo n) = true := by
  unfold memReplace
  refine memAppend_wfFrom (hi := lo + n) ?_ ?_ (memKeep_from _ wo (by simp)) (Nat.zero_le _)
  · exact memAppend_wfFrom (hi := lo) (memKeep_wf _ wo) (memKeep_below _ _ (by simp)) (memKeep_from _ wn (by simp; omega))
      (Nat.zero_le _)
  · intro e he
    rcases List.mem_append.mp he with h | h
    · have := memKeep_below (hi := lo) _ old (by simp) e h
      omega
    · exact memKeep_below (hi := lo + n) _ new (by simp) e h

end Sys2Proof.Machine
end

