-- ==== Sys2Proof/Laws/Image.lean ====
section
/-!
SUPPORT. Every operation over a memory keeps its canonical form: the elements of the image, an evaluation, the remap, restarts,
the frame buffers and the message buffers. What a write of bytes or of an element reads back as.
-/
namespace Sys2Proof.Machine

/-! ### Reading back -/

/-- A byte written by a write of consecutive bytes. -/
theorem memRead_memWriteBytes_inside {m : Mem} (w : Memory.wf m = true) (x : Nat) (vs : List Byte) (i : Nat)
    (h : i < vs.length) : memRead (memWriteBytes m x vs) (x + i) = vs[i] := by
  induction vs generalizing m x i with
  | nil => simp at h
  | cons v vs ih =>
    have wf1 := memWrite_wf x v w
    cases i with
    | zero =>
      rw [memWriteBytes, memRead_memWriteBytes_outside wf1 (x + 1) vs (x + 0) (by omega), memRead_memWrite w]
      simp
    | succ i =>
      have := ih wf1 (x + 1) i (by simpa using h)
      rw [memWriteBytes, show x + (i + 1) = x + 1 + i by omega, this]
      simp

/-- A word is the four bytes of it. -/
theorem word_of_bytes (v : Word) :
    (BitVec.ofNat 8 (v.toNat >>> 24) ++ BitVec.ofNat 8 (v.toNat >>> 16) : BitVec 16) ++
      (BitVec.ofNat 8 (v.toNat >>> 8) ++ BitVec.ofNat 8 v.toNat : BitVec 16) = v := by
  have h : ∀ k, BitVec.ofNat 8 (v.toNat >>> k) = v.extractLsb' k 8 := fun k => rfl
  have h0 : BitVec.ofNat 8 v.toNat = v.extractLsb' 0 8 := rfl
  rw [h, h, h, h0]
  ext i hi
  simp only [BitVec.getElem_append, BitVec.getElem_extractLsb']
  split <;> split <;> simp <;> (try rw [BitVec.getLsbD_eq_getElem]) <;> congr 1 <;> omega

/-- A word written reads back. -/
theorem memWord_memWriteWord {m : Mem} (w : Memory.wf m = true) (x : Nat) (v : Word) :
    memWord (memWriteWord m x v) x = v := by
  have r : ∀ i (h : i < 4), memRead (memWriteWord m x v) (x + i) = (wordBytes v)[i]'(by simpa using h) := fun i h =>
    memRead_memWriteBytes_inside w x (wordBytes v) i (by simpa using h)
  have r0 := r 0 (by omega)
  have r1 := r 1 (by omega)
  have r2 := r 2 (by omega)
  have r3 := r 3 (by omega)
  simp only [Nat.add_zero] at r0
  have h3 : x + 2 + 1 = x + 3 := by omega
  simp only [memWord, memHalf, h3, r0, r1, r2, r3]
  exact word_of_bytes v

/-- A word away from a written one is unchanged. -/
theorem memWord_memWriteWord_other {m : Mem} (w : Memory.wf m = true) (x y : Nat) (v : Word) (h : y + 4 ≤ x ∨ x + 4 ≤ y) :
    memWord (memWriteWord m x v) y = memWord m y := by
  have r : ∀ i, i < 4 → memRead (memWriteWord m x v) (y + i) = memRead m (y + i) := fun i hi =>
    memRead_memWriteBytes_outside w x (wordBytes v) (y + i) (by simp; omega)
  have h3 : y + 2 + 1 = y + 3 := by omega
  simp [memWord, memHalf, h3, r 1, r 2, r 3, show memRead (memWriteWord m x v) y = memRead m y from r 0 (by omega)]

/-- A bit written reads back, and every other bit of its area is unchanged. -/
theorem bitRead_bitWrite {m : Mem} (w : Memory.wf m = true) (base i j : Nat) (v : Bool) :
    bitRead (bitWrite m base i v) base j = if i = j then v else bitRead m base j := by
  unfold bitRead bitWrite
  simp only [memRead_memWrite w]
  by_cases hb : base + i / 8 = base + j / 8
  · have hd : i / 8 = j / 8 := by omega
    rw [if_pos hb, hb]
    generalize memRead m (base + j / 8) = x
    have hi : i % 8 < 8 := Nat.mod_lt _ (by omega)
    have hj : j % 8 < 8 := Nat.mod_lt _ (by omega)
    have hij : i = j ↔ i % 8 = j % 8 := by omega
    simp only [hij]
    generalize i % 8 = a at *
    generalize j % 8 = b at *
    cases v <;> simp only [tst, Bool.false_eq_true, if_false, if_true, BitVec.getLsbD_and, BitVec.getLsbD_or,
      BitVec.getLsbD_not, BitVec.getLsbD_shiftLeft, BitVec.getLsbD_one]
    · by_cases hab : a = b
      · subst hab; simp [hi]
      · simp only [hab, if_false, hj, decide_true]
        by_cases hlt : b < a
        · simp [hlt]
        · have : b - a ≠ 0 := by omega
          simp [hlt, this]
    · by_cases hab : a = b
      · subst hab; simp [hi]
      · simp only [hab, if_false, hj, decide_true]
        by_cases hlt : b < a
        · simp [hlt]
        · have : b - a ≠ 0 := by omega
          simp [hlt, this]
  · have hij : i ≠ j := fun h => hb (by rw [h])
    rw [if_neg hb, if_neg hij]

/-! ### The canonical form is kept -/

/-- A fold of steps that keep the canonical form keeps it. -/
theorem foldl_wf {α : Type} {f : Mem → α → Mem} (h : ∀ m a, Memory.wf m = true → Memory.wf (f m a) = true) (l : List α)
    {m : Mem} (w : Memory.wf m = true) : Memory.wf (l.foldl f m) = true := by
  induction l generalizing m with
  | nil => exact w
  | cons a l ih => exact ih (h m a w)

theorem bitWrite_wf {m : Mem} (base i : Nat) (v : Bool) (w : Memory.wf m = true) : Memory.wf (bitWrite m base i v) = true :=
  memWrite_wf _ _ w

theorem elWrite_wf {m : Mem} (k : ElKind) (i : Nat) (v : Dword) (w : Memory.wf m = true) :
    Memory.wf (elWrite k i v m) = true := by
  cases k
  case boolean => exact bitWrite_wf _ _ _ w
  case word => exact memWriteWord_wf _ _ w
  case elapsed => exact memWriteWord_wf _ _ w
  case timer => exact memWrite_wf _ _ w
  case counter => exact memWriteWord_wf _ _ w
  case cstate => exact memWrite_wf _ _ w
  case edge => exact bitWrite_wf _ _ _ w
  case mask => exact memWriteBytes_wf _ _ w

theorem clearTxreq_wf {x : Mem} (ch : CanCh) (w : Memory.wf x = true) : Memory.wf (clearTxreq ch x) = true :=
  foldl_wf (fun _ _ h => memWrite_wf _ _ h) _ w

theorem clearElements_wf {m : Mem} (w : Memory.wf m = true) : Memory.wf (clearElements m) = true := memKeep_wf _ w

theorem warmImage_wf {m : Mem} (w : Memory.wf m = true) : Memory.wf (warmImage m) = true := memKeep_wf _ w

theorem canBuffers_wf {x : Mem} (base : Nat) (c : List Word) (w : Memory.wf x = true) :
    Memory.wf (canBuffers base c x) = true :=
  foldl_wf (fun _ _ h => memWrite_wf _ _ h) _ (memClear_wf _ _ w)

theorem remapSeqs_wf {x : Mem} (old : Option Bank) (new : Bank) (w : Memory.wf x = true) :
    Memory.wf (remapSeqs old new x) = true :=
  foldl_wf (fun _ _ h => memWriteWord_wf _ _ h) _ (memClear_wf _ _ w)

theorem storeFrames_wf {x : Mem} (b : Bank) (t : Nat) (frames : List (Nat × FrameRec × List Byte)) (w : Memory.wf x = true) :
    Memory.wf (storeFrames b t frames x) = true :=
  memWriteWord_wf _ _ (foldl_wf (fun _ _ h => memWriteWord_wf _ _ h) _ (foldl_wf (fun _ _ h => memWriteBytes_wf _ _ h) _ w))

theorem applyJournal_wf {h : Mem} (j : Journal) (w : Memory.wf h = true) : Memory.wf (applyJournal h j) = true :=
  foldl_wf (fun _ _ h => memWrite_wf _ _ h) _ w

theorem commitOne_wf {f : Fram} (w : Memory.wf f.home = true) : Memory.wf (commitOne f).home = true := by
  unfold commitOne
  split
  · exact w
  · split
    · exact w
    · exact foldl_wf (fun _ _ h => applyJournal_wf _ h) _ w

theorem commitN_wf {f : Fram} (n : Nat) (w : Memory.wf f.home = true) : Memory.wf (commitN n f).home = true := by
  induction n generalizing f with
  | zero => exact w
  | succ n ih => exact ih (commitOne_wf w)

theorem commitAll_wf {f : Fram} (w : Memory.wf f.home = true) : Memory.wf (commitAll f).home = true := commitN_wf _ w

/-- The home copy laid out anew is in canonical form, whatever it was. -/
theorem reformatHome_wf (b : Bank) (f : Fram) : Memory.wf (reformatHome b f).home = true :=
  foldl_wf (fun _ _ h => memWriteWord_wf _ _ h) _ (foldl_wf (fun _ _ h => memWrite_wf _ _ h) _ rfl)

theorem writeFram_wf {f : Fram} (a : Nat) (d : List Byte) (w : Memory.wf f.home = true) :
    Memory.wf (writeFram a d f).home = true := by
  unfold writeFram
  split
  · exact memWriteBytes_wf _ _ w
  · split
    · exact w
    · split <;> exact w

/-! ### Evaluation -/

theorem commit_wf {e : Ev} (k : ElKind) (i : Nat) (v : Dword) (w : Memory.wf e.mem = true) :
    Memory.wf (e.commit k i v).mem = true :=
  elWrite_wf k i v w

/-- A fold of steps of an evaluation that keep the canonical form keeps it. -/
theorem foldl_ev_wf {α : Type} {f : Ev → α → Ev} (h : ∀ e a, Memory.wf e.mem = true → Memory.wf (f e a).mem = true)
    (l : List α) {e : Ev} (w : Memory.wf e.mem = true) : Memory.wf (l.foldl f e).mem = true := by
  induction l generalizing e with
  | nil => exact w
  | cons a l ih => exact ih (h e a w)

theorem commitQ_wf {e : Ev} (a : Option Lit) (v : Bool) (w : Memory.wf e.mem = true) : Memory.wf (commitQ a v e).mem = true := by
  unfold commitQ
  split
  · exact commit_wf _ _ _ w
  · exact w

theorem commitResource_wf {e : Ev} (r : Nat) (v : Bool) (w : Memory.wf e.mem = true) :
    Memory.wf (commitResource r v e).mem = true := by
  unfold commitResource
  split
  · exact w
  · exact commit_wf _ _ _ w

theorem commitResources_wf {e : Ev} (set : List Nat) (mask : Dword) (v : Bool) (w : Memory.wf e.mem = true) :
    Memory.wf (commitResources set mask v e).mem = true := by
  refine foldl_ev_wf (fun e r h => ?_) _ w
  split
  · exact commitResource_wf _ _ h
  · exact h

theorem claimStep_wf {e : Ev} (b : Bank) (kind g : Nat) (arg : Option Lit) (s : Bool) (w : Memory.wf e.mem = true) :
    Memory.wf (claimStep b kind g arg s e).mem = true := by
  unfold claimStep
  dsimp only
  split
  · split
    · exact commitQ_wf _ _ (commitResources_wf _ _ _ (commit_wf _ _ _ w))
    · exact commitQ_wf _ _ w
  · split
    · split
      · exact commitQ_wf _ _ w
      · exact commitQ_wf _ _ (commitResources_wf _ _ _ (commit_wf _ _ _ w))
    · exact commitQ_wf _ _ w
  · split
    · split
      · exact commitResource_wf _ _ (commit_wf _ _ _ w)
      · exact w
    · exact w

theorem headStep_wf {e : Ev} (c : EvalCtx) (q : Equation) (s1 s2 s3 : Bool) (w : Memory.wf e.mem = true) :
    Memory.wf (headStep c q s1 s2 s3 e).mem = true := by
  unfold headStep
  dsimp only
  split
  · split
    · exact commit_wf _ _ _ w
    · split
      · exact commit_wf _ _ _ w
      · exact w
    · split
      · exact commit_wf _ _ _ w
      · exact w
  · exact commit_wf _ _ _ w
  · exact commitQ_wf _ _ (commit_wf _ _ _ (commit_wf _ _ _ w))
  · exact commitQ_wf _ _ (commit_wf _ _ _ (commit_wf _ _ _ w))
  · split
    · exact commit_wf _ _ _ w
    · exact w
  · split
    · exact commit_wf _ _ _ w
    · exact w
  · exact claimStep_wf _ _ _ _ _ w
  · exact w

theorem commitEdges_wf {e : Ev} (m : Mem) (os : List Operand) (w : Memory.wf e.mem = true) :
    Memory.wf (commitEdges m os e).mem = true :=
  foldl_ev_wf (fun _ _ h => commit_wf _ _ _ h) _ w

theorem evalEquation_wf {e : Ev} (c : EvalCtx) (q : Equation) (w : Memory.wf e.mem = true) :
    Memory.wf (evalEquation c q e).mem = true :=
  headStep_wf _ _ _ _ _ (commitEdges_wf _ _ w)

theorem runEquations_wf {e : Ev} (c : EvalCtx) (es : List (Nat × Equation)) (pc stop : Nat) (w : Memory.wf e.mem = true) :
    Memory.wf (runEquations c es pc stop e).mem = true := by
  refine foldl_ev_wf (fun e q h => ?_) _ w
  split
  · exact evalEquation_wf _ _ h
  · exact h

theorem loadEdges_wf {m : Mem} (p : Fresh → Bool) (m0 : Mem) (q : Equation) (w : Memory.wf m = true) :
    Memory.wf (loadEdges p m0 q m) = true := by
  refine foldl_wf (fun m o h => ?_) _ w
  split
  · exact elWrite_wf _ _ _ h
  · exact h

theorem loadPrev_wf {m : Mem} (c : EvalCtx) (p : Fresh → Bool) (m0 : Mem) (q : Equation) (w : Memory.wf m = true) :
    Memory.wf (loadPrev c p m0 q m) = true := by
  unfold loadPrev
  dsimp only
  split
  · exact elWrite_wf _ _ _ w
  · split
    · exact elWrite_wf _ _ _ w
    · exact w

theorem loadPrevious_wf {m : Mem} (c : EvalCtx) (p : Fresh → Bool) (es : List (Nat × Equation)) (w : Memory.wf m = true) :
    Memory.wf (loadPrevious c p es m) = true :=
  foldl_wf (fun _ _ h => loadPrev_wf _ _ _ _ h) _ (foldl_wf (fun _ _ h => loadEdges_wf _ _ _ h) _ w)

/-! ### Input latch, remap, restore -/

theorem writeInputs_wf {m : Mem} (b : Bank) (c : OcRec) (value : ObjRec → TypeRec → Nat → Bool) (w : Memory.wf m = true) :
    Memory.wf (writeInputs b c value m) = true :=
  foldl_wf (fun _ _ h => foldl_wf (fun _ _ h => bitWrite_wf _ _ _ h) _ h) _ w

theorem latchEntry_wf {m : Mem} (b : Bank) (t : Nat) (ws : List Word) (e : Nat) (w : Memory.wf m = true) :
    Memory.wf (latchEntry b t ws e m) = true := by
  unfold latchEntry
  dsimp only
  split
  · exact w
  · split
    · split
      · exact bitWrite_wf _ _ _ (bitWrite_wf _ _ _ w)
      · exact bitWrite_wf _ _ _ w
    · split
      · split
        · exact bitWrite_wf _ _ _ w
        · exact w
      · exact bitWrite_wf _ _ _ w

theorem latchLocal_wf {m : Mem} (b : Bank) (t : Nat) (ws : List Word) (w : Memory.wf m = true) :
    Memory.wf (latchLocal b t ws m) = true :=
  foldl_wf (fun _ _ h => latchEntry_wf _ _ _ _ h) _ w

theorem latchHost_wf {m : Mem} (b : Bank) (t : Nat) (bytes : List Byte) (w : Memory.wf m = true) :
    Memory.wf (latchHost b t bytes m) = true := by
  refine foldl_wf (fun m k h => ?_) _ w
  split
  · exact bitWrite_wf _ _ _ h
  · exact h

theorem overRange_wf {e : Ev} (n : Nat) {f : Nat → Ev → Ev}
    (h : ∀ i e, Memory.wf e.mem = true → Memory.wf (f i e).mem = true) (w : Memory.wf e.mem = true) :
    Memory.wf (overRange n f e).mem = true :=
  foldl_ev_wf (fun e i he => h i e he) _ w

theorem remapImage_wf {m : Mem} (old : Option Bank) (new : Bank) (sig : Dword) (w : Memory.wf m = true) :
    Memory.wf (remapImage old new m sig).mem = true := by
  unfold remapImage
  refine overRange_wf _ (fun i e h => commit_wf _ _ _ h) ?_
  refine foldl_ev_wf (fun e r h => commit_wf _ _ _ h) _ ?_
  refine overRange_wf _ (fun i e h => commit_wf _ _ _ h) ?_
  refine overRange_wf _ (fun i e h => ?_) ?_
  · unfold remapEdge
    split <;> exact commit_wf _ _ _ h
  refine overRange_wf _ (fun i e h => ?_) ?_
  · unfold remapCounter
    split <;> exact commit_wf _ _ _ (commit_wf _ _ _ h)
  refine overRange_wf _ (fun i e h => commit_wf _ _ _ (commit_wf _ _ _ h)) ?_
  exact clearElements_wf w

theorem restoreImage_wf {m : Mem} (b : Bank) (f : Fram) (w : Memory.wf m = true) :
    Memory.wf (restoreImage b f m) = true := by
  unfold restoreImage
  refine overRange_wf _ (fun i e h => commit_wf _ _ _ (commit_wf _ _ _ h)) ?_
  refine overRange_wf _ (fun i e h => commit_wf _ _ _ h) ?_
  refine overRange_wf _ (fun i e h => commit_wf _ _ _ h) ?_
  exact overRange_wf _ (fun i e h => commit_wf _ _ _ h) w

end Sys2Proof.Machine
end

