-- ==== Sys2Proof/Laws/State.lean ====
section
/-!
SUPPORT. What each update of a field of State leaves alone: one lemma per field per update, so that no proof unfolds a
record update.
-/
namespace Sys2Proof.Machine

@[simp] theorem State.updMstate_pending (f : MState → MState) (s : State) : (s.updMstate f).pending = s.pending := rfl
@[simp] theorem State.updMstate_mstate (f : MState → MState) (s : State) : (s.updMstate f).mstate = f s.mstate := rfl
@[simp] theorem State.updMstate_holdFrom (f : MState → MState) (s : State) : (s.updMstate f).holdFrom = s.holdFrom := rfl
@[simp] theorem State.updMstate_resetHold (f : MState → MState) (s : State) : (s.updMstate f).resetHold = s.resetHold := rfl
@[simp] theorem State.updMstate_testsDone (f : MState → MState) (s : State) : (s.updMstate f).testsDone = s.testsDone := rfl
@[simp] theorem State.updMstate_fromDormant (f : MState → MState) (s : State) : (s.updMstate f).fromDormant = s.fromDormant := rfl
@[simp] theorem State.updMstate_power (f : MState → MState) (s : State) : (s.updMstate f).power = s.power := rfl
@[simp] theorem State.updMstate_mem (f : MState → MState) (s : State) : (s.updMstate f).mem = s.mem := rfl
@[simp] theorem State.updMstate_xsram (f : MState → MState) (s : State) : (s.updMstate f).xsram = s.xsram := rfl
@[simp] theorem State.updMstate_tb (f : MState → MState) (s : State) : (s.updMstate f).tb = s.tb := rfl
@[simp] theorem State.updMstate_lanes (f : MState → MState) (s : State) : (s.updMstate f).lanes = s.lanes := rfl
@[simp] theorem State.updMstate_voter (f : MState → MState) (s : State) : (s.updMstate f).voter = s.voter := rfl
@[simp] theorem State.updMstate_fcu (f : MState → MState) (s : State) : (s.updMstate f).fcu = s.fcu := rfl
@[simp] theorem State.updMstate_ice (f : MState → MState) (s : State) : (s.updMstate f).ice = s.ice := rfl
@[simp] theorem State.updMstate_prog (f : MState → MState) (s : State) : (s.updMstate f).prog = s.prog := rfl
@[simp] theorem State.updMstate_tasks (f : MState → MState) (s : State) : (s.updMstate f).tasks = s.tasks := rfl
@[simp] theorem State.updMstate_fram (f : MState → MState) (s : State) : (s.updMstate f).fram = s.fram := rfl
@[simp] theorem State.updMstate_twin (f : MState → MState) (s : State) : (s.updMstate f).twin = s.twin := rfl
@[simp] theorem State.updMstate_floe (f : MState → MState) (s : State) : (s.updMstate f).floe = s.floe := rfl
@[simp] theorem State.updMstate_io (f : MState → MState) (s : State) : (s.updMstate f).io = s.io := rfl
@[simp] theorem State.updMstate_hif (f : MState → MState) (s : State) : (s.updMstate f).hif = s.hif := rfl
@[simp] theorem State.updMstate_fw (f : MState → MState) (s : State) : (s.updMstate f).fw = s.fw := rfl
@[simp] theorem State.updMstate_keys (f : MState → MState) (s : State) : (s.updMstate f).keys = s.keys := rfl
@[simp] theorem State.updMstate_fabric (f : MState → MState) (s : State) : (s.updMstate f).fabric = s.fabric := rfl
@[simp] theorem State.updMstate_can1 (f : MState → MState) (s : State) : (s.updMstate f).can1 = s.can1 := rfl
@[simp] theorem State.updMstate_can2 (f : MState → MState) (s : State) : (s.updMstate f).can2 = s.can2 := rfl
@[simp] theorem State.updMstate_jtag (f : MState → MState) (s : State) : (s.updMstate f).jtag = s.jtag := rfl
@[simp] theorem State.updMstate_rimeArmed (f : MState → MState) (s : State) : (s.updMstate f).rimeArmed = s.rimeArmed := rfl
@[simp] theorem State.updMstate_maintEn (f : MState → MState) (s : State) : (s.updMstate f).maintEn = s.maintEn := rfl
@[simp] theorem State.updMstate_freeCtr (f : MState → MState) (s : State) : (s.updMstate f).freeCtr = s.freeCtr := rfl
@[simp] theorem State.updHoldFrom_pending (f : MState → MState) (s : State) : (s.updHoldFrom f).pending = s.pending := rfl
@[simp] theorem State.updHoldFrom_mstate (f : MState → MState) (s : State) : (s.updHoldFrom f).mstate = s.mstate := rfl
@[simp] theorem State.updHoldFrom_holdFrom (f : MState → MState) (s : State) : (s.updHoldFrom f).holdFrom = f s.holdFrom := rfl
@[simp] theorem State.updHoldFrom_resetHold (f : MState → MState) (s : State) : (s.updHoldFrom f).resetHold = s.resetHold := rfl
@[simp] theorem State.updHoldFrom_testsDone (f : MState → MState) (s : State) : (s.updHoldFrom f).testsDone = s.testsDone := rfl
@[simp] theorem State.updHoldFrom_fromDormant (f : MState → MState) (s : State) : (s.updHoldFrom f).fromDormant = s.fromDormant := rfl
@[simp] theorem State.updHoldFrom_power (f : MState → MState) (s : State) : (s.updHoldFrom f).power = s.power := rfl
@[simp] theorem State.updHoldFrom_mem (f : MState → MState) (s : State) : (s.updHoldFrom f).mem = s.mem := rfl
@[simp] theorem State.updHoldFrom_xsram (f : MState → MState) (s : State) : (s.updHoldFrom f).xsram = s.xsram := rfl
@[simp] theorem State.updHoldFrom_tb (f : MState → MState) (s : State) : (s.updHoldFrom f).tb = s.tb := rfl
@[simp] theorem State.updHoldFrom_lanes (f : MState → MState) (s : State) : (s.updHoldFrom f).lanes = s.lanes := rfl
@[simp] theorem State.updHoldFrom_voter (f : MState → MState) (s : State) : (s.updHoldFrom f).voter = s.voter := rfl
@[simp] theorem State.updHoldFrom_fcu (f : MState → MState) (s : State) : (s.updHoldFrom f).fcu = s.fcu := rfl
@[simp] theorem State.updHoldFrom_ice (f : MState → MState) (s : State) : (s.updHoldFrom f).ice = s.ice := rfl
@[simp] theorem State.updHoldFrom_prog (f : MState → MState) (s : State) : (s.updHoldFrom f).prog = s.prog := rfl
@[simp] theorem State.updHoldFrom_tasks (f : MState → MState) (s : State) : (s.updHoldFrom f).tasks = s.tasks := rfl
@[simp] theorem State.updHoldFrom_fram (f : MState → MState) (s : State) : (s.updHoldFrom f).fram = s.fram := rfl
@[simp] theorem State.updHoldFrom_twin (f : MState → MState) (s : State) : (s.updHoldFrom f).twin = s.twin := rfl
@[simp] theorem State.updHoldFrom_floe (f : MState → MState) (s : State) : (s.updHoldFrom f).floe = s.floe := rfl
@[simp] theorem State.updHoldFrom_io (f : MState → MState) (s : State) : (s.updHoldFrom f).io = s.io := rfl
@[simp] theorem State.updHoldFrom_hif (f : MState → MState) (s : State) : (s.updHoldFrom f).hif = s.hif := rfl
@[simp] theorem State.updHoldFrom_fw (f : MState → MState) (s : State) : (s.updHoldFrom f).fw = s.fw := rfl
@[simp] theorem State.updHoldFrom_keys (f : MState → MState) (s : State) : (s.updHoldFrom f).keys = s.keys := rfl
@[simp] theorem State.updHoldFrom_fabric (f : MState → MState) (s : State) : (s.updHoldFrom f).fabric = s.fabric := rfl
@[simp] theorem State.updHoldFrom_can1 (f : MState → MState) (s : State) : (s.updHoldFrom f).can1 = s.can1 := rfl
@[simp] theorem State.updHoldFrom_can2 (f : MState → MState) (s : State) : (s.updHoldFrom f).can2 = s.can2 := rfl
@[simp] theorem State.updHoldFrom_jtag (f : MState → MState) (s : State) : (s.updHoldFrom f).jtag = s.jtag := rfl
@[simp] theorem State.updHoldFrom_rimeArmed (f : MState → MState) (s : State) : (s.updHoldFrom f).rimeArmed = s.rimeArmed := rfl
@[simp] theorem State.updHoldFrom_maintEn (f : MState → MState) (s : State) : (s.updHoldFrom f).maintEn = s.maintEn := rfl
@[simp] theorem State.updHoldFrom_freeCtr (f : MState → MState) (s : State) : (s.updHoldFrom f).freeCtr = s.freeCtr := rfl
@[simp] theorem State.updResetHold_pending (f : Option Nat → Option Nat) (s : State) : (s.updResetHold f).pending = s.pending := rfl
@[simp] theorem State.updResetHold_mstate (f : Option Nat → Option Nat) (s : State) : (s.updResetHold f).mstate = s.mstate := rfl
@[simp] theorem State.updResetHold_holdFrom (f : Option Nat → Option Nat) (s : State) : (s.updResetHold f).holdFrom = s.holdFrom := rfl
@[simp] theorem State.updResetHold_resetHold (f : Option Nat → Option Nat) (s : State) : (s.updResetHold f).resetHold = f s.resetHold := rfl
@[simp] theorem State.updResetHold_testsDone (f : Option Nat → Option Nat) (s : State) : (s.updResetHold f).testsDone = s.testsDone := rfl
@[simp] theorem State.updResetHold_fromDormant (f : Option Nat → Option Nat) (s : State) : (s.updResetHold f).fromDormant = s.fromDormant := rfl
@[simp] theorem State.updResetHold_power (f : Option Nat → Option Nat) (s : State) : (s.updResetHold f).power = s.power := rfl
@[simp] theorem State.updResetHold_mem (f : Option Nat → Option Nat) (s : State) : (s.updResetHold f).mem = s.mem := rfl
@[simp] theorem State.updResetHold_xsram (f : Option Nat → Option Nat) (s : State) : (s.updResetHold f).xsram = s.xsram := rfl
@[simp] theorem State.updResetHold_tb (f : Option Nat → Option Nat) (s : State) : (s.updResetHold f).tb = s.tb := rfl
@[simp] theorem State.updResetHold_lanes (f : Option Nat → Option Nat) (s : State) : (s.updResetHold f).lanes = s.lanes := rfl
@[simp] theorem State.updResetHold_voter (f : Option Nat → Option Nat) (s : State) : (s.updResetHold f).voter = s.voter := rfl
@[simp] theorem State.updResetHold_fcu (f : Option Nat → Option Nat) (s : State) : (s.updResetHold f).fcu = s.fcu := rfl
@[simp] theorem State.updResetHold_ice (f : Option Nat → Option Nat) (s : State) : (s.updResetHold f).ice = s.ice := rfl
@[simp] theorem State.updResetHold_prog (f : Option Nat → Option Nat) (s : State) : (s.updResetHold f).prog = s.prog := rfl
@[simp] theorem State.updResetHold_tasks (f : Option Nat → Option Nat) (s : State) : (s.updResetHold f).tasks = s.tasks := rfl
@[simp] theorem State.updResetHold_fram (f : Option Nat → Option Nat) (s : State) : (s.updResetHold f).fram = s.fram := rfl
@[simp] theorem State.updResetHold_twin (f : Option Nat → Option Nat) (s : State) : (s.updResetHold f).twin = s.twin := rfl
@[simp] theorem State.updResetHold_floe (f : Option Nat → Option Nat) (s : State) : (s.updResetHold f).floe = s.floe := rfl
@[simp] theorem State.updResetHold_io (f : Option Nat → Option Nat) (s : State) : (s.updResetHold f).io = s.io := rfl
@[simp] theorem State.updResetHold_hif (f : Option Nat → Option Nat) (s : State) : (s.updResetHold f).hif = s.hif := rfl
@[simp] theorem State.updResetHold_fw (f : Option Nat → Option Nat) (s : State) : (s.updResetHold f).fw = s.fw := rfl
@[simp] theorem State.updResetHold_keys (f : Option Nat → Option Nat) (s : State) : (s.updResetHold f).keys = s.keys := rfl
@[simp] theorem State.updResetHold_fabric (f : Option Nat → Option Nat) (s : State) : (s.updResetHold f).fabric = s.fabric := rfl
@[simp] theorem State.updResetHold_can1 (f : Option Nat → Option Nat) (s : State) : (s.updResetHold f).can1 = s.can1 := rfl
@[simp] theorem State.updResetHold_can2 (f : Option Nat → Option Nat) (s : State) : (s.updResetHold f).can2 = s.can2 := rfl
@[simp] theorem State.updResetHold_jtag (f : Option Nat → Option Nat) (s : State) : (s.updResetHold f).jtag = s.jtag := rfl
@[simp] theorem State.updResetHold_rimeArmed (f : Option Nat → Option Nat) (s : State) : (s.updResetHold f).rimeArmed = s.rimeArmed := rfl
@[simp] theorem State.updResetHold_maintEn (f : Option Nat → Option Nat) (s : State) : (s.updResetHold f).maintEn = s.maintEn := rfl
@[simp] theorem State.updResetHold_freeCtr (f : Option Nat → Option Nat) (s : State) : (s.updResetHold f).freeCtr = s.freeCtr := rfl
@[simp] theorem State.updTestsDone_pending (f : Bool → Bool) (s : State) : (s.updTestsDone f).pending = s.pending := rfl
@[simp] theorem State.updTestsDone_mstate (f : Bool → Bool) (s : State) : (s.updTestsDone f).mstate = s.mstate := rfl
@[simp] theorem State.updTestsDone_holdFrom (f : Bool → Bool) (s : State) : (s.updTestsDone f).holdFrom = s.holdFrom := rfl
@[simp] theorem State.updTestsDone_resetHold (f : Bool → Bool) (s : State) : (s.updTestsDone f).resetHold = s.resetHold := rfl
@[simp] theorem State.updTestsDone_testsDone (f : Bool → Bool) (s : State) : (s.updTestsDone f).testsDone = f s.testsDone := rfl
@[simp] theorem State.updTestsDone_fromDormant (f : Bool → Bool) (s : State) : (s.updTestsDone f).fromDormant = s.fromDormant := rfl
@[simp] theorem State.updTestsDone_power (f : Bool → Bool) (s : State) : (s.updTestsDone f).power = s.power := rfl
@[simp] theorem State.updTestsDone_mem (f : Bool → Bool) (s : State) : (s.updTestsDone f).mem = s.mem := rfl
@[simp] theorem State.updTestsDone_xsram (f : Bool → Bool) (s : State) : (s.updTestsDone f).xsram = s.xsram := rfl
@[simp] theorem State.updTestsDone_tb (f : Bool → Bool) (s : State) : (s.updTestsDone f).tb = s.tb := rfl
@[simp] theorem State.updTestsDone_lanes (f : Bool → Bool) (s : State) : (s.updTestsDone f).lanes = s.lanes := rfl
@[simp] theorem State.updTestsDone_voter (f : Bool → Bool) (s : State) : (s.updTestsDone f).voter = s.voter := rfl
@[simp] theorem State.updTestsDone_fcu (f : Bool → Bool) (s : State) : (s.updTestsDone f).fcu = s.fcu := rfl
@[simp] theorem State.updTestsDone_ice (f : Bool → Bool) (s : State) : (s.updTestsDone f).ice = s.ice := rfl
@[simp] theorem State.updTestsDone_prog (f : Bool → Bool) (s : State) : (s.updTestsDone f).prog = s.prog := rfl
@[simp] theorem State.updTestsDone_tasks (f : Bool → Bool) (s : State) : (s.updTestsDone f).tasks = s.tasks := rfl
@[simp] theorem State.updTestsDone_fram (f : Bool → Bool) (s : State) : (s.updTestsDone f).fram = s.fram := rfl
@[simp] theorem State.updTestsDone_twin (f : Bool → Bool) (s : State) : (s.updTestsDone f).twin = s.twin := rfl
@[simp] theorem State.updTestsDone_floe (f : Bool → Bool) (s : State) : (s.updTestsDone f).floe = s.floe := rfl
@[simp] theorem State.updTestsDone_io (f : Bool → Bool) (s : State) : (s.updTestsDone f).io = s.io := rfl
@[simp] theorem State.updTestsDone_hif (f : Bool → Bool) (s : State) : (s.updTestsDone f).hif = s.hif := rfl
@[simp] theorem State.updTestsDone_fw (f : Bool → Bool) (s : State) : (s.updTestsDone f).fw = s.fw := rfl
@[simp] theorem State.updTestsDone_keys (f : Bool → Bool) (s : State) : (s.updTestsDone f).keys = s.keys := rfl
@[simp] theorem State.updTestsDone_fabric (f : Bool → Bool) (s : State) : (s.updTestsDone f).fabric = s.fabric := rfl
@[simp] theorem State.updTestsDone_can1 (f : Bool → Bool) (s : State) : (s.updTestsDone f).can1 = s.can1 := rfl
@[simp] theorem State.updTestsDone_can2 (f : Bool → Bool) (s : State) : (s.updTestsDone f).can2 = s.can2 := rfl
@[simp] theorem State.updTestsDone_jtag (f : Bool → Bool) (s : State) : (s.updTestsDone f).jtag = s.jtag := rfl
@[simp] theorem State.updTestsDone_rimeArmed (f : Bool → Bool) (s : State) : (s.updTestsDone f).rimeArmed = s.rimeArmed := rfl
@[simp] theorem State.updTestsDone_maintEn (f : Bool → Bool) (s : State) : (s.updTestsDone f).maintEn = s.maintEn := rfl
@[simp] theorem State.updTestsDone_freeCtr (f : Bool → Bool) (s : State) : (s.updTestsDone f).freeCtr = s.freeCtr := rfl
@[simp] theorem State.updFromDormant_pending (f : Bool → Bool) (s : State) : (s.updFromDormant f).pending = s.pending := rfl
@[simp] theorem State.updFromDormant_mstate (f : Bool → Bool) (s : State) : (s.updFromDormant f).mstate = s.mstate := rfl
@[simp] theorem State.updFromDormant_holdFrom (f : Bool → Bool) (s : State) : (s.updFromDormant f).holdFrom = s.holdFrom := rfl
@[simp] theorem State.updFromDormant_resetHold (f : Bool → Bool) (s : State) : (s.updFromDormant f).resetHold = s.resetHold := rfl
@[simp] theorem State.updFromDormant_testsDone (f : Bool → Bool) (s : State) : (s.updFromDormant f).testsDone = s.testsDone := rfl
@[simp] theorem State.updFromDormant_fromDormant (f : Bool → Bool) (s : State) : (s.updFromDormant f).fromDormant = f s.fromDormant := rfl
@[simp] theorem State.updFromDormant_power (f : Bool → Bool) (s : State) : (s.updFromDormant f).power = s.power := rfl
@[simp] theorem State.updFromDormant_mem (f : Bool → Bool) (s : State) : (s.updFromDormant f).mem = s.mem := rfl
@[simp] theorem State.updFromDormant_xsram (f : Bool → Bool) (s : State) : (s.updFromDormant f).xsram = s.xsram := rfl
@[simp] theorem State.updFromDormant_tb (f : Bool → Bool) (s : State) : (s.updFromDormant f).tb = s.tb := rfl
@[simp] theorem State.updFromDormant_lanes (f : Bool → Bool) (s : State) : (s.updFromDormant f).lanes = s.lanes := rfl
@[simp] theorem State.updFromDormant_voter (f : Bool → Bool) (s : State) : (s.updFromDormant f).voter = s.voter := rfl
@[simp] theorem State.updFromDormant_fcu (f : Bool → Bool) (s : State) : (s.updFromDormant f).fcu = s.fcu := rfl
@[simp] theorem State.updFromDormant_ice (f : Bool → Bool) (s : State) : (s.updFromDormant f).ice = s.ice := rfl
@[simp] theorem State.updFromDormant_prog (f : Bool → Bool) (s : State) : (s.updFromDormant f).prog = s.prog := rfl
@[simp] theorem State.updFromDormant_tasks (f : Bool → Bool) (s : State) : (s.updFromDormant f).tasks = s.tasks := rfl
@[simp] theorem State.updFromDormant_fram (f : Bool → Bool) (s : State) : (s.updFromDormant f).fram = s.fram := rfl
@[simp] theorem State.updFromDormant_twin (f : Bool → Bool) (s : State) : (s.updFromDormant f).twin = s.twin := rfl
@[simp] theorem State.updFromDormant_floe (f : Bool → Bool) (s : State) : (s.updFromDormant f).floe = s.floe := rfl
@[simp] theorem State.updFromDormant_io (f : Bool → Bool) (s : State) : (s.updFromDormant f).io = s.io := rfl
@[simp] theorem State.updFromDormant_hif (f : Bool → Bool) (s : State) : (s.updFromDormant f).hif = s.hif := rfl
@[simp] theorem State.updFromDormant_fw (f : Bool → Bool) (s : State) : (s.updFromDormant f).fw = s.fw := rfl
@[simp] theorem State.updFromDormant_keys (f : Bool → Bool) (s : State) : (s.updFromDormant f).keys = s.keys := rfl
@[simp] theorem State.updFromDormant_fabric (f : Bool → Bool) (s : State) : (s.updFromDormant f).fabric = s.fabric := rfl
@[simp] theorem State.updFromDormant_can1 (f : Bool → Bool) (s : State) : (s.updFromDormant f).can1 = s.can1 := rfl
@[simp] theorem State.updFromDormant_can2 (f : Bool → Bool) (s : State) : (s.updFromDormant f).can2 = s.can2 := rfl
@[simp] theorem State.updFromDormant_jtag (f : Bool → Bool) (s : State) : (s.updFromDormant f).jtag = s.jtag := rfl
@[simp] theorem State.updFromDormant_rimeArmed (f : Bool → Bool) (s : State) : (s.updFromDormant f).rimeArmed = s.rimeArmed := rfl
@[simp] theorem State.updFromDormant_maintEn (f : Bool → Bool) (s : State) : (s.updFromDormant f).maintEn = s.maintEn := rfl
@[simp] theorem State.updFromDormant_freeCtr (f : Bool → Bool) (s : State) : (s.updFromDormant f).freeCtr = s.freeCtr := rfl
@[simp] theorem State.updPower_pending (f : Power → Power) (s : State) : (s.updPower f).pending = s.pending := rfl
@[simp] theorem State.updPower_mstate (f : Power → Power) (s : State) : (s.updPower f).mstate = s.mstate := rfl
@[simp] theorem State.updPower_holdFrom (f : Power → Power) (s : State) : (s.updPower f).holdFrom = s.holdFrom := rfl
@[simp] theorem State.updPower_resetHold (f : Power → Power) (s : State) : (s.updPower f).resetHold = s.resetHold := rfl
@[simp] theorem State.updPower_testsDone (f : Power → Power) (s : State) : (s.updPower f).testsDone = s.testsDone := rfl
@[simp] theorem State.updPower_fromDormant (f : Power → Power) (s : State) : (s.updPower f).fromDormant = s.fromDormant := rfl
@[simp] theorem State.updPower_power (f : Power → Power) (s : State) : (s.updPower f).power = f s.power := rfl
@[simp] theorem State.updPower_mem (f : Power → Power) (s : State) : (s.updPower f).mem = s.mem := rfl
@[simp] theorem State.updPower_xsram (f : Power → Power) (s : State) : (s.updPower f).xsram = s.xsram := rfl
@[simp] theorem State.updPower_tb (f : Power → Power) (s : State) : (s.updPower f).tb = s.tb := rfl
@[simp] theorem State.updPower_lanes (f : Power → Power) (s : State) : (s.updPower f).lanes = s.lanes := rfl
@[simp] theorem State.updPower_voter (f : Power → Power) (s : State) : (s.updPower f).voter = s.voter := rfl
@[simp] theorem State.updPower_fcu (f : Power → Power) (s : State) : (s.updPower f).fcu = s.fcu := rfl
@[simp] theorem State.updPower_ice (f : Power → Power) (s : State) : (s.updPower f).ice = s.ice := rfl
@[simp] theorem State.updPower_prog (f : Power → Power) (s : State) : (s.updPower f).prog = s.prog := rfl
@[simp] theorem State.updPower_tasks (f : Power → Power) (s : State) : (s.updPower f).tasks = s.tasks := rfl
@[simp] theorem State.updPower_fram (f : Power → Power) (s : State) : (s.updPower f).fram = s.fram := rfl
@[simp] theorem State.updPower_twin (f : Power → Power) (s : State) : (s.updPower f).twin = s.twin := rfl
@[simp] theorem State.updPower_floe (f : Power → Power) (s : State) : (s.updPower f).floe = s.floe := rfl
@[simp] theorem State.updPower_io (f : Power → Power) (s : State) : (s.updPower f).io = s.io := rfl
@[simp] theorem State.updPower_hif (f : Power → Power) (s : State) : (s.updPower f).hif = s.hif := rfl
@[simp] theorem State.updPower_fw (f : Power → Power) (s : State) : (s.updPower f).fw = s.fw := rfl
@[simp] theorem State.updPower_keys (f : Power → Power) (s : State) : (s.updPower f).keys = s.keys := rfl
@[simp] theorem State.updPower_fabric (f : Power → Power) (s : State) : (s.updPower f).fabric = s.fabric := rfl
@[simp] theorem State.updPower_can1 (f : Power → Power) (s : State) : (s.updPower f).can1 = s.can1 := rfl
@[simp] theorem State.updPower_can2 (f : Power → Power) (s : State) : (s.updPower f).can2 = s.can2 := rfl
@[simp] theorem State.updPower_jtag (f : Power → Power) (s : State) : (s.updPower f).jtag = s.jtag := rfl
@[simp] theorem State.updPower_rimeArmed (f : Power → Power) (s : State) : (s.updPower f).rimeArmed = s.rimeArmed := rfl
@[simp] theorem State.updPower_maintEn (f : Power → Power) (s : State) : (s.updPower f).maintEn = s.maintEn := rfl
@[simp] theorem State.updPower_freeCtr (f : Power → Power) (s : State) : (s.updPower f).freeCtr = s.freeCtr := rfl
@[simp] theorem State.updMem_pending (f : Mem → Mem) (s : State) : (s.updMem f).pending = s.pending := rfl
@[simp] theorem State.updMem_mstate (f : Mem → Mem) (s : State) : (s.updMem f).mstate = s.mstate := rfl
@[simp] theorem State.updMem_holdFrom (f : Mem → Mem) (s : State) : (s.updMem f).holdFrom = s.holdFrom := rfl
@[simp] theorem State.updMem_resetHold (f : Mem → Mem) (s : State) : (s.updMem f).resetHold = s.resetHold := rfl
@[simp] theorem State.updMem_testsDone (f : Mem → Mem) (s : State) : (s.updMem f).testsDone = s.testsDone := rfl
@[simp] theorem State.updMem_fromDormant (f : Mem → Mem) (s : State) : (s.updMem f).fromDormant = s.fromDormant := rfl
@[simp] theorem State.updMem_power (f : Mem → Mem) (s : State) : (s.updMem f).power = s.power := rfl
@[simp] theorem State.updMem_mem (f : Mem → Mem) (s : State) : (s.updMem f).mem = f s.mem := rfl
@[simp] theorem State.updMem_xsram (f : Mem → Mem) (s : State) : (s.updMem f).xsram = s.xsram := rfl
@[simp] theorem State.updMem_tb (f : Mem → Mem) (s : State) : (s.updMem f).tb = s.tb := rfl
@[simp] theorem State.updMem_lanes (f : Mem → Mem) (s : State) : (s.updMem f).lanes = s.lanes := rfl
@[simp] theorem State.updMem_voter (f : Mem → Mem) (s : State) : (s.updMem f).voter = s.voter := rfl
@[simp] theorem State.updMem_fcu (f : Mem → Mem) (s : State) : (s.updMem f).fcu = s.fcu := rfl
@[simp] theorem State.updMem_ice (f : Mem → Mem) (s : State) : (s.updMem f).ice = s.ice := rfl
@[simp] theorem State.updMem_prog (f : Mem → Mem) (s : State) : (s.updMem f).prog = s.prog := rfl
@[simp] theorem State.updMem_tasks (f : Mem → Mem) (s : State) : (s.updMem f).tasks = s.tasks := rfl
@[simp] theorem State.updMem_fram (f : Mem → Mem) (s : State) : (s.updMem f).fram = s.fram := rfl
@[simp] theorem State.updMem_twin (f : Mem → Mem) (s : State) : (s.updMem f).twin = s.twin := rfl
@[simp] theorem State.updMem_floe (f : Mem → Mem) (s : State) : (s.updMem f).floe = s.floe := rfl
@[simp] theorem State.updMem_io (f : Mem → Mem) (s : State) : (s.updMem f).io = s.io := rfl
@[simp] theorem State.updMem_hif (f : Mem → Mem) (s : State) : (s.updMem f).hif = s.hif := rfl
@[simp] theorem State.updMem_fw (f : Mem → Mem) (s : State) : (s.updMem f).fw = s.fw := rfl
@[simp] theorem State.updMem_keys (f : Mem → Mem) (s : State) : (s.updMem f).keys = s.keys := rfl
@[simp] theorem State.updMem_fabric (f : Mem → Mem) (s : State) : (s.updMem f).fabric = s.fabric := rfl
@[simp] theorem State.updMem_can1 (f : Mem → Mem) (s : State) : (s.updMem f).can1 = s.can1 := rfl
@[simp] theorem State.updMem_can2 (f : Mem → Mem) (s : State) : (s.updMem f).can2 = s.can2 := rfl
@[simp] theorem State.updMem_jtag (f : Mem → Mem) (s : State) : (s.updMem f).jtag = s.jtag := rfl
@[simp] theorem State.updMem_rimeArmed (f : Mem → Mem) (s : State) : (s.updMem f).rimeArmed = s.rimeArmed := rfl
@[simp] theorem State.updMem_maintEn (f : Mem → Mem) (s : State) : (s.updMem f).maintEn = s.maintEn := rfl
@[simp] theorem State.updMem_freeCtr (f : Mem → Mem) (s : State) : (s.updMem f).freeCtr = s.freeCtr := rfl
@[simp] theorem State.updXsram_pending (f : Mem → Mem) (s : State) : (s.updXsram f).pending = s.pending := rfl
@[simp] theorem State.updXsram_mstate (f : Mem → Mem) (s : State) : (s.updXsram f).mstate = s.mstate := rfl
@[simp] theorem State.updXsram_holdFrom (f : Mem → Mem) (s : State) : (s.updXsram f).holdFrom = s.holdFrom := rfl
@[simp] theorem State.updXsram_resetHold (f : Mem → Mem) (s : State) : (s.updXsram f).resetHold = s.resetHold := rfl
@[simp] theorem State.updXsram_testsDone (f : Mem → Mem) (s : State) : (s.updXsram f).testsDone = s.testsDone := rfl
@[simp] theorem State.updXsram_fromDormant (f : Mem → Mem) (s : State) : (s.updXsram f).fromDormant = s.fromDormant := rfl
@[simp] theorem State.updXsram_power (f : Mem → Mem) (s : State) : (s.updXsram f).power = s.power := rfl
@[simp] theorem State.updXsram_mem (f : Mem → Mem) (s : State) : (s.updXsram f).mem = s.mem := rfl
@[simp] theorem State.updXsram_xsram (f : Mem → Mem) (s : State) : (s.updXsram f).xsram = f s.xsram := rfl
@[simp] theorem State.updXsram_tb (f : Mem → Mem) (s : State) : (s.updXsram f).tb = s.tb := rfl
@[simp] theorem State.updXsram_lanes (f : Mem → Mem) (s : State) : (s.updXsram f).lanes = s.lanes := rfl
@[simp] theorem State.updXsram_voter (f : Mem → Mem) (s : State) : (s.updXsram f).voter = s.voter := rfl
@[simp] theorem State.updXsram_fcu (f : Mem → Mem) (s : State) : (s.updXsram f).fcu = s.fcu := rfl
@[simp] theorem State.updXsram_ice (f : Mem → Mem) (s : State) : (s.updXsram f).ice = s.ice := rfl
@[simp] theorem State.updXsram_prog (f : Mem → Mem) (s : State) : (s.updXsram f).prog = s.prog := rfl
@[simp] theorem State.updXsram_tasks (f : Mem → Mem) (s : State) : (s.updXsram f).tasks = s.tasks := rfl
@[simp] theorem State.updXsram_fram (f : Mem → Mem) (s : State) : (s.updXsram f).fram = s.fram := rfl
@[simp] theorem State.updXsram_twin (f : Mem → Mem) (s : State) : (s.updXsram f).twin = s.twin := rfl
@[simp] theorem State.updXsram_floe (f : Mem → Mem) (s : State) : (s.updXsram f).floe = s.floe := rfl
@[simp] theorem State.updXsram_io (f : Mem → Mem) (s : State) : (s.updXsram f).io = s.io := rfl
@[simp] theorem State.updXsram_hif (f : Mem → Mem) (s : State) : (s.updXsram f).hif = s.hif := rfl
@[simp] theorem State.updXsram_fw (f : Mem → Mem) (s : State) : (s.updXsram f).fw = s.fw := rfl
@[simp] theorem State.updXsram_keys (f : Mem → Mem) (s : State) : (s.updXsram f).keys = s.keys := rfl
@[simp] theorem State.updXsram_fabric (f : Mem → Mem) (s : State) : (s.updXsram f).fabric = s.fabric := rfl
@[simp] theorem State.updXsram_can1 (f : Mem → Mem) (s : State) : (s.updXsram f).can1 = s.can1 := rfl
@[simp] theorem State.updXsram_can2 (f : Mem → Mem) (s : State) : (s.updXsram f).can2 = s.can2 := rfl
@[simp] theorem State.updXsram_jtag (f : Mem → Mem) (s : State) : (s.updXsram f).jtag = s.jtag := rfl
@[simp] theorem State.updXsram_rimeArmed (f : Mem → Mem) (s : State) : (s.updXsram f).rimeArmed = s.rimeArmed := rfl
@[simp] theorem State.updXsram_maintEn (f : Mem → Mem) (s : State) : (s.updXsram f).maintEn = s.maintEn := rfl
@[simp] theorem State.updXsram_freeCtr (f : Mem → Mem) (s : State) : (s.updXsram f).freeCtr = s.freeCtr := rfl
@[simp] theorem State.updTb_pending (f : TimeBase → TimeBase) (s : State) : (s.updTb f).pending = s.pending := rfl
@[simp] theorem State.updTb_mstate (f : TimeBase → TimeBase) (s : State) : (s.updTb f).mstate = s.mstate := rfl
@[simp] theorem State.updTb_holdFrom (f : TimeBase → TimeBase) (s : State) : (s.updTb f).holdFrom = s.holdFrom := rfl
@[simp] theorem State.updTb_resetHold (f : TimeBase → TimeBase) (s : State) : (s.updTb f).resetHold = s.resetHold := rfl
@[simp] theorem State.updTb_testsDone (f : TimeBase → TimeBase) (s : State) : (s.updTb f).testsDone = s.testsDone := rfl
@[simp] theorem State.updTb_fromDormant (f : TimeBase → TimeBase) (s : State) : (s.updTb f).fromDormant = s.fromDormant := rfl
@[simp] theorem State.updTb_power (f : TimeBase → TimeBase) (s : State) : (s.updTb f).power = s.power := rfl
@[simp] theorem State.updTb_mem (f : TimeBase → TimeBase) (s : State) : (s.updTb f).mem = s.mem := rfl
@[simp] theorem State.updTb_xsram (f : TimeBase → TimeBase) (s : State) : (s.updTb f).xsram = s.xsram := rfl
@[simp] theorem State.updTb_tb (f : TimeBase → TimeBase) (s : State) : (s.updTb f).tb = f s.tb := rfl
@[simp] theorem State.updTb_lanes (f : TimeBase → TimeBase) (s : State) : (s.updTb f).lanes = s.lanes := rfl
@[simp] theorem State.updTb_voter (f : TimeBase → TimeBase) (s : State) : (s.updTb f).voter = s.voter := rfl
@[simp] theorem State.updTb_fcu (f : TimeBase → TimeBase) (s : State) : (s.updTb f).fcu = s.fcu := rfl
@[simp] theorem State.updTb_ice (f : TimeBase → TimeBase) (s : State) : (s.updTb f).ice = s.ice := rfl
@[simp] theorem State.updTb_prog (f : TimeBase → TimeBase) (s : State) : (s.updTb f).prog = s.prog := rfl
@[simp] theorem State.updTb_tasks (f : TimeBase → TimeBase) (s : State) : (s.updTb f).tasks = s.tasks := rfl
@[simp] theorem State.updTb_fram (f : TimeBase → TimeBase) (s : State) : (s.updTb f).fram = s.fram := rfl
@[simp] theorem State.updTb_twin (f : TimeBase → TimeBase) (s : State) : (s.updTb f).twin = s.twin := rfl
@[simp] theorem State.updTb_floe (f : TimeBase → TimeBase) (s : State) : (s.updTb f).floe = s.floe := rfl
@[simp] theorem State.updTb_io (f : TimeBase → TimeBase) (s : State) : (s.updTb f).io = s.io := rfl
@[simp] theorem State.updTb_hif (f : TimeBase → TimeBase) (s : State) : (s.updTb f).hif = s.hif := rfl
@[simp] theorem State.updTb_fw (f : TimeBase → TimeBase) (s : State) : (s.updTb f).fw = s.fw := rfl
@[simp] theorem State.updTb_keys (f : TimeBase → TimeBase) (s : State) : (s.updTb f).keys = s.keys := rfl
@[simp] theorem State.updTb_fabric (f : TimeBase → TimeBase) (s : State) : (s.updTb f).fabric = s.fabric := rfl
@[simp] theorem State.updTb_can1 (f : TimeBase → TimeBase) (s : State) : (s.updTb f).can1 = s.can1 := rfl
@[simp] theorem State.updTb_can2 (f : TimeBase → TimeBase) (s : State) : (s.updTb f).can2 = s.can2 := rfl
@[simp] theorem State.updTb_jtag (f : TimeBase → TimeBase) (s : State) : (s.updTb f).jtag = s.jtag := rfl
@[simp] theorem State.updTb_rimeArmed (f : TimeBase → TimeBase) (s : State) : (s.updTb f).rimeArmed = s.rimeArmed := rfl
@[simp] theorem State.updTb_maintEn (f : TimeBase → TimeBase) (s : State) : (s.updTb f).maintEn = s.maintEn := rfl
@[simp] theorem State.updTb_freeCtr (f : TimeBase → TimeBase) (s : State) : (s.updTb f).freeCtr = s.freeCtr := rfl
@[simp] theorem State.updLanes_pending (f : Vector LaneSt 3 → Vector LaneSt 3) (s : State) : (s.updLanes f).pending = s.pending := rfl
@[simp] theorem State.updLanes_mstate (f : Vector LaneSt 3 → Vector LaneSt 3) (s : State) : (s.updLanes f).mstate = s.mstate := rfl
@[simp] theorem State.updLanes_holdFrom (f : Vector LaneSt 3 → Vector LaneSt 3) (s : State) : (s.updLanes f).holdFrom = s.holdFrom := rfl
@[simp] theorem State.updLanes_resetHold (f : Vector LaneSt 3 → Vector LaneSt 3) (s : State) : (s.updLanes f).resetHold = s.resetHold := rfl
@[simp] theorem State.updLanes_testsDone (f : Vector LaneSt 3 → Vector LaneSt 3) (s : State) : (s.updLanes f).testsDone = s.testsDone := rfl
@[simp] theorem State.updLanes_fromDormant (f : Vector LaneSt 3 → Vector LaneSt 3) (s : State) : (s.updLanes f).fromDormant = s.fromDormant := rfl
@[simp] theorem State.updLanes_power (f : Vector LaneSt 3 → Vector LaneSt 3) (s : State) : (s.updLanes f).power = s.power := rfl
@[simp] theorem State.updLanes_mem (f : Vector LaneSt 3 → Vector LaneSt 3) (s : State) : (s.updLanes f).mem = s.mem := rfl
@[simp] theorem State.updLanes_xsram (f : Vector LaneSt 3 → Vector LaneSt 3) (s : State) : (s.updLanes f).xsram = s.xsram := rfl
@[simp] theorem State.updLanes_tb (f : Vector LaneSt 3 → Vector LaneSt 3) (s : State) : (s.updLanes f).tb = s.tb := rfl
@[simp] theorem State.updLanes_lanes (f : Vector LaneSt 3 → Vector LaneSt 3) (s : State) : (s.updLanes f).lanes = f s.lanes := rfl
@[simp] theorem State.updLanes_voter (f : Vector LaneSt 3 → Vector LaneSt 3) (s : State) : (s.updLanes f).voter = s.voter := rfl
@[simp] theorem State.updLanes_fcu (f : Vector LaneSt 3 → Vector LaneSt 3) (s : State) : (s.updLanes f).fcu = s.fcu := rfl
@[simp] theorem State.updLanes_ice (f : Vector LaneSt 3 → Vector LaneSt 3) (s : State) : (s.updLanes f).ice = s.ice := rfl
@[simp] theorem State.updLanes_prog (f : Vector LaneSt 3 → Vector LaneSt 3) (s : State) : (s.updLanes f).prog = s.prog := rfl
@[simp] theorem State.updLanes_tasks (f : Vector LaneSt 3 → Vector LaneSt 3) (s : State) : (s.updLanes f).tasks = s.tasks := rfl
@[simp] theorem State.updLanes_fram (f : Vector LaneSt 3 → Vector LaneSt 3) (s : State) : (s.updLanes f).fram = s.fram := rfl
@[simp] theorem State.updLanes_twin (f : Vector LaneSt 3 → Vector LaneSt 3) (s : State) : (s.updLanes f).twin = s.twin := rfl
@[simp] theorem State.updLanes_floe (f : Vector LaneSt 3 → Vector LaneSt 3) (s : State) : (s.updLanes f).floe = s.floe := rfl
@[simp] theorem State.updLanes_io (f : Vector LaneSt 3 → Vector LaneSt 3) (s : State) : (s.updLanes f).io = s.io := rfl
@[simp] theorem State.updLanes_hif (f : Vector LaneSt 3 → Vector LaneSt 3) (s : State) : (s.updLanes f).hif = s.hif := rfl
@[simp] theorem State.updLanes_fw (f : Vector LaneSt 3 → Vector LaneSt 3) (s : State) : (s.updLanes f).fw = s.fw := rfl
@[simp] theorem State.updLanes_keys (f : Vector LaneSt 3 → Vector LaneSt 3) (s : State) : (s.updLanes f).keys = s.keys := rfl
@[simp] theorem State.updLanes_fabric (f : Vector LaneSt 3 → Vector LaneSt 3) (s : State) : (s.updLanes f).fabric = s.fabric := rfl
@[simp] theorem State.updLanes_can1 (f : Vector LaneSt 3 → Vector LaneSt 3) (s : State) : (s.updLanes f).can1 = s.can1 := rfl
@[simp] theorem State.updLanes_can2 (f : Vector LaneSt 3 → Vector LaneSt 3) (s : State) : (s.updLanes f).can2 = s.can2 := rfl
@[simp] theorem State.updLanes_jtag (f : Vector LaneSt 3 → Vector LaneSt 3) (s : State) : (s.updLanes f).jtag = s.jtag := rfl
@[simp] theorem State.updLanes_rimeArmed (f : Vector LaneSt 3 → Vector LaneSt 3) (s : State) : (s.updLanes f).rimeArmed = s.rimeArmed := rfl
@[simp] theorem State.updLanes_maintEn (f : Vector LaneSt 3 → Vector LaneSt 3) (s : State) : (s.updLanes f).maintEn = s.maintEn := rfl
@[simp] theorem State.updLanes_freeCtr (f : Vector LaneSt 3 → Vector LaneSt 3) (s : State) : (s.updLanes f).freeCtr = s.freeCtr := rfl
@[simp] theorem State.updVoter_pending (f : Voter → Voter) (s : State) : (s.updVoter f).pending = s.pending := rfl
@[simp] theorem State.updVoter_mstate (f : Voter → Voter) (s : State) : (s.updVoter f).mstate = s.mstate := rfl
@[simp] theorem State.updVoter_holdFrom (f : Voter → Voter) (s : State) : (s.updVoter f).holdFrom = s.holdFrom := rfl
@[simp] theorem State.updVoter_resetHold (f : Voter → Voter) (s : State) : (s.updVoter f).resetHold = s.resetHold := rfl
@[simp] theorem State.updVoter_testsDone (f : Voter → Voter) (s : State) : (s.updVoter f).testsDone = s.testsDone := rfl
@[simp] theorem State.updVoter_fromDormant (f : Voter → Voter) (s : State) : (s.updVoter f).fromDormant = s.fromDormant := rfl
@[simp] theorem State.updVoter_power (f : Voter → Voter) (s : State) : (s.updVoter f).power = s.power := rfl
@[simp] theorem State.updVoter_mem (f : Voter → Voter) (s : State) : (s.updVoter f).mem = s.mem := rfl
@[simp] theorem State.updVoter_xsram (f : Voter → Voter) (s : State) : (s.updVoter f).xsram = s.xsram := rfl
@[simp] theorem State.updVoter_tb (f : Voter → Voter) (s : State) : (s.updVoter f).tb = s.tb := rfl
@[simp] theorem State.updVoter_lanes (f : Voter → Voter) (s : State) : (s.updVoter f).lanes = s.lanes := rfl
@[simp] theorem State.updVoter_voter (f : Voter → Voter) (s : State) : (s.updVoter f).voter = f s.voter := rfl
@[simp] theorem State.updVoter_fcu (f : Voter → Voter) (s : State) : (s.updVoter f).fcu = s.fcu := rfl
@[simp] theorem State.updVoter_ice (f : Voter → Voter) (s : State) : (s.updVoter f).ice = s.ice := rfl
@[simp] theorem State.updVoter_prog (f : Voter → Voter) (s : State) : (s.updVoter f).prog = s.prog := rfl
@[simp] theorem State.updVoter_tasks (f : Voter → Voter) (s : State) : (s.updVoter f).tasks = s.tasks := rfl
@[simp] theorem State.updVoter_fram (f : Voter → Voter) (s : State) : (s.updVoter f).fram = s.fram := rfl
@[simp] theorem State.updVoter_twin (f : Voter → Voter) (s : State) : (s.updVoter f).twin = s.twin := rfl
@[simp] theorem State.updVoter_floe (f : Voter → Voter) (s : State) : (s.updVoter f).floe = s.floe := rfl
@[simp] theorem State.updVoter_io (f : Voter → Voter) (s : State) : (s.updVoter f).io = s.io := rfl
@[simp] theorem State.updVoter_hif (f : Voter → Voter) (s : State) : (s.updVoter f).hif = s.hif := rfl
@[simp] theorem State.updVoter_fw (f : Voter → Voter) (s : State) : (s.updVoter f).fw = s.fw := rfl
@[simp] theorem State.updVoter_keys (f : Voter → Voter) (s : State) : (s.updVoter f).keys = s.keys := rfl
@[simp] theorem State.updVoter_fabric (f : Voter → Voter) (s : State) : (s.updVoter f).fabric = s.fabric := rfl
@[simp] theorem State.updVoter_can1 (f : Voter → Voter) (s : State) : (s.updVoter f).can1 = s.can1 := rfl
@[simp] theorem State.updVoter_can2 (f : Voter → Voter) (s : State) : (s.updVoter f).can2 = s.can2 := rfl
@[simp] theorem State.updVoter_jtag (f : Voter → Voter) (s : State) : (s.updVoter f).jtag = s.jtag := rfl
@[simp] theorem State.updVoter_rimeArmed (f : Voter → Voter) (s : State) : (s.updVoter f).rimeArmed = s.rimeArmed := rfl
@[simp] theorem State.updVoter_maintEn (f : Voter → Voter) (s : State) : (s.updVoter f).maintEn = s.maintEn := rfl
@[simp] theorem State.updVoter_freeCtr (f : Voter → Voter) (s : State) : (s.updVoter f).freeCtr = s.freeCtr := rfl
@[simp] theorem State.updFcu_pending (f : Fcu → Fcu) (s : State) : (s.updFcu f).pending = s.pending := rfl
@[simp] theorem State.updFcu_mstate (f : Fcu → Fcu) (s : State) : (s.updFcu f).mstate = s.mstate := rfl
@[simp] theorem State.updFcu_holdFrom (f : Fcu → Fcu) (s : State) : (s.updFcu f).holdFrom = s.holdFrom := rfl
@[simp] theorem State.updFcu_resetHold (f : Fcu → Fcu) (s : State) : (s.updFcu f).resetHold = s.resetHold := rfl
@[simp] theorem State.updFcu_testsDone (f : Fcu → Fcu) (s : State) : (s.updFcu f).testsDone = s.testsDone := rfl
@[simp] theorem State.updFcu_fromDormant (f : Fcu → Fcu) (s : State) : (s.updFcu f).fromDormant = s.fromDormant := rfl
@[simp] theorem State.updFcu_power (f : Fcu → Fcu) (s : State) : (s.updFcu f).power = s.power := rfl
@[simp] theorem State.updFcu_mem (f : Fcu → Fcu) (s : State) : (s.updFcu f).mem = s.mem := rfl
@[simp] theorem State.updFcu_xsram (f : Fcu → Fcu) (s : State) : (s.updFcu f).xsram = s.xsram := rfl
@[simp] theorem State.updFcu_tb (f : Fcu → Fcu) (s : State) : (s.updFcu f).tb = s.tb := rfl
@[simp] theorem State.updFcu_lanes (f : Fcu → Fcu) (s : State) : (s.updFcu f).lanes = s.lanes := rfl
@[simp] theorem State.updFcu_voter (f : Fcu → Fcu) (s : State) : (s.updFcu f).voter = s.voter := rfl
@[simp] theorem State.updFcu_fcu (f : Fcu → Fcu) (s : State) : (s.updFcu f).fcu = f s.fcu := rfl
@[simp] theorem State.updFcu_ice (f : Fcu → Fcu) (s : State) : (s.updFcu f).ice = s.ice := rfl
@[simp] theorem State.updFcu_prog (f : Fcu → Fcu) (s : State) : (s.updFcu f).prog = s.prog := rfl
@[simp] theorem State.updFcu_tasks (f : Fcu → Fcu) (s : State) : (s.updFcu f).tasks = s.tasks := rfl
@[simp] theorem State.updFcu_fram (f : Fcu → Fcu) (s : State) : (s.updFcu f).fram = s.fram := rfl
@[simp] theorem State.updFcu_twin (f : Fcu → Fcu) (s : State) : (s.updFcu f).twin = s.twin := rfl
@[simp] theorem State.updFcu_floe (f : Fcu → Fcu) (s : State) : (s.updFcu f).floe = s.floe := rfl
@[simp] theorem State.updFcu_io (f : Fcu → Fcu) (s : State) : (s.updFcu f).io = s.io := rfl
@[simp] theorem State.updFcu_hif (f : Fcu → Fcu) (s : State) : (s.updFcu f).hif = s.hif := rfl
@[simp] theorem State.updFcu_fw (f : Fcu → Fcu) (s : State) : (s.updFcu f).fw = s.fw := rfl
@[simp] theorem State.updFcu_keys (f : Fcu → Fcu) (s : State) : (s.updFcu f).keys = s.keys := rfl
@[simp] theorem State.updFcu_fabric (f : Fcu → Fcu) (s : State) : (s.updFcu f).fabric = s.fabric := rfl
@[simp] theorem State.updFcu_can1 (f : Fcu → Fcu) (s : State) : (s.updFcu f).can1 = s.can1 := rfl
@[simp] theorem State.updFcu_can2 (f : Fcu → Fcu) (s : State) : (s.updFcu f).can2 = s.can2 := rfl
@[simp] theorem State.updFcu_jtag (f : Fcu → Fcu) (s : State) : (s.updFcu f).jtag = s.jtag := rfl
@[simp] theorem State.updFcu_rimeArmed (f : Fcu → Fcu) (s : State) : (s.updFcu f).rimeArmed = s.rimeArmed := rfl
@[simp] theorem State.updFcu_maintEn (f : Fcu → Fcu) (s : State) : (s.updFcu f).maintEn = s.maintEn := rfl
@[simp] theorem State.updFcu_freeCtr (f : Fcu → Fcu) (s : State) : (s.updFcu f).freeCtr = s.freeCtr := rfl
@[simp] theorem State.updIce_pending (f : Ice → Ice) (s : State) : (s.updIce f).pending = s.pending := rfl
@[simp] theorem State.updIce_mstate (f : Ice → Ice) (s : State) : (s.updIce f).mstate = s.mstate := rfl
@[simp] theorem State.updIce_holdFrom (f : Ice → Ice) (s : State) : (s.updIce f).holdFrom = s.holdFrom := rfl
@[simp] theorem State.updIce_resetHold (f : Ice → Ice) (s : State) : (s.updIce f).resetHold = s.resetHold := rfl
@[simp] theorem State.updIce_testsDone (f : Ice → Ice) (s : State) : (s.updIce f).testsDone = s.testsDone := rfl
@[simp] theorem State.updIce_fromDormant (f : Ice → Ice) (s : State) : (s.updIce f).fromDormant = s.fromDormant := rfl
@[simp] theorem State.updIce_power (f : Ice → Ice) (s : State) : (s.updIce f).power = s.power := rfl
@[simp] theorem State.updIce_mem (f : Ice → Ice) (s : State) : (s.updIce f).mem = s.mem := rfl
@[simp] theorem State.updIce_xsram (f : Ice → Ice) (s : State) : (s.updIce f).xsram = s.xsram := rfl
@[simp] theorem State.updIce_tb (f : Ice → Ice) (s : State) : (s.updIce f).tb = s.tb := rfl
@[simp] theorem State.updIce_lanes (f : Ice → Ice) (s : State) : (s.updIce f).lanes = s.lanes := rfl
@[simp] theorem State.updIce_voter (f : Ice → Ice) (s : State) : (s.updIce f).voter = s.voter := rfl
@[simp] theorem State.updIce_fcu (f : Ice → Ice) (s : State) : (s.updIce f).fcu = s.fcu := rfl
@[simp] theorem State.updIce_ice (f : Ice → Ice) (s : State) : (s.updIce f).ice = f s.ice := rfl
@[simp] theorem State.updIce_prog (f : Ice → Ice) (s : State) : (s.updIce f).prog = s.prog := rfl
@[simp] theorem State.updIce_tasks (f : Ice → Ice) (s : State) : (s.updIce f).tasks = s.tasks := rfl
@[simp] theorem State.updIce_fram (f : Ice → Ice) (s : State) : (s.updIce f).fram = s.fram := rfl
@[simp] theorem State.updIce_twin (f : Ice → Ice) (s : State) : (s.updIce f).twin = s.twin := rfl
@[simp] theorem State.updIce_floe (f : Ice → Ice) (s : State) : (s.updIce f).floe = s.floe := rfl
@[simp] theorem State.updIce_io (f : Ice → Ice) (s : State) : (s.updIce f).io = s.io := rfl
@[simp] theorem State.updIce_hif (f : Ice → Ice) (s : State) : (s.updIce f).hif = s.hif := rfl
@[simp] theorem State.updIce_fw (f : Ice → Ice) (s : State) : (s.updIce f).fw = s.fw := rfl
@[simp] theorem State.updIce_keys (f : Ice → Ice) (s : State) : (s.updIce f).keys = s.keys := rfl
@[simp] theorem State.updIce_fabric (f : Ice → Ice) (s : State) : (s.updIce f).fabric = s.fabric := rfl
@[simp] theorem State.updIce_can1 (f : Ice → Ice) (s : State) : (s.updIce f).can1 = s.can1 := rfl
@[simp] theorem State.updIce_can2 (f : Ice → Ice) (s : State) : (s.updIce f).can2 = s.can2 := rfl
@[simp] theorem State.updIce_jtag (f : Ice → Ice) (s : State) : (s.updIce f).jtag = s.jtag := rfl
@[simp] theorem State.updIce_rimeArmed (f : Ice → Ice) (s : State) : (s.updIce f).rimeArmed = s.rimeArmed := rfl
@[simp] theorem State.updIce_maintEn (f : Ice → Ice) (s : State) : (s.updIce f).maintEn = s.maintEn := rfl
@[simp] theorem State.updIce_freeCtr (f : Ice → Ice) (s : State) : (s.updIce f).freeCtr = s.freeCtr := rfl
@[simp] theorem State.updProg_pending (f : Prog → Prog) (s : State) : (s.updProg f).pending = s.pending := rfl
@[simp] theorem State.updProg_mstate (f : Prog → Prog) (s : State) : (s.updProg f).mstate = s.mstate := rfl
@[simp] theorem State.updProg_holdFrom (f : Prog → Prog) (s : State) : (s.updProg f).holdFrom = s.holdFrom := rfl
@[simp] theorem State.updProg_resetHold (f : Prog → Prog) (s : State) : (s.updProg f).resetHold = s.resetHold := rfl
@[simp] theorem State.updProg_testsDone (f : Prog → Prog) (s : State) : (s.updProg f).testsDone = s.testsDone := rfl
@[simp] theorem State.updProg_fromDormant (f : Prog → Prog) (s : State) : (s.updProg f).fromDormant = s.fromDormant := rfl
@[simp] theorem State.updProg_power (f : Prog → Prog) (s : State) : (s.updProg f).power = s.power := rfl
@[simp] theorem State.updProg_mem (f : Prog → Prog) (s : State) : (s.updProg f).mem = s.mem := rfl
@[simp] theorem State.updProg_xsram (f : Prog → Prog) (s : State) : (s.updProg f).xsram = s.xsram := rfl
@[simp] theorem State.updProg_tb (f : Prog → Prog) (s : State) : (s.updProg f).tb = s.tb := rfl
@[simp] theorem State.updProg_lanes (f : Prog → Prog) (s : State) : (s.updProg f).lanes = s.lanes := rfl
@[simp] theorem State.updProg_voter (f : Prog → Prog) (s : State) : (s.updProg f).voter = s.voter := rfl
@[simp] theorem State.updProg_fcu (f : Prog → Prog) (s : State) : (s.updProg f).fcu = s.fcu := rfl
@[simp] theorem State.updProg_ice (f : Prog → Prog) (s : State) : (s.updProg f).ice = s.ice := rfl
@[simp] theorem State.updProg_prog (f : Prog → Prog) (s : State) : (s.updProg f).prog = f s.prog := rfl
@[simp] theorem State.updProg_tasks (f : Prog → Prog) (s : State) : (s.updProg f).tasks = s.tasks := rfl
@[simp] theorem State.updProg_fram (f : Prog → Prog) (s : State) : (s.updProg f).fram = s.fram := rfl
@[simp] theorem State.updProg_twin (f : Prog → Prog) (s : State) : (s.updProg f).twin = s.twin := rfl
@[simp] theorem State.updProg_floe (f : Prog → Prog) (s : State) : (s.updProg f).floe = s.floe := rfl
@[simp] theorem State.updProg_io (f : Prog → Prog) (s : State) : (s.updProg f).io = s.io := rfl
@[simp] theorem State.updProg_hif (f : Prog → Prog) (s : State) : (s.updProg f).hif = s.hif := rfl
@[simp] theorem State.updProg_fw (f : Prog → Prog) (s : State) : (s.updProg f).fw = s.fw := rfl
@[simp] theorem State.updProg_keys (f : Prog → Prog) (s : State) : (s.updProg f).keys = s.keys := rfl
@[simp] theorem State.updProg_fabric (f : Prog → Prog) (s : State) : (s.updProg f).fabric = s.fabric := rfl
@[simp] theorem State.updProg_can1 (f : Prog → Prog) (s : State) : (s.updProg f).can1 = s.can1 := rfl
@[simp] theorem State.updProg_can2 (f : Prog → Prog) (s : State) : (s.updProg f).can2 = s.can2 := rfl
@[simp] theorem State.updProg_jtag (f : Prog → Prog) (s : State) : (s.updProg f).jtag = s.jtag := rfl
@[simp] theorem State.updProg_rimeArmed (f : Prog → Prog) (s : State) : (s.updProg f).rimeArmed = s.rimeArmed := rfl
@[simp] theorem State.updProg_maintEn (f : Prog → Prog) (s : State) : (s.updProg f).maintEn = s.maintEn := rfl
@[simp] theorem State.updProg_freeCtr (f : Prog → Prog) (s : State) : (s.updProg f).freeCtr = s.freeCtr := rfl
@[simp] theorem State.updTasks_pending (f : Tasks → Tasks) (s : State) : (s.updTasks f).pending = s.pending := rfl
@[simp] theorem State.updTasks_mstate (f : Tasks → Tasks) (s : State) : (s.updTasks f).mstate = s.mstate := rfl
@[simp] theorem State.updTasks_holdFrom (f : Tasks → Tasks) (s : State) : (s.updTasks f).holdFrom = s.holdFrom := rfl
@[simp] theorem State.updTasks_resetHold (f : Tasks → Tasks) (s : State) : (s.updTasks f).resetHold = s.resetHold := rfl
@[simp] theorem State.updTasks_testsDone (f : Tasks → Tasks) (s : State) : (s.updTasks f).testsDone = s.testsDone := rfl
@[simp] theorem State.updTasks_fromDormant (f : Tasks → Tasks) (s : State) : (s.updTasks f).fromDormant = s.fromDormant := rfl
@[simp] theorem State.updTasks_power (f : Tasks → Tasks) (s : State) : (s.updTasks f).power = s.power := rfl
@[simp] theorem State.updTasks_mem (f : Tasks → Tasks) (s : State) : (s.updTasks f).mem = s.mem := rfl
@[simp] theorem State.updTasks_xsram (f : Tasks → Tasks) (s : State) : (s.updTasks f).xsram = s.xsram := rfl
@[simp] theorem State.updTasks_tb (f : Tasks → Tasks) (s : State) : (s.updTasks f).tb = s.tb := rfl
@[simp] theorem State.updTasks_lanes (f : Tasks → Tasks) (s : State) : (s.updTasks f).lanes = s.lanes := rfl
@[simp] theorem State.updTasks_voter (f : Tasks → Tasks) (s : State) : (s.updTasks f).voter = s.voter := rfl
@[simp] theorem State.updTasks_fcu (f : Tasks → Tasks) (s : State) : (s.updTasks f).fcu = s.fcu := rfl
@[simp] theorem State.updTasks_ice (f : Tasks → Tasks) (s : State) : (s.updTasks f).ice = s.ice := rfl
@[simp] theorem State.updTasks_prog (f : Tasks → Tasks) (s : State) : (s.updTasks f).prog = s.prog := rfl
@[simp] theorem State.updTasks_tasks (f : Tasks → Tasks) (s : State) : (s.updTasks f).tasks = f s.tasks := rfl
@[simp] theorem State.updTasks_fram (f : Tasks → Tasks) (s : State) : (s.updTasks f).fram = s.fram := rfl
@[simp] theorem State.updTasks_twin (f : Tasks → Tasks) (s : State) : (s.updTasks f).twin = s.twin := rfl
@[simp] theorem State.updTasks_floe (f : Tasks → Tasks) (s : State) : (s.updTasks f).floe = s.floe := rfl
@[simp] theorem State.updTasks_io (f : Tasks → Tasks) (s : State) : (s.updTasks f).io = s.io := rfl
@[simp] theorem State.updTasks_hif (f : Tasks → Tasks) (s : State) : (s.updTasks f).hif = s.hif := rfl
@[simp] theorem State.updTasks_fw (f : Tasks → Tasks) (s : State) : (s.updTasks f).fw = s.fw := rfl
@[simp] theorem State.updTasks_keys (f : Tasks → Tasks) (s : State) : (s.updTasks f).keys = s.keys := rfl
@[simp] theorem State.updTasks_fabric (f : Tasks → Tasks) (s : State) : (s.updTasks f).fabric = s.fabric := rfl
@[simp] theorem State.updTasks_can1 (f : Tasks → Tasks) (s : State) : (s.updTasks f).can1 = s.can1 := rfl
@[simp] theorem State.updTasks_can2 (f : Tasks → Tasks) (s : State) : (s.updTasks f).can2 = s.can2 := rfl
@[simp] theorem State.updTasks_jtag (f : Tasks → Tasks) (s : State) : (s.updTasks f).jtag = s.jtag := rfl
@[simp] theorem State.updTasks_rimeArmed (f : Tasks → Tasks) (s : State) : (s.updTasks f).rimeArmed = s.rimeArmed := rfl
@[simp] theorem State.updTasks_maintEn (f : Tasks → Tasks) (s : State) : (s.updTasks f).maintEn = s.maintEn := rfl
@[simp] theorem State.updTasks_freeCtr (f : Tasks → Tasks) (s : State) : (s.updTasks f).freeCtr = s.freeCtr := rfl
@[simp] theorem State.updFram_pending (f : Fram → Fram) (s : State) : (s.updFram f).pending = s.pending := rfl
@[simp] theorem State.updFram_mstate (f : Fram → Fram) (s : State) : (s.updFram f).mstate = s.mstate := rfl
@[simp] theorem State.updFram_holdFrom (f : Fram → Fram) (s : State) : (s.updFram f).holdFrom = s.holdFrom := rfl
@[simp] theorem State.updFram_resetHold (f : Fram → Fram) (s : State) : (s.updFram f).resetHold = s.resetHold := rfl
@[simp] theorem State.updFram_testsDone (f : Fram → Fram) (s : State) : (s.updFram f).testsDone = s.testsDone := rfl
@[simp] theorem State.updFram_fromDormant (f : Fram → Fram) (s : State) : (s.updFram f).fromDormant = s.fromDormant := rfl
@[simp] theorem State.updFram_power (f : Fram → Fram) (s : State) : (s.updFram f).power = s.power := rfl
@[simp] theorem State.updFram_mem (f : Fram → Fram) (s : State) : (s.updFram f).mem = s.mem := rfl
@[simp] theorem State.updFram_xsram (f : Fram → Fram) (s : State) : (s.updFram f).xsram = s.xsram := rfl
@[simp] theorem State.updFram_tb (f : Fram → Fram) (s : State) : (s.updFram f).tb = s.tb := rfl
@[simp] theorem State.updFram_lanes (f : Fram → Fram) (s : State) : (s.updFram f).lanes = s.lanes := rfl
@[simp] theorem State.updFram_voter (f : Fram → Fram) (s : State) : (s.updFram f).voter = s.voter := rfl
@[simp] theorem State.updFram_fcu (f : Fram → Fram) (s : State) : (s.updFram f).fcu = s.fcu := rfl
@[simp] theorem State.updFram_ice (f : Fram → Fram) (s : State) : (s.updFram f).ice = s.ice := rfl
@[simp] theorem State.updFram_prog (f : Fram → Fram) (s : State) : (s.updFram f).prog = s.prog := rfl
@[simp] theorem State.updFram_tasks (f : Fram → Fram) (s : State) : (s.updFram f).tasks = s.tasks := rfl
@[simp] theorem State.updFram_fram (f : Fram → Fram) (s : State) : (s.updFram f).fram = f s.fram := rfl
@[simp] theorem State.updFram_twin (f : Fram → Fram) (s : State) : (s.updFram f).twin = s.twin := rfl
@[simp] theorem State.updFram_floe (f : Fram → Fram) (s : State) : (s.updFram f).floe = s.floe := rfl
@[simp] theorem State.updFram_io (f : Fram → Fram) (s : State) : (s.updFram f).io = s.io := rfl
@[simp] theorem State.updFram_hif (f : Fram → Fram) (s : State) : (s.updFram f).hif = s.hif := rfl
@[simp] theorem State.updFram_fw (f : Fram → Fram) (s : State) : (s.updFram f).fw = s.fw := rfl
@[simp] theorem State.updFram_keys (f : Fram → Fram) (s : State) : (s.updFram f).keys = s.keys := rfl
@[simp] theorem State.updFram_fabric (f : Fram → Fram) (s : State) : (s.updFram f).fabric = s.fabric := rfl
@[simp] theorem State.updFram_can1 (f : Fram → Fram) (s : State) : (s.updFram f).can1 = s.can1 := rfl
@[simp] theorem State.updFram_can2 (f : Fram → Fram) (s : State) : (s.updFram f).can2 = s.can2 := rfl
@[simp] theorem State.updFram_jtag (f : Fram → Fram) (s : State) : (s.updFram f).jtag = s.jtag := rfl
@[simp] theorem State.updFram_rimeArmed (f : Fram → Fram) (s : State) : (s.updFram f).rimeArmed = s.rimeArmed := rfl
@[simp] theorem State.updFram_maintEn (f : Fram → Fram) (s : State) : (s.updFram f).maintEn = s.maintEn := rfl
@[simp] theorem State.updFram_freeCtr (f : Fram → Fram) (s : State) : (s.updFram f).freeCtr = s.freeCtr := rfl
@[simp] theorem State.updTwin_pending (f : Twin → Twin) (s : State) : (s.updTwin f).pending = s.pending := rfl
@[simp] theorem State.updTwin_mstate (f : Twin → Twin) (s : State) : (s.updTwin f).mstate = s.mstate := rfl
@[simp] theorem State.updTwin_holdFrom (f : Twin → Twin) (s : State) : (s.updTwin f).holdFrom = s.holdFrom := rfl
@[simp] theorem State.updTwin_resetHold (f : Twin → Twin) (s : State) : (s.updTwin f).resetHold = s.resetHold := rfl
@[simp] theorem State.updTwin_testsDone (f : Twin → Twin) (s : State) : (s.updTwin f).testsDone = s.testsDone := rfl
@[simp] theorem State.updTwin_fromDormant (f : Twin → Twin) (s : State) : (s.updTwin f).fromDormant = s.fromDormant := rfl
@[simp] theorem State.updTwin_power (f : Twin → Twin) (s : State) : (s.updTwin f).power = s.power := rfl
@[simp] theorem State.updTwin_mem (f : Twin → Twin) (s : State) : (s.updTwin f).mem = s.mem := rfl
@[simp] theorem State.updTwin_xsram (f : Twin → Twin) (s : State) : (s.updTwin f).xsram = s.xsram := rfl
@[simp] theorem State.updTwin_tb (f : Twin → Twin) (s : State) : (s.updTwin f).tb = s.tb := rfl
@[simp] theorem State.updTwin_lanes (f : Twin → Twin) (s : State) : (s.updTwin f).lanes = s.lanes := rfl
@[simp] theorem State.updTwin_voter (f : Twin → Twin) (s : State) : (s.updTwin f).voter = s.voter := rfl
@[simp] theorem State.updTwin_fcu (f : Twin → Twin) (s : State) : (s.updTwin f).fcu = s.fcu := rfl
@[simp] theorem State.updTwin_ice (f : Twin → Twin) (s : State) : (s.updTwin f).ice = s.ice := rfl
@[simp] theorem State.updTwin_prog (f : Twin → Twin) (s : State) : (s.updTwin f).prog = s.prog := rfl
@[simp] theorem State.updTwin_tasks (f : Twin → Twin) (s : State) : (s.updTwin f).tasks = s.tasks := rfl
@[simp] theorem State.updTwin_fram (f : Twin → Twin) (s : State) : (s.updTwin f).fram = s.fram := rfl
@[simp] theorem State.updTwin_twin (f : Twin → Twin) (s : State) : (s.updTwin f).twin = f s.twin := rfl
@[simp] theorem State.updTwin_floe (f : Twin → Twin) (s : State) : (s.updTwin f).floe = s.floe := rfl
@[simp] theorem State.updTwin_io (f : Twin → Twin) (s : State) : (s.updTwin f).io = s.io := rfl
@[simp] theorem State.updTwin_hif (f : Twin → Twin) (s : State) : (s.updTwin f).hif = s.hif := rfl
@[simp] theorem State.updTwin_fw (f : Twin → Twin) (s : State) : (s.updTwin f).fw = s.fw := rfl
@[simp] theorem State.updTwin_keys (f : Twin → Twin) (s : State) : (s.updTwin f).keys = s.keys := rfl
@[simp] theorem State.updTwin_fabric (f : Twin → Twin) (s : State) : (s.updTwin f).fabric = s.fabric := rfl
@[simp] theorem State.updTwin_can1 (f : Twin → Twin) (s : State) : (s.updTwin f).can1 = s.can1 := rfl
@[simp] theorem State.updTwin_can2 (f : Twin → Twin) (s : State) : (s.updTwin f).can2 = s.can2 := rfl
@[simp] theorem State.updTwin_jtag (f : Twin → Twin) (s : State) : (s.updTwin f).jtag = s.jtag := rfl
@[simp] theorem State.updTwin_rimeArmed (f : Twin → Twin) (s : State) : (s.updTwin f).rimeArmed = s.rimeArmed := rfl
@[simp] theorem State.updTwin_maintEn (f : Twin → Twin) (s : State) : (s.updTwin f).maintEn = s.maintEn := rfl
@[simp] theorem State.updTwin_freeCtr (f : Twin → Twin) (s : State) : (s.updTwin f).freeCtr = s.freeCtr := rfl
@[simp] theorem State.updFloe_pending (f : Floe → Floe) (s : State) : (s.updFloe f).pending = s.pending := rfl
@[simp] theorem State.updFloe_mstate (f : Floe → Floe) (s : State) : (s.updFloe f).mstate = s.mstate := rfl
@[simp] theorem State.updFloe_holdFrom (f : Floe → Floe) (s : State) : (s.updFloe f).holdFrom = s.holdFrom := rfl
@[simp] theorem State.updFloe_resetHold (f : Floe → Floe) (s : State) : (s.updFloe f).resetHold = s.resetHold := rfl
@[simp] theorem State.updFloe_testsDone (f : Floe → Floe) (s : State) : (s.updFloe f).testsDone = s.testsDone := rfl
@[simp] theorem State.updFloe_fromDormant (f : Floe → Floe) (s : State) : (s.updFloe f).fromDormant = s.fromDormant := rfl
@[simp] theorem State.updFloe_power (f : Floe → Floe) (s : State) : (s.updFloe f).power = s.power := rfl
@[simp] theorem State.updFloe_mem (f : Floe → Floe) (s : State) : (s.updFloe f).mem = s.mem := rfl
@[simp] theorem State.updFloe_xsram (f : Floe → Floe) (s : State) : (s.updFloe f).xsram = s.xsram := rfl
@[simp] theorem State.updFloe_tb (f : Floe → Floe) (s : State) : (s.updFloe f).tb = s.tb := rfl
@[simp] theorem State.updFloe_lanes (f : Floe → Floe) (s : State) : (s.updFloe f).lanes = s.lanes := rfl
@[simp] theorem State.updFloe_voter (f : Floe → Floe) (s : State) : (s.updFloe f).voter = s.voter := rfl
@[simp] theorem State.updFloe_fcu (f : Floe → Floe) (s : State) : (s.updFloe f).fcu = s.fcu := rfl
@[simp] theorem State.updFloe_ice (f : Floe → Floe) (s : State) : (s.updFloe f).ice = s.ice := rfl
@[simp] theorem State.updFloe_prog (f : Floe → Floe) (s : State) : (s.updFloe f).prog = s.prog := rfl
@[simp] theorem State.updFloe_tasks (f : Floe → Floe) (s : State) : (s.updFloe f).tasks = s.tasks := rfl
@[simp] theorem State.updFloe_fram (f : Floe → Floe) (s : State) : (s.updFloe f).fram = s.fram := rfl
@[simp] theorem State.updFloe_twin (f : Floe → Floe) (s : State) : (s.updFloe f).twin = s.twin := rfl
@[simp] theorem State.updFloe_floe (f : Floe → Floe) (s : State) : (s.updFloe f).floe = f s.floe := rfl
@[simp] theorem State.updFloe_io (f : Floe → Floe) (s : State) : (s.updFloe f).io = s.io := rfl
@[simp] theorem State.updFloe_hif (f : Floe → Floe) (s : State) : (s.updFloe f).hif = s.hif := rfl
@[simp] theorem State.updFloe_fw (f : Floe → Floe) (s : State) : (s.updFloe f).fw = s.fw := rfl
@[simp] theorem State.updFloe_keys (f : Floe → Floe) (s : State) : (s.updFloe f).keys = s.keys := rfl
@[simp] theorem State.updFloe_fabric (f : Floe → Floe) (s : State) : (s.updFloe f).fabric = s.fabric := rfl
@[simp] theorem State.updFloe_can1 (f : Floe → Floe) (s : State) : (s.updFloe f).can1 = s.can1 := rfl
@[simp] theorem State.updFloe_can2 (f : Floe → Floe) (s : State) : (s.updFloe f).can2 = s.can2 := rfl
@[simp] theorem State.updFloe_jtag (f : Floe → Floe) (s : State) : (s.updFloe f).jtag = s.jtag := rfl
@[simp] theorem State.updFloe_rimeArmed (f : Floe → Floe) (s : State) : (s.updFloe f).rimeArmed = s.rimeArmed := rfl
@[simp] theorem State.updFloe_maintEn (f : Floe → Floe) (s : State) : (s.updFloe f).maintEn = s.maintEn := rfl
@[simp] theorem State.updFloe_freeCtr (f : Floe → Floe) (s : State) : (s.updFloe f).freeCtr = s.freeCtr := rfl
@[simp] theorem State.updIo_pending (f : Io → Io) (s : State) : (s.updIo f).pending = s.pending := rfl
@[simp] theorem State.updIo_mstate (f : Io → Io) (s : State) : (s.updIo f).mstate = s.mstate := rfl
@[simp] theorem State.updIo_holdFrom (f : Io → Io) (s : State) : (s.updIo f).holdFrom = s.holdFrom := rfl
@[simp] theorem State.updIo_resetHold (f : Io → Io) (s : State) : (s.updIo f).resetHold = s.resetHold := rfl
@[simp] theorem State.updIo_testsDone (f : Io → Io) (s : State) : (s.updIo f).testsDone = s.testsDone := rfl
@[simp] theorem State.updIo_fromDormant (f : Io → Io) (s : State) : (s.updIo f).fromDormant = s.fromDormant := rfl
@[simp] theorem State.updIo_power (f : Io → Io) (s : State) : (s.updIo f).power = s.power := rfl
@[simp] theorem State.updIo_mem (f : Io → Io) (s : State) : (s.updIo f).mem = s.mem := rfl
@[simp] theorem State.updIo_xsram (f : Io → Io) (s : State) : (s.updIo f).xsram = s.xsram := rfl
@[simp] theorem State.updIo_tb (f : Io → Io) (s : State) : (s.updIo f).tb = s.tb := rfl
@[simp] theorem State.updIo_lanes (f : Io → Io) (s : State) : (s.updIo f).lanes = s.lanes := rfl
@[simp] theorem State.updIo_voter (f : Io → Io) (s : State) : (s.updIo f).voter = s.voter := rfl
@[simp] theorem State.updIo_fcu (f : Io → Io) (s : State) : (s.updIo f).fcu = s.fcu := rfl
@[simp] theorem State.updIo_ice (f : Io → Io) (s : State) : (s.updIo f).ice = s.ice := rfl
@[simp] theorem State.updIo_prog (f : Io → Io) (s : State) : (s.updIo f).prog = s.prog := rfl
@[simp] theorem State.updIo_tasks (f : Io → Io) (s : State) : (s.updIo f).tasks = s.tasks := rfl
@[simp] theorem State.updIo_fram (f : Io → Io) (s : State) : (s.updIo f).fram = s.fram := rfl
@[simp] theorem State.updIo_twin (f : Io → Io) (s : State) : (s.updIo f).twin = s.twin := rfl
@[simp] theorem State.updIo_floe (f : Io → Io) (s : State) : (s.updIo f).floe = s.floe := rfl
@[simp] theorem State.updIo_io (f : Io → Io) (s : State) : (s.updIo f).io = f s.io := rfl
@[simp] theorem State.updIo_hif (f : Io → Io) (s : State) : (s.updIo f).hif = s.hif := rfl
@[simp] theorem State.updIo_fw (f : Io → Io) (s : State) : (s.updIo f).fw = s.fw := rfl
@[simp] theorem State.updIo_keys (f : Io → Io) (s : State) : (s.updIo f).keys = s.keys := rfl
@[simp] theorem State.updIo_fabric (f : Io → Io) (s : State) : (s.updIo f).fabric = s.fabric := rfl
@[simp] theorem State.updIo_can1 (f : Io → Io) (s : State) : (s.updIo f).can1 = s.can1 := rfl
@[simp] theorem State.updIo_can2 (f : Io → Io) (s : State) : (s.updIo f).can2 = s.can2 := rfl
@[simp] theorem State.updIo_jtag (f : Io → Io) (s : State) : (s.updIo f).jtag = s.jtag := rfl
@[simp] theorem State.updIo_rimeArmed (f : Io → Io) (s : State) : (s.updIo f).rimeArmed = s.rimeArmed := rfl
@[simp] theorem State.updIo_maintEn (f : Io → Io) (s : State) : (s.updIo f).maintEn = s.maintEn := rfl
@[simp] theorem State.updIo_freeCtr (f : Io → Io) (s : State) : (s.updIo f).freeCtr = s.freeCtr := rfl
@[simp] theorem State.updHif_pending (f : HostIf → HostIf) (s : State) : (s.updHif f).pending = s.pending := rfl
@[simp] theorem State.updHif_mstate (f : HostIf → HostIf) (s : State) : (s.updHif f).mstate = s.mstate := rfl
@[simp] theorem State.updHif_holdFrom (f : HostIf → HostIf) (s : State) : (s.updHif f).holdFrom = s.holdFrom := rfl
@[simp] theorem State.updHif_resetHold (f : HostIf → HostIf) (s : State) : (s.updHif f).resetHold = s.resetHold := rfl
@[simp] theorem State.updHif_testsDone (f : HostIf → HostIf) (s : State) : (s.updHif f).testsDone = s.testsDone := rfl
@[simp] theorem State.updHif_fromDormant (f : HostIf → HostIf) (s : State) : (s.updHif f).fromDormant = s.fromDormant := rfl
@[simp] theorem State.updHif_power (f : HostIf → HostIf) (s : State) : (s.updHif f).power = s.power := rfl
@[simp] theorem State.updHif_mem (f : HostIf → HostIf) (s : State) : (s.updHif f).mem = s.mem := rfl
@[simp] theorem State.updHif_xsram (f : HostIf → HostIf) (s : State) : (s.updHif f).xsram = s.xsram := rfl
@[simp] theorem State.updHif_tb (f : HostIf → HostIf) (s : State) : (s.updHif f).tb = s.tb := rfl
@[simp] theorem State.updHif_lanes (f : HostIf → HostIf) (s : State) : (s.updHif f).lanes = s.lanes := rfl
@[simp] theorem State.updHif_voter (f : HostIf → HostIf) (s : State) : (s.updHif f).voter = s.voter := rfl
@[simp] theorem State.updHif_fcu (f : HostIf → HostIf) (s : State) : (s.updHif f).fcu = s.fcu := rfl
@[simp] theorem State.updHif_ice (f : HostIf → HostIf) (s : State) : (s.updHif f).ice = s.ice := rfl
@[simp] theorem State.updHif_prog (f : HostIf → HostIf) (s : State) : (s.updHif f).prog = s.prog := rfl
@[simp] theorem State.updHif_tasks (f : HostIf → HostIf) (s : State) : (s.updHif f).tasks = s.tasks := rfl
@[simp] theorem State.updHif_fram (f : HostIf → HostIf) (s : State) : (s.updHif f).fram = s.fram := rfl
@[simp] theorem State.updHif_twin (f : HostIf → HostIf) (s : State) : (s.updHif f).twin = s.twin := rfl
@[simp] theorem State.updHif_floe (f : HostIf → HostIf) (s : State) : (s.updHif f).floe = s.floe := rfl
@[simp] theorem State.updHif_io (f : HostIf → HostIf) (s : State) : (s.updHif f).io = s.io := rfl
@[simp] theorem State.updHif_hif (f : HostIf → HostIf) (s : State) : (s.updHif f).hif = f s.hif := rfl
@[simp] theorem State.updHif_fw (f : HostIf → HostIf) (s : State) : (s.updHif f).fw = s.fw := rfl
@[simp] theorem State.updHif_keys (f : HostIf → HostIf) (s : State) : (s.updHif f).keys = s.keys := rfl
@[simp] theorem State.updHif_fabric (f : HostIf → HostIf) (s : State) : (s.updHif f).fabric = s.fabric := rfl
@[simp] theorem State.updHif_can1 (f : HostIf → HostIf) (s : State) : (s.updHif f).can1 = s.can1 := rfl
@[simp] theorem State.updHif_can2 (f : HostIf → HostIf) (s : State) : (s.updHif f).can2 = s.can2 := rfl
@[simp] theorem State.updHif_jtag (f : HostIf → HostIf) (s : State) : (s.updHif f).jtag = s.jtag := rfl
@[simp] theorem State.updHif_rimeArmed (f : HostIf → HostIf) (s : State) : (s.updHif f).rimeArmed = s.rimeArmed := rfl
@[simp] theorem State.updHif_maintEn (f : HostIf → HostIf) (s : State) : (s.updHif f).maintEn = s.maintEn := rfl
@[simp] theorem State.updHif_freeCtr (f : HostIf → HostIf) (s : State) : (s.updHif f).freeCtr = s.freeCtr := rfl
@[simp] theorem State.updFw_pending (f : Firmware → Firmware) (s : State) : (s.updFw f).pending = s.pending := rfl
@[simp] theorem State.updFw_mstate (f : Firmware → Firmware) (s : State) : (s.updFw f).mstate = s.mstate := rfl
@[simp] theorem State.updFw_holdFrom (f : Firmware → Firmware) (s : State) : (s.updFw f).holdFrom = s.holdFrom := rfl
@[simp] theorem State.updFw_resetHold (f : Firmware → Firmware) (s : State) : (s.updFw f).resetHold = s.resetHold := rfl
@[simp] theorem State.updFw_testsDone (f : Firmware → Firmware) (s : State) : (s.updFw f).testsDone = s.testsDone := rfl
@[simp] theorem State.updFw_fromDormant (f : Firmware → Firmware) (s : State) : (s.updFw f).fromDormant = s.fromDormant := rfl
@[simp] theorem State.updFw_power (f : Firmware → Firmware) (s : State) : (s.updFw f).power = s.power := rfl
@[simp] theorem State.updFw_mem (f : Firmware → Firmware) (s : State) : (s.updFw f).mem = s.mem := rfl
@[simp] theorem State.updFw_xsram (f : Firmware → Firmware) (s : State) : (s.updFw f).xsram = s.xsram := rfl
@[simp] theorem State.updFw_tb (f : Firmware → Firmware) (s : State) : (s.updFw f).tb = s.tb := rfl
@[simp] theorem State.updFw_lanes (f : Firmware → Firmware) (s : State) : (s.updFw f).lanes = s.lanes := rfl
@[simp] theorem State.updFw_voter (f : Firmware → Firmware) (s : State) : (s.updFw f).voter = s.voter := rfl
@[simp] theorem State.updFw_fcu (f : Firmware → Firmware) (s : State) : (s.updFw f).fcu = s.fcu := rfl
@[simp] theorem State.updFw_ice (f : Firmware → Firmware) (s : State) : (s.updFw f).ice = s.ice := rfl
@[simp] theorem State.updFw_prog (f : Firmware → Firmware) (s : State) : (s.updFw f).prog = s.prog := rfl
@[simp] theorem State.updFw_tasks (f : Firmware → Firmware) (s : State) : (s.updFw f).tasks = s.tasks := rfl
@[simp] theorem State.updFw_fram (f : Firmware → Firmware) (s : State) : (s.updFw f).fram = s.fram := rfl
@[simp] theorem State.updFw_twin (f : Firmware → Firmware) (s : State) : (s.updFw f).twin = s.twin := rfl
@[simp] theorem State.updFw_floe (f : Firmware → Firmware) (s : State) : (s.updFw f).floe = s.floe := rfl
@[simp] theorem State.updFw_io (f : Firmware → Firmware) (s : State) : (s.updFw f).io = s.io := rfl
@[simp] theorem State.updFw_hif (f : Firmware → Firmware) (s : State) : (s.updFw f).hif = s.hif := rfl
@[simp] theorem State.updFw_fw (f : Firmware → Firmware) (s : State) : (s.updFw f).fw = f s.fw := rfl
@[simp] theorem State.updFw_keys (f : Firmware → Firmware) (s : State) : (s.updFw f).keys = s.keys := rfl
@[simp] theorem State.updFw_fabric (f : Firmware → Firmware) (s : State) : (s.updFw f).fabric = s.fabric := rfl
@[simp] theorem State.updFw_can1 (f : Firmware → Firmware) (s : State) : (s.updFw f).can1 = s.can1 := rfl
@[simp] theorem State.updFw_can2 (f : Firmware → Firmware) (s : State) : (s.updFw f).can2 = s.can2 := rfl
@[simp] theorem State.updFw_jtag (f : Firmware → Firmware) (s : State) : (s.updFw f).jtag = s.jtag := rfl
@[simp] theorem State.updFw_rimeArmed (f : Firmware → Firmware) (s : State) : (s.updFw f).rimeArmed = s.rimeArmed := rfl
@[simp] theorem State.updFw_maintEn (f : Firmware → Firmware) (s : State) : (s.updFw f).maintEn = s.maintEn := rfl
@[simp] theorem State.updFw_freeCtr (f : Firmware → Firmware) (s : State) : (s.updFw f).freeCtr = s.freeCtr := rfl
@[simp] theorem State.updKeys_pending (f : Keys → Keys) (s : State) : (s.updKeys f).pending = s.pending := rfl
@[simp] theorem State.updKeys_mstate (f : Keys → Keys) (s : State) : (s.updKeys f).mstate = s.mstate := rfl
@[simp] theorem State.updKeys_holdFrom (f : Keys → Keys) (s : State) : (s.updKeys f).holdFrom = s.holdFrom := rfl
@[simp] theorem State.updKeys_resetHold (f : Keys → Keys) (s : State) : (s.updKeys f).resetHold = s.resetHold := rfl
@[simp] theorem State.updKeys_testsDone (f : Keys → Keys) (s : State) : (s.updKeys f).testsDone = s.testsDone := rfl
@[simp] theorem State.updKeys_fromDormant (f : Keys → Keys) (s : State) : (s.updKeys f).fromDormant = s.fromDormant := rfl
@[simp] theorem State.updKeys_power (f : Keys → Keys) (s : State) : (s.updKeys f).power = s.power := rfl
@[simp] theorem State.updKeys_mem (f : Keys → Keys) (s : State) : (s.updKeys f).mem = s.mem := rfl
@[simp] theorem State.updKeys_xsram (f : Keys → Keys) (s : State) : (s.updKeys f).xsram = s.xsram := rfl
@[simp] theorem State.updKeys_tb (f : Keys → Keys) (s : State) : (s.updKeys f).tb = s.tb := rfl
@[simp] theorem State.updKeys_lanes (f : Keys → Keys) (s : State) : (s.updKeys f).lanes = s.lanes := rfl
@[simp] theorem State.updKeys_voter (f : Keys → Keys) (s : State) : (s.updKeys f).voter = s.voter := rfl
@[simp] theorem State.updKeys_fcu (f : Keys → Keys) (s : State) : (s.updKeys f).fcu = s.fcu := rfl
@[simp] theorem State.updKeys_ice (f : Keys → Keys) (s : State) : (s.updKeys f).ice = s.ice := rfl
@[simp] theorem State.updKeys_prog (f : Keys → Keys) (s : State) : (s.updKeys f).prog = s.prog := rfl
@[simp] theorem State.updKeys_tasks (f : Keys → Keys) (s : State) : (s.updKeys f).tasks = s.tasks := rfl
@[simp] theorem State.updKeys_fram (f : Keys → Keys) (s : State) : (s.updKeys f).fram = s.fram := rfl
@[simp] theorem State.updKeys_twin (f : Keys → Keys) (s : State) : (s.updKeys f).twin = s.twin := rfl
@[simp] theorem State.updKeys_floe (f : Keys → Keys) (s : State) : (s.updKeys f).floe = s.floe := rfl
@[simp] theorem State.updKeys_io (f : Keys → Keys) (s : State) : (s.updKeys f).io = s.io := rfl
@[simp] theorem State.updKeys_hif (f : Keys → Keys) (s : State) : (s.updKeys f).hif = s.hif := rfl
@[simp] theorem State.updKeys_fw (f : Keys → Keys) (s : State) : (s.updKeys f).fw = s.fw := rfl
@[simp] theorem State.updKeys_keys (f : Keys → Keys) (s : State) : (s.updKeys f).keys = f s.keys := rfl
@[simp] theorem State.updKeys_fabric (f : Keys → Keys) (s : State) : (s.updKeys f).fabric = s.fabric := rfl
@[simp] theorem State.updKeys_can1 (f : Keys → Keys) (s : State) : (s.updKeys f).can1 = s.can1 := rfl
@[simp] theorem State.updKeys_can2 (f : Keys → Keys) (s : State) : (s.updKeys f).can2 = s.can2 := rfl
@[simp] theorem State.updKeys_jtag (f : Keys → Keys) (s : State) : (s.updKeys f).jtag = s.jtag := rfl
@[simp] theorem State.updKeys_rimeArmed (f : Keys → Keys) (s : State) : (s.updKeys f).rimeArmed = s.rimeArmed := rfl
@[simp] theorem State.updKeys_maintEn (f : Keys → Keys) (s : State) : (s.updKeys f).maintEn = s.maintEn := rfl
@[simp] theorem State.updKeys_freeCtr (f : Keys → Keys) (s : State) : (s.updKeys f).freeCtr = s.freeCtr := rfl
@[simp] theorem State.updFabric_pending (f : Fabric → Fabric) (s : State) : (s.updFabric f).pending = s.pending := rfl
@[simp] theorem State.updFabric_mstate (f : Fabric → Fabric) (s : State) : (s.updFabric f).mstate = s.mstate := rfl
@[simp] theorem State.updFabric_holdFrom (f : Fabric → Fabric) (s : State) : (s.updFabric f).holdFrom = s.holdFrom := rfl
@[simp] theorem State.updFabric_resetHold (f : Fabric → Fabric) (s : State) : (s.updFabric f).resetHold = s.resetHold := rfl
@[simp] theorem State.updFabric_testsDone (f : Fabric → Fabric) (s : State) : (s.updFabric f).testsDone = s.testsDone := rfl
@[simp] theorem State.updFabric_fromDormant (f : Fabric → Fabric) (s : State) : (s.updFabric f).fromDormant = s.fromDormant := rfl
@[simp] theorem State.updFabric_power (f : Fabric → Fabric) (s : State) : (s.updFabric f).power = s.power := rfl
@[simp] theorem State.updFabric_mem (f : Fabric → Fabric) (s : State) : (s.updFabric f).mem = s.mem := rfl
@[simp] theorem State.updFabric_xsram (f : Fabric → Fabric) (s : State) : (s.updFabric f).xsram = s.xsram := rfl
@[simp] theorem State.updFabric_tb (f : Fabric → Fabric) (s : State) : (s.updFabric f).tb = s.tb := rfl
@[simp] theorem State.updFabric_lanes (f : Fabric → Fabric) (s : State) : (s.updFabric f).lanes = s.lanes := rfl
@[simp] theorem State.updFabric_voter (f : Fabric → Fabric) (s : State) : (s.updFabric f).voter = s.voter := rfl
@[simp] theorem State.updFabric_fcu (f : Fabric → Fabric) (s : State) : (s.updFabric f).fcu = s.fcu := rfl
@[simp] theorem State.updFabric_ice (f : Fabric → Fabric) (s : State) : (s.updFabric f).ice = s.ice := rfl
@[simp] theorem State.updFabric_prog (f : Fabric → Fabric) (s : State) : (s.updFabric f).prog = s.prog := rfl
@[simp] theorem State.updFabric_tasks (f : Fabric → Fabric) (s : State) : (s.updFabric f).tasks = s.tasks := rfl
@[simp] theorem State.updFabric_fram (f : Fabric → Fabric) (s : State) : (s.updFabric f).fram = s.fram := rfl
@[simp] theorem State.updFabric_twin (f : Fabric → Fabric) (s : State) : (s.updFabric f).twin = s.twin := rfl
@[simp] theorem State.updFabric_floe (f : Fabric → Fabric) (s : State) : (s.updFabric f).floe = s.floe := rfl
@[simp] theorem State.updFabric_io (f : Fabric → Fabric) (s : State) : (s.updFabric f).io = s.io := rfl
@[simp] theorem State.updFabric_hif (f : Fabric → Fabric) (s : State) : (s.updFabric f).hif = s.hif := rfl
@[simp] theorem State.updFabric_fw (f : Fabric → Fabric) (s : State) : (s.updFabric f).fw = s.fw := rfl
@[simp] theorem State.updFabric_keys (f : Fabric → Fabric) (s : State) : (s.updFabric f).keys = s.keys := rfl
@[simp] theorem State.updFabric_fabric (f : Fabric → Fabric) (s : State) : (s.updFabric f).fabric = f s.fabric := rfl
@[simp] theorem State.updFabric_can1 (f : Fabric → Fabric) (s : State) : (s.updFabric f).can1 = s.can1 := rfl
@[simp] theorem State.updFabric_can2 (f : Fabric → Fabric) (s : State) : (s.updFabric f).can2 = s.can2 := rfl
@[simp] theorem State.updFabric_jtag (f : Fabric → Fabric) (s : State) : (s.updFabric f).jtag = s.jtag := rfl
@[simp] theorem State.updFabric_rimeArmed (f : Fabric → Fabric) (s : State) : (s.updFabric f).rimeArmed = s.rimeArmed := rfl
@[simp] theorem State.updFabric_maintEn (f : Fabric → Fabric) (s : State) : (s.updFabric f).maintEn = s.maintEn := rfl
@[simp] theorem State.updFabric_freeCtr (f : Fabric → Fabric) (s : State) : (s.updFabric f).freeCtr = s.freeCtr := rfl
@[simp] theorem State.updCan1_pending (f : CanSt → CanSt) (s : State) : (s.updCan1 f).pending = s.pending := rfl
@[simp] theorem State.updCan1_mstate (f : CanSt → CanSt) (s : State) : (s.updCan1 f).mstate = s.mstate := rfl
@[simp] theorem State.updCan1_holdFrom (f : CanSt → CanSt) (s : State) : (s.updCan1 f).holdFrom = s.holdFrom := rfl
@[simp] theorem State.updCan1_resetHold (f : CanSt → CanSt) (s : State) : (s.updCan1 f).resetHold = s.resetHold := rfl
@[simp] theorem State.updCan1_testsDone (f : CanSt → CanSt) (s : State) : (s.updCan1 f).testsDone = s.testsDone := rfl
@[simp] theorem State.updCan1_fromDormant (f : CanSt → CanSt) (s : State) : (s.updCan1 f).fromDormant = s.fromDormant := rfl
@[simp] theorem State.updCan1_power (f : CanSt → CanSt) (s : State) : (s.updCan1 f).power = s.power := rfl
@[simp] theorem State.updCan1_mem (f : CanSt → CanSt) (s : State) : (s.updCan1 f).mem = s.mem := rfl
@[simp] theorem State.updCan1_xsram (f : CanSt → CanSt) (s : State) : (s.updCan1 f).xsram = s.xsram := rfl
@[simp] theorem State.updCan1_tb (f : CanSt → CanSt) (s : State) : (s.updCan1 f).tb = s.tb := rfl
@[simp] theorem State.updCan1_lanes (f : CanSt → CanSt) (s : State) : (s.updCan1 f).lanes = s.lanes := rfl
@[simp] theorem State.updCan1_voter (f : CanSt → CanSt) (s : State) : (s.updCan1 f).voter = s.voter := rfl
@[simp] theorem State.updCan1_fcu (f : CanSt → CanSt) (s : State) : (s.updCan1 f).fcu = s.fcu := rfl
@[simp] theorem State.updCan1_ice (f : CanSt → CanSt) (s : State) : (s.updCan1 f).ice = s.ice := rfl
@[simp] theorem State.updCan1_prog (f : CanSt → CanSt) (s : State) : (s.updCan1 f).prog = s.prog := rfl
@[simp] theorem State.updCan1_tasks (f : CanSt → CanSt) (s : State) : (s.updCan1 f).tasks = s.tasks := rfl
@[simp] theorem State.updCan1_fram (f : CanSt → CanSt) (s : State) : (s.updCan1 f).fram = s.fram := rfl
@[simp] theorem State.updCan1_twin (f : CanSt → CanSt) (s : State) : (s.updCan1 f).twin = s.twin := rfl
@[simp] theorem State.updCan1_floe (f : CanSt → CanSt) (s : State) : (s.updCan1 f).floe = s.floe := rfl
@[simp] theorem State.updCan1_io (f : CanSt → CanSt) (s : State) : (s.updCan1 f).io = s.io := rfl
@[simp] theorem State.updCan1_hif (f : CanSt → CanSt) (s : State) : (s.updCan1 f).hif = s.hif := rfl
@[simp] theorem State.updCan1_fw (f : CanSt → CanSt) (s : State) : (s.updCan1 f).fw = s.fw := rfl
@[simp] theorem State.updCan1_keys (f : CanSt → CanSt) (s : State) : (s.updCan1 f).keys = s.keys := rfl
@[simp] theorem State.updCan1_fabric (f : CanSt → CanSt) (s : State) : (s.updCan1 f).fabric = s.fabric := rfl
@[simp] theorem State.updCan1_can1 (f : CanSt → CanSt) (s : State) : (s.updCan1 f).can1 = f s.can1 := rfl
@[simp] theorem State.updCan1_can2 (f : CanSt → CanSt) (s : State) : (s.updCan1 f).can2 = s.can2 := rfl
@[simp] theorem State.updCan1_jtag (f : CanSt → CanSt) (s : State) : (s.updCan1 f).jtag = s.jtag := rfl
@[simp] theorem State.updCan1_rimeArmed (f : CanSt → CanSt) (s : State) : (s.updCan1 f).rimeArmed = s.rimeArmed := rfl
@[simp] theorem State.updCan1_maintEn (f : CanSt → CanSt) (s : State) : (s.updCan1 f).maintEn = s.maintEn := rfl
@[simp] theorem State.updCan1_freeCtr (f : CanSt → CanSt) (s : State) : (s.updCan1 f).freeCtr = s.freeCtr := rfl
@[simp] theorem State.updCan2_pending (f : CanSt → CanSt) (s : State) : (s.updCan2 f).pending = s.pending := rfl
@[simp] theorem State.updCan2_mstate (f : CanSt → CanSt) (s : State) : (s.updCan2 f).mstate = s.mstate := rfl
@[simp] theorem State.updCan2_holdFrom (f : CanSt → CanSt) (s : State) : (s.updCan2 f).holdFrom = s.holdFrom := rfl
@[simp] theorem State.updCan2_resetHold (f : CanSt → CanSt) (s : State) : (s.updCan2 f).resetHold = s.resetHold := rfl
@[simp] theorem State.updCan2_testsDone (f : CanSt → CanSt) (s : State) : (s.updCan2 f).testsDone = s.testsDone := rfl
@[simp] theorem State.updCan2_fromDormant (f : CanSt → CanSt) (s : State) : (s.updCan2 f).fromDormant = s.fromDormant := rfl
@[simp] theorem State.updCan2_power (f : CanSt → CanSt) (s : State) : (s.updCan2 f).power = s.power := rfl
@[simp] theorem State.updCan2_mem (f : CanSt → CanSt) (s : State) : (s.updCan2 f).mem = s.mem := rfl
@[simp] theorem State.updCan2_xsram (f : CanSt → CanSt) (s : State) : (s.updCan2 f).xsram = s.xsram := rfl
@[simp] theorem State.updCan2_tb (f : CanSt → CanSt) (s : State) : (s.updCan2 f).tb = s.tb := rfl
@[simp] theorem State.updCan2_lanes (f : CanSt → CanSt) (s : State) : (s.updCan2 f).lanes = s.lanes := rfl
@[simp] theorem State.updCan2_voter (f : CanSt → CanSt) (s : State) : (s.updCan2 f).voter = s.voter := rfl
@[simp] theorem State.updCan2_fcu (f : CanSt → CanSt) (s : State) : (s.updCan2 f).fcu = s.fcu := rfl
@[simp] theorem State.updCan2_ice (f : CanSt → CanSt) (s : State) : (s.updCan2 f).ice = s.ice := rfl
@[simp] theorem State.updCan2_prog (f : CanSt → CanSt) (s : State) : (s.updCan2 f).prog = s.prog := rfl
@[simp] theorem State.updCan2_tasks (f : CanSt → CanSt) (s : State) : (s.updCan2 f).tasks = s.tasks := rfl
@[simp] theorem State.updCan2_fram (f : CanSt → CanSt) (s : State) : (s.updCan2 f).fram = s.fram := rfl
@[simp] theorem State.updCan2_twin (f : CanSt → CanSt) (s : State) : (s.updCan2 f).twin = s.twin := rfl
@[simp] theorem State.updCan2_floe (f : CanSt → CanSt) (s : State) : (s.updCan2 f).floe = s.floe := rfl
@[simp] theorem State.updCan2_io (f : CanSt → CanSt) (s : State) : (s.updCan2 f).io = s.io := rfl
@[simp] theorem State.updCan2_hif (f : CanSt → CanSt) (s : State) : (s.updCan2 f).hif = s.hif := rfl
@[simp] theorem State.updCan2_fw (f : CanSt → CanSt) (s : State) : (s.updCan2 f).fw = s.fw := rfl
@[simp] theorem State.updCan2_keys (f : CanSt → CanSt) (s : State) : (s.updCan2 f).keys = s.keys := rfl
@[simp] theorem State.updCan2_fabric (f : CanSt → CanSt) (s : State) : (s.updCan2 f).fabric = s.fabric := rfl
@[simp] theorem State.updCan2_can1 (f : CanSt → CanSt) (s : State) : (s.updCan2 f).can1 = s.can1 := rfl
@[simp] theorem State.updCan2_can2 (f : CanSt → CanSt) (s : State) : (s.updCan2 f).can2 = f s.can2 := rfl
@[simp] theorem State.updCan2_jtag (f : CanSt → CanSt) (s : State) : (s.updCan2 f).jtag = s.jtag := rfl
@[simp] theorem State.updCan2_rimeArmed (f : CanSt → CanSt) (s : State) : (s.updCan2 f).rimeArmed = s.rimeArmed := rfl
@[simp] theorem State.updCan2_maintEn (f : CanSt → CanSt) (s : State) : (s.updCan2 f).maintEn = s.maintEn := rfl
@[simp] theorem State.updCan2_freeCtr (f : CanSt → CanSt) (s : State) : (s.updCan2 f).freeCtr = s.freeCtr := rfl
@[simp] theorem State.updJtag_pending (f : Jtag → Jtag) (s : State) : (s.updJtag f).pending = s.pending := rfl
@[simp] theorem State.updJtag_mstate (f : Jtag → Jtag) (s : State) : (s.updJtag f).mstate = s.mstate := rfl
@[simp] theorem State.updJtag_holdFrom (f : Jtag → Jtag) (s : State) : (s.updJtag f).holdFrom = s.holdFrom := rfl
@[simp] theorem State.updJtag_resetHold (f : Jtag → Jtag) (s : State) : (s.updJtag f).resetHold = s.resetHold := rfl
@[simp] theorem State.updJtag_testsDone (f : Jtag → Jtag) (s : State) : (s.updJtag f).testsDone = s.testsDone := rfl
@[simp] theorem State.updJtag_fromDormant (f : Jtag → Jtag) (s : State) : (s.updJtag f).fromDormant = s.fromDormant := rfl
@[simp] theorem State.updJtag_power (f : Jtag → Jtag) (s : State) : (s.updJtag f).power = s.power := rfl
@[simp] theorem State.updJtag_mem (f : Jtag → Jtag) (s : State) : (s.updJtag f).mem = s.mem := rfl
@[simp] theorem State.updJtag_xsram (f : Jtag → Jtag) (s : State) : (s.updJtag f).xsram = s.xsram := rfl
@[simp] theorem State.updJtag_tb (f : Jtag → Jtag) (s : State) : (s.updJtag f).tb = s.tb := rfl
@[simp] theorem State.updJtag_lanes (f : Jtag → Jtag) (s : State) : (s.updJtag f).lanes = s.lanes := rfl
@[simp] theorem State.updJtag_voter (f : Jtag → Jtag) (s : State) : (s.updJtag f).voter = s.voter := rfl
@[simp] theorem State.updJtag_fcu (f : Jtag → Jtag) (s : State) : (s.updJtag f).fcu = s.fcu := rfl
@[simp] theorem State.updJtag_ice (f : Jtag → Jtag) (s : State) : (s.updJtag f).ice = s.ice := rfl
@[simp] theorem State.updJtag_prog (f : Jtag → Jtag) (s : State) : (s.updJtag f).prog = s.prog := rfl
@[simp] theorem State.updJtag_tasks (f : Jtag → Jtag) (s : State) : (s.updJtag f).tasks = s.tasks := rfl
@[simp] theorem State.updJtag_fram (f : Jtag → Jtag) (s : State) : (s.updJtag f).fram = s.fram := rfl
@[simp] theorem State.updJtag_twin (f : Jtag → Jtag) (s : State) : (s.updJtag f).twin = s.twin := rfl
@[simp] theorem State.updJtag_floe (f : Jtag → Jtag) (s : State) : (s.updJtag f).floe = s.floe := rfl
@[simp] theorem State.updJtag_io (f : Jtag → Jtag) (s : State) : (s.updJtag f).io = s.io := rfl
@[simp] theorem State.updJtag_hif (f : Jtag → Jtag) (s : State) : (s.updJtag f).hif = s.hif := rfl
@[simp] theorem State.updJtag_fw (f : Jtag → Jtag) (s : State) : (s.updJtag f).fw = s.fw := rfl
@[simp] theorem State.updJtag_keys (f : Jtag → Jtag) (s : State) : (s.updJtag f).keys = s.keys := rfl
@[simp] theorem State.updJtag_fabric (f : Jtag → Jtag) (s : State) : (s.updJtag f).fabric = s.fabric := rfl
@[simp] theorem State.updJtag_can1 (f : Jtag → Jtag) (s : State) : (s.updJtag f).can1 = s.can1 := rfl
@[simp] theorem State.updJtag_can2 (f : Jtag → Jtag) (s : State) : (s.updJtag f).can2 = s.can2 := rfl
@[simp] theorem State.updJtag_jtag (f : Jtag → Jtag) (s : State) : (s.updJtag f).jtag = f s.jtag := rfl
@[simp] theorem State.updJtag_rimeArmed (f : Jtag → Jtag) (s : State) : (s.updJtag f).rimeArmed = s.rimeArmed := rfl
@[simp] theorem State.updJtag_maintEn (f : Jtag → Jtag) (s : State) : (s.updJtag f).maintEn = s.maintEn := rfl
@[simp] theorem State.updJtag_freeCtr (f : Jtag → Jtag) (s : State) : (s.updJtag f).freeCtr = s.freeCtr := rfl
@[simp] theorem State.updRimeArmed_pending (f : Bool → Bool) (s : State) : (s.updRimeArmed f).pending = s.pending := rfl
@[simp] theorem State.updRimeArmed_mstate (f : Bool → Bool) (s : State) : (s.updRimeArmed f).mstate = s.mstate := rfl
@[simp] theorem State.updRimeArmed_holdFrom (f : Bool → Bool) (s : State) : (s.updRimeArmed f).holdFrom = s.holdFrom := rfl
@[simp] theorem State.updRimeArmed_resetHold (f : Bool → Bool) (s : State) : (s.updRimeArmed f).resetHold = s.resetHold := rfl
@[simp] theorem State.updRimeArmed_testsDone (f : Bool → Bool) (s : State) : (s.updRimeArmed f).testsDone = s.testsDone := rfl
@[simp] theorem State.updRimeArmed_fromDormant (f : Bool → Bool) (s : State) : (s.updRimeArmed f).fromDormant = s.fromDormant := rfl
@[simp] theorem State.updRimeArmed_power (f : Bool → Bool) (s : State) : (s.updRimeArmed f).power = s.power := rfl
@[simp] theorem State.updRimeArmed_mem (f : Bool → Bool) (s : State) : (s.updRimeArmed f).mem = s.mem := rfl
@[simp] theorem State.updRimeArmed_xsram (f : Bool → Bool) (s : State) : (s.updRimeArmed f).xsram = s.xsram := rfl
@[simp] theorem State.updRimeArmed_tb (f : Bool → Bool) (s : State) : (s.updRimeArmed f).tb = s.tb := rfl
@[simp] theorem State.updRimeArmed_lanes (f : Bool → Bool) (s : State) : (s.updRimeArmed f).lanes = s.lanes := rfl
@[simp] theorem State.updRimeArmed_voter (f : Bool → Bool) (s : State) : (s.updRimeArmed f).voter = s.voter := rfl
@[simp] theorem State.updRimeArmed_fcu (f : Bool → Bool) (s : State) : (s.updRimeArmed f).fcu = s.fcu := rfl
@[simp] theorem State.updRimeArmed_ice (f : Bool → Bool) (s : State) : (s.updRimeArmed f).ice = s.ice := rfl
@[simp] theorem State.updRimeArmed_prog (f : Bool → Bool) (s : State) : (s.updRimeArmed f).prog = s.prog := rfl
@[simp] theorem State.updRimeArmed_tasks (f : Bool → Bool) (s : State) : (s.updRimeArmed f).tasks = s.tasks := rfl
@[simp] theorem State.updRimeArmed_fram (f : Bool → Bool) (s : State) : (s.updRimeArmed f).fram = s.fram := rfl
@[simp] theorem State.updRimeArmed_twin (f : Bool → Bool) (s : State) : (s.updRimeArmed f).twin = s.twin := rfl
@[simp] theorem State.updRimeArmed_floe (f : Bool → Bool) (s : State) : (s.updRimeArmed f).floe = s.floe := rfl
@[simp] theorem State.updRimeArmed_io (f : Bool → Bool) (s : State) : (s.updRimeArmed f).io = s.io := rfl
@[simp] theorem State.updRimeArmed_hif (f : Bool → Bool) (s : State) : (s.updRimeArmed f).hif = s.hif := rfl
@[simp] theorem State.updRimeArmed_fw (f : Bool → Bool) (s : State) : (s.updRimeArmed f).fw = s.fw := rfl
@[simp] theorem State.updRimeArmed_keys (f : Bool → Bool) (s : State) : (s.updRimeArmed f).keys = s.keys := rfl
@[simp] theorem State.updRimeArmed_fabric (f : Bool → Bool) (s : State) : (s.updRimeArmed f).fabric = s.fabric := rfl
@[simp] theorem State.updRimeArmed_can1 (f : Bool → Bool) (s : State) : (s.updRimeArmed f).can1 = s.can1 := rfl
@[simp] theorem State.updRimeArmed_can2 (f : Bool → Bool) (s : State) : (s.updRimeArmed f).can2 = s.can2 := rfl
@[simp] theorem State.updRimeArmed_jtag (f : Bool → Bool) (s : State) : (s.updRimeArmed f).jtag = s.jtag := rfl
@[simp] theorem State.updRimeArmed_rimeArmed (f : Bool → Bool) (s : State) : (s.updRimeArmed f).rimeArmed = f s.rimeArmed := rfl
@[simp] theorem State.updRimeArmed_maintEn (f : Bool → Bool) (s : State) : (s.updRimeArmed f).maintEn = s.maintEn := rfl
@[simp] theorem State.updRimeArmed_freeCtr (f : Bool → Bool) (s : State) : (s.updRimeArmed f).freeCtr = s.freeCtr := rfl
@[simp] theorem State.updMaintEn_pending (f : Bool → Bool) (s : State) : (s.updMaintEn f).pending = s.pending := rfl
@[simp] theorem State.updMaintEn_mstate (f : Bool → Bool) (s : State) : (s.updMaintEn f).mstate = s.mstate := rfl
@[simp] theorem State.updMaintEn_holdFrom (f : Bool → Bool) (s : State) : (s.updMaintEn f).holdFrom = s.holdFrom := rfl
@[simp] theorem State.updMaintEn_resetHold (f : Bool → Bool) (s : State) : (s.updMaintEn f).resetHold = s.resetHold := rfl
@[simp] theorem State.updMaintEn_testsDone (f : Bool → Bool) (s : State) : (s.updMaintEn f).testsDone = s.testsDone := rfl
@[simp] theorem State.updMaintEn_fromDormant (f : Bool → Bool) (s : State) : (s.updMaintEn f).fromDormant = s.fromDormant := rfl
@[simp] theorem State.updMaintEn_power (f : Bool → Bool) (s : State) : (s.updMaintEn f).power = s.power := rfl
@[simp] theorem State.updMaintEn_mem (f : Bool → Bool) (s : State) : (s.updMaintEn f).mem = s.mem := rfl
@[simp] theorem State.updMaintEn_xsram (f : Bool → Bool) (s : State) : (s.updMaintEn f).xsram = s.xsram := rfl
@[simp] theorem State.updMaintEn_tb (f : Bool → Bool) (s : State) : (s.updMaintEn f).tb = s.tb := rfl
@[simp] theorem State.updMaintEn_lanes (f : Bool → Bool) (s : State) : (s.updMaintEn f).lanes = s.lanes := rfl
@[simp] theorem State.updMaintEn_voter (f : Bool → Bool) (s : State) : (s.updMaintEn f).voter = s.voter := rfl
@[simp] theorem State.updMaintEn_fcu (f : Bool → Bool) (s : State) : (s.updMaintEn f).fcu = s.fcu := rfl
@[simp] theorem State.updMaintEn_ice (f : Bool → Bool) (s : State) : (s.updMaintEn f).ice = s.ice := rfl
@[simp] theorem State.updMaintEn_prog (f : Bool → Bool) (s : State) : (s.updMaintEn f).prog = s.prog := rfl
@[simp] theorem State.updMaintEn_tasks (f : Bool → Bool) (s : State) : (s.updMaintEn f).tasks = s.tasks := rfl
@[simp] theorem State.updMaintEn_fram (f : Bool → Bool) (s : State) : (s.updMaintEn f).fram = s.fram := rfl
@[simp] theorem State.updMaintEn_twin (f : Bool → Bool) (s : State) : (s.updMaintEn f).twin = s.twin := rfl
@[simp] theorem State.updMaintEn_floe (f : Bool → Bool) (s : State) : (s.updMaintEn f).floe = s.floe := rfl
@[simp] theorem State.updMaintEn_io (f : Bool → Bool) (s : State) : (s.updMaintEn f).io = s.io := rfl
@[simp] theorem State.updMaintEn_hif (f : Bool → Bool) (s : State) : (s.updMaintEn f).hif = s.hif := rfl
@[simp] theorem State.updMaintEn_fw (f : Bool → Bool) (s : State) : (s.updMaintEn f).fw = s.fw := rfl
@[simp] theorem State.updMaintEn_keys (f : Bool → Bool) (s : State) : (s.updMaintEn f).keys = s.keys := rfl
@[simp] theorem State.updMaintEn_fabric (f : Bool → Bool) (s : State) : (s.updMaintEn f).fabric = s.fabric := rfl
@[simp] theorem State.updMaintEn_can1 (f : Bool → Bool) (s : State) : (s.updMaintEn f).can1 = s.can1 := rfl
@[simp] theorem State.updMaintEn_can2 (f : Bool → Bool) (s : State) : (s.updMaintEn f).can2 = s.can2 := rfl
@[simp] theorem State.updMaintEn_jtag (f : Bool → Bool) (s : State) : (s.updMaintEn f).jtag = s.jtag := rfl
@[simp] theorem State.updMaintEn_rimeArmed (f : Bool → Bool) (s : State) : (s.updMaintEn f).rimeArmed = s.rimeArmed := rfl
@[simp] theorem State.updMaintEn_maintEn (f : Bool → Bool) (s : State) : (s.updMaintEn f).maintEn = f s.maintEn := rfl
@[simp] theorem State.updMaintEn_freeCtr (f : Bool → Bool) (s : State) : (s.updMaintEn f).freeCtr = s.freeCtr := rfl
@[simp] theorem State.updFreeCtr_pending (f : Nat → Nat) (s : State) : (s.updFreeCtr f).pending = s.pending := rfl
@[simp] theorem State.updFreeCtr_mstate (f : Nat → Nat) (s : State) : (s.updFreeCtr f).mstate = s.mstate := rfl
@[simp] theorem State.updFreeCtr_holdFrom (f : Nat → Nat) (s : State) : (s.updFreeCtr f).holdFrom = s.holdFrom := rfl
@[simp] theorem State.updFreeCtr_resetHold (f : Nat → Nat) (s : State) : (s.updFreeCtr f).resetHold = s.resetHold := rfl
@[simp] theorem State.updFreeCtr_testsDone (f : Nat → Nat) (s : State) : (s.updFreeCtr f).testsDone = s.testsDone := rfl
@[simp] theorem State.updFreeCtr_fromDormant (f : Nat → Nat) (s : State) : (s.updFreeCtr f).fromDormant = s.fromDormant := rfl
@[simp] theorem State.updFreeCtr_power (f : Nat → Nat) (s : State) : (s.updFreeCtr f).power = s.power := rfl
@[simp] theorem State.updFreeCtr_mem (f : Nat → Nat) (s : State) : (s.updFreeCtr f).mem = s.mem := rfl
@[simp] theorem State.updFreeCtr_xsram (f : Nat → Nat) (s : State) : (s.updFreeCtr f).xsram = s.xsram := rfl
@[simp] theorem State.updFreeCtr_tb (f : Nat → Nat) (s : State) : (s.updFreeCtr f).tb = s.tb := rfl
@[simp] theorem State.updFreeCtr_lanes (f : Nat → Nat) (s : State) : (s.updFreeCtr f).lanes = s.lanes := rfl
@[simp] theorem State.updFreeCtr_voter (f : Nat → Nat) (s : State) : (s.updFreeCtr f).voter = s.voter := rfl
@[simp] theorem State.updFreeCtr_fcu (f : Nat → Nat) (s : State) : (s.updFreeCtr f).fcu = s.fcu := rfl
@[simp] theorem State.updFreeCtr_ice (f : Nat → Nat) (s : State) : (s.updFreeCtr f).ice = s.ice := rfl
@[simp] theorem State.updFreeCtr_prog (f : Nat → Nat) (s : State) : (s.updFreeCtr f).prog = s.prog := rfl
@[simp] theorem State.updFreeCtr_tasks (f : Nat → Nat) (s : State) : (s.updFreeCtr f).tasks = s.tasks := rfl
@[simp] theorem State.updFreeCtr_fram (f : Nat → Nat) (s : State) : (s.updFreeCtr f).fram = s.fram := rfl
@[simp] theorem State.updFreeCtr_twin (f : Nat → Nat) (s : State) : (s.updFreeCtr f).twin = s.twin := rfl
@[simp] theorem State.updFreeCtr_floe (f : Nat → Nat) (s : State) : (s.updFreeCtr f).floe = s.floe := rfl
@[simp] theorem State.updFreeCtr_io (f : Nat → Nat) (s : State) : (s.updFreeCtr f).io = s.io := rfl
@[simp] theorem State.updFreeCtr_hif (f : Nat → Nat) (s : State) : (s.updFreeCtr f).hif = s.hif := rfl
@[simp] theorem State.updFreeCtr_fw (f : Nat → Nat) (s : State) : (s.updFreeCtr f).fw = s.fw := rfl
@[simp] theorem State.updFreeCtr_keys (f : Nat → Nat) (s : State) : (s.updFreeCtr f).keys = s.keys := rfl
@[simp] theorem State.updFreeCtr_fabric (f : Nat → Nat) (s : State) : (s.updFreeCtr f).fabric = s.fabric := rfl
@[simp] theorem State.updFreeCtr_can1 (f : Nat → Nat) (s : State) : (s.updFreeCtr f).can1 = s.can1 := rfl
@[simp] theorem State.updFreeCtr_can2 (f : Nat → Nat) (s : State) : (s.updFreeCtr f).can2 = s.can2 := rfl
@[simp] theorem State.updFreeCtr_jtag (f : Nat → Nat) (s : State) : (s.updFreeCtr f).jtag = s.jtag := rfl
@[simp] theorem State.updFreeCtr_rimeArmed (f : Nat → Nat) (s : State) : (s.updFreeCtr f).rimeArmed = s.rimeArmed := rfl
@[simp] theorem State.updFreeCtr_maintEn (f : Nat → Nat) (s : State) : (s.updFreeCtr f).maintEn = s.maintEn := rfl
@[simp] theorem State.updFreeCtr_freeCtr (f : Nat → Nat) (s : State) : (s.updFreeCtr f).freeCtr = f s.freeCtr := rfl

end Sys2Proof.Machine
end

