-- ==== Sys2Proof/Laws/Ops.lean ====
section
/-!
SUPPORT. What each shared operation leaves alone, said once for the whole state, and what it brings about: records, completions,
lock-outs, entry into SAFE, the decision on a fault, the exclusion of a lane.
-/
namespace Sys2Proof.Machine

/-! ### Records -/

theorem emit_frame (r : IceRec) (s : State) : { emit r s with ice := s.ice } = s := rfl

theorem record_frame (code : Half) (sev src p0 p1 p2 p3 : Nat) (s : State) :
    { record code sev src p0 p1 p2 p3 s with ice := s.ice } = s := rfl

/-- A record is queued while there is room, else it counts as dropped (R294). -/
theorem emit_inbound (r : IceRec) (s : State) :
    (emit r s).ice.inbound = if s.ice.inbound.length < 64 then s.ice.inbound ++ [r] else s.ice.inbound := by
  simp only [emit, State.updIce]
  split <;> rfl

theorem emit_bounded (r : IceRec) (s : State) (h : s.ice.inbound.length ≤ 64) : (emit r s).ice.inbound.length ≤ 64 := by
  rw [emit_inbound]
  split
  · simp; omega
  · exact h

/-- Beside its inbound queue and its drop count the recorder keeps everything. -/
theorem emit_ice (r : IceRec) (s : State) :
    { (emit r s).ice with inbound := s.ice.inbound, drops := s.ice.drops } = s.ice := by
  simp only [emit, State.updIce]
  split <;> rfl

theorem enterState_frame (new : MState) (s : State) : { enterState new s with mstate := s.mstate, ice := s.ice } = s := rfl

@[simp] theorem enterState_mstate (new : MState) (s : State) : (enterState new s).mstate = new := rfl

theorem enterEff_frame (new : MState) (s : State) :
    { enterEff new s with mstate := s.mstate, holdFrom := s.holdFrom, ice := s.ice } = s := by
  unfold enterEff
  split <;> rfl

/-- The state the module acts in becomes the new one, in HOLD too. -/
theorem enterEff_eff (new : MState) (s : State) (h : new ≠ .hold) : (enterEff new s).eff = new := by
  unfold enterEff State.eff
  split
  · next hm => simp [recordState, record, emit, hm]
  · simp [h]

/-! ### What a write marks for a copy in progress (R147, R183) -/

/-- Marking touches only the lanes and the join. -/
theorem touchBlocks_frame (bs : List Nat) (s : State) : { touchBlocks bs s with lanes := s.lanes, twin := s.twin } = s := by
  unfold touchBlocks
  split <;> rfl

/-- With no copy in progress nothing is marked. -/
theorem touchBlocks_idle (bs : List Nat) (s : State) (h : s.copying = false) : touchBlocks bs s = s := by
  simp [touchBlocks, h]

@[simp] theorem touchBlocks_mem (bs : List Nat) (s : State) : (touchBlocks bs s).mem = s.mem := by
  unfold touchBlocks; split <;> rfl
@[simp] theorem touchBlocks_xsram (bs : List Nat) (s : State) : (touchBlocks bs s).xsram = s.xsram := by
  unfold touchBlocks; split <;> rfl
@[simp] theorem touchBlocks_fram (bs : List Nat) (s : State) : (touchBlocks bs s).fram = s.fram := by
  unfold touchBlocks; split <;> rfl
@[simp] theorem touchBlocks_ice (bs : List Nat) (s : State) : (touchBlocks bs s).ice = s.ice := by
  unfold touchBlocks; split <;> rfl
@[simp] theorem touchBlocks_hif (bs : List Nat) (s : State) : (touchBlocks bs s).hif = s.hif := by
  unfold touchBlocks; split <;> rfl

@[simp] theorem writeImage_mem (bs : List Nat) (m : Mem) (s : State) : (writeImage bs m s).mem = m := rfl

@[simp] theorem writeFramBlocks_fram (bs : List Nat) (f : Fram → Fram) (s : State) : (writeFramBlocks bs f s).fram = f s.fram := by
  simp [writeFramBlocks]

theorem writeFramBlocks_frame (bs : List Nat) (f : Fram → Fram) (s : State) :
    { writeFramBlocks bs f s with fram := s.fram, lanes := s.lanes, twin := s.twin } = s := by
  unfold writeFramBlocks touchBlocks
  split <;> rfl

/-! ### Lock-out records -/

theorem writeLock_frame (kind index : Nat) (cause : Half) (source : Nat) (s : State) :
    { writeLock kind index cause source s with fram := s.fram, ice := s.ice, lanes := s.lanes, twin := s.twin } = s := by
  unfold writeLock writeFramBlocks touchBlocks
  split
  · rfl
  · cases hc : s.copying <;> simp only [hc] <;> rfl

theorem writeLock_fram (kind index : Nat) (cause : Half) (source : Nat) (s : State) (h : lockStands kind index s = false) :
    ∃ l : LockRec, l.kind = BitVec.ofNat 8 kind ∧ l.index = BitVec.ofNat 8 index ∧ l.cause = cause ∧
      (writeLock kind index cause source s).fram = { s.fram with locks := s.fram.locks ++ [l] } := by
  unfold writeLock
  rw [if_neg (by simp [h])]
  exact ⟨_, rfl, rfl, rfl, by simp [record, emit, State.updIce]; rfl⟩

/-- After it the function has a record. -/
theorem writeLock_stands {kind index : Nat} (hk : kind < 256) (hi : index < 256) (cause : Half) (source : Nat) (s : State) :
    lockStands kind index (writeLock kind index cause source s) = true := by
  cases h : lockStands kind index s with
  | true => simpa [writeLock, h] using h
  | false =>
    obtain ⟨l, h1, h2, -, h4⟩ := writeLock_fram kind index cause source s h
    simp [lockStands, h4, h1, h2, Nat.mod_eq_of_lt hk, Nat.mod_eq_of_lt hi]

/-- A record that stands stays. -/
theorem writeLock_keeps (kind index : Nat) (cause : Half) (source k i : Nat) (s : State) (h : lockStands k i s = true) :
    lockStands k i (writeLock kind index cause source s) = true := by
  cases hs : lockStands kind index s with
  | true => simpa [writeLock, hs] using h
  | false =>
    obtain ⟨l, -, -, -, h4⟩ := writeLock_fram kind index cause source s hs
    simp only [lockStands, h4, List.any_append, Bool.or_eq_true]
    exact .inl h

theorem writeLock_home (kind index : Nat) (cause : Half) (source : Nat) (s : State) :
    (writeLock kind index cause source s).fram.home = s.fram.home := by
  cases hs : lockStands kind index s with
  | true => simp [writeLock, hs]
  | false =>
    obtain ⟨l, -, -, -, h4⟩ := writeLock_fram kind index cause source s hs
    rw [h4]

/-! ### Ports -/

@[simp] theorem updPort_port (p : Port) (f : PortSt → PortSt) (s : State) : (s.updPort p f).port p = f (s.port p) := by
  cases p <;> rfl

theorem updPort_port_other {p q : Port} (h : q ≠ p) (f : PortSt → PortSt) (s : State) : (s.updPort p f).port q = s.port q := by
  cases p <;> cases q <;> first | rfl | exact absurd rfl h

theorem updPort_frame (p : Port) (f : PortSt → PortSt) (s : State) : { s.updPort p f with hif := s.hif } = s := rfl

theorem complete_frame (p : Port) (op tag : Half) (r : Reply) (s : State) : { complete p op tag r s with hif := s.hif } = s := by
  unfold complete
  split <;> rfl

theorem complete_port_other {p q : Port} (h : q ≠ p) (op tag : Half) (r : Reply) (s : State) :
    (complete p op tag r s).port q = s.port q := by
  unfold complete
  split
  · exact updPort_port_other h _ _
  · rfl

/-- An operation that is pending ends with its completion (R314). -/
theorem complete_waiting {p : Port} {op tag : Half} {s : State} (r : Reply)
    (h : { opcode := op, tag := tag } ∈ (s.port p).pend) :
    ((complete p op tag r s).port p).waiting = (s.port p).waiting ++ [completionPacket op tag r] := by
  simp [complete, h]

/-- A completion changes no mailbox of its port. -/
theorem complete_mailboxes (p q : Port) (op tag : Half) (r : Reply) (s : State) :
    ((complete p op tag r s).port q).cmds = (s.port q).cmds ∧ ((complete p op tag r s).port q).resps = (s.port q).resps ∧
      ((complete p op tag r s).port q).tokens = (s.port q).tokens ∧
      ((complete p op tag r s).port q).commands = (s.port q).commands := by
  unfold complete
  split
  · cases p <;> cases q <;> exact ⟨rfl, rfl, rfl, rfl⟩
  · exact ⟨rfl, rfl, rfl, rfl⟩

/-- Only the ports and the Exchange SRAM may differ. -/
def sameButPorts (s t : State) : Prop := { t with hif := s.hif, xsram := s.xsram } = s

theorem sameButPorts.trans {s t u : State} (a : sameButPorts s t) (b : sameButPorts t u) : sameButPorts s u :=
  calc { u with hif := s.hif, xsram := s.xsram }
      = { ({ u with hif := t.hif, xsram := t.xsram } : State) with hif := s.hif, xsram := s.xsram } := rfl
    _ = { t with hif := s.hif, xsram := s.xsram } := by rw [show ({ u with hif := t.hif, xsram := t.xsram } : State) = t from b]
    _ = s := by exact a

theorem sameButPorts_updXsram (f : Mem → Mem) (s : State) : sameButPorts s (s.updXsram f) := rfl

theorem sameButPorts_updHif (f : HostIf → HostIf) (s : State) : sameButPorts s (s.updHif f) := rfl

/-- A fold of steps that keep a property keeps it. -/
theorem foldl_keeps {α : Type} {f : State → α → State} {P : State → Prop} (h : ∀ s a, P s → P (f s a)) (l : List α) {s : State}
    (hs : P s) : P (l.foldl f s) := by
  induction l generalizing s with
  | nil => exact hs
  | cons a l ih => exact ih (h s a hs)

theorem complete_ports (p : Port) (op tag : Half) (r : Reply) (s : State) : sameButPorts s (complete p op tag r s) := by
  unfold complete
  split <;> rfl

theorem failPending_ports (p : Port) (s : State) : sameButPorts s (failPending p s) :=
  foldl_keeps (P := sameButPorts s) (fun t o ht => ht.trans (complete_ports p o.opcode o.tag _ t)) _ rfl

@[simp] theorem complete_xsram (p : Port) (op tag : Half) (r : Reply) (s : State) :
    (complete p op tag r s).xsram = s.xsram := by
  unfold complete
  split <;> rfl

@[simp] theorem failPending_xsram (p : Port) (s : State) : (failPending p s).xsram = s.xsram :=
  foldl_keeps (P := fun t => t.xsram = s.xsram) (fun t o ht => (complete_xsram p o.opcode o.tag _ t).trans ht) _ rfl

/-! ### Image copies -/

/-- Beside the ports and the Exchange SRAM only the marks of a copy in progress may differ. -/
def sameButCopies (s t : State) : Prop := { t with hif := s.hif, xsram := s.xsram, lanes := s.lanes, twin := s.twin } = s

theorem sameButCopies.trans {s t u : State} (a : sameButCopies s t) (b : sameButCopies t u) : sameButCopies s u :=
  calc { u with hif := s.hif, xsram := s.xsram, lanes := s.lanes, twin := s.twin }
      = { ({ u with hif := t.hif, xsram := t.xsram, lanes := t.lanes, twin := t.twin } : State) with
            hif := s.hif, xsram := s.xsram, lanes := s.lanes, twin := s.twin } := rfl
    _ = { t with hif := s.hif, xsram := s.xsram, lanes := s.lanes, twin := s.twin } := by
      rw [show ({ u with hif := t.hif, xsram := t.xsram, lanes := t.lanes, twin := t.twin } : State) = t from b]
    _ = s := by exact a

theorem sameButPorts.copies {s t : State} (a : sameButPorts s t) : sameButCopies s t := by
  have h : ({ ({ t with hif := s.hif, xsram := s.xsram } : State) with lanes := s.lanes, twin := s.twin } : State) = s := by
    rw [show ({ t with hif := s.hif, xsram := s.xsram } : State) = s from a]
  exact h

theorem finishImage_copies (u : Bool) (k : Nat) (w : ImgWait) (s : State) : sameButCopies s (finishImage u k w s) :=
  sameButCopies.trans (show sameButCopies s (touchBlocks _ s) by unfold touchBlocks; split <;> rfl)
    ((sameButPorts_updXsram _ _).copies.trans (complete_ports _ _ _ _ _).copies)

theorem finishImage_wf (u : Bool) (k : Nat) (w : ImgWait) (s : State) (h : Memory.wf s.xsram = true) :
    Memory.wf (finishImage u k w s).xsram = true := by
  unfold finishImage
  rw [complete_xsram, State.updXsram_xsram, touchBlocks_xsram]
  exact memWriteBytes_wf _ _ h

theorem finishImages_copies (p u : ImgWait → Bool) (s : State) : sameButCopies s (finishImages p u s) :=
  foldl_keeps (P := sameButCopies s) (fun t _ ht => ht.trans (finishImage_copies _ _ _ t)) _ (sameButPorts_updHif _ s).copies

theorem finishImages_wf (p u : ImgWait → Bool) (s : State) (h : Memory.wf s.xsram = true) :
    Memory.wf (finishImages p u s).xsram = true :=
  foldl_keeps (P := fun t => Memory.wf t.xsram = true) (fun t _ ht => finishImage_wf _ _ _ t ht) _ h

/-! ### Entry into SAFE -/

/-- What entry into SAFE leaves alone: the image, the clocks, the tasks, the FRAM, the keys, the fault counts, the queued commands. -/
def safeView (s : State) :=
  ((s.pending, s.holdFrom, s.resetHold, s.testsDone, s.fromDormant, s.power, s.mem, s.tb, s.voter),
    (s.fcu, s.tasks, s.fram, s.fw, s.keys, s.jtag, s.rimeArmed, s.maintEn))

def sameButSafe (s t : State) : Prop := safeView t = safeView s

theorem sameButSafe.trans {s t u : State} (a : sameButSafe s t) (b : sameButSafe t u) : sameButSafe s u := Eq.trans b a

theorem sameButCopies.safe {s t : State} (a : sameButCopies s t) : sameButSafe s t :=
  show safeView ({ t with hif := s.hif, xsram := s.xsram, lanes := s.lanes, twin := s.twin } : State) = safeView s by rw [a]

theorem safeView_updXsram (f : Mem → Mem) (s : State) : safeView (s.updXsram f) = safeView s := rfl
theorem safeView_updFreeCtr (f : Nat → Nat) (s : State) : safeView (s.updFreeCtr f) = safeView s := rfl
theorem safeView_updCan (ch : CanCh) (f : CanSt → CanSt) (s : State) : safeView (s.updCan ch f) = safeView s := by
  cases ch <;> rfl

theorem updCan_xsram (ch : CanCh) (f : CanSt → CanSt) (s : State) : (s.updCan ch f).xsram = s.xsram := by
  cases ch <;> rfl

/-- A CAN channel falls silent at once, or is to do so after the frame in progress. -/
theorem quietCan_cases (ch : CanCh) (s : State) :
    quietCan ch s = haltCan ch s ∨ quietCan ch s = haltCan ch (drawFree s).2 ∨
      quietCan ch s = (drawFree s).2.updCan ch fun c => { c with wait := some .stop } := by
  unfold quietCan afterFrame
  split
  · exact .inl rfl
  · dsimp only
    split
    · exact .inr (.inr rfl)
    · exact .inr (.inl rfl)

theorem quietCan_safeView (ch : CanCh) (s : State) : safeView (quietCan ch s) = safeView s := by
  rcases quietCan_cases ch s with h | h | h <;> rw [h] <;>
    simp only [haltCan, drawFree, safeView_updXsram, safeView_updCan, safeView_updFreeCtr]

theorem quietCan_wf (ch : CanCh) (s : State) (h : Memory.wf s.xsram = true) : Memory.wf (quietCan ch s).xsram = true := by
  rcases quietCan_cases ch s with e | e | e <;> rw [e]
  · rw [haltCan, State.updXsram_xsram, updCan_xsram]
    exact clearTxreq_wf ch h
  · rw [haltCan, State.updXsram_xsram, updCan_xsram]
    exact clearTxreq_wf ch h
  · rw [updCan_xsram]
    exact h

/-- What entry into SAFE ends, but for the CAN channels. -/
def abandonWork (s : State) : State :=
  (((s.updProg fun p => { p with sched := none, report := none, bank0 := { p.bank0 with verify := none },
                                 bank1 := { p.bank1 with verify := none } }).updTwin
    fun t => { t with split := none, join := none }).updFloe fun f => { f with mreq := none }).updFabric
    fun f => { f with chains := [] }

theorem abandonAll_eq (s : State) : abandonAll s = quietCan .can2 (quietCan .can1 (abandonWork s)) := rfl

theorem abandonAll_safeView (s : State) : safeView (abandonAll s) = safeView s := by
  rw [abandonAll_eq, quietCan_safeView, quietCan_safeView]
  rfl

theorem abandonAll_wf (s : State) (h : Memory.wf s.xsram = true) : Memory.wf (abandonAll s).xsram = true := by
  rw [abandonAll_eq]
  exact quietCan_wf .can2 _ (quietCan_wf .can1 _ h)

/-- The copies, completions and tokens with which entry into SAFE begins. -/
def endOperations (s : State) : State :=
  ((failPending .maint (failPending .host (finishImages (fun _ => true) (fun _ => true) s))).updPort .host keepLockTokens).updPort
    .maint keepLockTokens

theorem enterSafe_eq (s : State) (h : ¬(s.mstate = .off ∨ s.mstate = .safe ∨ s.mstate = .frozen)) :
    enterSafe s = enterState .safe ((abandonAll (endOperations s)).updIo fun i =>
      { i with gen1 := false, gen2 := false, disc1 := none, disc2 := none }) := by
  rw [enterSafe, if_neg h]
  rfl

theorem endOperations_frame (s : State) : sameButSafe s (endOperations s) :=
  (((finishImages_copies (fun _ => true) (fun _ => true) s).trans (failPending_ports .host _).copies).trans
    ((failPending_ports .maint _).trans ((sameButPorts_updHif _ _).trans (sameButPorts_updHif _ _))).copies).safe

theorem endOperations_xsram (s : State) :
    (endOperations s).xsram = (finishImages (fun _ => true) (fun _ => true) s).xsram := by
  simp only [endOperations, State.updPort, State.updHif_xsram, failPending_xsram]

theorem enterSafe_frame (s : State) : sameButSafe s (enterSafe s) := by
  by_cases h : s.mstate = .off ∨ s.mstate = .safe ∨ s.mstate = .frozen
  · rw [enterSafe, if_pos h]
    rfl
  · rw [enterSafe_eq s h]
    exact (endOperations_frame s).trans (abandonAll_safeView _)

theorem enterSafe_mstate (s : State) (h : s.mstate ≠ .off) (hf : s.mstate ≠ .frozen) : (enterSafe s).mstate = .safe := by
  unfold enterSafe
  split
  · next hc => simp only [h, hf, false_or, or_false] at hc; exact hc
  · rfl

/-- In SAFE no GEN line toggles (R266). -/
theorem enterSafe_gen (s : State) (h : s.mstate ≠ .off) (hf : s.mstate ≠ .frozen) (hs : s.mstate ≠ .safe) :
    (enterSafe s).io.gen1 = false ∧ (enterSafe s).io.gen2 = false := by
  unfold enterSafe
  rw [if_neg (by simp [h, hf, hs])]
  exact ⟨rfl, rfl⟩

theorem enterSafe_wf (s : State) (h : Memory.wf s.xsram = true) : Memory.wf (enterSafe s).xsram = true := by
  by_cases hs : s.mstate = .off ∨ s.mstate = .safe ∨ s.mstate = .frozen
  · rw [enterSafe, if_pos hs]
    exact h
  · rw [enterSafe_eq s hs]
    have hw : Memory.wf (endOperations s).xsram = true := by
      rw [endOperations_xsram]
      exact finishImages_wf _ _ s h
    exact abandonAll_wf _ hw

/-! ### Faults -/

theorem setPState_frame (new : PState) (s : State) :
    { setPState new s with twin := s.twin, tasks := s.tasks, ice := s.ice } = s := by
  unfold setPState
  split
  · rfl
  · dsimp only
    split <;> rfl

@[simp] theorem setPState_ps (new : PState) (s : State) : (setPState new s).twin.ps = new := by
  unfold setPState
  split
  · next h => exact h
  · rfl

/-- What deciding a fault leaves alone: image, clocks, keys, power, firmware, the queue, the retentive home copy, and of the voters
all but which lane they masked last. -/
def faultView (s : State) :=
  ((s.pending, s.holdFrom, s.resetHold, s.testsDone, s.fromDormant, s.power, s.mem, s.tb),
    ({ s.voter with lastMasked := none } : Voter), (s.fw, s.keys, s.jtag, s.rimeArmed, s.maintEn, s.fram.home))

def sameButFaults (s t : State) : Prop := faultView t = faultView s

theorem sameButFaults.refl (s : State) : sameButFaults s s := rfl

theorem sameButFaults.trans {s t u : State} (a : sameButFaults s t) (b : sameButFaults t u) : sameButFaults s u := Eq.trans b a

theorem sameButFaults_record (code : Half) (sev src p0 p1 p2 p3 : Nat) (s : State) :
    sameButFaults s (record code sev src p0 p1 p2 p3 s) := rfl

theorem sameButFaults_updSource (n : Nat) (f : FcuSource → FcuSource) (s : State) : sameButFaults s (s.updSource n f) := rfl

theorem sameButFaults_writeLock (kind index : Nat) (cause : Half) (source : Nat) (s : State) :
    sameButFaults s (writeLock kind index cause source s) := by
  have h := writeLock_frame kind index cause source s
  have hh := writeLock_home kind index cause source s
  generalize writeLock kind index cause source s = t at *
  have g : faultView { ({ t with fram := s.fram, ice := s.ice, lanes := s.lanes, twin := s.twin } : State) with fram := t.fram } =
      faultView { s with fram := t.fram } := by rw [h]
  refine Eq.trans g ?_
  simp only [faultView, hh]

theorem sameButFaults_enterSafe (s : State) : sameButFaults s (enterSafe s) := by
  have h := enterSafe_frame s
  simp only [sameButSafe, safeView, Prod.mk.injEq] at h
  simp [sameButFaults, faultView, h]

theorem sameButFaults_complete (p : Port) (op tag : Half) (r : Reply) (s : State) :
    sameButFaults s (complete p op tag r s) := by
  unfold complete
  split <;> rfl

theorem sameButFaults_setPState (new : PState) (s : State) : sameButFaults s (setPState new s) :=
  show faultView ({ setPState new s with twin := s.twin, tasks := s.tasks, ice := s.ice } : State) = faultView s by
    rw [setPState_frame]

theorem sameButFaults_updLane (i : Nat) (f : LaneSt → LaneSt) (s : State) : sameButFaults s (s.updLane i f) := rfl

theorem sameButFaults_maskLane (i cause : Nat) (fp : Fingerprint) (s : State) : sameButFaults s (maskLane i cause fp s) := by
  unfold sameButFaults faultView maskLane
  cases s.serving i <;> rfl

theorem sameButFaults_lockLane (i cause : Nat) (s : State) : sameButFaults s (lockLane i cause s) := by
  unfold lockLane
  split <;> rfl

theorem sameButFaults_interruptLoads (code : Half) (s : State) : sameButFaults s (interruptLoads code s) := by
  have fv : ∀ (v : Option (Port × Half)) (u : State), sameButFaults u (failVerify v code u) := fun v u => by
    unfold failVerify
    split
    · exact sameButFaults_complete _ _ _ _ u
    · rfl
  exact (show sameButFaults s (s.updProg _) from rfl).trans ((fv _ _).trans (fv _ _))

theorem sameButFaults_afterExclusion (i cause : Nat) (fp : Fingerprint) (lockNow was3 : Bool) (s : State) :
    sameButFaults s (afterExclusion i cause fp lockNow was3 s) := by
  unfold afterExclusion
  extract_lets s1 s2 s3 s4
  have h2 : sameButFaults s1 s2 := by
    show sameButFaults s1 (if _ then lockLane i cause s1 else s1)
    split
    · exact sameButFaults_lockLane _ _ s1
    · rfl
  have h3 : sameButFaults s2 s3 := by
    show sameButFaults s2 (if (s2.lane i).lock then s2 else _)
    split <;> rfl
  have h4 : sameButFaults s3 s4 := sameButFaults_interruptLoads _ s3
  refine ((show sameButFaults s s1 from rfl).trans h2).trans ((h3.trans h4).trans ?_)
  split <;> rfl

theorem sameButFaults_lockTarget {second : State → State} (h2 : ∀ u, sameButFaults u (second u)) (i cause : Nat) (s : State) :
    sameButFaults s (lockTarget second i cause s) := by
  unfold lockTarget
  split
  · exact sameButFaults_lockLane _ _ s
  · split
    · exact h2 s
    · exact (sameButFaults_maskLane _ _ _ s).trans (sameButFaults_afterExclusion _ _ _ _ _ _)

theorem sameButFaults_targetEffect {second : State → State} (h2 : ∀ u, sameButFaults u (second u)) (t : Target) (cause : Nat)
    (s : State) : sameButFaults s (targetEffect second t cause s) := by
  cases t with
  | twin => exact sameButFaults_setPState _ s
  | can c => cases c <;> rfl
  | lane i => exact sameButFaults_lockTarget h2 i cause s
  | _ => rfl

/-- The decision on a fault (R280). -/
theorem sameButFaults_decideBase {second : State → State} (h2 : ∀ u, sameButFaults u (second u)) (src code : Nat)
    (broken forced : Bool) (detail : Word) (specific : Option Half) (s : State) :
    sameButFaults s (decideBase second src code broken forced detail specific s) := by
  unfold decideBase
  extract_lets d mask s1 s2 lk p0 p2 s3 s4
  have h4 : sameButFaults s3 s4 := by
    dsimp only [s4]
    rcases lk with _ | ⟨k, i⟩
    · rfl
    · exact sameButFaults_writeLock _ _ _ _ s3
  refine ((show sameButFaults s s3 from rfl).trans h4).trans ?_
  split
  · exact sameButFaults_enterSafe _
  · split
    · split
      · exact sameButFaults_targetEffect h2 _ _ _
      · rfl
    · rfl

theorem sameButFaults_changeBase {second : State → State} (h2 : ∀ u, sameButFaults u (second u)) (src code : Nat)
    (forced : Bool) (detail : Word) (specific : Option Half) (endMs : Nat) (s : State) :
    sameButFaults s (changeBase second src code forced detail specific endMs s) := by
  unfold changeBase
  extract_lets x new s'
  have h : sameButFaults s s' := rfl
  split
  · exact h.trans (sameButFaults_decideBase h2 _ _ _ _ _ _ _)
  · split <;> rfl

theorem sameButFaults_presentBase {second : State → State} (h2 : ∀ u, sameButFaults u (second u)) (src : Nat)
    (rails : BitVec 2) (code : Nat) (detail : Word) (specific : Option Half) (s : State) :
    sameButFaults s (presentBase second src rails code detail specific s) := by
  unfold presentBase
  extract_lets x s1
  split
  · rfl
  · have h : sameButFaults s s1 := by
      show sameButFaults s (if x.real ≠ 1 then _ else s)
      split
      · exact sameButFaults_changeBase h2 _ _ _ _ _ _ _
      · rfl
    exact h.trans (sameButFaults_changeBase h2 _ _ _ _ _ _ _)

theorem sameButFaults_raiseNoAgree (s : State) : sameButFaults s (raiseNoAgree s) :=
  sameButFaults_presentBase (fun _ => rfl) _ _ _ _ _ (s.updFreeCtr fun n => n + 1)

theorem sameButFaults_patternChange (src code : Nat) (forced : Bool) (detail : Word) (specific : Option Half) (endMs : Nat)
    (s : State) : sameButFaults s (patternChange src code forced detail specific endMs s) :=
  sameButFaults_changeBase sameButFaults_raiseNoAgree _ _ _ _ _ _ s

theorem sameButFaults_endPattern (src endMs : Nat) (s : State) : sameButFaults s (endPattern src endMs s) :=
  sameButFaults_patternChange _ _ _ _ _ _ (s.updSource src _)

theorem sameButFaults_presentPattern (src : Nat) (rails : BitVec 2) (code : Nat) (detail : Word) (specific : Option Half)
    (s : State) : sameButFaults s (presentPattern src rails code detail specific s) := by
  unfold presentPattern presentUnlisted
  split
  · exact sameButFaults_presentBase sameButFaults_raiseNoAgree _ _ _ _ _ s
  · dsimp only
    split
    · exact sameButFaults_presentBase sameButFaults_raiseNoAgree _ _ _ _ _ _
    · rfl

theorem sameButFaults_raise (src code detail : Nat) (specific : Option Half) (s : State) :
    sameButFaults s (raise src code detail specific s) :=
  sameButFaults_presentPattern _ _ _ _ _ s

theorem sameButFaults_raiseOpen (src code : Nat) (specific : Option Half) (s : State) :
    sameButFaults s (raiseOpen src code specific s) :=
  sameButFaults_raise _ _ _ _ (s.updFreeCtr fun n => n + 1)

/-! ### Lanes -/

theorem sameButFaults_exclusionSteps (i cause : Nat) (fp : Fingerprint) (lockNow : Bool) (s : State) :
    sameButFaults s (exclusionSteps i cause fp lockNow s) :=
  (sameButFaults_maskLane _ _ _ s).trans
    ((sameButFaults_raise _ _ _ _ _).trans (sameButFaults_afterExclusion _ _ _ _ _ _))

/-- The exclusion of a lane, or the class 4 fault of a second one, changes nothing but what a fault can change. -/
theorem sameButFaults_excludeLane (i cause : Nat) (fp : Fingerprint) (lockNow : Bool) (s : State) :
    sameButFaults s (excludeLane i cause fp lockNow s) := by
  unfold excludeLane
  split
  · rfl
  · split
    · exact sameButFaults_raiseNoAgree s
    · exact sameButFaults_exclusionSteps _ _ _ _ s

end Sys2Proof.Machine
end

