-- ==== Sys2Proof/Laws/Commands.lean ====
section
/-!
SUPPORT. How a command is run: the queue's front, every command's answer, a host command as one call of its handler, and the ways
a port can take it.
-/
namespace Sys2Proof.Machine

/-- Every command answers a next state (no command of this block stops). -/
theorem exec_next (i : Instr) (s : State) : ∃ t, exec i s = .next t := by
  cases i <;> exact ⟨_, rfl⟩

/-- A host command is one arrival of its packet at its port. -/
theorem exec_hostCommand {i : Instr} {c : HostCommand} (h : hostCommand i = some c) (s : State) :
    exec i s = .next (arrive (rowHandler i c.op) c.port c.op c.tag c.payload s) := by
  cases i <;> simp only [hostCommand, Option.some.injEq, reduceCtorEq] at h <;> subst h <;> rfl

theorem portServed_runs {p : Port} {s : State} (h : portServed p s = true) : s.runs = true := by
  simp only [portServed, Bool.and_eq_true] at h
  exact h.1

/-! ### The ways an arriving command goes -/

theorem arrive_unserved {h : Handler} {p : Port} {op tag : Half} {payload : List Byte} {s : State}
    (hs : portServed p s = false) : arrive h p op tag payload s = s := by
  simp [arrive, hs]

theorem arrive_waits {h : Handler} {p : Port} {op tag : Half} {payload : List Byte} {s : State} (hs : portServed p s = true)
    (hb : ((s.port p).cmds.isEmpty && placeFree p s) = false) :
    arrive h p op tag payload s = mailboxPut p (commandPacket op tag payload) s := by
  simp [arrive, hs, hb]

theorem arrive_taken {h : Handler} {p : Port} {op tag : Half} {payload : List Byte} {s : State} (ht : takesNow p s = true) :
    arrive h p op tag payload s = answer h p op tag payload s := by
  simp only [takesNow, takenAtOnce, Bool.and_eq_true] at ht
  simp [arrive, ht.1.1.1, ht.1.1.2, ht.1.2]

/-! ### Taking a command changes only its port -/

theorem takeCommand_ports (p : Port) (s : State) : sameButPorts s (takeCommand p s) := sameButPorts_updHif _ s

@[simp] theorem takeCommand_port (p : Port) (s : State) :
    (takeCommand p s).port p = { flushWaiting (s.port p) with commands := satInc 0xFFFFFFFF (s.port p).commands } := by
  simp [takeCommand, flushWaiting]

theorem takeCommand_port_other {p q : Port} (h : q ≠ p) (s : State) : (takeCommand p s).port q = s.port q :=
  updPort_port_other h _ s

@[simp] theorem flushWaiting_pend (q : PortSt) : (flushWaiting q).pend = q.pend := rfl
@[simp] theorem flushWaiting_tokens (q : PortSt) : (flushWaiting q).tokens = q.tokens := rfl
@[simp] theorem flushWaiting_cmds (q : PortSt) : (flushWaiting q).cmds = q.cmds := rfl

/-- A mailbox that was within its depth stays there. -/
theorem flushWaiting_bounded (q : PortSt) (h : q.resps.length ≤ 4) : (flushWaiting q).resps.length ≤ 4 := by
  simp [flushWaiting]
  omega

@[simp] theorem queueResponse_port (p : Port) (op tag : Half) (r : Reply) (s : State) :
    (queueResponse p op tag r s).port p = { s.port p with resps := (s.port p).resps ++ [responsePacket op tag r] } := by
  simp [queueResponse]

theorem queueResponse_port_other {p q : Port} (h : q ≠ p) (op tag : Half) (r : Reply) (s : State) :
    (queueResponse p op tag r s).port q = s.port q :=
  updPort_port_other h _ s

theorem queueResponse_ports (p : Port) (op tag : Half) (r : Reply) (s : State) : sameButPorts s (queueResponse p op tag r s) :=
  sameButPorts_updHif _ s

/-- The checks of the entry do not see the taking of the command. -/
theorem entryRefusal_takeCommand (row : CmdRow) (p : Port) (op tag : Half) (payload : List Byte) (s : State) :
    entryRefusal row p op tag payload (takeCommand p s) = entryRefusal row p op tag payload s := by
  have hp : ((takeCommand p s).port p).pend = (s.port p).pend := by simp
  have ht : ((takeCommand p s).port p).tokens = (s.port p).tokens := by simp
  have he : executeToken p op payload (takeCommand p s) = executeToken p op payload s := by
    simp only [executeToken, tokenValid, ht]
    rfl
  simp only [entryRefusal, hp, he]
  rfl

/-! ### Checks 6 to 12 -/

/-- A refusal of checks 6 to 10 is the answer, and the state stays as it was. -/
theorem serve_refused {h : Handler} {p : Port} {op tag : Half} {payload : List Byte} {s : State} {row : CmdRow} {c : Code}
    (hr : catalogueRow op = some row) (he : entryRefusal row p op tag payload s = some c) :
    serve h p op tag payload s = (.err c, s) := by
  simp [serve, hr, he]

/-- A command that passes them is run by its handler, once its length suits. -/
theorem serve_passes {h : Handler} {p : Port} {op tag : Half} {payload : List Byte} {s : State} {row : CmdRow}
    (hr : catalogueRow op = some row) (he : entryRefusal row p op tag payload s = none) :
    serve h p op tag payload s = runHandler h p op tag payload s := by
  simp [serve, hr, he]

theorem runHandler_runs {h : Handler} {p : Port} {op tag : Half} {payload : List Byte} {s : State}
    (hl : lenFault op payload = none) :
    runHandler h p op tag payload s =
      ((h p tag payload s).1, recordConfig p op payload (h p tag payload s).1 (h p tag payload s).2) := by
  simp [runHandler, hl]

/-- CFG_WRITE or TIME_SET is all that the recording of a configuration command adds. -/
theorem recordConfig_frame (p : Port) (op : Half) (payload : List Byte) (r : Reply) (s : State) :
    { recordConfig p op payload r s with ice := s.ice } = s := by
  unfold recordConfig
  split
  · rfl
  · split
    · exact record_frame _ _ _ _ _ _ _ s
    · exact record_frame _ _ _ _ _ _ _ s

/-- A command that is ready is answered by its handler, on the state in which it has been taken. -/
theorem exec_ready {i : Instr} {c : HostCommand} {s : State} (hc : hostCommand i = some c) (hr : ready i s = true) :
    exec i s = .next (queueResponse c.port c.op c.tag (rowHandler i c.op c.port c.tag c.payload (takeCommand c.port s)).1
      (recordConfig c.port c.op c.payload (rowHandler i c.op c.port c.tag c.payload (takeCommand c.port s)).1
        (rowHandler i c.op c.port c.tag c.payload (takeCommand c.port s)).2)) := by
  simp only [ready, hc, Bool.and_eq_true, entryPasses] at hr
  obtain ⟨ht, hl, he⟩ := hr
  have hv : voteLost 4 s = false := by
    simp only [takesNow, Bool.and_eq_true] at ht
    simpa using ht.2
  rw [exec_hostCommand hc, arrive_taken ht]
  have hlen : lenFault c.op c.payload = none := by simpa using hl
  cases hrow : catalogueRow c.op with
  | none => simp [hrow] at he
  | some row =>
    have he' : entryRefusal row c.port c.op c.tag c.payload (takeCommand c.port s) = none := by
      rw [entryRefusal_takeCommand]
      simpa [hrow] using he
    simp only [answer, serve_passes hrow he', runHandler_runs hlen, respond, hv]
    rfl

/-! ### Twin messages -/

/-- What an accepted message does: its effect on the state that has noted its MSEQ. -/
theorem onMessage_accepted {t : Nat} {f : List Byte} {act : List Byte → State → State} {s : State} (h : accepted t f s = true) :
    onMessage t f act s = act (msgBody (frameMessage f)) (s.updTwin fun x =>
      { x with rxSeq := some (msgWord (frameMessage f) 1),
               mseqGap := if 1 < mseqAhead s.twin (msgWord (frameMessage f) 1) then satInc 0xFFFF x.mseqGap else x.mseqGap }) := by
  simp only [accepted, Bool.and_eq_true, decide_eq_true_eq] at h
  obtain ⟨⟨⟨⟨hf, hr⟩, hi, ht⟩, hc⟩, hp⟩ := h
  obtain ⟨m, hm⟩ := Option.isSome_iff_exists.mp hf
  have e : frameMessage f = m := by rw [frameMessage, hm, Option.getD_some]
  rw [e] at ht hc hp ⊢
  simp [onMessage, onPayload, hm, hr, hi, ht, hc, hp]

end Sys2Proof.Machine
end

