-- ==== Sys2Proof/Laws/Copies.lean ====
section
/-!
SUPPORT. The marks of a write: marking for a lane's state copy and for a join stream changes nothing that `State.unmarked` keeps.
-/
namespace Sys2Proof.Machine

theorem copyBlock_unmarked (n : Nat) (s : State) (l : LaneSt) : (copyBlock n s l).unmarked = l.unmarked := by
  unfold copyBlock
  split_ifs <;> rfl

theorem copyBulk_unmarked (k : Nat) (s : State) (l : LaneSt) : (copyBulk k s l).unmarked = l.unmarked := by
  have h : ∀ (ns : List Nat) (x : LaneSt), (ns.foldl (fun x j => copyBlock (2128 - l.dirty + j) s x) x).unmarked = x.unmarked := by
    intro ns
    induction ns with
    | nil => intro x; rfl
    | cons n ns ih => intro x; rw [List.foldl_cons, ih, copyBlock_unmarked]
  exact h (List.range k) l

theorem syncCopy_unmarked (s : State) (l : LaneSt) : (syncCopy s l).unmarked = l.unmarked := by
  unfold syncCopy
  split
  · rfl
  · exact copyBulk_unmarked _ s l

theorem markLane_unmarked (bs : List Nat) (l : LaneSt) : (markLane bs l).unmarked = l.unmarked := by
  unfold markLane
  split <;> rfl

/-- What a write marks is all that the marking changes. -/
@[simp] theorem touchBlocks_unmarked (bs : List Nat) (s : State) : (touchBlocks bs s).unmarked = s.unmarked := by
  unfold touchBlocks
  split
  · have hl : (s.lanes.map fun l => markLane bs (syncCopy s l)).map LaneSt.unmarked = s.lanes.map LaneSt.unmarked := by
      rw [Vector.map_map]
      exact Vector.map_congr_left fun l _ => by simp [markLane_unmarked, syncCopy_unmarked]
    have hj : (s.twin.join.map (markJoin bs)).map (fun j => ({ j with marked := [] } : Join)) =
        s.twin.join.map fun j => ({ j with marked := [] } : Join) := by
      rw [Option.map_map]
      congr 1
      funext j
      simp only [Function.comp_apply, markJoin]
      split <;> rfl
    simp only [State.unmarked, State.updLanes, State.updTwin, hl, hj]
  · rfl

theorem writeImage_unmarked (bs : List Nat) (m : Mem) (s : State) :
    State.unmarked { writeImage bs m s with mem := s.mem } = s.unmarked :=
  congrArg (fun u : State => { u with mem := s.mem })
    (touchBlocks_unmarked (if s.copying then bs ++ (memDiff s.mem m).map imageBlock else []) s)

theorem writeFramBlocks_unmarked (bs : List Nat) (f : Fram → Fram) (s : State) :
    State.unmarked { writeFramBlocks bs f s with fram := s.fram } = s.unmarked :=
  congrArg (fun u : State => { u with fram := s.fram }) (touchBlocks_unmarked bs s)

end Sys2Proof.Machine
end

