-- ==== Sys2Proof/Laws/Twin.lean ====
section
/-!
SUPPORT. Twin messages: what a twin puts on the link carries a code that its partner accepts, whatever the key and the message,
and reads back as it was queued.
-/
namespace Sys2Proof.Machine

theorem wireMessage_append (key : BitVec 128) (q : Word) (m : List Byte) :
    wireMessage key q m = (m.take 4 ++ wordBytes q ++ m.drop 8) ++
      dwordBytes (keyedScode key (m.take 4 ++ wordBytes q ++ m.drop 8)) := rfl

/-- Setting MSEQ keeps the first header word. -/
theorem wireMessage_word0 (key : BitVec 128) (q : Word) (m : List Byte) (h : 8 ≤ m.length) :
    msgWord (wireMessage key q m) 0 = msgWord m 0 := by
  have e : ∀ bs : List Byte, 4 ≤ bs.length → slice bs 0 4 = bs.take 4 := fun bs hb => by
    rw [slice_eq_take (by omega)]; simp
  have hl : 4 ≤ (wireMessage key q m).length := by simp [wireMessage]; omega
  have ht : (wireMessage key q m).take 4 = m.take 4 := by
    simp [wireMessage, Nat.min_eq_left (show 4 ≤ m.length by omega)]
  rw [msgWord, msgWord, wordAt, wordAt, beAt, beAt, Nat.mul_zero, e _ hl, e _ (by omega), ht]

/-- A message as it is sent carries the right code. -/
theorem msgCodeOk_wireMessage (key : BitVec 128) (q : Word) (m : List Byte) (h : m.length = 16 + fld (msgWord m 0) 15 0) :
    msgCodeOk (some key) (wireMessage key q m) = true := by
  have hw := wireMessage_word0 key q m (by omega)
  have hl : (m.take 4 ++ wordBytes q ++ m.drop 8).length = 16 + fld (msgWord m 0) 15 0 := by
    simp; omega
  rw [msgCodeOk, hw, wireMessage_append]
  generalize m.take 4 ++ wordBytes q ++ m.drop 8 = x at *
  have hb : beAt (x ++ dwordBytes (keyedScode key x)) (16 + fld (msgWord m 0) 15 0) 8 = (keyedScode key x).toNat := by
    have := slice_append x (dwordBytes (keyedScode key x)) []
    rw [List.append_nil, hl, dwordBytes_length] at this
    rw [beAt, this, beNat_dwordBytes]
  have ht : (x ++ dwordBytes (keyedScode key x)).take (16 + fld (msgWord m 0) 15 0) = x := by
    rw [← hl, List.take_left]
  simp only [hb, ht]
  simp [hl]

/-- Padding behind a message leaves its code right. -/
theorem msgCodeOk_append (key : BitVec 128) (m pad : List Byte) (hl : 4 ≤ m.length) (h : msgCodeOk (some key) m = true) :
    msgCodeOk (some key) (m ++ pad) = true := by
  have h0 : msgWord (m ++ pad) 0 = msgWord m 0 := by
    have e : ∀ bs : List Byte, 4 ≤ bs.length → slice bs 0 4 = bs.take 4 := fun bs hb => by
      rw [slice_eq_take (by omega)]; simp
    rw [msgWord, msgWord, wordAt, wordAt, beAt, beAt, Nat.mul_zero, e _ (by simp; omega), e _ hl,
      List.take_append_of_le_length hl]
  simp only [msgCodeOk, Bool.and_eq_true, decide_eq_true_eq, h0] at h ⊢
  generalize 16 + fld (msgWord m 0) 15 0 = n at *
  have ht : (m ++ pad).take n = m.take n := List.take_append_of_le_length (by omega)
  have hb : beAt (m ++ pad) n 8 = beAt m n 8 := by
    rw [beAt, beAt, slice_eq_take (by simp; omega), slice_eq_take (by omega), List.drop_append_of_le_length (by omega),
      List.take_append_of_le_length (by simp; omega)]
  rw [ht, hb]
  exact ⟨by simp; omega, h.2⟩

/-- What a receiver finds in a frame of an EtherType: the payload and its padding. -/
theorem ethPayload_ethFrame (dst src type : Nat) (p : List Byte) (h : type < 65536) :
    ethPayload type (ethFrame dst src type p) = some (p ++ List.replicate (46 - p.length) 0) := by
  have e : ethFrame dst src type p = (beBytes 6 dst ++ beBytes 6 src) ++
      (beBytes 2 type ++ (p ++ List.replicate (46 - p.length) 0)) := by simp [ethFrame]
  have hb : beAt (ethFrame dst src type p) 12 2 = type := by
    have := slice_append (beBytes 6 dst ++ beBytes 6 src) (beBytes 2 type) (p ++ List.replicate (46 - p.length) 0)
    simp only [List.length_append, beBytes_length] at this
    rw [beAt, e, this, beNat_beBytes, Nat.mod_eq_of_lt (by omega)]
  have hd : (ethFrame dst src type p).drop 14 = p ++ List.replicate (46 - p.length) 0 := by
    rw [e, ← List.append_assoc, List.drop_left' (by simp)]
  rw [ethPayload, hb, hd, if_pos ⟨by rw [e]; simp; omega, rfl⟩]

/-- The frame of a message that its sender has signed and that is placed right is accepted. -/
theorem accepted_ethFrame {dst src mtype : Nat} {key : BitVec 128} {q : Word} {m : List Byte} {s : State} (hr : s.runs = true)
    (ht : s.twinId ≠ 0) (hk : s.keys.regT = some key) (hl : m.length = 16 + fld (msgWord m 0) 15 0)
    (hm : fld (msgWord (wireMessage key q m ++ List.replicate (46 - (wireMessage key q m).length) 0) 0) 31 24 = mtype)
    (hp : msgPlaced (wireMessage key q m ++ List.replicate (46 - (wireMessage key q m).length) 0) s = true) :
    accepted mtype (ethFrame dst src 0x88B6 (wireMessage key q m)) s = true := by
  have he := ethPayload_ethFrame dst src 0x88B6 (wireMessage key q m) (by omega)
  have hc := msgCodeOk_append key _ (List.replicate (46 - (wireMessage key q m).length) 0)
    (by simp [wireMessage]; omega) (msgCodeOk_wireMessage key q m hl)
  simp only [accepted, frameMessage, he, Option.getD_some, Option.isSome_some, hr, ht, hk, hm, hp, hc, ne_eq, not_false_eq_true,
    and_self, decide_true, Bool.and_self]

end Sys2Proof.Machine
end

