-- ==== Sys2Proof/Tests/Slice0.lean ====
section
/-!
SUPPORT. Own tests: an ill-formed command for each check of well-formedness, worked values of the spec, and for every statement
with hypotheses a witness, clause by clause: concrete states and operands that meet all of them together.
-/
namespace Sys2Proof.Tests
open Sys2Proof.Machine
set_option Elab.async false

/-! ### States and messages -/

/-- The state after reset, in a module state. -/
def inState (m : MState) : State := State.reset.updMstate fun _ => m

def starting : State := inState .startup
def serving : State := inState .service
def testing : State := inState .test

/-- The next state that an outcome names. -/
def afterOf (o : Host.Outcome State Fault Refusal) (s : State) : State :=
  match o with
  | .next t => t
  | _ => s

def withHost (f : PortSt → PortSt) (s : State) : State := s.updPort .host f

/-- A token 7 of an armed command at the host port. -/
def armed (op : Half) (bound : List Word) (s : State) : State :=
  withHost (fun q => { q with tokens := [{ opcode := op, bound := bound, value := 7, ms := 0 }] }) s

/-- An operation pending at the host port with TAG 9. -/
def pending (op : Half) (s : State) : State := withHost (fun q => { q with pend := [{ opcode := op, tag := 9 }] }) s

/-- Task 0 enabled. -/
def withTask (s : State) : State := s.updTask 0 fun t => { t with cfg := 0x80640064 }

def answered : State := withHost (fun q => { q with resps := [[1, 2, 3], [4]] }) starting
def sixteen : List Byte := List.replicate 16 0x4E
def fullMailbox : State := withHost (fun q => { q with cmds := [sixteen, sixteen, sixteen, sixteen] }) starting
def identCmd : HostCommand := { port := .host, op := 0x0001, tag := 5, payload := [] }
/-- A record of a kind was not passed on last. -/
def losing (k : Nat) (s : State) : State := s.updVoter fun v => { v with lost := [k] }
def oneWaits : State := withHost (fun q => { q with cmds := [sixteen] }) starting
/-- The maintenance slot served at REMOTE_LEVEL 0b01. -/
def remote : State := starting.updFloe fun f => { f with live := [0x00028000, 0x000001F4, 1, 0x4000] }
def rowOf (op : Half) : CmdRow := (catalogueRow op).getD { opcode := 0, kind := .imm, states := [] }
def taken (i : Instr) : HostCommand := (hostCommand i).getD ⟨.host, 0, 0, []⟩
def eightPend : State := withHost (fun q => { q with pend := List.replicate 8 { opcode := 0x0601, tag := 9 } }) starting
def idleLoad : List Byte := (taken (.floeSched .host 5 0 false true 1 [])).payload
/-- A maintenance frame of the terminal, node 9, with a packet of 16 bytes in one fragment, or the first of more. -/
def fragment (count : Word) : List Byte :=
  wordsBytes [0x05480000, 0x00000018, 0, 0, count, 0x00000010] ++ sixteen ++ dwordBytes 0
def fragmentWaits (count : Word) : State := remote.updFloe fun f => { f with maintRx := [fragment count] }

def groupLock : LockRec := { kind := 2, index := 1, cause := 0x0101, iceSeq := 3, time := 4, source := 0x20 }
def lockedGroup : State := starting.updFram fun f => { f with locks := [groupLock] }
/-- A Floe record with the key of slot 1 to load. -/
def keyRecord : List Word := floeFactory ++ [0x00000008] ++ [1, 2, 3, 4, 5, 6, 7, 8]
def staged : State := starting.updFw fun f => { f with snow := .staged }
def strapped (s : State) : State := { s with maintEn := true }

/-- Group 1 locked out, LOCK.RESET armed, and a press of one second since. -/
def pressed : State :=
  (armed 0x0901 [0x0201] lockedGroup).updIo fun i =>
    { i with live := 0x80000014 :: ioFactory.drop 1, fs1 := { i.fs1 with st := .ok },
             ack := { i.ack with done := some (10, 1010, true, true) } }
/-- A channel at 781 kbit/s with receive buffer 0 for identifier 0 and transmit buffer 1. -/
def canRecord : List Word :=
  [0x80000000, 0x0403C100, 0x01041084, 0, 0, 0, 0, 0, 0x40000000, 0x1FFFFFFF, 0x80000000, 0] ++ List.replicate 124 0

/-- Two beacons, the STATUS slot of node 0 and a DATA slot of node 1. -/
def schedule : List Word :=
  [0, 0x01F41FFE, 0x00000040, 0xD0000000, 8000, 0x01F41FFF, 0x00000040, 0xD0000000] ++
    [16000, 0x01F42000, 0x00000040, 0xC0000000, 24000, 0x01F43001, 0x00050040, 0xD0000000]
/-- The first entry of a schedule for mode 2 has been received. -/
def loading : State := starting.updFloe fun f => { f with loads := [(2, { owner := .host, entries := schedule.take 4 })] }
def synced : State :=
  starting.updFloe fun f => { f with fstate := .sync, round := 7, liveSched := (f.liveSched.set 1 (some schedule)).set 0 (some schedule) }
def asking : State := pending 0x0B03 (synced.updFloe fun f => { f with mreq := some (1, .host, 9, 7) })
/-- A bank with a file and in a state. -/
def bankIn (st : BankSt) (file : List Byte) : Bank := { Bank.fresh with st := st, file := file, loaded := file.length }
def standbyIs (b : Bank) (s : State) : State := s.updProg fun p => { p with bank0 := b }
def verifying : State := pending 0x0402 (standbyIs { bankIn .verifying sixteen with verify := some (.host, 9) } starting)
def planned : Activation := { bank := false, roundA := 2, client := some (.host, 9), confirmed := true, sent := false, litCrc := 0, descCrc := 0 }
/-- SERVICE with an activation scheduled, at a T0 boundary. -/
def atSwitch : State :=
  pending 0x0403 ((withTask serving).updProg fun p =>
    { p with bank0 := bankIn .valid [], bank1 := bankIn .active [], actBank := some true, sched := some planned })
   |>.updFloe fun f => { f with round := 10 }
/-- The machine past every round in which a boundary could still be found. -/
def tooLate (s : State) : State := s.updFloe fun f => { f with round := 2000 }
def unconfirmed : Activation := { planned with confirmed := false }
def proposed : State := atSwitch.updProg fun p => { p with sched := some unconfirmed }
def staging : State := starting.updFw fun f => { f with snow := .staging, image := sixteen }
/-- An active bank with 32 host inputs. -/
def hinBank : Bank := bankIn .active (List.replicate 124 0 ++ wordBytes 32)
def withHin : State := (standbyIs hinBank serving).updProg fun p => { p with actBank := some false }
def reading : State := starting.updIce fun i => { i with hostCur := some { pos := 0, nand := false, minSev := 0 } }
def recordOfSeq (n : Nat) : IceRec := { seq := n, time := 0, code := 0x0101, sev := 2, src := 0, p0 := 0, p1 := 0, p2 := 0, p3 := 0 }
def unreadable : State := reading.updIce fun i => { i with store := [recordOfSeq 4, recordOfSeq 6] }
def faulty : State := starting.updFcu fun f => { f with sources := [(0x20, { FcuSource.fresh with unack := 4 })] }

/-- One descriptor: ALG 1 over 16 bytes of inline data. -/
def descriptors : List Word := [0x10000000, 0x3F000, 16, 0, 0, 0, 0, 0, 0, 0]
def runningChain : Chain := { port := .host, tag := 9, descs := descriptors, data := sixteen, snap := some [sixteen], stage := 0 }
def chained : State :=
  pending 0x0C10 (starting.updFabric fun f => { f with chains := [runningChain] })
def nextChain : Chain := { runningChain with tag := 10, snap := none }
def twoChains : State := chained.updFabric fun f => { f with chains := [runningChain, nextChain] }
/-- Two descriptors in compare mode. -/
def comparing : List Word := [0x18000000, 0x3F000, 8, 0, 0, 0, 0, 0, 0, 0, 0x18000000, 0x3F000, 8, 0, 0, 0, 0, 0, 0, 0]
def comparingChain : Chain := { runningChain with descs := comparing, snap := some [sixteen.take 8, sixteen.take 8] }
def comparingState : State := chained.updFabric fun f => { f with chains := [comparingChain] }
/-- CAN 2 on the bus with the record above. -/
def canOnBus : State := starting.updCan2 fun c => { c with cfg := canRecord, st := .active }
/-- Transmit buffers 0 and 1. -/
def txRecord : List Word := canRecord.set 8 0x60000000
def requested0 : State := setBufWord .can2 0 0 bTxreq (canOnBus.updCan2 fun c => { c with cfg := txRecord })
def requested : State := setBufWord .can2 1 0 bTxreq canOnBus
def shortFrame : CanFrame := { ide := false, rtr := false, id := 0, fdf := false, brs := false, esi := false, dlc := 2, data := [1, 2] }
/-- The channel in loopback, in TEST. -/
def loopback : State :=
  (setBufWord .can2 1 0 bTxreq testing).updCan2 fun c => { c with cfg := 0x90000000 :: canRecord.drop 1, st := .active }
def collided : State := setBufWord .can2 1 0 (bTxreq ||| 0x00780000) canOnBus
def tooManyErrors : State := canOnBus.updCan2 fun c => { c with tec := 256 }
def holding : State := canOnBus.updCan2 fun c => { c with st := .busOffHold }
def recovering : State := canOnBus.updCan2 fun c => { c with st := .busOff, tec := 256 }
def integratingCan : State := canOnBus.updCan2 fun c => { c with st := .stopped, integrating := true }
def asleep : State := (inState .dormant).updCan2 fun c => { c with st := .sleep }
def lockedBuf : State := setBufWord .can2 0 0 bLock canOnBus

def updating : State := State.reset.updFram fun f => { f with fwMark := some (0x03000001, 0) }
/-- A staged image of hardware issue C, firmware version 3.0.1, 8 bytes of body. -/
def goodImage : List Byte :=
  wordsBytes ([0x424C4657, 0x00030000, 0x03000001, 0, 8] ++ List.replicate 59 0) ++ dwordBytes 0
def updatingGood : State := updating.updFw fun f => { f with snow := .staged, image := goodImage }
def tested : State := { inState .selftest with testsDone := true }
def moduleLocked : State :=
  tested.updFram fun f => { f with locks := [{ groupLock with kind := 1, index := 0 }, { groupLock with kind := 3, index := 2 }] }
/-- Synchronised, with an active bank and task 0 enabled. -/
def conditionsMet : State :=
  (withTask starting).updProg (fun p => { p with bank0 := bankIn .active [], actBank := some false }) |>.updTb fun t => { t with sync := 2 }
/-- HOLD, entered from SERVICE. -/
def held : State := { inState .hold with holdFrom := .service }
def overvolted : State := held.updPower fun p => { p with overvolt := true }
def heldBrown : State := held.updPower fun p => { p with brownout := true }
def acting (m : MState) (a : Action) (n ms : Nat) : State := (inState m).updHif fun h => { h with actions := [(a, .host, n, ms)] }
def armedRime : State := { strapped serving with rimeArmed := true }
def good : VRec := { kind := 2, tag := 0, data := 7 }
def bad : VRec := { kind := 2, tag := 0, data := 6 }
def worse : VRec := { kind := 2, tag := 0, data := 5 }
def selfTestRec : VRec := { kind := 0xA, tag := 0, data := 0 }
def laneIs (x : LaneState) (m : MState) : State := (inState m).updLane 2 fun l => { l with st := x }

/-- SERVICE with an active bank and task 0 enabled. -/
def running : State := (withTask serving).updProg fun p => { p with bank0 := bankIn .active [], actBank := some false }
/-- A cycle whose slice has just been frozen. -/
def newCycle : Cycle :=
  { release := 0, relRound := 3, slice := [1, 2, 3, 4], inSig := none, peerSig := none, agreed := false, unagreed := false,
    adopted := [], dataIds := [], role := false, started := false, paused := false, pc := 0, sig := 0, overrun := false,
    yieldAt := [], keySel := false }
def inCycle (c : Cycle) (s : State) : State := s.updTask 0 fun t => { t with run := some c, refReady := true }
def sameRound : Cycle := { newCycle with relRound := 0 }
def agreedCycle : Cycle := { newCycle with inSig := some 5, agreed := true }
def remapping (s : State) : State := s.updProg fun p => { p with bank1 := bankIn .valid [], remapFrom := some (bankIn .valid []) }
def pausedCycle : Cycle := { agreedCycle with started := true, paused := true }
def yieldingCycle : Cycle := { agreedCycle with started := true, yieldAt := [0] }
def lastCycle : Cycle := { agreedCycle with started := true }
def lateCycle : Cycle := { lastCycle with overrun := true }
def journal : Journal := { task := 0, seq := 4, cont := false, entries := [(3, 5)] }
def committing : State := serving.updFram fun f => { f with waiting := [journal] }
def journal2 : Journal := { task := 0, seq := 4, cont := true, entries := [(3, 5)] }
def committing2 : State := serving.updFram fun f => { f with waiting := [journal2, journal] }
/-- SYNC with the schedule above and both links up. -/
def inSync (f : Floe → Floe) (s : State) : State :=
  s.updFloe fun x => f { x with fstate := .sync, liveSched := x.liveSched.set 0 (some schedule), chA := { x.chA with linkUp := true, ok := true },
                                chB := { x.chB with linkUp := true, ok := true } }
def sync : State := inSync id serving
def statusSlot : Slot := slotOf 2 (schedule.drop 8)
def dataSlot : Slot := slotOf 3 (schedule.drop 12)
def statusFrame : List Byte := (nodeFrame 3 16000 false (statusBody sync) sync).getD []
/-- A payload with the padding of its frame. -/
def padded (p : List Byte) : List Byte := p ++ List.replicate (46 - p.length) 0
def dataFrame : List Byte := padded ((buildFrame floeFactory .fresh 4 1 false 5 [1, 2, 3, 4] 1 0).getD [])
/-- A payload as the frame of node 1 that carries it. -/
def onFloe (p : List Byte) : List Byte := ethFrame 0x03464C000000 (nodeAddress 1) 0x88B5 p
def measured : State := inSync (fun x => { x with devs := [(2, .a, 40)] }) serving
def switching : State := inSync (fun x => { x with swPend := true, round := 9, switchRound := 9, modeNext := 0 }) serving
def ready6 : State := starting.updFloe fun x => { x with live := [0x00028C00, 0x1F4, 1, 0], liveSched := x.liveSched.set 0 (some schedule) }
def listening (f : Floe → Floe) : State :=
  ready6.updFloe fun x => f { x with fstate := .listen, chA := { x.chA with linkUp := true }, idleCyc := some 0 }
def listener : State := listening id
def coldPayload (s : State) : List Byte :=
  (nodeFrame 2 s.now s.floe.idleKey (wordsBytes [BitVec.ofNat 32 (firstRound s), at32 0 (floeInitMode s.floe.live)]) s).getD []
def ownCold : ColdRx := { node := 0, firstRound := 3, mode := 0, sentNs := 0 }
def coldOwn : State := listening fun x => { x with fstate := .coldstart, coldA := some ownCold }
def otherCold : ColdRx := { ownCold with node := 4 }
def coldOther : State := listening fun x => { x with coldA := some otherCold }
def coldWaits : State := listening fun x => { x with fstate := .coldstart }
def integrating : State := listening fun x => { x with fstate := .integrate, integRounds := 10 }
def passive : State := serving.updFloe fun x => { x with fstate := .passive, passiveRounds := some 9 }
def silent : State := inSync (fun x => { x with chB := { x.chB with badRounds := 3 } }) serving
def echoless : State := inSync (fun x => { x with chA := { x.chA with echoMissRounds := 3 } }) serving

/-- Twin 1 of module 7 with a key, in round 4; the partner is the leader when asked. -/
def twinState (m : MState) (f : Twin → Twin) : State :=
  let s := (inState m).updFloe fun x => { x with round := 4 }
  let s := { s with keys := { s.keys with regT := some 5 } }
  s.updTwin fun t => f { t with liveW0 := 0x40000007, linkOk := true, roles := 1 }
/-- A message of a type from a twin with the bytes of its body, as the frame that carries it; the partner is twin 2. -/
abbrev messageOf (twin mtype : Nat) (body : List Byte) : List Byte :=
  wireMessage 5 1 (wordsBytes [at32 24 mtype ||| at32 22 twin ||| at32 0 body.length, 0, 4, 0x00070000] ++ body)
abbrev twinEth (message : List Byte) : List Byte := ethFrame 0xFFFFFFFFFFFF 0x02464C000001 0x88B6 message
abbrev fromPartner (mtype : Nat) (body : List Byte) : List Byte := twinEth (messageOf 2 mtype body)
def alone : State := twinState .service fun t => { t with ps := .alone }
abbrev anAck : List Byte := fromPartner 0x21 (roundReason 4 0)
abbrev cutAck : List Byte := twinEth (wordsBytes [0x21800FFF, 0, 4, 0x00070000])
def lateRound : State := alone.updFloe fun f => { f with round := 6 }
abbrev aHello (health : Word) : List Byte :=
  fromPartner 0x01 (wordsBytes [health, 10, 0, 5000, 0, 4000] ++ dwordBytes 0 ++ dwordBytes 0 ++ dwordBytes (cfgCrc alone))
def numbered : State := alone.updTwin fun t => { t with rxSeq := some 9 }
def partnerHello (health : Word) : PeerHello :=
  { health := health, txTime := 0, receipt := 0, litCrc := 0, descCrc := 0, cfgCrc := 0, round := 4 }
/-- ALONE while the partner leads, serves and has the same bank and records. -/
def mayAsk (p : PState) (m : MState) : State :=
  let s := twinState m fun t => { t with ps := p, roles := 2 }
  s.updTwin fun t => { t with peer := some { partnerHello 0x24400000 with cfgCrc := cfgCrc s } }
/-- PAIRED with a partner that serves in 2oo3. -/
def paired (f : Twin → Twin) : State :=
  twinState .service fun t => f { t with ps := .paired, peer := some (partnerHello 0x24000000) }
def mySplit : Split := { mine := true, roundS := 4, client := some (.host, 9), acked := false }
def splitting : State := pending 0x0A02 (paired fun t => { t with split := some mySplit })
def ackedSplit : Split := { mySplit with acked := true }
def splitDueNow : State :=
  let s := (paired fun t => { t with split := some ackedSplit, roles := 2 }).updFloe fun f => { f with round := 10 }
  pending 0x0A02 ((withTask s).updProg fun p => { p with bank0 := bankIn .active [], actBank := some false })
/-- The leader ALONE, with the partner equal. -/
def leading : State :=
  let s := twinState .service fun t => { t with ps := .alone, roles := 1 }
  s.updTwin fun t => { t with peer := some { partnerHello 0x10000000 with cfgCrc := cfgCrc s } }
def myJoin : Join :=
  { mine := true, roundP := 4, client := some (.host, 9), acked := false, cameFrom := .single, ackRound := 0,
    unsent := [], cur := none, marked := [], journal := [], quarters := 0, tries := 0, entryRound := none, origin := 0, scan := 0 }
def joining (j : Join) : State :=
  pending 0x0A03 (twinState .startup fun t => { t with ps := .joining, join := some j, roles := 2, peer := some (partnerHello 0x24000000) })
def triedJoin : Join := { myJoin with acked := true, tries := 50 }
def servingJoin : Join := { myJoin with mine := false, client := none, acked := true, ackRound := 3, cur := some (80, 0), unsent := [81, 82] }
def streaming (j : Join) : State := leading.updTwin fun t => { t with join := some j, txQueue := [(4, [])] }
def nextJoin : Join := { servingJoin with cur := none }
def againJoin : Join := { nextJoin with unsent := [], marked := [81] }
def fedJoin : Join := { myJoin with acked := true }
abbrev quarterOf (n : Word) : List Byte :=
  twinEth (wireMessage 5 1 (wordsBytes [0x2A800410, 0, 4, 0x00070000, n, 1, 0, 0] ++ List.replicate 1024 0x5A))

def pairValid (leader : Bool) : State :=
  armed 0x0403 [0, 0, 0, 0, 0] (standbyIs (bankIn .valid []) (paired fun t => { t with roles := if leader then 1 else 2 }))
def unasked : Activation := { unconfirmed with client := none }
def unconfirmedPair : State := (paired id).updProg fun p => { p with sched := some unasked }

def inPair (c : Cycle) (leader : Bool) : State :=
  inCycle c ((withTask (paired fun t => { t with roles := if leader then 1 else 2 })).updProg fun p =>
    { p with bank0 := bankIn .active [], actBank := some false })
def signed (role : Bool) : Cycle := { newCycle with inSig := some 5, role := role }
/-- The same pair seen by twin B. -/
def twinB (s : State) : State := s.updTwin fun t => { t with liveW0 := 0x80000007 }
def told : Cycle := { signed false with peerSig := some (true, crc64 [1, 2, 3, 4]) }
def compared (leader : Bool) : State := (inPair newCycle leader).updTask 0 fun t => { t with ownCmp := some (3, false, 1, 2, 0) }
def signedSt (leader : Bool) : State := (inPair newCycle leader).updTwin fun t => { t with ownSt := some (1, 0, 3, 9) }
def validStandby (s : State) : State := s.updProg fun p => { p with bank0 := bankIn .valid [], bank1 := bankIn .active [], actBank := some true }
def followerValid : State := validStandby (paired fun t => { t with roles := 2 })
def proposedA : Activation := { bank := false, roundA := 4, client := none, confirmed := false, sent := false, litCrc := 0, descCrc := 0 }
def askedA : State := (validStandby (paired id)).updProg fun p => { p with sched := some proposedA }

/-- Output 0 used, energised by its safe value, tested and watched, with feedback at an input that is invalid. -/
def driving : State :=
  starting.updIo fun i =>
    { i with gen1 := true, gen2 := true, fs1 := { i.fs1 with st := .ok, lagOk := true },
             fs2 := { i.fs2 with st := .ok, lagOk := true }, live := (i.live.set 33 0xBC000000).set 41 0xA0000000 }
def longAgo (s : State) : State := s.updTb fun t => { t with ms := 2000 }
def pulsing : State := driving.updOut 0 fun o => { o with pulse := true }
/-- Outputs 1 and 8 are driven as well. -/
def pulsingTwo : State := pulsing.updIo fun i => { i with live := (i.live.set 34 0xBC000000).set 41 0xBC000000 }
def discriminating : State := driving.updIo fun i => { i with disc1 := some 0, gen1 := false }
def discriminatingBoth : State := pulsingTwo.updIo fun i => { i with disc1 := some 0, gen1 := false }
def latchedOff : State := (longAgo starting).updOut 0 fun o => { o with ovl := true }
def almostArmed : State := starting.updIo fun i => { i with guard := { i.guard with tripped := true, accepted := 15 } }
def armedGuard : State := serving.updIo fun i => { i with guard := { i.guard with tripped := false } }
def dormantGuard : State := { armedGuard with mstate := .dormant }
def broken : State := starting.updFcu fun f => { f with sources := [(0x20, { FcuSource.fresh with real := 0, rail := 0 })] }
def aRecord : IceRec := { seq := 0, time := 0, code := 0x0101, sev := 2, src := 0, p0 := 0, p1 := 0, p2 := 0, p3 := 0 }
def inboundOne : State := starting.updIce fun i => { i with inbound := [aRecord] }
def storedRecord : IceRec := { aRecord with seq := inboundOne.ice.nextSeq }
def queuedPage : State := starting.updIce fun i => { i with nandQueue := List.replicate 128 (aRecord, 0) }
def armedPoint : State := starting.updTb fun t => { t with sp := t.sp.set 1 { (t.sp[1]) with cfg := 0x80000000 } }
def beforePoint : State := armedPoint.updTb fun t => { t with tb := { t.tb with ns := 5000 } }
def evalOf (file : List Byte) : EvalCtx := { bank := { Bank.fresh with file := file }, delta := 100, first := false, newprg := false, warm := false }
def litIs (op m i : Nat) : Lit := { op := op, neg := false, mod := m, idx := i }
def startEv : Ev := { mem := [], sig := 0 }
def edgeOp : Operand := { lit := litIs 3 0 5, arg := some (litIs 1 0 8) }
def compareOp : Operand := { lit := litIs 4 0 5, arg := some (litIs 1 0 8) }
def headIs (op m i : Nat) (arg : Lit) : Equation := { head := litIs op m i, args := [arg], parts := [], size := 3 }
def claimFile : List Byte :=
  wordsBytes (List.replicate 28 0 ++ [4] ++ List.replicate 14 0 ++ [200, 208] ++ List.replicate 5 0 ++ [0, 2, 10, 11])

/-- The outcome is a next state. -/
def isNext (o : Host.Outcome State Fault Refusal) : Bool :=
  match o with
  | .next _ => true
  | _ => false

theorem next_afterOf {o : Host.Outcome State Fault Refusal} {s : State} (h : isNext o = true) : o = .next (afterOf o s) := by
  cases o with
  | next t => rfl
  | fault f => cases h
  | refused r => cases h

theorem code_fits {k : Option (BitVec 128)} {key : BitVec 128} {q : Word} {m : List Byte} {dst src : Nat} (hk : k = some key)
    (h : m.length = 16 + fld (msgWord m 0) 15 0) : msgCodeOk k (frameMessage (ethFrame dst src 0x88B6 (wireMessage key q m))) = true := by
  rw [hk, frameMessage, ethPayload_ethFrame _ _ _ _ (by decide)]
  exact msgCodeOk_append key _ _ (by simp [wireMessage]; omega) (msgCodeOk_wireMessage key q m h)

theorem bankEq_of {s : State} {p : PeerHello} (hp : s.twin.peer = some p) (h1 : p.litCrc = (actCrcs s).1)
    (h2 : p.descCrc = (actCrcs s).2) (h3 : p.cfgCrc = cfgCrc s) : bankEq s = true := by simp [bankEq, hp, h1, h2, h3]

theorem joinReason_none {s : State} (hb : bankEq s = true)
    (h : (s.twin.linkOk && peerCapable s && s.partnerLeads && !s.prog.sched.isSome && !s.reintegrating &&
      !s.twin.split.isSome && !s.twin.join.isSome && decide (s.twin.ps ≠ .removed)) = true) : joinReason s = none := by
  simp only [Bool.and_eq_true, Bool.not_eq_true', decide_eq_true_eq] at h
  simp [joinReason, hb, h]

theorem partner_has_bank (p : PState) (m : MState) : bankEq (mayAsk p m) = true := bankEq_of rfl rfl rfl rfl

theorem partner_has_bank' (p : PState) (m : MState) (op : Half) (ws : List Word) : bankEq (armed op ws (mayAsk p m)) = true :=
  bankEq_of rfl rfl rfl rfl

/-! ### The route-setting example of chapter 2 -/

/-- The segment of T0: its literals 0 to 23. -/
def routeLiterals : List Word :=
  [0xB0000028, 0xD0200000, 0x3000012C, 0xD0001000, 0xB0000029, 0xD0200001, 0x10001001, 0x50600000, 0x10200000, 0x50600001,
    0x10200000, 0x70000007, 0xD0200010, 0x10200000, 0x10001010, 0x10001011, 0x10001020, 0x10001021, 0x10001022, 0x50600010,
    0x10200010, 0x10001020, 0x18001030, 0xE0000000]

/-- Its bank: timer table at byte 280, claim groups at 400, claim entries at 800, literals at 1,024. -/
def routeBank : Bank :=
  let descriptor : List Word := List.replicate 256 0
  let words := [(5, 24), (6, 1024), (9, 24), (24, 8), (26, 301), (27, 42), (28, 8), (40, 280), (43, 400), (44, 800), (84, 120),
    (181, 5), (182, 5), (183, 3), (200, 0x100000), (201, 0x100001), (202, 0x100002), (203, 0x100003), (204, 0x100004),
    (205, 0x100002), (206, 0x100004), (207, 0x100005)]
  bankIn .active (wordsBytes (words.foldl (fun d e => d.set e.1 (BitVec.ofNat 32 e.2)) descriptor ++ routeLiterals))

/-- The image with the given booleans 1. -/
def imageOf (ones : List Nat) : Mem := ones.foldl (fun m i => bitWrite m 0 i true) []

/-- Evaluation 2: both buttons are pressed, and KJ103 is not detected. -/
def evaluationTwo : Ev :=
  runEquations { bank := routeBank, delta := 50, first := false, newprg := false, warm := false } (routeBank.equations 0) 0 24
    { mem := imageOf [0x1000, 0x1001, 0x1011, 0x1020, 0x1021, 0x1022],
      sig := crc64Fold crc64Init (wordsBytes [0x03000000, 0x00000005]) }


/-! ### Well-formedness: an ill-formed command for each check, and one that passes -/

theorem test_ioCfg_record_of_112_words_refused : Instr.wf (.ioCfg .host 0 (List.replicate 112 0)) = false := by decide +kernel
theorem test_twinCfg_record_of_5_words_refused : Instr.wf (.twinCfg .host 0 (List.replicate 5 0)) = false := by decide
theorem test_floeCfg_record_of_12_words_refused : Instr.wf (.floeCfg .host 0 (List.replicate 12 0)) = false := by decide
theorem test_floeCfgArm_record_of_14_words_refused : Instr.wf (.floeCfgArm .host 0 (List.replicate 14 0)) = false := by decide
theorem test_floeCfgExecute_record_of_0_words_refused : Instr.wf (.floeCfgExecute .host 0 0 []) = false := by decide
theorem test_arbCfg_record_of_13_words_refused : Instr.wf (.arbCfg .host 0 (List.replicate 13 0)) = false := by decide
theorem test_canCfg_record_of_135_words_refused :
    Instr.wf (.canCfg .host 0 .can1 (List.replicate 135 0)) = false := by decide +kernel
theorem test_prgLoad_over_4096_bytes_refused :
    Instr.wf (.prgLoad .host 0 true 0 (List.replicate 4089 0)) = false := by
  simp only [Instr.wf, payloadWf, List.length_replicate]; decide
theorem test_fwStage_over_4096_bytes_refused :
    Instr.wf (.fwStage .host 0 true false 0 (List.replicate 4089 0)) = false := by
  simp only [Instr.wf, payloadWf, List.length_replicate]; decide
theorem test_hinWrite_over_4096_bytes_refused :
    Instr.wf (.hinWrite .host 0 0 0 (List.replicate 4089 0)) = false := by
  simp only [Instr.wf, payloadWf, List.length_replicate]; decide
theorem test_floeSched_part_of_an_entry_refused : Instr.wf (.floeSched .host 0 0 true true 0 [1, 2, 3]) = false := by decide
theorem test_cvuRun_over_4096_bytes_refused :
    Instr.wf (.cvuRun .host 0 (List.replicate 10 0) (List.replicate 4053 0)) = false := by
  simp only [Instr.wf, payloadWf, List.length_replicate]; decide
theorem test_canSend_of_65_bytes_refused :
    Instr.wf (.canSend .host 0 .can1 0 false false 0 0 (List.replicate 65 0)) = false := by decide +kernel
theorem test_maintFragment_over_1500_bytes_refused :
    Instr.wf (.maintFragmentReceive (List.replicate 1501 0)) = false := by
  simp only [Instr.wf, floeWf, List.length_replicate]; decide
theorem test_frameTransmit_slot_4096_refused : Instr.wf (.frameTransmit 4096 0 0 false false) = false := by decide
theorem test_message_frame_over_9014_bytes_refused : Instr.wf (.insig (List.replicate 9015 0)) = false := by
  simp only [Instr.wf, messageWf, List.length_replicate]; decide
theorem test_sample_of_31_inputs_refused : Instr.wf (.inputSample (List.replicate 31 (0, 0))) = false := by decide
theorem test_readback_of_17_outputs_refused : Instr.wf (.outputReadbackSample (List.replicate 17 (0, 0))) = false := by decide
theorem test_arbiter_of_11_requesters_refused : Instr.wf (.arbiterDecision (List.replicate 11 none)) = false := by decide
theorem test_can_remote_frame_with_data_refused :
    Instr.wf (.canFrameReceive .can1 ⟨false, true, 0, false, false, false, 2, [1, 2]⟩ 0) = false := by decide
theorem test_can_base_identifier_of_12_bits_refused :
    Instr.wf (.canFrameReceive .can1 ⟨false, false, 2048, false, false, false, 0, []⟩ 0) = false := by decide
theorem test_can_classic_frame_accepted :
    Instr.wf (.canFrameReceive .can1 ⟨false, false, 2047, false, false, false, 2, [1, 2]⟩ 0) = true := by decide

/-! ### Worked values of the spec -/

/-- The check value of R68. -/
theorem test_crc64_check : crc64 [0x31, 0x32, 0x33, 0x34, 0x35, 0x36, 0x37, 0x38, 0x39] = 0x995DC9BBDF1939FA := by decide +kernel
/-- The check value of R310. -/
theorem test_crc32c_check : crc32c [0x31, 0x32, 0x33, 0x34, 0x35, 0x36, 0x37, 0x38, 0x39] = 0xE3069283 := by decide +kernel
/-- FIPS 197, 5.1.1: the S-box at 53. -/
theorem test_sbox : sbox 0x53 = 0xED := by decide +kernel
/-- The example of R213: FTM of five deviations, and the rate correction of 35 ns in a round of 10 ms. -/
theorem test_midpoint_of_five : midpoint [70, -30, 10, 1900, 0] = some 35 := by decide
theorem test_rate_step_of_35_ns : rateStep 35 10000000 = -7516 := by decide +kernel
/-- The example of R272: rule 0 with MASK 0x20 over an input with FILT_MAX 8 has BOUND_10US 385. -/
theorem test_rule_bound :
    ruleBound ((ioFactory.set 6 0x90080002).set 49 0x20) 0 = 385 := by decide +kernel
/-- The example of R51: literal 20 to 22 of its segment. -/
theorem test_literal_with_neg : litOf 0x18001030 = { op := 1, neg := true, mod := 0, idx := 0x1030 } := by decide
theorem test_literal_of_claim : litOf 0xB0000028 = { op := 0xB, neg := false, mod := 0, idx := 40 } := by decide
/-- The example of R134: the write record of an edge detector's memory. -/
theorem test_write_record : writeRecord .edge 300 1 = wordsBytes [0x7000012C] ++ dwordBytes 1 := by decide +kernel
/-- No row of the table gives bits. -/
theorem test_no_word_spells_a_command : decodeTableWord 32 0 = none := rfl
theorem test_reset_is_sound : (State.reset.memoriesWf && State.reset.queuesBounded) = true := by decide +kernel
/-- R311: a packet whose header CRC is wrong is refused and counted. -/
theorem test_bad_header_crc_counts :
    (afterOf (exec (.commandTaken .host false) oneWaits) oneWaits).hif.host.crcErr = 1 := by decide +kernel
/-- R327: a load of the standby bank ends the verdict it had. -/
theorem test_load_resets_bank :
    (afterOf (exec (.prgLoad .host 5 true 0 sixteen) starting) starting).prog.bank0.st = .loading := by decide +kernel

/-- Group 40 takes its five resources and sets its route, group 41 nothing; both points are commanded. -/
theorem test_route_evaluation_two :
    [0x200000, 0x200001, 0x100000, 0x100001, 0x100002, 0x100003, 0x100004, 0x100005, 0x600000, 0x600001, 0x600010].map
        (fun i => boolRead evaluationTwo.mem i) =
      [true, false, true, true, true, true, true, false, true, true, false] := by decide +kernel

/-! ### Witnesses: every hypothesis of a statement, clause by clause -/

theorem witness_StepRunsFrontCommand :
    ({ starting with pending := [.readStat, .roundStart] }.pending = [.readStat, .roundStart]) := by decide +kernel

theorem witness_EmptyQueueIsOneCycle :
    (State.reset.pending = []) := by decide +kernel

theorem witness_StepKeepsMemoriesCanonical :
    (starting.memoriesWf = true ∧ step starting = .next (afterOf (step starting) starting)) := by
  and_intros <;> first
    | with_reducible apply next_afterOf; decide +kernel
    | decide +kernel

theorem witness_StepKeepsQueuesBounded :
    (starting.queuesBounded = true ∧ step starting = .next (afterOf (step starting) starting)) := by
  and_intros <;> first
    | with_reducible apply next_afterOf; decide +kernel
    | decide +kernel

theorem witness_FrozenAndOffAreHeld :
    ((inState MState.frozen).mstate = MState.frozen ∧ exec Instr.laneRailsLost (inState MState.frozen) = .next (afterOf
      (exec Instr.laneRailsLost (inState MState.frozen)) starting)) ∧
    ((inState MState.off).mstate = MState.off ∧ exec (Instr.powerOnStart true true true) (inState MState.off) = .next
      (afterOf (exec (Instr.powerOnStart true true true) (inState MState.off)) starting)) := by
  and_intros <;> first
    | with_reducible apply next_afterOf; decide +kernel
    | decide +kernel

theorem witness_SafeIsLeftByRestart :
    ((inState MState.safe).mstate = MState.safe ∧ exec (Instr.undervoltage 0x32C8) (inState MState.safe) = .next (afterOf
      (exec (Instr.undervoltage 0x32C8) (inState MState.safe)) starting)) := by
  and_intros <;> first
    | with_reducible apply next_afterOf; decide +kernel
    | decide +kernel

theorem witness_ReadRespReturnsOldest :
    (portServed Port.host starting = true ∧ starting.hif.host.resps = []) ∧
    (portServed Port.host answered = true ∧ answered.hif.host.resps = [[1, 2, 3], [4]]) := by decide +kernel

theorem witness_PortTransactionsAct :
    (portServed Port.host starting = true ∧ starting.hif.host.cmds.length < 4 ∧ 16 ≤ sixteen.length) ∧
    (portServed Port.host fullMailbox = true ∧ 4 ≤ fullMailbox.hif.host.cmds.length) ∧
    (portServed Port.host starting = true ∧ starting.hif.host.cmds.length < 4 ∧ (List.replicate 15 0).length < 16) ∧
    (portServed Port.host starting = true) ∧
    (portServed Port.host starting = true ∧ (1 = 1 ∨ 2 ≤ 1 ∧ 5 ≠ 1 ∧ 5 ≠ 2 ∧ 5 ≠ 5)) ∧
    (portServed Port.host starting = true ∧ (2 = 1 ∨ 2 ≤ 2 ∧ 3 ≠ 1 ∧ 3 ≠ 2 ∧ 3 ≠ 5)) ∧
    (portServed Port.host (inState MState.dormant) = false) := by decide +kernel

theorem witness_TakenCommandIsAnsweredOnce :
    (hostCommand (Instr.ident Port.host 5) = some identCmd ∧ takesNow identCmd.port starting = true) ∧
    (hostCommand (Instr.ident Port.host 5) = some identCmd ∧ takenAtOnce identCmd.port (losing 4 starting) = true ∧
      voteLost 4 (losing 4 starting) = true) := by decide +kernel

theorem witness_CommandWaitsItsTurn :
    (hostCommand (Instr.ident Port.host 5) = some identCmd ∧ portServed identCmd.port (inState MState.dormant) = false) ∧
    (hostCommand (Instr.ident Port.host 5) = some identCmd ∧ portServed identCmd.port oneWaits = true ∧ takenAtOnce
      identCmd.port oneWaits = false ∧ (oneWaits.port identCmd.port).cmds.length < 4) ∧
    (hostCommand (Instr.ident Port.host 5) = some identCmd ∧ portServed identCmd.port fullMailbox = true ∧ takenAtOnce
      identCmd.port fullMailbox = false ∧ 4 ≤ (fullMailbox.port identCmd.port).cmds.length) := by decide +kernel

theorem witness_EntryChecksInOrder :
    (hostCommand (Instr.ident Port.host 9) = some (taken (Instr.ident Port.host 9)) ∧ takesNow (taken (Instr.ident
      Port.host 9)).port eightPend = true ∧ catalogueRow (taken (Instr.ident Port.host 9)).op = some (rowOf 1) ∧
      (((eightPend.port (taken (Instr.ident Port.host 9)).port).pend.any fun o => o.tag == (taken (Instr.ident Port.host
      9)).tag) = true)) ∧
    (hostCommand (Instr.prgVerify Port.host 5) = some (taken (Instr.prgVerify Port.host 5)) ∧ takesNow (taken
      (Instr.prgVerify Port.host 5)).port eightPend = true ∧ catalogueRow (taken (Instr.prgVerify Port.host 5)).op = some
      (rowOf 1026) ∧ (((eightPend.port (taken (Instr.prgVerify Port.host 5)).port).pend.any fun o => o.tag == (taken
      (Instr.prgVerify Port.host 5)).tag) = false) ∧ (needsPlace (rowOf 1026).kind (taken (Instr.prgVerify Port.host
      5)).payload && decide (8 ≤ (eightPend.port (taken (Instr.prgVerify Port.host 5)).port).pend.length)) = true) ∧
    (hostCommand (Instr.prgVerify Port.maint 5) = some (taken (Instr.prgVerify Port.maint 5)) ∧ takesNow (taken
      (Instr.prgVerify Port.maint 5)).port remote = true ∧ catalogueRow (taken (Instr.prgVerify Port.maint 5)).op = some
      (rowOf 1026) ∧ (((remote.port (taken (Instr.prgVerify Port.maint 5)).port).pend.any fun o => o.tag == (taken
      (Instr.prgVerify Port.maint 5)).tag) = false) ∧ (needsPlace (rowOf 1026).kind (taken (Instr.prgVerify Port.maint
      5)).payload && decide (8 ≤ (remote.port (taken (Instr.prgVerify Port.maint 5)).port).pend.length)) = false ∧ ((taken
      (Instr.prgVerify Port.maint 5)).port == Port.maint && !remoteAllows (remoteLevel remote) (taken (Instr.prgVerify
      Port.maint 5)).op (taken (Instr.prgVerify Port.maint 5)).payload) = true) ∧
    (hostCommand (Instr.rstWarmExecute Port.host 5 7) = some (taken (Instr.rstWarmExecute Port.host 5 7)) ∧ takesNow
      (taken (Instr.rstWarmExecute Port.host 5 7)).port starting = true ∧ catalogueRow (taken (Instr.rstWarmExecute
      Port.host 5 7)).op = some (rowOf 257) ∧ (((starting.port (taken (Instr.rstWarmExecute Port.host 5 7)).port).pend.any
      fun o => o.tag == (taken (Instr.rstWarmExecute Port.host 5 7)).tag) = false) ∧ (needsPlace (rowOf 257).kind (taken
      (Instr.rstWarmExecute Port.host 5 7)).payload && decide (8 ≤ (starting.port (taken (Instr.rstWarmExecute Port.host 5
      7)).port).pend.length)) = false ∧ ((taken (Instr.rstWarmExecute Port.host 5 7)).port == Port.maint && !remoteAllows
      (remoteLevel starting) (taken (Instr.rstWarmExecute Port.host 5 7)).op (taken (Instr.rstWarmExecute Port.host 5
      7)).payload) = false ∧ ((isExecute (rowOf 257).kind (taken (Instr.rstWarmExecute Port.host 5 7)).payload || (taken
      (Instr.rstWarmExecute Port.host 5 7)).op == 2306) && !executeToken (taken (Instr.rstWarmExecute Port.host 5 7)).port
      (taken (Instr.rstWarmExecute Port.host 5 7)).op (taken (Instr.rstWarmExecute Port.host 5 7)).payload starting) =
      true) ∧
    (hostCommand (Instr.prgVerify Port.host 5) = some (taken (Instr.prgVerify Port.host 5)) ∧ takesNow (taken
      (Instr.prgVerify Port.host 5)).port State.reset = true ∧ catalogueRow (taken (Instr.prgVerify Port.host 5)).op =
      some (rowOf 1026) ∧ (((State.reset.port (taken (Instr.prgVerify Port.host 5)).port).pend.any fun o => o.tag ==
      (taken (Instr.prgVerify Port.host 5)).tag) = false) ∧ (needsPlace (rowOf 1026).kind (taken (Instr.prgVerify
      Port.host 5)).payload && decide (8 ≤ (State.reset.port (taken (Instr.prgVerify Port.host 5)).port).pend.length)) =
      false ∧ ((taken (Instr.prgVerify Port.host 5)).port == Port.maint && !remoteAllows (remoteLevel State.reset) (taken
      (Instr.prgVerify Port.host 5)).op (taken (Instr.prgVerify Port.host 5)).payload) = false ∧ ((isExecute (rowOf
      1026).kind (taken (Instr.prgVerify Port.host 5)).payload || (taken (Instr.prgVerify Port.host 5)).op == 2306) &&
      !executeToken (taken (Instr.prgVerify Port.host 5)).port (taken (Instr.prgVerify Port.host 5)).op (taken
      (Instr.prgVerify Port.host 5)).payload State.reset) = false ∧ stateServes (rowOf 1026) (taken (Instr.prgVerify
      Port.host 5)).op State.reset = false) ∧
    (hostCommand (Instr.twinCfg Port.host 5 []) = some (taken (Instr.twinCfg Port.host 5 [])) ∧ takesNow (taken
      (Instr.twinCfg Port.host 5 [])).port starting = true ∧ catalogueRow (taken (Instr.twinCfg Port.host 5 [])).op = some
      (rowOf 2561) ∧ (((starting.port (taken (Instr.twinCfg Port.host 5 [])).port).pend.any fun o => o.tag == (taken
      (Instr.twinCfg Port.host 5 [])).tag) = false) ∧ (needsPlace (rowOf 2561).kind (taken (Instr.twinCfg Port.host 5
      [])).payload && decide (8 ≤ (starting.port (taken (Instr.twinCfg Port.host 5 [])).port).pend.length)) = false ∧
      ((taken (Instr.twinCfg Port.host 5 [])).port == Port.maint && !remoteAllows (remoteLevel starting) (taken
      (Instr.twinCfg Port.host 5 [])).op (taken (Instr.twinCfg Port.host 5 [])).payload) = false ∧ ((isExecute (rowOf
      2561).kind (taken (Instr.twinCfg Port.host 5 [])).payload || (taken (Instr.twinCfg Port.host 5 [])).op == 2306) &&
      !executeToken (taken (Instr.twinCfg Port.host 5 [])).port (taken (Instr.twinCfg Port.host 5 [])).op (taken
      (Instr.twinCfg Port.host 5 [])).payload starting) = false ∧ stateServes (rowOf 2561) (taken (Instr.twinCfg Port.host
      5 [])).op starting = true) := by
  and_intros <;> first
    | decide +kernel

theorem witness_RefusedCommandChangesNothing :
    (hostCommand (Instr.prgVerify Port.host 5) = some (taken (Instr.prgVerify Port.host 5)) ∧ rowHandler (Instr.prgVerify
      Port.host 5) (taken (Instr.prgVerify Port.host 5)).op (taken (Instr.prgVerify Port.host 5)).port (taken
      (Instr.prgVerify Port.host 5)).tag (taken (Instr.prgVerify Port.host 5)).payload starting = (Reply.err
      Code.errState, starting) ∧ (Reply.err Code.errState).code ≠ Code.ok ∧ (Reply.err Code.errState).code ≠ Code.pending) := by
  and_intros <;> first
    | decide +kernel
    | rfl

theorem witness_MailboxEvents :
    (portServed Port.host oneWaits = true ∧ placeFree Port.host oneWaits = true ∧ voteLost 4 oneWaits = false ∧
      (oneWaits.port Port.host).cmds = [sixteen]) ∧
    (portServed Port.host starting = true) ∧
    (portServed Port.maint (fragmentWaits 1) = true ∧ (fragmentWaits 1).floe.maintRx.contains (fragment 1) = true ∧
      List.take (32 + frDlen (fragment 1)) (fragment 1) = fragment 1 ∧ 8 ≤ (frData (fragment 1)).length ∧ fld (wordAt
      (frData (fragment 1)) 0) 31 20 = floeNode (fragmentWaits 1).floe.live ∧ fld (wordAt (frData (fragment 1)) 0) 19 16 =
      0 ∧ (fragmentWaits 1).hif.maint.frags = none ∧ fragOpens (frData (fragment 1)) = true) ∧
    (portServed Port.maint (fragmentWaits 2) = true ∧ (fragmentWaits 2).floe.maintRx.contains (fragment 2) = true ∧
      List.take (32 + frDlen (fragment 2)) (fragment 2) = fragment 2 ∧ 8 ≤ (frData (fragment 2)).length ∧ fld (wordAt
      (frData (fragment 2)) 0) 31 20 = floeNode (fragmentWaits 2).floe.live ∧ fld (wordAt (frData (fragment 2)) 0) 19 16 =
      0 ∧ (fragmentWaits 2).hif.maint.frags = none ∧ fragOpens (frData (fragment 2)) = true) ∧
    (remote.floe.maintRx.contains (List.take (32 + frDlen (fragment 1)) (fragment 1)) = false) := by decide +kernel

theorem witness_IdentStatusPeekAnswer :
    (ready (Instr.ident Port.host 5) starting = true) ∧
    (ready (Instr.status Port.host 5 0 0 0) State.reset = true ∧ (0 : Word).toNat ≤ 14 ∧ (State.reset.eff = MState.boot ∨
      State.reset.eff = MState.selftest → 0 = 0 ∨ 0 = 10 ∨ 0 = 12) ∧ (0 = 8 → 1 ≤ (0 : Word).toNat ∧ (0 : Word).toNat ≤
      340 ∧ (0 : Word).toNat < ocCount State.reset) ∧ (0 = 10 → 0 = 0 ∧ 1 ≤ (0 : Word).toNat ∧ (0 : Word).toNat ≤ 64) ∧ (0
      ≠ 8 → 0 ≠ 10 → 0 = 0 ∧ 0 = 0)) ∧
    (ready (Instr.status Port.host 5 10 0 64) starting = true ∧ (10 : Word).toNat ≤ 14 ∧ (starting.eff = MState.boot ∨
      starting.eff = MState.selftest → 10 = 0 ∨ 10 = 10 ∨ 10 = 12) ∧ (10 = 8 → 1 ≤ (64 : Word).toNat ∧ (64 : Word).toNat ≤
      340 ∧ (0 : Word).toNat < ocCount starting) ∧ (10 = 10 → 0 = 0 ∧ 1 ≤ (64 : Word).toNat ∧ (64 : Word).toNat ≤ 64) ∧
      (10 ≠ 8 → 10 ≠ 10 → 0 = 0 ∧ 64 = 0)) ∧
    (ready (Instr.status Port.host 5 3 0 0) starting = true ∧ (3 : Word).toNat ≤ 14 ∧ (starting.eff = MState.boot ∨
      starting.eff = MState.selftest → 3 = 0 ∨ 3 = 10 ∨ 3 = 12) ∧ (3 = 8 → 1 ≤ (0 : Word).toNat ∧ (0 : Word).toNat ≤ 340 ∧
      (0 : Word).toNat < ocCount starting) ∧ (3 = 10 → 0 = 0 ∧ 1 ≤ (0 : Word).toNat ∧ (0 : Word).toNat ≤ 64) ∧ (3 ≠ 8 → 3
      ≠ 10 → 0 = 0 ∧ 0 = 0)) ∧
    (ready (Instr.regPeek Port.host 5 0 1) starting = true ∧ (0 : Word).toNat % 4 = 0 ∧ 1 ≤ (1 : Word).toNat ∧ (1 :
      Word).toNat ≤ 1020 ∧ (∀ (k : Nat), k < (1 : Word).toNat → (peekWord (peekRanges 0 starting) ((0 : Word).toNat + 4 *
      k)).isSome = true)) ∧
    (ready (Instr.regPeek Port.host 5 0x10000 64) starting = true ∧ (0x10000 : Word).toNat % 4 = 0 ∧ 1 ≤ (64 : Word).toNat
      ∧ (64 : Word).toNat ≤ 340 ∧ 0x10000 ≤ (0x10000 : Word).toNat ∧ (0x10000 : Word).toNat + 4 * (64 : Word).toNat ≤
      0x10100) := by
  and_intros <;> first
    | decide +kernel

theorem witness_ArmAnswersToken :
    (ready (Instr.rstWarmArm Port.host 5, 257).fst starting = true) ∧
    (ready (Instr.rstColdArm Port.host 5, 258).fst starting = true) ∧
    (ready (Instr.pwrDormantArm Port.host 5, 259).fst starting = true) ∧
    (ready (Instr.testEnterArm Port.host 5, 260).fst starting = true) ∧
    (ready (Instr.testExitArm Port.host 5, 261).fst testing = true) ∧
    (ready (Instr.fwActivateArm Port.host 5, 1282).fst starting = true) ∧
    (ready (Instr.twinSplitArm Port.host 5, 2562).fst serving = true) ∧
    (ready (Instr.twinJoinArm Port.host 5, 2563).fst starting = true) ∧
    (ready (Instr.rimeArmArm Port.host 5, 3585).fst testing = true) ∧
    (ready (Instr.prgActivateArm Port.host 5 3 4) serving = true) ∧
    (ready (Instr.lockArm Port.host 5 2 1) lockedGroup = true ∧ 1 ≤ (2 : Word).toNat ∧ (2 : Word).toNat ≤ 5 ∧ lockStands
      ((2 : Word).toNat) ((1 : Word).toNat) lockedGroup = true) ∧
    (ready (Instr.taskCfgArm Port.host 5 0 0x640064) (withTask serving) = true ∧ (withTask serving).inService = true ∧
      clearsEn ((0 : Word).toNat) 0x640064 (withTask serving) = true ∧ (((taskChecks (withTask serving).floe.cfg [1, 0,
      at32 0 ((0 : Word).toNat), 0x640064]).all fun x => x.snd.snd) = true)) ∧
    (ready (Instr.floeCfgArm Port.host 5 keyRecord) serving = true ∧ serving.inService = true ∧ loadsOtherKey keyRecord
      serving = true ∧ (((floeChecks (1 :: 0 :: keyRecord)).all fun x => x.snd.snd) = true)) := by
  and_intros <;> first
    | decide +kernel

theorem witness_ExecutesAct :
    (ready (Instr.rstWarmExecute Port.host 5 7) (armed 257 [0] starting) = true) ∧
    (ready (Instr.rstColdExecute Port.host 5 7) (armed 258 [0] starting) = true) ∧
    (ready (Instr.testExitExecute Port.host 5 7) (armed 261 [0] testing) = true) ∧
    (ready (Instr.pwrDormantExecute Port.host 5 7) (armed 259 [0] starting) = true ∧ anyEnabled (armed 259 [0] starting) =
      false) ∧
    (ready (Instr.fwActivateExecute Port.host 5 7) (armed 1282 [0] staged) = true ∧ (armed 1282 [0] staged).fw.snow =
      SnowSt.staged ∧ (armed 1282 [0] staged).prog.sched = none ∧ (armed 1282 [0] staged).reintegrating = false ∧ (armed
      1282 [0] staged).twin.join = none ∧ (armed 1282 [0] staged).twin.split = none) ∧
    (ready (Instr.testEnterExecute Port.host 5 7) (armed 260 [0] starting) = true) ∧
    (ready (Instr.rimeArmExecute Port.host 5 7) (strapped (armed 3585 [0] testing)) = true ∧ (strapped (armed 3585 [0]
      testing)).maintEn = true) := by decide +kernel

theorem witness_LockResetClearsRecord :
    (ready (Instr.lockReset Port.host 5 2 1 7) pressed = true ∧ findLock ((2 : Word).toNat) ((1 : Word).toNat) pressed =
      some groupLock ∧ validPress (lockArmMs Port.host pressed) pressed = some (true, true) ∧ causeGone groupLock true
      true pressed = true) := by decide +kernel

theorem witness_ConfigurationIsStored :
    (ready (Instr.taskCfg Port.host 5 7 0x80640064) starting = true ∧ (((taskChecks starting.floe.cfg [0, 0, at32 0 ((7 :
      Word).toNat), 0x80640064]).all fun x => x.snd.snd) = true) ∧ starting.inService = false ∧ (taskEn 0x80640064 = true
      → starting.tasks.enLocked = false) ∧ (∀ (b : Bank), starting.prog.active = some b → loadRefused b
      (starting.taskRecords.set ((7 : Word).toNat) 0x80640064) = false)) ∧
    (ready (Instr.ioCfg Port.host 5 ioFactory) starting = true ∧ (((ioChecks ioFactory).all fun x => x.snd.snd) = true)) ∧
    (ready (Instr.twinCfg Port.host 5 [0x40000001, 0x13880002, 1, 2, 3, 4]) starting = true ∧ fld (nth [0x40000001,
      0x13880002, 1, 2, 3, 4] 0) 31 30 ≤ 2 ∧ fld (nth [0x40000001, 0x13880002, 1, 2, 3, 4] 0) 29 16 = 0 ∧ 1 ≤ fld (nth
      [0x40000001, 0x13880002, 1, 2, 3, 4] 0) 15 0 ∧ fld (nth [0x40000001, 0x13880002, 1, 2, 3, 4] 0) 15 0 ≤ 0xFFFE ∧ 200
      ≤ fld (nth [0x40000001, 0x13880002, 1, 2, 3, 4] 1) 31 16 ∧ fld (nth [0x40000001, 0x13880002, 1, 2, 3, 4] 1) 31 16 ≤
      0x4E20 ∧ fld (nth [0x40000001, 0x13880002, 1, 2, 3, 4] 1) 15 2 = 0) ∧
    (ready (Instr.floeCfg Port.host 5 keyRecord) starting = true ∧ (((floeChecks (0 :: 0 :: keyRecord)).all fun x =>
      x.snd.snd) = true) ∧ starting.inService = false ∧ roundsFit (roundMs keyRecord) starting.taskRecords = true) ∧
    (ready (Instr.arbCfg Port.host 5 arbFactory) starting = true ∧ firstBad arbFactory (arbRules arbFactory) = none) ∧
    (ready (Instr.canCfg Port.host 5 CanCh.can2 canRecord) starting = true ∧ (((canChecks (at32 0 (canNum CanCh.can2) ::
      canRecord)).all fun x => x.snd.snd) = true) ∧ (fld (nth canRecord 0) 28 27 = 2 → starting.mstate = MState.test)) := by decide +kernel

theorem witness_ServiceConfigurationExecutes :
    ((armed 513 [0, 0, 0x640064] (withTask serving)).inService = true ∧ ready (Instr.taskCfgExecute Port.host 5 7 0
      0x640064) (armed 513 [0, 0, 0x640064] (withTask serving)) = true ∧ clearsEn ((0 : Word).toNat) 0x640064 (armed 513
      [0, 0, 0x640064] (withTask serving)) = true ∧ (((taskChecks (armed 513 [0, 0, 0x640064] (withTask serving)).floe.cfg
      [2, 7, at32 0 ((0 : Word).toNat), 0x640064]).all fun x => x.snd.snd) = true)) ∧
    ((armed 2817 (0 :: keyRecord) serving).inService = true ∧ ready (Instr.floeCfgExecute Port.host 5 7 keyRecord) (armed
      2817 (0 :: keyRecord) serving) = true ∧ loadsOtherKey keyRecord (armed 2817 (0 :: keyRecord) serving) = true ∧
      (((floeChecks (2 :: 7 :: keyRecord)).all fun x => x.snd.snd) = true)) := by decide +kernel

theorem witness_TimeSetLoads :
    (ready (Instr.timeSet Port.host 5 true true 0xFFFFFFFFFFFFFFFF 0xD1B71) starting = true ∧ starting.tb.sync ≠ 1 ∧
      starting.tb.sync ≠ 2 ∧ ((0xD1B71 : Word).toInt).natAbs ≤ BitVec.toNat starting.tb.compLimit) ∧
    (ready (Instr.timeSetSyncPoints Port.host 5 0x8000270F 0 0 0) starting = true ∧ (fld (0x8000270F : Word) 30 24 = 0 ∧
      fld (0x8000270F : Word) 15 0 < 1000 * roundMs starting.floe.live ∧ fld (0 : Word) 30 24 = 0 ∧ fld (0 : Word) 15 0 <
      1000 * roundMs starting.floe.live)) := by decide +kernel

theorem witness_SchedulesAndModes :
    (ready (Instr.floeSched Port.host 5 2 true false 0 [1, 2, 3, 4]) starting = true ∧ (false = true ∨ [1, 2, 3, 4] ≠ [])
      ∧ (true = true ∧ 0 = 0 ∧ [1, 2, 3, 4] = [1, 2, 3, 4] ∨ true = false ∧ ∃ l, starting.floe.loads.find ((2 :
      Word).toNat) = some l ∧ l.owner = Port.host ∧ (0 : Word).toNat = l.entries.length / 4 ∧ [1, 2, 3, 4] = l.entries ++
      [1, 2, 3, 4]) ∧ (false = true → schedRefusal starting.floe.cfg (otherModes ((2 : Word).toNat) starting.floe) [1, 2,
      3, 4] = none)) ∧
    (ready (Instr.floeSched Port.host 5 2 false true 1 (List.drop 4 schedule)) loading = true ∧ (true = true ∨ List.drop 4
      schedule ≠ []) ∧ (false = true ∧ 1 = 0 ∧ schedule = List.drop 4 schedule ∨ false = false ∧ ∃ l,
      loading.floe.loads.find ((2 : Word).toNat) = some l ∧ l.owner = Port.host ∧ (1 : Word).toNat = l.entries.length / 4
      ∧ schedule = l.entries ++ List.drop 4 schedule) ∧ (true = true → schedRefusal loading.floe.cfg (otherModes ((2 :
      Word).toNat) loading.floe) schedule = none)) ∧
    (ready (Instr.floeSchedClear Port.host 5 2) loading = true ∧ (2 : Word).toNat ≠ floeInitMode loading.floe.cfg) ∧
    (ready (Instr.floeModereq Port.host 5 1) synced = true ∧ synced.floe.fstate = FState.sync ∧ (vget
      synced.floe.liveSched none ((1 : Word).toNat)).isSome = true ∧ 1 ≠ synced.floe.mode ∧ synced.floe.mreq = none) ∧
    (asking.runs = true ∧ asking.floe.mreq = some (1, Port.host, 9, 7) ∧ (¬(asking.floe.swPend = true ∧
      asking.floe.modeNext = 1))) := by decide +kernel

theorem witness_ProgramLoadAndVerify :
    (ready (Instr.prgLoad Port.host 5 true 0 sixteen) starting = true ∧ (true = true ∧ starting.prog.standby.st ≠
      BankSt.verifying ∧ starting.prog.sched = none ∧ 0 = 0 ∧ sixteen = sixteen ∨ true = false ∧ starting.prog.standby.st
      = BankSt.loading ∧ starting.prog.standby.owner = Port.host ∧ (0 : Word).toNat = starting.prog.standby.loaded ∧
      sixteen = starting.prog.standby.file ++ sixteen) ∧ (∀ (n : Nat), fileTotal sixteen = some n → sixteen.length ≤ n)) ∧
    (ready (Instr.prgLoad Port.host 5 false 16 sixteen) (standbyIs (bankIn BankSt.loading sixteen) starting) = true ∧
      (false = true ∧ (standbyIs (bankIn BankSt.loading sixteen) starting).prog.standby.st ≠ BankSt.verifying ∧ (standbyIs
      (bankIn BankSt.loading sixteen) starting).prog.sched = none ∧ 16 = 0 ∧ sixteen ++ sixteen = sixteen ∨ false = false
      ∧ (standbyIs (bankIn BankSt.loading sixteen) starting).prog.standby.st = BankSt.loading ∧ (standbyIs (bankIn
      BankSt.loading sixteen) starting).prog.standby.owner = Port.host ∧ (16 : Word).toNat = (standbyIs (bankIn
      BankSt.loading sixteen) starting).prog.standby.loaded ∧ sixteen ++ sixteen = (standbyIs (bankIn BankSt.loading
      sixteen) starting).prog.standby.file ++ sixteen) ∧ (∀ (n : Nat), fileTotal (sixteen ++ sixteen) = some n → (sixteen
      ++ sixteen).length ≤ n)) ∧
    (ready (Instr.prgVerify Port.host 5) (standbyIs (bankIn BankSt.loaded sixteen) starting) = true ∧ ((standbyIs (bankIn
      BankSt.loaded sixteen) starting).prog.standby.st = BankSt.loaded ∨ (standbyIs (bankIn BankSt.loaded sixteen)
      starting).prog.standby.st = BankSt.valid ∨ (standbyIs (bankIn BankSt.loaded sixteen) starting).prog.standby.st =
      BankSt.invalid)) ∧
    (verifying.runs = true ∧ verifying.prog.standby.st = BankSt.verifying) := by decide +kernel

/-- A program without segments and tables: header and eight END literals of R72, with the CRCs of R68. -/
def emptyProgram : List Byte :=
  wordsBytes ([0x4E4B5042, 0x00030000, 0, 0, 0, 8, 256, 0] ++ List.replicate 52 0 ++
    [0x184F1900, 0x5976B4C1, 0xD11AE66C, 0x99AC0FCC] ++ List.replicate 8 0xE0000000)

def verifyingEmpty : State :=
  pending 0x0402 (standbyIs { bankIn .verifying emptyProgram with verify := some (.host, 9) } starting)

set_option maxRecDepth 100000 in
theorem witness_ProgramLoadAndVerify_passes :
    verifyingEmpty.runs = true ∧ verifyingEmpty.prog.standby.st = BankSt.verifying ∧
      verifyingEmpty.prog.standby.verdict = none ∧ verifyingEmpty.prog.standby.verify = some (.host, 9) ∧
      { opcode := 0x0402, tag := 9 } ∈ (verifyingEmpty.port .host).pend := by decide +kernel

theorem witness_ActivationSwitchesBanks :
    (ready (Instr.prgActivateExecute Port.host 5 7 0 0) (armed 1027 [0, 0, 0, 0, 0] (standbyIs (bankIn BankSt.valid [])
      starting)) = true ∧ activationRefusal 0 0 (armed 1027 [0, 0, 0, 0, 0] (standbyIs (bankIn BankSt.valid []) starting))
      = none) ∧
    (ready (Instr.prgActivateExecute Port.host 5 7 0 0) (armed 1027 [0, 0, 0, 0, 0] (standbyIs (bankIn BankSt.valid [])
      serving)) = true ∧ activationRefusal 0 0 (armed 1027 [0, 0, 0, 0, 0] (standbyIs (bankIn BankSt.valid []) serving)) =
      none) ∧
    (ready (Instr.prgActivateExecute Port.host 5 7 0 0) (pairValid true) = true ∧ activationRefusal 0 0 (pairValid true) =
      none) ∧
    (ready (Instr.prgActivateExecute Port.host 5 7 0 0) (pairValid false) = true ∧ activationRefusal 0 0 (pairValid false)
      = none) ∧
    (atSwitch.runs = true ∧ atSwitch.inService = true ∧ atSwitch.prog.sched = some planned ∧ planned.confirmed = true ∧
      planned.roundA + 5 ≤ atSwitch.floe.round ∧ atSwitch.floe.round ≤ planned.roundA + 1000 ∧ atBoundary atSwitch = true
      ∧ (atSwitch.prog.bank planned.bank).st = BankSt.valid ∧ atSwitch.prog.active = some (bankIn BankSt.active []) ∧ (∀
      (n : Nat), n < 8 → atSwitch.run n = none) ∧ heldDiffers (bankIn BankSt.active []) (atSwitch.prog.bank planned.bank)
      atSwitch.mem = none) ∧
    ((tooLate atSwitch).runs = true ∧ (tooLate atSwitch).prog.sched = some planned ∧ planned.roundA + 1000 < (tooLate
      atSwitch).floe.round) ∧
    (proposed.runs = true ∧ proposed.prog.sched = some unconfirmed ∧ unconfirmed.confirmed = false) ∧
    (unconfirmedPair.runs = true ∧ unconfirmedPair.prog.sched = some unasked ∧ unasked.confirmed = false) := by
  and_intros <;> first
    | decide +kernel

theorem witness_ImagesAndHostInputs :
    (ready (Instr.fwStage Port.host 5 true false 0 sixteen) starting = true ∧ (true = true ∧ 0 = 0 ∧ sixteen = sixteen ∨
      true = false ∧ starting.fw.snow = SnowSt.staging ∧ starting.fw.owner = Port.host ∧ (0 : Word).toNat =
      starting.fw.image.length ∧ sixteen = starting.fw.image ++ sixteen) ∧ sixteen.length ≤ 0x2000000) ∧
    (ready (Instr.fwStage Port.host 5 false true 16 sixteen) staging = true ∧ (false = true ∧ 16 = 0 ∧ sixteen ++ sixteen
      = sixteen ∨ false = false ∧ staging.fw.snow = SnowSt.staging ∧ staging.fw.owner = Port.host ∧ (16 : Word).toNat =
      staging.fw.image.length ∧ sixteen ++ sixteen = staging.fw.image ++ sixteen) ∧ (sixteen ++ sixteen).length ≤
      0x2000000) ∧
    (ready (Instr.imgRead Port.host 5 7 0x77F010 4080) starting = true ∧ (0x77F010 : Word).toNat % 4 = 0 ∧ (4080 :
      Word).toNat % 4 = 0 ∧ 4 ≤ (4080 : Word).toNat ∧ (4080 : Word).toNat ≤ 4080 ∧ (0x77F010 : Word).toNat + (4080 :
      Word).toNat ≤ 0x780000) ∧
    (ready (Instr.imgRead Port.host 5 7 0x77F010 4080) serving = true ∧ (0x77F010 : Word).toNat % 4 = 0 ∧ (4080 :
      Word).toNat % 4 = 0 ∧ 4 ≤ (4080 : Word).toNat ∧ (4080 : Word).toNat ≤ 4080 ∧ (0x77F010 : Word).toNat + (4080 :
      Word).toNat ≤ 0x780000) ∧
    (ready (Instr.hinWrite Port.host 5 0 32 [1, 2, 3, 4]) withHin = true ∧ (0 : Word).toNat % 32 = 0 ∧ (32 : Word).toNat %
      32 = 0 ∧ 32 ≤ (32 : Word).toNat ∧ (32 : Word).toNat ≤ 0x7FC0 ∧ (0 : Word).toNat + (32 : Word).toNat ≤ roundUp 32
      (hinBits withHin)) := by decide +kernel

theorem witness_RecorderCommands :
    (ready (Instr.iceOpen Port.host 5 4 false 2 100) starting = true ∧ (4 : Word).toNat ≤ 4 ∧ (2 : Word).toNat ≤ 2) ∧
    (ready (Instr.iceRead Port.host 5 120 []) reading = true ∧ (120 : Word).toNat ≤ 120 ∧ reading.ice.cursor Port.host =
      some { pos := 0, nand := false, minSev := 0 }) ∧
    (ready (Instr.iceRead Port.host 5 1 [4]) unreadable = true ∧ (1 : Word).toNat ≤ 120 ∧ unreadable.ice.cursor Port.host
      = some { pos := 0, nand := false, minSev := 0 }) ∧
    (ready (Instr.fcuRead Port.host 5 0 256) starting = true ∧ 1 ≤ (256 : Word).toNat ∧ (0 : Word).toNat + (256 :
      Word).toNat ≤ 256) ∧
    (ready (Instr.fcuAck Port.host 5 true 0) starting = true ∧ (true = true → 0 = 0)) ∧
    (ready (Instr.fcuAck Port.host 5 false 32) faulty = true ∧ (false = true → 32 = 0)) ∧
    (ready (Instr.fcuForce Port.host 5 4 3 66) testing = true ∧ (4 : Word).toNat ≤ 4 ∧ sourceListed ((66 : Word).toNat) =
      true) := by decide +kernel

theorem witness_FabricCommands :
    (ready (Instr.arbCounters Port.host 5 true) starting = true) ∧
    (ready (Instr.cvuRun Port.host 5 descriptors sixteen) starting = true ∧ descriptors.length % 10 = 0 ∧ 10 ≤
      descriptors.length ∧ descriptors.length ≤ 160 ∧ sixteen.length < 0x10000 ∧ chainFault descriptors
      (descriptors.length / 10) 0 0 = none ∧ orderFault descriptors (descriptors.length / 10) = none) ∧
    (ready (Instr.cvuRun Port.host 5 descriptors sixteen) chained = true ∧ descriptors.length % 10 = 0 ∧ 10 ≤
      descriptors.length ∧ descriptors.length ≤ 160 ∧ sixteen.length < 0x10000 ∧ chainFault descriptors
      (descriptors.length / 10) 0 0 = none ∧ orderFault descriptors (descriptors.length / 10) = none) ∧
    (chained.runs = true ∧ chained.fabric.chains = [runningChain]) ∧
    (twoChains.runs = true ∧ twoChains.fabric.chains = [runningChain, nextChain]) ∧
    (comparingState.runs = true ∧ comparingState.fabric.chains = [comparingChain]) := by decide +kernel

theorem witness_FabricEvents :
    (starting.runs = true ∧ presentReqs [none, some 5, some 9, none, none, none, none, none, none, none, none, some 3] ≠
      []) ∧
    (starting.runs = true ∧ isFifo ↑0 = true) ∧
    (starting.runs = true ∧ isPulse ↑11 = true ∧ 16 ≤ 16) ∧
    (starting.runs = true ∧ isPulse ↑11 = true ∧ 16 < 17) ∧
    (starting.runs = true ∧ (starting.mstate = MState.startup ∨ starting.mstate = MState.service ∨ starting.mstate =
      MState.test ∨ starting.mstate = MState.recovery)) := by decide +kernel

theorem witness_CanCommands :
    (canRefuses CanCh.can2 canOnBus = false ∧ Memory.wf canOnBus.xsram = true ∧ ready (Instr.canSend Port.host 5
      CanCh.can2 1 false false 0 8 [1, 2, 3, 4, 5, 6, 7, 8]) canOnBus = true ∧ (false = true → 0 ≠ 0 ∨ 8 ≠ 0 ∨ [1, 2, 3,
      4, 5, 6, 7, 8] ≠ []) ∧ (((sendChecks (canOnBus.can CanCh.can2) false true [at32 8 (canNum CanCh.can2) ||| flag 6
      false ||| flag 5 false, at32 0 ((1 : Word).toNat), 0, 8] [1, 2, 3, 4, 5, 6, 7, 8]).all fun x => x.snd.snd) = true) ∧
      (false = false → bufHas CanCh.can2 ((1 : Word).toNat) bTxreq canOnBus = false ∧ bufHas CanCh.can2 ((1 : Word).toNat)
      bSusp canOnBus = false)) ∧
    (canRefuses CanCh.can2 requested0 = false ∧ Memory.wf requested0.xsram = true ∧ ready (Instr.canSendAbort Port.host 5
      CanCh.can2 0) requested0 = true) ∧
    (canRefuses CanCh.can2 requested = false ∧ Memory.wf requested.xsram = true ∧ 1 ≠ 0 ∧ ready (Instr.canSendAbort
      Port.host 5 CanCh.can2 1) requested = true) ∧
    (canRefuses CanCh.can2 canOnBus = false ∧ Memory.wf canOnBus.xsram = true ∧ ready (Instr.canSendResume Port.host 5
      CanCh.can2 1) canOnBus = true) ∧
    (canRefuses CanCh.can2 canOnBus = false ∧ Memory.wf canOnBus.xsram = true ∧ ready (Instr.canRead Port.host 5
      CanCh.can2 14 50 false false) canOnBus = true ∧ 1 ≤ (50 : Word).toNat ∧ (50 : Word).toNat ≤ 50 ∧ (14 : Word).toNat ≤
      63 ∧ (14 : Word).toNat + (50 : Word).toNat ≤ 64) ∧
    (canRefuses CanCh.can2 canOnBus = false ∧ Memory.wf canOnBus.xsram = true ∧ ready (Instr.canRead Port.host 5
      CanCh.can2 0 1 false true) canOnBus = true ∧ 1 ≤ (1 : Word).toNat ∧ (1 : Word).toNat ≤ 50 ∧ (0 : Word).toNat ≤ 63 ∧
      (0 : Word).toNat + (1 : Word).toNat ≤ 64) := by
  and_intros <;> first
    | decide +kernel

theorem witness_CanFrames :
    (canUp CanCh.can2 canOnBus = true ∧ (canOnBus.can CanCh.can2).wait = none ∧ Memory.wf canOnBus.xsram = true ∧
      (shortFrame.fdf = true → canFd (canOnBus.can CanCh.can2) = true) ∧ shortFrame.data.length ≤ 64 ∧ 0 < 64 ∧
      filterMatches (canOnBus.can CanCh.can2) (frameW1 shortFrame) 0 = true ∧ bufHas CanCh.can2 0 bLock canOnBus = false ∧
      bufHas CanCh.can2 0 bNew canOnBus = false ∧ (∀ (k : Nat), k < 0 → filterMatches (canOnBus.can CanCh.can2) (frameW1
      shortFrame) k = true → bufHas CanCh.can2 k bLock canOnBus = true ∨ bufHas CanCh.can2 k bNew canOnBus = true)) ∧
    (canUp CanCh.can2 requested = true ∧ (requested.can CanCh.can2).wait = none ∧ Memory.wf requested.xsram = true ∧
      canMode (requested.can CanCh.can2) = 0 ∧ mayBeSent CanCh.can2 (↑1) requested = true) ∧
    (canUp CanCh.can2 loopback = true ∧ (loopback.can CanCh.can2).wait = none ∧ Memory.wf loopback.xsram = true ∧ canMode
      (loopback.can CanCh.can2) = 2 ∧ mayBeSent CanCh.can2 (↑1) loopback = true) ∧
    (canUp CanCh.can2 collided = true ∧ (collided.can CanCh.can2).wait = none ∧ Memory.wf collided.xsram = true ∧ canMode
      (collided.can CanCh.can2) ≠ 1 ∧ mayBeSent CanCh.can2 (↑1) collided = true) ∧
    (canUp CanCh.can2 requested = true ∧ (requested.can CanCh.can2).wait = none ∧ Memory.wf requested.xsram = true ∧
      canMode (requested.can CanCh.can2) ≠ 1 ∧ mayBeSent CanCh.can2 (↑1) requested = true) := by
  and_intros <;> first
    | decide +kernel

theorem witness_CanConditions :
    (canUp CanCh.can2 tooManyErrors = true ∧ 256 ≤ (tooManyErrors.can CanCh.can2).tec) ∧
    (canState holding = true ∧ (holding.can CanCh.can2).st = CState.busOffHold) ∧
    (canState recovering = true ∧ (recovering.can CanCh.can2).st = CState.busOff) ∧
    (canState integratingCan = true ∧ canEn (integratingCan.can CanCh.can2) = true ∧ (integratingCan.can
      CanCh.can2).integrating = true ∧ (integratingCan.can CanCh.can2).halted = false ∧ (canMode (integratingCan.can
      CanCh.can2) = 2 → integratingCan.eff = MState.test)) ∧
    (canUp CanCh.can2 canOnBus = true ∧ (canOnBus.can CanCh.can2).wait = none ∧ canFd (canOnBus.can CanCh.can2) = false) ∧
    (canUp CanCh.can2 canOnBus = true ∧ (canOnBus.can CanCh.can2).wait = none ∧ CanError.stuff ≠ CanError.arbitration) ∧
    (canUp CanCh.can2 canOnBus = true ∧ (canOnBus.can CanCh.can2).wait = none ∧ CanError.form ≠ CanError.arbitration) ∧
    (canUp CanCh.can2 requested = true ∧ (requested.can CanCh.can2).wait = none ∧ CanError.bit0 ≠ CanError.arbitration ∧
      canMode (requested.can CanCh.can2) ≠ 1 ∧ (CanPhase.frame = CanPhase.inFlag ∨ CanPhase.frame = CanPhase.afterFlag ∨
      mayBeSent CanCh.can2 (↑1) requested = true)) ∧
    (canUp CanCh.can2 canOnBus = true ∧ (canOnBus.can CanCh.can2).wait = none ∧ CanError.form ≠ CanError.arbitration ∧
      canMode (canOnBus.can CanCh.can2) ≠ 1 ∧ (CanPhase.afterFlag = CanPhase.inFlag ∨ CanPhase.afterFlag =
      CanPhase.afterFlag ∨ mayBeSent CanCh.can2 (↑1) canOnBus = true)) ∧
    (canState lockedBuf = true ∧ bufHas CanCh.can2 (↑0) bLock lockedBuf = true ∧ Memory.wf lockedBuf.xsram = true) ∧
    (asleep.mstate = MState.dormant ∧ (asleep.can CanCh.can2).st = CState.sleep ∧ wakesOn (asleep.can CanCh.can2) none =
      true) := by
  and_intros <;> first
    | decide +kernel

theorem witness_PowerOnStart :
    ((inState MState.off).mstate = MState.off ∧ (inState MState.off).power.swClosed = true) := by decide +kernel

theorem witness_BootAndSelftest :
    (State.reset.runs = true ∧ State.reset.eff = MState.boot ∧ State.reset.fram.fwMark = none) ∧
    (updating.runs = true ∧ updating.eff = MState.boot ∧ updating.fram.fwMark.isSome = true ∧ 2 ≤
      updating.servingLanes.length) ∧
    (updatingGood.runs = true ∧ updatingGood.eff = MState.boot ∧ updatingGood.fram.fwMark.isSome = true ∧ 2 ≤
      updatingGood.servingLanes.length) ∧
    ((inState MState.selftest).runs = true ∧ (inState MState.selftest).eff = MState.selftest ∧ (inState
      MState.selftest).testsDone = false) := by decide +kernel

theorem witness_StartupAndServiceAreEntered :
    (tested.runs = true ∧ tested.eff = MState.selftest ∧ tested.testsDone = true) ∧
    (moduleLocked.runs = true ∧ moduleLocked.eff = MState.selftest ∧ moduleLocked.testsDone = true) ∧
    (conditionsMet.runs = true ∧ conditionsMet.eff = MState.startup ∧ conditionsMet.serviceReady = true ∧ agreementHolds
      conditionsMet = true ∧ conditionsMet.power.brownout = false) := by decide +kernel

theorem witness_SupplyEvents :
    (serving.runs = true ∧ serving.mstate ≠ MState.hold ∧ belowUndervoltage 0x3458 = true) ∧
    (serving.runs = true ∧ serving.mstate ≠ MState.hold ∧ belowUndervoltage 0x3459 = false) ∧
    (aboveOvervoltage 0x26548 = true) ∧
    (belowReconnect 0x26160 = true) ∧
    (held.runs = true ∧ held.mstate = MState.hold ∧ held.power.swClosed = true ∧ aboveStart 0x3520 = true ∧
      (held.power.overvolt = true → inRange 0x3520 = true)) ∧
    (heldBrown.runs = true ∧ heldBrown.mstate = MState.hold ∧ heldBrown.power.swClosed = true ∧ aboveStart 0x4E20 = true ∧
      (heldBrown.power.overvolt = true → inRange 0x4E20 = true)) ∧
    (held.runs = true ∧ held.mstate = MState.hold ∧ (held.power.swClosed = false ∨ aboveStart 0x351F = false)) ∧
    (overvolted.runs = true ∧ overvolted.mstate = MState.hold ∧ overvolted.power.swClosed = true ∧ aboveStart 0x25990 =
      true ∧ (overvolted.power.overvolt = true → inRange 0x25990 = true)) ∧
    (held.runs = true ∧ held.mstate = MState.hold ∧ held.power.brownout = false ∧ belowBrownout 0x7788 = true) ∧
    (held.runs = true ∧ held.mstate = MState.hold ∧ held.power.brownout = false ∧ belowBrownout 0x7789 = false) ∧
    (serving.mstate ≠ MState.off) := by
  and_intros <;> first
    | decide +kernel

theorem witness_ActionsWakeAndFreeze :
    ((acting MState.startup Action.rstWarm 1 0).runs = true ∧ ((acting MState.startup Action.rstWarm 1 0).mstate =
      MState.hold ∨ List.find? (actionDue (acting MState.startup Action.rstWarm 1 0).tb.ms) (acting MState.startup
      Action.rstWarm 1 0).hif.actions = none)) ∧
    ((acting MState.service Action.rstWarm 0 0).runs = true ∧ (acting MState.service Action.rstWarm 0 0).mstate ≠
      MState.hold ∧ List.find? (actionDue (acting MState.service Action.rstWarm 0 0).tb.ms) (acting MState.service
      Action.rstWarm 0 0).hif.actions = some (Action.rstWarm, Port.host, 0, 0)) ∧
    ((acting MState.test Action.rstCold 0 0).runs = true ∧ (acting MState.test Action.rstCold 0 0).mstate ≠ MState.hold ∧
      List.find? (actionDue (acting MState.test Action.rstCold 0 0).tb.ms) (acting MState.test Action.rstCold 0
      0).hif.actions = some (Action.rstCold, Port.host, 0, 0)) ∧
    ((acting MState.test Action.testExit 0 0).runs = true ∧ (acting MState.test Action.testExit 0 0).mstate ≠ MState.hold
      ∧ List.find? (actionDue (acting MState.test Action.testExit 0 0).tb.ms) (acting MState.test Action.testExit 0
      0).hif.actions = some (Action.testExit, Port.host, 0, 0)) ∧
    ((acting MState.startup Action.dormant 0 0).runs = true ∧ (acting MState.startup Action.dormant 0 0).mstate ≠
      MState.hold ∧ List.find? (actionDue (acting MState.startup Action.dormant 0 0).tb.ms) (acting MState.startup
      Action.dormant 0 0).hif.actions = some (Action.dormant, Port.host, 0, 0)) ∧
    ((acting MState.startup Action.fwActivate 0 0).runs = true ∧ (acting MState.startup Action.fwActivate 0 0).mstate ≠
      MState.hold ∧ List.find? (actionDue (acting MState.startup Action.fwActivate 0 0).tb.ms) (acting MState.startup
      Action.fwActivate 0 0).hif.actions = some (Action.fwActivate, Port.host, 0, 0)) ∧
    ((acting MState.recovery Action.lockReset 0 0).runs = true ∧ (acting MState.recovery Action.lockReset 0 0).mstate ≠
      MState.hold ∧ List.find? (actionDue (acting MState.recovery Action.lockReset 0 0).tb.ms) (acting MState.recovery
      Action.lockReset 0 0).hif.actions = some (Action.lockReset, Port.host, 0, 0)) ∧
    ((acting MState.boot Action.rstWarm 0 0).runs = true ∧ (acting MState.boot Action.rstWarm 0 0).mstate ≠ MState.hold ∧
      List.find? (actionDue (acting MState.boot Action.rstWarm 0 0).tb.ms) (acting MState.boot Action.rstWarm 0
      0).hif.actions = some (Action.rstWarm, Port.host, 0, 0)) ∧
    ((acting MState.hold Action.rstWarm 0 0).runs = true ∧ ((acting MState.hold Action.rstWarm 0 0).mstate = MState.hold ∨
      List.find? (actionDue (acting MState.hold Action.rstWarm 0 0).tb.ms) (acting MState.hold Action.rstWarm 0
      0).hif.actions = none)) ∧
    ((inState MState.dormant).mstate = MState.dormant ∧ wakes WakeSource.hostSelect (inState MState.dormant) = true) ∧
    (armedRime.maintEn = true ∧ armedRime.rimeArmed = true ∧ armedRime.mstate ≠ MState.off ∧ armedRime.mstate ≠
      MState.frozen) ∧
    ((serving.maintEn = false ∨ serving.rimeArmed = false)) := by
  and_intros <;> first
    | decide +kernel

theorem witness_JtagScans :
    ((inState MState.frozen).mstate ≠ MState.off ∧ notBypass 48 (inState MState.frozen) = false) ∧
    ((inState MState.frozen).mstate ≠ MState.off ∧ (inState MState.frozen).mstate = MState.frozen) ∧
    ((inState MState.frozen).mstate ≠ MState.off) ∧
    (serving.mstate ≠ MState.off ∧ notBypass 255 serving = false) ∧
    (serving.mstate ≠ MState.off ∧ serving.mstate ≠ MState.frozen) := by decide +kernel

theorem witness_VotesOfThreeLanes :
    (serving.runs = true ∧ serving.servingLanes = [0, 1, 2] ∧ good = good ∧ good = good ∧ good.kind.toNat ≠ 10) ∧
    (serving.runs = true ∧ serving.servingLanes = [0, 1, 2] ∧ selfTestRec = selfTestRec ∧ selfTestRec = selfTestRec ∧
      selfTestRec.kind = 10 ∧ selfTestRec.data = BitVec.ofNat 64 serving.voter.selftestN) ∧
    (serving.runs = true ∧ serving.servingLanes = [0, 1, 2] ∧ good = good ∧ good ≠ bad ∧ kindVotes good.kind.toNat = true) ∧
    (serving.runs = true ∧ serving.servingLanes = [0, 1, 2] ∧ good = good ∧ bad ≠ good ∧ kindVotes good.kind.toNat = true) ∧
    (serving.runs = true ∧ serving.servingLanes = [0, 1, 2] ∧ good ≠ bad ∧ good ≠ worse ∧ bad ≠ worse ∧ isSelftest
      (laneRecord good bad worse) [0, 1, 2] = false ∧ quietSource 4 serving = true ∧ serving.mstate ≠ MState.safe) ∧
    (serving.runs = true ∧ serving.servingLanes = [0, 1, 2] ∧ quietSource 1 serving = true ∧ serving.mstate ≠ MState.safe) ∧
    (serving.runs = true ∧ serving.servingLanes = [0, 1, 2] ∧ quietSource 3 serving = true ∧ serving.mstate ≠ MState.safe) := by
  and_intros <;> first
    | decide +kernel

theorem witness_LanesLeaveAndReturn :
    (serving.runs = true ∧ serving.servingLanes = [0, 1, 2] ∧ quietSource 13 serving = true ∧ serving.mstate ≠
      MState.safe) ∧
    ((laneIs LaneState.reset MState.service).runs = true ∧ ((laneIs LaneState.reset MState.service).lane ↑2).st =
      LaneState.reset) ∧
    ((laneIs LaneState.test MState.startup).runs = true ∧ ((laneIs LaneState.test MState.startup).lane ↑2).st =
      LaneState.test ∧ (laneIs LaneState.test MState.startup).eff ≠ MState.boot ∧ (laneIs LaneState.test
      MState.startup).eff ≠ MState.selftest ∧ (laneIs LaneState.test MState.startup).twin.join = none) ∧
    ((laneIs LaneState.test MState.service).runs = true ∧ ((laneIs LaneState.test MState.service).lane ↑2).st =
      LaneState.test ∧ (laneIs LaneState.test MState.service).eff ≠ MState.boot ∧ (laneIs LaneState.test
      MState.service).eff ≠ MState.selftest ∧ ((laneIs LaneState.test MState.service).lane ↑2).lock = false) ∧
    ((laneIs LaneState.copy MState.service).runs = true ∧ ((laneIs LaneState.copy MState.service).lane ↑2).st =
      LaneState.copy ∧ (laneIs LaneState.copy MState.service).mstate ≠ MState.hold) ∧
    ((laneIs LaneState.delta MState.service).runs = true ∧ ((laneIs LaneState.delta MState.service).lane ↑2).st =
      LaneState.delta ∧ (laneIs LaneState.delta MState.service).mstate ≠ MState.hold) ∧
    ((laneIs LaneState.delta MState.service).runs = true ∧ ((laneIs LaneState.delta MState.service).lane ↑2).st =
      LaneState.delta) ∧
    (starting.runs = true ∧ scanDue starting = false) := by decide +kernel

theorem witness_RoundStarts :
    (serving.runs = true ∧ serving.floe.coldTake = none ∧ (¬(serving.floe.syncNext = true ∧ serving.floe.fstate =
      FState.integrate))) := by decide +kernel

theorem witness_ReleaseStartsCycle :
    (running.runs = true ∧ running.prog.active = some (bankIn BankSt.active []) ∧ running.inService = true ∧
      running.power.brownout = false ∧ running.twin.ps ≠ PState.joining ∧ releaseDue (↑0) running = true ∧ running.run ↑0
      = none) ∧
    ((inCycle newCycle running).runs = true ∧ (inCycle newCycle running).prog.active = some (bankIn BankSt.active []) ∧
      (inCycle newCycle running).inService = true ∧ (inCycle newCycle running).power.brownout = false ∧ (inCycle newCycle
      running).twin.ps ≠ PState.joining ∧ releaseDue (↑0) (inCycle newCycle running) = true ∧ (inCycle newCycle
      running).run ↑0 = some newCycle ∧ newCycle.relRound ≠ (inCycle newCycle running).floe.round) ∧
    ((inCycle sameRound running).runs = true ∧ (inCycle sameRound running).prog.active = some (bankIn BankSt.active []) ∧
      (inCycle sameRound running).inService = true ∧ (inCycle sameRound running).power.brownout = false ∧ (inCycle
      sameRound running).twin.ps ≠ PState.joining ∧ releaseDue (↑0) (inCycle sameRound running) = true ∧ (inCycle
      sameRound running).run ↑0 = some sameRound ∧ sameRound.relRound = (inCycle sameRound running).floe.round) := by decide +kernel

theorem witness_CycleRuns :
    ((inCycle newCycle running).runs = true ∧ (inCycle newCycle running).prog.active = some (bankIn BankSt.active []) ∧
      (inCycle newCycle running).run ↑0 = some newCycle ∧ newCycle.inSig = none ∧ voteLost 1 (inCycle newCycle running) =
      false) ∧
    ((losing 1 (inCycle newCycle running)).runs = true ∧ (losing 1 (inCycle newCycle running)).prog.active = some (bankIn
      BankSt.active []) ∧ (losing 1 (inCycle newCycle running)).run ↑0 = some newCycle ∧ newCycle.inSig = none ∧ voteLost
      1 (losing 1 (inCycle newCycle running)) = true) ∧
    ((inCycle agreedCycle running).runs = true ∧ (inCycle agreedCycle running).prog.active = some (bankIn BankSt.active
      []) ∧ (inCycle agreedCycle running).run ↑0 = some agreedCycle ∧ (agreedCycle.agreed = true ∨ agreedCycle.unagreed =
      true) ∧ mayRun (↑0) (inCycle agreedCycle running) = true ∧ agreedCycle.started = false ∧ voteLost 1 (inCycle
      agreedCycle running) = false ∧ (inCycle agreedCycle running).prog.remapFrom = none) ∧
    ((losing 1 (inCycle agreedCycle running)).runs = true ∧ (losing 1 (inCycle agreedCycle running)).prog.active = some
      (bankIn BankSt.active []) ∧ (losing 1 (inCycle agreedCycle running)).run ↑0 = some agreedCycle ∧ (agreedCycle.agreed
      = true ∨ agreedCycle.unagreed = true) ∧ mayRun (↑0) (losing 1 (inCycle agreedCycle running)) = true ∧
      agreedCycle.started = false ∧ voteLost 1 (losing 1 (inCycle agreedCycle running)) = true) ∧
    ((remapping (inCycle agreedCycle running)).runs = true ∧ (remapping (inCycle agreedCycle running)).prog.active = some
      (bankIn BankSt.active []) ∧ (remapping (inCycle agreedCycle running)).run ↑0 = some agreedCycle ∧
      (agreedCycle.agreed = true ∨ agreedCycle.unagreed = true) ∧ mayRun (↑0) (remapping (inCycle agreedCycle running)) =
      true ∧ agreedCycle.started = false ∧ voteLost 1 (remapping (inCycle agreedCycle running)) = false ∧ (remapping
      (inCycle agreedCycle running)).prog.remapFrom ≠ none) ∧
    ((inCycle agreedCycle running).runs = true ∧ (inCycle agreedCycle running).prog.active = some (bankIn BankSt.active
      []) ∧ (inCycle agreedCycle running).run ↑0 = some agreedCycle ∧ (agreedCycle.agreed = true ∨ agreedCycle.unagreed =
      true) ∧ mayRun (↑0) (inCycle agreedCycle running) = true ∧ (agreedCycle.started = true ∨ voteLost 1 (inCycle
      agreedCycle running) = false)) ∧
    ((inCycle pausedCycle running).runs = true ∧ (inCycle pausedCycle running).prog.active = some (bankIn BankSt.active
      []) ∧ (inCycle pausedCycle running).run ↑0 = some pausedCycle ∧ (pausedCycle.agreed = true ∨ pausedCycle.unagreed =
      true) ∧ mayRun (↑0) (inCycle pausedCycle running) = true ∧ pausedCycle.started = true) ∧
    ((inCycle yieldingCycle running).runs = true ∧ (inCycle yieldingCycle running).prog.active = some (bankIn
      BankSt.active []) ∧ (inCycle yieldingCycle running).run ↑0 = some yieldingCycle ∧ yieldingCycle.started = true ∧
      yieldingCycle.paused = false ∧ yieldingCycle.yieldAt = [0]) := by
  and_intros <;> first
    | decide +kernel

theorem witness_CyclesEndAndCommit :
    ((inCycle lastCycle running).runs = true ∧ (inCycle lastCycle running).prog.active = some (bankIn BankSt.active []) ∧
      (inCycle lastCycle running).run ↑0 = some lastCycle ∧ lastCycle.started = true ∧ lastCycle.paused = false ∧
      lastCycle.yieldAt = []) ∧
    ((losing 3 (inCycle lastCycle running)).runs = true ∧ (losing 3 (inCycle lastCycle running)).prog.active = some
      (bankIn BankSt.active []) ∧ (losing 3 (inCycle lastCycle running)).run ↑0 = some lastCycle ∧ lastCycle.started =
      true ∧ lastCycle.paused = false ∧ lastCycle.yieldAt = []) ∧
    ((inCycle lastCycle running).runs = true ∧ (inCycle lastCycle running).prog.active = some (bankIn BankSt.active []) ∧
      (inCycle lastCycle running).run ↑0 = some lastCycle ∧ lastCycle.overrun = false) ∧
    ((inCycle lateCycle running).runs = true ∧ (inCycle lateCycle running).prog.active = some (bankIn BankSt.active []) ∧
      (inCycle lateCycle running).run ↑0 = some lateCycle ∧ lateCycle.overrun = true) ∧
    (committing.runs = true ∧ committing.fram.waiting = [journal]) ∧
    (committing2.runs = true ∧ committing2.fram.waiting = [journal2, journal]) := by decide +kernel

theorem witness_FloeRounds :
    (sync.runs = true ∧ sync.floe.fstate = FState.sync ∧ sync.floe.mute = false ∧ sync.slots[2]? = some statusSlot ∧
      statusSlot.owner = floeNode sync.floe.live ∧ statusSlot.kind = SlotKind.status ∧ (fullStatus sync = true ∨ sync.eff
      = MState.safe) ∧ (sendsOn statusSlot Chan.a sync || sendsOn statusSlot Chan.b sync) = true ∧ nodeFrame 3
      (sync.roundStartNs + statusSlot.start) sync.floe.keyCur (statusBody sync) sync = some statusFrame) ∧
    (sync.runs = true ∧ sync.floe.fstate = FState.sync ∧ chanPasses Chan.b sync = true ∧ crossingsOpen Chan.b sync = true
      ∧ ethPayload 0x88B5 (onFloe dataFrame) = some dataFrame ∧ arrivalSlot (frameOffset ((0x62A2 : Word).toNat) dataFrame
      sync) sync.slots = some dataSlot ∧ frameOffset ((0x62A2 : Word).toNat) dataFrame sync - ↑dataSlot.start ≤ 1250 ∧
      dataSlot.owner ≠ floeNode sync.floe.live ∧ dataSlot.rx = true ∧ dataSlot.kind = SlotKind.data) ∧
    (sync.runs = true ∧ sync.floe.fstate = FState.sync ∧ chanPasses Chan.b sync = true ∧ crossingsOpen Chan.b sync = true) ∧
    (sync.runs = true ∧ sync.floe.fstate = FState.sync ∧ voteLost 12 sync = false) ∧
    (measured.runs = true ∧ measured.floe.fstate = FState.sync ∧ voteLost 12 measured = false) ∧
    ((losing 12 measured).runs = true ∧ (losing 12 measured).floe.fstate = FState.sync ∧ voteLost 12 (losing 12 measured)
      = true) ∧
    (switching.runs = true ∧ switching.floe.fstate = FState.sync ∧ switching.floe.swPend = true ∧ switching.floe.round =
      BitVec.toNat switching.floe.switchRound ∧ (vget switching.floe.liveSched none switching.floe.modeNext.toNat).isSome
      = true) := by
  and_intros <;> first
    | decide +kernel

theorem witness_FloeStates :
    (ready6.runs = true) ∧
    (listener.runs = true ∧ listener.floe.fstate = FState.listen ∧ coldAllowed listener = true ∧ nodeFrame 2 listener.now
      listener.floe.idleKey (wordsBytes [BitVec.ofNat 32 (firstRound listener), at32 0 (floeInitMode listener.floe.live)])
      listener = some (coldPayload listener)) ∧
    (listener.runs = true ∧ (listener.floe.fstate = FState.listen ∨ listener.floe.fstate = FState.coldstart) ∧ chanPasses
      Chan.a listener = true ∧ crossingsOpen Chan.a listener = true ∧ ethPayload 0x88B5 (onFloe (coldPayload listener)) =
      some (padded (coldPayload listener)) ∧ coldOk (padded (coldPayload listener)) listener = true ∧ listener.floe.coldA
      = none) ∧
    (coldOwn.runs = true ∧ coldOwn.floe.coldA = some ownCold ∧ coldOwn.floe.fstate = FState.coldstart ∧ ownCold.node =
      floeNode coldOwn.floe.live) ∧
    (coldOther.runs = true ∧ coldOther.floe.coldA = some otherCold ∧ (coldOther.floe.fstate = FState.listen ∨
      coldOther.floe.fstate = FState.coldstart) ∧ otherCold.node ≠ floeNode coldOther.floe.live) ∧
    (coldWaits.runs = true ∧ coldWaits.floe.fstate = FState.coldstart ∧ coldWaits.floe.coldTake = none ∧
      coldWaits.floe.coldA = none ∧ coldWaits.floe.coldB = none) ∧
    (integrating.runs = true ∧ integrating.floe.fstate = FState.integrate ∧ 10 ≤ integrating.floe.integRounds ∧
      integrating.floe.syncNext = false) ∧
    (passive.runs = true ∧ passive.floe.fstate = FState.passive ∧ passive.floe.passiveRounds = some 9 ∧ 9 ≤ 9) := by
  and_intros <;> first
    | decide +kernel

theorem witness_ChannelConditions :
    (sync.runs = true ∧ (sync.chan Chan.a).linkUp = true) ∧
    (silent.runs = true ∧ silent.floe.fstate ≠ FState.down ∧ 3 ≤ (silent.chan Chan.b).badRounds ∧ (silent.chan
      Chan.b).silentRaised = false) ∧
    (echoless.runs = true ∧ echoless.floe.fstate ≠ FState.down ∧ 3 ≤ (echoless.chan Chan.a).echoMissRounds ∧
      (echoless.chan Chan.a).ok = true ∧ (echoless.chan Chan.a).txOff = false) := by decide +kernel

theorem witness_TwinMessagesAreChecked :
    ((ethPayload 0x88B6 anAck = none ∨ serving.runs = false ∨ serving.twinId = 0 ∨ fld (msgWord (frameMessage anAck) 0) 31
      24 ≠ (Instr.splitack anAck, 33).snd)) ∧
    ((ethPayload 0x88B6 (ethFrame 0 0 0x8100 cutAck) = none ∨ alone.runs = false ∨ alone.twinId = 0 ∨ fld (msgWord
      (frameMessage (ethFrame 0 0 0x8100 cutAck)) 0) 31 24 ≠ (Instr.splitack (ethFrame 0 0 0x8100 cutAck), 33).snd)) ∧
    ((ethPayload 0x88B6 cutAck).isSome = true ∧ alone.runs = true ∧ alone.twinId ≠ 0 ∧ fld (msgWord (frameMessage cutAck)
      0) 31 24 = (Instr.splitack cutAck, 33).snd ∧ msgCodeOk alone.keys.regT (frameMessage cutAck) = false) ∧
    ((ethPayload 0x88B6 anAck).isSome = true ∧ lateRound.runs = true ∧ lateRound.twinId ≠ 0 ∧ fld (msgWord (frameMessage
      anAck) 0) 31 24 = (Instr.splitack anAck, 33).snd ∧ msgCodeOk lateRound.keys.regT (frameMessage anAck) = true ∧
      msgPlaced (frameMessage anAck) lateRound = false ∧ twinConflict (frameMessage anAck) lateRound = false) ∧
    ((accepted 1 (aHello 0x24000000) (if false = true then State.updTwin (fun t => { t with rxSeq := none }) alone else
      alone) = true)) ∧
    ((accepted 1 (aHello 0x24000000) (if true = true then State.updTwin (fun t => { t with rxSeq := none }) numbered else
      numbered) = true)) ∧
    (alone.runs = true ∧ linkUsable alone = true) ∧
    (serving.runs = true ∧ linkUsable serving = false) ∧
    ((mayAsk PState.alone MState.service).runs = true ∧ ((mayAsk PState.alone MState.service).twin.ps = PState.alone ∨
      (mayAsk PState.alone MState.service).twin.ps = PState.silent) ∧ mayJoin (mayAsk PState.alone MState.service) = true
      ∧ (mayAsk PState.alone MState.service).twin.retryMs ≤ (mayAsk PState.alone MState.service).tb.ms ∧ joinReason
      (mayAsk PState.alone MState.service) = none ∧ linkUsable (mayAsk PState.alone MState.service) = true) := by
  and_intros <;> first
    | with_reducible apply accepted_ethFrame <;> decide +kernel
    | with_reducible apply code_fits <;> decide +kernel
    | with_reducible refine joinReason_none (partner_has_bank _ _) ?_; decide +kernel
    | with_reducible refine joinReason_none (partner_has_bank' _ _ _ _) ?_; decide +kernel
    | decide +kernel

theorem witness_SplitOfThePair :
    (ready (Instr.twinSplitExecute Port.host 5 7) (armed 2562 [0] (paired id)) = true ∧ (armed 2562 [0] (paired
      id)).inService = true ∧ (armed 2562 [0] (paired id)).twin.ps = PState.paired ∧ splitReason (armed 2562 [0] (paired
      id)) = none ∧ linkUsable (armed 2562 [0] (paired id)) = true) ∧
    (accepted 32 (fromPartner 32 (roundReason 4 0)) (paired id) = true) ∧
    (accepted 32 (fromPartner 32 (roundReason 4 0)) alone = true) ∧
    (accepted 33 anAck splitting = true ∧ splitting.twin.split = some mySplit ∧ mySplit.mine = true ∧ mySplit.acked =
      false ∧ mySplit.roundS = BitVec.toNat (wordAt (msgBody (frameMessage anAck)) 0)) ∧
    (accepted 33 (fromPartner 33 (roundReason 4 2)) splitting = true ∧ splitting.twin.split = some mySplit ∧ mySplit.mine
      = true ∧ mySplit.acked = false ∧ mySplit.roundS = BitVec.toNat (wordAt (msgBody (frameMessage (fromPartner 33
      (roundReason 4 2)))) 0)) ∧
    (splitting.runs = true ∧ splitting.twin.split = some mySplit ∧ mySplit.mine = true ∧ mySplit.acked = false) ∧
    (splitDueNow.runs = true ∧ splitDueNow.twin.split = some ackedSplit ∧ splitDue ackedSplit splitDueNow = true) ∧
    ((tooLate splitting).runs = true ∧ (tooLate splitting).twin.split = some mySplit ∧ mySplit.roundS + 1000 < (tooLate
      splitting).floe.round) := by
  and_intros <;> first
    | with_reducible apply accepted_ethFrame <;> decide +kernel
    | decide +kernel

theorem witness_JoinOfThePair :
    (ready (Instr.twinJoinExecute Port.host 5 7) (armed 2563 [0] (mayAsk PState.single MState.startup)) = true ∧ mayJoin
      (armed 2563 [0] (mayAsk PState.single MState.startup)) = true ∧ joinReason (armed 2563 [0] (mayAsk PState.single
      MState.startup)) = none) ∧
    (accepted 40 (fromPartner 40 (roundReason 4 0)) leading = true) ∧
    (accepted 40 (fromPartner 40 (roundReason 4 0)) (paired id) = true) ∧
    (accepted 41 (fromPartner 41 (roundReason 4 0)) (joining myJoin) = true ∧ (joining myJoin).twin.join = some myJoin ∧
      myJoin.mine = true ∧ myJoin.acked = false ∧ myJoin.roundP = BitVec.toNat (wordAt (msgBody (frameMessage (fromPartner
      41 (roundReason 4 0)))) 0)) ∧
    (accepted 41 (fromPartner 41 (roundReason 4 3)) (joining myJoin) = true ∧ (joining myJoin).twin.join = some myJoin ∧
      myJoin.mine = true ∧ myJoin.acked = false ∧ myJoin.roundP = BitVec.toNat (wordAt (msgBody (frameMessage (fromPartner
      41 (roundReason 4 3)))) 0)) ∧
    ((joining myJoin).runs = true ∧ (joining myJoin).twin.join = some myJoin ∧ myJoin.mine = true ∧ myJoin.acked = false) ∧
    ((joining triedJoin).runs = true ∧ (joining triedJoin).twin.join = some triedJoin ∧ 50 ≤ triedJoin.tries) ∧
    ((streaming servingJoin).runs = true ∧ (streaming servingJoin).twin.join = some servingJoin ∧ servingJoin.mine = false
      ∧ servingJoin.acked = true ∧ linkUsable (streaming servingJoin) = true ∧ servingJoin.ackRound < (streaming
      servingJoin).floe.round ∧ servingJoin.entryRound = none ∧ servingJoin.cur = some (80, 0)) ∧
    ((streaming nextJoin).runs = true ∧ (streaming nextJoin).twin.join = some nextJoin ∧ nextJoin.mine = false ∧
      nextJoin.acked = true ∧ linkUsable (streaming nextJoin) = true ∧ nextJoin.ackRound < (streaming nextJoin).floe.round
      ∧ nextJoin.entryRound = none ∧ nextJoin.cur = none ∧ nextJoin.unsent = [81, 82]) ∧
    ((streaming againJoin).runs = true ∧ (streaming againJoin).twin.join = some againJoin ∧ againJoin.mine = false ∧
      againJoin.acked = true ∧ linkUsable (streaming againJoin) = true ∧ againJoin.ackRound < (streaming
      againJoin).floe.round ∧ againJoin.entryRound = none ∧ againJoin.cur = none ∧ againJoin.unsent = [] ∧
      againJoin.marked = [81]) ∧
    (accepted 44 (fromPartner 44 (roundReason 0 5)) (joining myJoin) = true) ∧
    ((joining fedJoin).twin.join = some fedJoin ∧ fedJoin.mine = true ∧ fedJoin.acked = true ∧ accepted 42 (quarterOf 80)
      (joining fedJoin) = true) ∧
    ((joining fedJoin).twin.join = some fedJoin ∧ fedJoin.mine = true ∧ fedJoin.acked = true ∧ accepted 42 (quarterOf
      2128) (joining fedJoin) = true) ∧
    ((joining fedJoin).twin.join = some fedJoin ∧ fedJoin.mine = true ∧ fedJoin.acked = true ∧ accepted 42 (quarterOf 20)
      (joining fedJoin) = true) ∧
    ((joining fedJoin).twin.join = some fedJoin ∧ fedJoin.mine = true ∧ fedJoin.acked = true ∧ accepted 43 (fromPartner 43
      (wordsBytes [14, 0, 1, 2])) (joining fedJoin) = true) := by
  and_intros <;> first
    | with_reducible apply accepted_ethFrame <;> decide +kernel
    | with_reducible refine joinReason_none (partner_has_bank _ _) ?_; decide +kernel
    | with_reducible refine joinReason_none (partner_has_bank' _ _ _ _) ?_; decide +kernel
    | decide +kernel

theorem witness_PairAgreesAndCompares :
    (accepted 16 (fromPartner 16 (wordsBytes [0, 3, 0, 5])) (inPair (signed true) true) = true ∧ (inPair (signed true)
      true).run (fld (wordAt (msgBody (frameMessage (fromPartner 16 (wordsBytes [0, 3, 0, 5])))) 0) 2 0) = some (signed
      true) ∧ (signed true).relRound = BitVec.toNat (wordAt (msgBody (frameMessage (fromPartner 16 (wordsBytes [0, 3, 0,
      5])))) 1) ∧ (signed true).peerSig = none) ∧
    (accepted 16 (fromPartner 16 (wordsBytes [0x80000000, 3, 0, 5])) (inPair (signed false) false) = true ∧ (inPair
      (signed false) false).run (fld (wordAt (msgBody (frameMessage (fromPartner 16 (wordsBytes [0x80000000, 3, 0, 5]))))
      0) 2 0) = some (signed false) ∧ (signed false).relRound = BitVec.toNat (wordAt (msgBody (frameMessage (fromPartner
      16 (wordsBytes [0x80000000, 3, 0, 5])))) 1) ∧ (signed false).peerSig = none) ∧
    (accepted 16 (fromPartner 16 (wordsBytes [0x80000000, 3, 0, 6])) (inPair (signed false) false) = true ∧ (inPair
      (signed false) false).run (fld (wordAt (msgBody (frameMessage (fromPartner 16 (wordsBytes [0x80000000, 3, 0, 6]))))
      0) 2 0) = some (signed false) ∧ (signed false).relRound = BitVec.toNat (wordAt (msgBody (frameMessage (fromPartner
      16 (wordsBytes [0x80000000, 3, 0, 6])))) 1) ∧ (signed false).peerSig = none) ∧
    (accepted 16 (fromPartner 16 (wordsBytes [0, 3, 0, 5])) (inPair (signed false) false) = true ∧ (inPair (signed false)
      false).run (fld (wordAt (msgBody (frameMessage (fromPartner 16 (wordsBytes [0, 3, 0, 5])))) 0) 2 0) = some (signed
      false) ∧ (signed false).relRound = BitVec.toNat (wordAt (msgBody (frameMessage (fromPartner 16 (wordsBytes [0, 3, 0,
      5])))) 1) ∧ (signed false).peerSig = none) ∧
    (accepted 16 (twinEth (messageOf 1 16 (wordsBytes [0, 3, 0, 5]))) (twinB (inPair (signed false) false)) = true ∧
      (twinB (inPair (signed false) false)).run (fld (wordAt (msgBody (frameMessage (twinEth (messageOf 1 16 (wordsBytes
      [0, 3, 0, 5]))))) 0) 2 0) = some (signed false) ∧ (signed false).relRound = BitVec.toNat (wordAt (msgBody
      (frameMessage (twinEth (messageOf 1 16 (wordsBytes [0, 3, 0, 5]))))) 1) ∧ (signed false).peerSig = none) ∧
    (accepted 17 (fromPartner 17 (wordsBytes [0, 3, 0, 4, 0x1020304])) (inPair told false) = true ∧ (inPair told
      false).run (fld (wordAt (msgBody (frameMessage (fromPartner 17 (wordsBytes [0, 3, 0, 4, 0x1020304])))) 0) 2 0) =
      some told ∧ (inPair told false).twin.ps = PState.paired ∧ (inPair told false).isLeader = false ∧ told.agreed = false
      ∧ told.unagreed = false ∧ told.relRound = BitVec.toNat (wordAt (msgBody (frameMessage (fromPartner 17 (wordsBytes
      [0, 3, 0, 4, 0x1020304])))) 1) ∧ BitVec.toNat (wordAt (msgBody (frameMessage (fromPartner 17 (wordsBytes [0, 3, 0,
      4, 0x1020304])))) 2) = told.adopted.length) ∧
    (accepted 17 (fromPartner 17 (wordsBytes [0, 3, 0, 8, 0x1020304])) (inPair told false) = true ∧ (inPair told
      false).run (fld (wordAt (msgBody (frameMessage (fromPartner 17 (wordsBytes [0, 3, 0, 8, 0x1020304])))) 0) 2 0) =
      some told ∧ (inPair told false).twin.ps = PState.paired ∧ (inPair told false).isLeader = false ∧ told.agreed = false
      ∧ told.unagreed = false ∧ told.relRound = BitVec.toNat (wordAt (msgBody (frameMessage (fromPartner 17 (wordsBytes
      [0, 3, 0, 8, 0x1020304])))) 1) ∧ BitVec.toNat (wordAt (msgBody (frameMessage (fromPartner 17 (wordsBytes [0, 3, 0,
      8, 0x1020304])))) 2) = told.adopted.length) ∧
    ((inPair (signed true) true).runs = true ∧ (inPair (signed true) true).twin.ps = PState.paired ∧ (inPair (signed true)
      true).run ↑0 = some (signed true) ∧ (signed true).inSig.isSome = true ∧ (signed true).agreed = false ∧ (signed
      true).unagreed = false) ∧
    ((inPair (signed false) false).runs = true ∧ (inPair (signed false) false).twin.ps = PState.paired ∧ (inPair (signed
      false) false).run ↑0 = some (signed false) ∧ (signed false).inSig.isSome = true ∧ (signed false).agreed = false ∧
      (signed false).unagreed = false) ∧
    (accepted 18 (fromPartner 18 (wordsBytes [0, 3, 0, 1, 0, 2])) (compared false) = true ∧ (compared false).twin.ps =
      PState.paired ∧ ((compared false).task (fld (wordAt (msgBody (frameMessage (fromPartner 18 (wordsBytes [0, 3, 0, 1,
      0, 2])))) 0) 2 0)).ownCmp = some (3, false, 1, 2, 0) ∧ (3, false, 1, 2, 0).fst = (BitVec.toNat (wordAt (msgBody
      (frameMessage (fromPartner 18 (wordsBytes [0, 3, 0, 1, 0, 2])))) 1), tst (wordAt (msgBody (frameMessage (fromPartner
      18 (wordsBytes [0, 3, 0, 1, 0, 2])))) 0) 31, dwordAt (msgBody (frameMessage (fromPartner 18 (wordsBytes [0, 3, 0, 1,
      0, 2])))) 2, dwordAt (msgBody (frameMessage (fromPartner 18 (wordsBytes [0, 3, 0, 1, 0, 2])))) 4).fst) ∧
    (accepted 18 (fromPartner 18 (wordsBytes [0, 3, 0, 1, 0, 7])) (compared false) = true ∧ (compared false).twin.ps =
      PState.paired ∧ ((compared false).task (fld (wordAt (msgBody (frameMessage (fromPartner 18 (wordsBytes [0, 3, 0, 1,
      0, 7])))) 0) 2 0)).ownCmp = some (3, false, 1, 2, 0) ∧ (3, false, 1, 2, 0).fst = (BitVec.toNat (wordAt (msgBody
      (frameMessage (fromPartner 18 (wordsBytes [0, 3, 0, 1, 0, 7])))) 1), tst (wordAt (msgBody (frameMessage (fromPartner
      18 (wordsBytes [0, 3, 0, 1, 0, 7])))) 0) 31, dwordAt (msgBody (frameMessage (fromPartner 18 (wordsBytes [0, 3, 0, 1,
      0, 7])))) 2, dwordAt (msgBody (frameMessage (fromPartner 18 (wordsBytes [0, 3, 0, 1, 0, 7])))) 4).fst) ∧
    (accepted 18 (fromPartner 18 (wordsBytes [0, 3, 0, 1, 0, 7])) (compared true) = true ∧ (compared true).twin.ps =
      PState.paired ∧ ((compared true).task (fld (wordAt (msgBody (frameMessage (fromPartner 18 (wordsBytes [0, 3, 0, 1,
      0, 7])))) 0) 2 0)).ownCmp = some (3, false, 1, 2, 0) ∧ (3, false, 1, 2, 0).fst = (BitVec.toNat (wordAt (msgBody
      (frameMessage (fromPartner 18 (wordsBytes [0, 3, 0, 1, 0, 7])))) 1), tst (wordAt (msgBody (frameMessage (fromPartner
      18 (wordsBytes [0, 3, 0, 1, 0, 7])))) 0) 31, dwordAt (msgBody (frameMessage (fromPartner 18 (wordsBytes [0, 3, 0, 1,
      0, 7])))) 2, dwordAt (msgBody (frameMessage (fromPartner 18 (wordsBytes [0, 3, 0, 1, 0, 7])))) 4).fst) ∧
    (accepted 19 (fromPartner 19 (wordsBytes [0x1000000, 3, 0, 9])) (signedSt false) = true ∧ (signedSt false).twin.ps =
      PState.paired ∧ (signedSt false).twin.ownSt = some (1, 0, 3, 9) ∧ fld (wordAt (msgBody (frameMessage (fromPartner 19
      (wordsBytes [0x1000000, 3, 0, 9])))) 0) 31 24 = (1 : Word).toNat ∧ fld (wordAt (msgBody (frameMessage (fromPartner
      19 (wordsBytes [0x1000000, 3, 0, 9])))) 0) 23 16 = (0 : Word).toNat ∧ wordAt (msgBody (frameMessage (fromPartner 19
      (wordsBytes [0x1000000, 3, 0, 9])))) 1 = 3) ∧
    (accepted 19 (fromPartner 19 (wordsBytes [0x1000000, 3, 0, 8])) (signedSt false) = true ∧ (signedSt false).twin.ps =
      PState.paired ∧ (signedSt false).twin.ownSt = some (1, 0, 3, 9) ∧ fld (wordAt (msgBody (frameMessage (fromPartner 19
      (wordsBytes [0x1000000, 3, 0, 8])))) 0) 31 24 = (1 : Word).toNat ∧ fld (wordAt (msgBody (frameMessage (fromPartner
      19 (wordsBytes [0x1000000, 3, 0, 8])))) 0) 23 16 = (0 : Word).toNat ∧ wordAt (msgBody (frameMessage (fromPartner 19
      (wordsBytes [0x1000000, 3, 0, 8])))) 1 = 3) := by
  and_intros <;> first
    | with_reducible apply accepted_ethFrame <;> decide +kernel
    | decide +kernel

theorem witness_ActivationOverTheLink :
    (accepted 2 (fromPartner 2 (wordsBytes [4, 0, 0, 0, 0, 0])) (validStandby (paired id)) = true ∧ (validStandby (paired
      id)).twin.ps = PState.paired ∧ (validStandby (paired id)).isLeader = true ∧ activationRefusal (bodyLit (msgBody
      (frameMessage (fromPartner 2 (wordsBytes [4, 0, 0, 0, 0, 0]))))) (bodyDesc (msgBody (frameMessage (fromPartner 2
      (wordsBytes [4, 0, 0, 0, 0, 0]))))) (validStandby (paired id)) = none) ∧
    (accepted 3 (fromPartner 3 (wordsBytes [4, 0, 0, 0, 0, 0])) followerValid = true ∧ followerValid.twin.ps =
      PState.paired ∧ followerValid.isLeader = false ∧ wordAt (msgBody (frameMessage (fromPartner 3 (wordsBytes [4, 0, 0,
      0, 0, 0])))) 1 = 0 ∧ (∀ (a : Activation), followerValid.prog.sched = some a → a.confirmed = false) ∧
      activationRefusal 0 0 { followerValid with prog := { followerValid.prog with sched := none } } = none) ∧
    (accepted 4 (fromPartner 4 (wordsBytes [4, 0, 0, 0, 0, 0])) askedA = true ∧ askedA.prog.sched = some proposedA ∧
      proposedA.confirmed = false ∧ proposedA.roundA = BitVec.toNat (wordAt (msgBody (frameMessage (fromPartner 4
      (wordsBytes [4, 0, 0, 0, 0, 0])))) 0) ∧ wordAt (msgBody (frameMessage (fromPartner 4 (wordsBytes [4, 0, 0, 0, 0,
      0])))) 1 = 0) := by
  and_intros <;> first
    | with_reducible apply accepted_ethFrame <;> decide +kernel
    | decide +kernel

theorem witness_ServiceIsEnteredOnce :
    (conditionsMet.eff ≠ MState.service ∧ exec Instr.serviceEntry conditionsMet = .next (afterOf (exec Instr.serviceEntry
      conditionsMet) starting) ∧ (afterOf (exec Instr.serviceEntry conditionsMet) starting).eff = MState.service) := by
  and_intros <;> first
    | with_reducible apply next_afterOf; decide +kernel
    | decide +kernel

theorem witness_InputsAreClassified :
    (serving.runs = true ∧ bistRuns serving = false) := by decide +kernel

theorem witness_SamplesAreTaken :
    (serving.runs = true) ∧
    ((losing 5 serving).runs = true ∧ quenchState (losing 5 serving) = true ∧ voteLost 5 (losing 5 serving) = true) ∧
    (serving.runs = true ∧ quenchState serving = true ∧ voteLost 5 serving = false) := by decide +kernel

theorem witness_OutputsFaultAndGuard :
    ((longAgo driving).runs = true ∧ energised (↑0) (longAgo driving) = true ∧ outPulseEn (↑0) (longAgo driving) = true ∧
      ((longAgo driving).io.out ↑0).cmdCyc + 0x3D090 ≤ (longAgo driving).cyc) ∧
    (pulsing.runs = true ∧ (pulsing.io.out ↑0).pulse = true ∧ (fellOutputs (↑0) 0 (State.updOut (↑0) (fun o =>
      { o with pulse := false }) pulsing) = [])) ∧
    (pulsingTwo.runs = true ∧ (pulsingTwo.io.out ↑0).pulse = true ∧ (1 ∈ fellOutputs (↑0) 2 (State.updOut (↑0) (fun o =>
      { o with pulse := false }) pulsingTwo)) ∧ noneUnacked pulsingTwo = true ∧ quietSource (31 + groupOf ↑0) pulsingTwo =
      true) ∧
    (pulsingTwo.runs = true ∧ (pulsingTwo.io.out ↑0).pulse = true ∧ (8 ∈ fellOutputs (↑0) 256 (State.updOut (↑0) (fun o =>
      { o with pulse := false }) pulsingTwo)) ∧ noneUnacked pulsingTwo = true ∧ quietSource (31 + groupOf ↑0) pulsingTwo =
      true) ∧
    (discriminating.runs = true ∧ discriminating.disc (↑0 + 1) = some 0 ∧ noneUnacked discriminating = true ∧ quietSource
      (32 + ↑0) discriminating = true) ∧
    (discriminatingBoth.runs = true ∧ discriminatingBoth.disc (↑0 + 1) = some 0 ∧ noneUnacked discriminatingBoth = true ∧
      quietSource (32 + ↑0) discriminatingBoth = true) ∧
    (driving.runs = true ∧ (driving.io.out ↑0).ovl = false) ∧
    (latchedOff.runs = true ∧ (latchedOff.io.out ↑0).ovl = true ∧ commandOf (↑0) latchedOff = false ∧ (latchedOff.io.out
      ↑0).command = false ∧ (latchedOff.io.out ↑0).cmdCyc + 0x7735940 ≤ latchedOff.cyc) ∧
    (driving.runs = true ∧ tst (ioOut driving.io.live ↑0) 27 = true ∧ energised (↑0) driving = true ∧ (driving.io.out
      ↑0).openLd = false) ∧
    (driving.runs = true ∧ feedbackDiffers (↑0) driving = true ∧ noneUnacked driving = true ∧ quietSource (33 + groupOf
      ↑0) driving = true) ∧
    (almostArmed.mstate ≠ MState.off ∧ 500 ≤ 500 ∧ 500 ≤ 2000) ∧
    (starting.mstate ≠ MState.off ∧ 500 ≤ 2000 ∧ 2000 ≤ 2000) ∧
    (starting.mstate ≠ MState.off ∧ 2000 < 2001) ∧
    (armedGuard.mstate ≠ MState.off ∧ (Instr.guardTimeout = Instr.guardHbEqual ∨ Instr.guardTimeout = Instr.guardTimeout ∨
      ∃ us, us < 500 ∧ Instr.guardTimeout = Instr.guardBeat us)) ∧
    (almostArmed.mstate ≠ MState.off ∧ (Instr.guardHbEqual = Instr.guardHbEqual ∨ Instr.guardHbEqual = Instr.guardTimeout
      ∨ ∃ us, us < 500 ∧ Instr.guardHbEqual = Instr.guardBeat us)) ∧
    (dormantGuard.mstate ≠ MState.off ∧ (Instr.guardBeat 499 = Instr.guardHbEqual ∨ Instr.guardBeat 499 =
      Instr.guardTimeout ∨ ∃ us, us < 500 ∧ Instr.guardBeat 499 = Instr.guardBeat us)) := by
  and_intros <;> first
    | decide +kernel

theorem witness_FaultsAreDecided :
    (serving.runs = true ∧ 2 ≠ 1 ∧ sourceListed ((32 : Word).toNat) = true ∧ quietSource ((32 : Word).toNat) serving =
      true) ∧
    (serving.runs = true ∧ 3 ≠ 1 ∧ sourceListed ((2 : Word).toNat) = true ∧ quietSource ((2 : Word).toNat) serving = true) ∧
    (faulty.runs = true ∧ 0 ≠ 1 ∧ sourceListed ((48 : Word).toNat) = true ∧ quietSource ((48 : Word).toNat) faulty = true) := by decide +kernel

theorem witness_RecordsAreStored :
    (broken.runs = true ∧ (broken.fcuSource ((32 : Word).toNat)).real ≠ 1 ∧ (broken.fcuSource ((32 : Word).toNat)).force =
      none) ∧
    (inboundOne.runs = true ∧ inboundOne.ice.inbound = [aRecord] ∧ storePlace storedRecord inboundOne.ice.store = some
      [storedRecord] ∧ (aRecord.sev < 2 ∨ inboundOne.ice.nandQueue.length < 2048)) ∧
    (queuedPage.runs = true ∧ pageDue queuedPage = true) ∧
    (armedPoint.mstate ≠ MState.off ∧ armedPoint.mstate ≠ MState.frozen ∧ armedPoint.resetHold = none ∧ tst (vget
      armedPoint.tb.sp SyncPoint.fresh ↑1).cfg 31 = true ∧ pointReached (vget armedPoint.tb.sp SyncPoint.fresh ↑1).cfg
      armedPoint = true) ∧
    (beforePoint.mstate ≠ MState.off ∧ beforePoint.mstate ≠ MState.frozen ∧ beforePoint.resetHold = none ∧ tst (vget
      beforePoint.tb.sp SyncPoint.fresh ↑1).cfg 31 = true ∧ pointReached (vget beforePoint.tb.sp SyncPoint.fresh ↑1).cfg
      beforePoint = false) := by decide +kernel

theorem witness_FactorsAndWordHead :
    (edgeOp.lit.op = 3 ∧ edgeOp.arg = some (litIs 1 0 8)) ∧
    (compareOp.lit.op = 4 ∧ compareOp.arg = some (litIs 1 0 8)) ∧
    ((headIs 9 0 5 (litIs 1 0 8)).head.op = 9 ∧ (headIs 9 0 5 (litIs 1 0 8)).args.head? = some (litIs 1 0 8) ∧ Memory.wf
      startEv.mem = true) := by decide +kernel

theorem witness_TimersFollowTheirTables :
    ((headIs 7 0 5 (litIs 1 0 8)).head.op = 7 ∧ (headIs 7 0 5 (litIs 1 0 8)).args.head? = some (litIs 1 0 8) ∧ Memory.wf
      startEv.mem = true ∧ (evalOf []).warm = false ∧ (headIs 7 0 5 (litIs 1 0 8)).head.idx < 0x40000 ∧ (litIs 1 0 8).idx
      < 0x800000 ∧ BitVec.toNat (elapsedRead startEv.mem (headIs 7 0 5 (litIs 1 0 8)).head.idx) + (evalOf []).delta < 2 ^
      32) := by decide +kernel

theorem witness_ClaimsTakeSetsWhole :
    ((headIs 11 0 0 (litIs 1 0 8)).head.op = 11 ∧ (headIs 11 0 0 (litIs 1 0 8)).args.head? = some (litIs 1 0 8) ∧
      Memory.wf startEv.mem = true ∧ (headIs 11 0 0 (litIs 1 0 8)).head.idx < 0x10000 ∧ (litIs 1 0 8).idx < 0x800000 ∧
      (evalOf claimFile).bank.claimSet (headIs 11 0 0 (litIs 1 0 8)).head.idx ≠ [] ∧ ((evalOf claimFile).bank.claimSet
      (headIs 11 0 0 (litIs 1 0 8)).head.idx).length ≤ 64 ∧ ((evalOf claimFile).bank.claimSet (headIs 11 0 0 (litIs 1 0
      8)).head.idx).Nodup ∧ (∀ (r : Nat), r ∈ (evalOf claimFile).bank.claimSet (headIs 11 0 0 (litIs 1 0 8)).head.idx → r
      < 0x800000) ∧ ((headIs 11 0 0 (litIs 1 0 8)).head.mod < 2 → ¬(litIs 1 0 8).idx ∈ (evalOf claimFile).bank.claimSet
      (headIs 11 0 0 (litIs 1 0 8)).head.idx)) ∧
    ((headIs 11 2 0 (litIs 1 0 10)).head.op = 11 ∧ (headIs 11 2 0 (litIs 1 0 10)).args.head? = some (litIs 1 0 10) ∧
      Memory.wf startEv.mem = true ∧ (headIs 11 2 0 (litIs 1 0 10)).head.idx < 0x10000 ∧ (litIs 1 0 10).idx < 0x800000 ∧
      (evalOf claimFile).bank.claimSet (headIs 11 2 0 (litIs 1 0 10)).head.idx ≠ [] ∧ ((evalOf claimFile).bank.claimSet
      (headIs 11 2 0 (litIs 1 0 10)).head.idx).length ≤ 64 ∧ ((evalOf claimFile).bank.claimSet (headIs 11 2 0 (litIs 1 0
      10)).head.idx).Nodup ∧ (∀ (r : Nat), r ∈ (evalOf claimFile).bank.claimSet (headIs 11 2 0 (litIs 1 0 10)).head.idx →
      r < 0x800000) ∧ ((headIs 11 2 0 (litIs 1 0 10)).head.mod < 2 → ¬(litIs 1 0 10).idx ∈ (evalOf
      claimFile).bank.claimSet (headIs 11 2 0 (litIs 1 0 10)).head.idx)) ∧
    ((headIs 11 1 0 (litIs 1 0 8)).head.op = 11 ∧ (headIs 11 1 0 (litIs 1 0 8)).args.head? = some (litIs 1 0 8) ∧
      Memory.wf startEv.mem = true ∧ (headIs 11 1 0 (litIs 1 0 8)).head.idx < 0x10000 ∧ (litIs 1 0 8).idx < 0x800000 ∧
      (evalOf claimFile).bank.claimSet (headIs 11 1 0 (litIs 1 0 8)).head.idx ≠ [] ∧ ((evalOf claimFile).bank.claimSet
      (headIs 11 1 0 (litIs 1 0 8)).head.idx).length ≤ 64 ∧ ((evalOf claimFile).bank.claimSet (headIs 11 1 0 (litIs 1 0
      8)).head.idx).Nodup ∧ (∀ (r : Nat), r ∈ (evalOf claimFile).bank.claimSet (headIs 11 1 0 (litIs 1 0 8)).head.idx → r
      < 0x800000) ∧ ((headIs 11 1 0 (litIs 1 0 8)).head.mod < 2 → ¬(litIs 1 0 8).idx ∈ (evalOf claimFile).bank.claimSet
      (headIs 11 1 0 (litIs 1 0 8)).head.idx)) := by
  and_intros <;> first
    | decide +kernel

end Sys2Proof.Tests
end

section
/-!
SUPPORT. The process image under committed writes (R35, R52): which bytes a commit of an element touches, what each kind of
element reads back as, and what it leaves as it was.
-/
namespace Sys2Proof.Proofs
open Sys2Proof.Machine

/-! ### The bytes of an element -/

/-- Bytes of the image that an element of a kind takes part in, from `elAddr` on (R34, R35). -/
def elSize : ElKind → Nat
  | .boolean | .timer | .cstate | .edge => 1
  | .word | .elapsed | .counter => 4
  | .mask => 8

/-- A write of any kind leaves the bytes outside its element alone. -/
theorem memRead_elWrite_outside {m : Mem} (w : Memory.wf m = true) (k : ElKind) (i : Nat) (v : Dword) {y : Nat}
    (h : y < elAddr k i ∨ elAddr k i + elSize k ≤ y) : memRead (elWrite k i v m) y = memRead m y := by
  have byte (x : Nat) (b : Byte) (hx : y < x ∨ x + 1 ≤ y) : memRead (memWrite m x b) y = memRead m y := by
    rw [memRead_memWrite w, if_neg (by omega)]
  have bytes (x : Nat) (bs : List Byte) (hx : y < x ∨ x + bs.length ≤ y) :
      memRead (memWriteBytes m x bs) y = memRead m y := memRead_memWriteBytes_outside w x bs y hx
  cases k <;> simp only [elAddr, elSize] at h
  case boolean => exact byte _ _ (by omega)
  case word => exact bytes _ _ (by simpa using h)
  case elapsed => exact bytes _ _ (by simpa using h)
  case timer => exact byte _ _ h
  case counter => exact bytes _ _ (by simpa using h)
  case cstate => exact byte _ _ h
  case edge => exact byte _ _ h
  case mask => exact bytes _ _ (by simpa using h)

theorem memRead_commit_outside {e : Ev} (w : Memory.wf e.mem = true) (k : ElKind) (i : Nat) (v : Dword) {y : Nat}
    (h : y < elAddr k i ∨ elAddr k i + elSize k ≤ y) : memRead (e.commit k i v).mem y = memRead e.mem y :=
  memRead_elWrite_outside w k i v h

theorem memWord_commit_outside {e : Ev} (w : Memory.wf e.mem = true) (k : ElKind) (i : Nat) (v : Dword) {x : Nat}
    (h : x + 4 ≤ elAddr k i ∨ elAddr k i + elSize k ≤ x) : memWord (e.commit k i v).mem x = memWord e.mem x := by
  have r (j : Nat) (hj : j < 4) : memRead (e.commit k i v).mem (x + j) = memRead e.mem (x + j) :=
    memRead_commit_outside w k i v (by omega)
  have r0 : memRead (e.commit k i v).mem x = memRead e.mem x := r 0 (by omega)
  simp [memWord, memHalf, Nat.add_assoc, r0, r 1, r 2, r 3]

/-- The booleans have the addresses below 0x10_0000 to themselves (R34). -/
theorem elAddr_above_booleans {k : ElKind} (hk : k ≠ .boolean) (i : Nat) : 0x100000 ≤ elAddr k i := by
  cases k with
  | boolean => exact absurd rfl hk
  | _ => simp only [elAddr]; omega

/-! ### Words and bits in the values of a commit -/

@[simp] theorem tst_boolVal (b : Bool) : tst (boolVal b) 0 = b := by cases b <;> rfl

theorem tst_zero {n : Nat} (i : Nat) : tst (0 : BitVec n) i = false := BitVec.getLsbD_zero

theorem loWord_setWidth (x : Word) : loWord (x.setWidth 64) = x := by
  apply BitVec.eq_of_toNat_eq
  simp [loWord, x.isLt]

theorem toNat_loWord_ofNat {n : Nat} (h : n < 2 ^ 32) : (loWord (BitVec.ofNat 64 n)).toNat = n := by
  simp only [loWord, BitVec.toNat_ofNat]
  omega

theorem dwordOf_hiWord_loWord (v : Dword) : dwordOf (hiWord v) (loWord v) = v := by
  have hl : loWord v = v.extractLsb' 0 32 := rfl
  have hh : hiWord v = v.extractLsb' 32 32 := rfl
  rw [hl, hh, dwordOf]
  ext i hi
  simp only [BitVec.getElem_append, BitVec.getElem_extractLsb']
  split
  · simp [BitVec.getLsbD_eq_getElem hi]
  · rw [show 32 + (i - 32) = i by omega, BitVec.getLsbD_eq_getElem hi]

theorem dwordBytes_eq_append (v : Dword) : dwordBytes v = wordBytes (hiWord v) ++ wordBytes (loWord v) := by
  have hi : (hiWord v).toNat = v.toNat / 2 ^ 32 := by
    simp only [hiWord, BitVec.toNat_ofNat, Nat.shiftRight_eq_div_pow]
    omega
  have lo : (loWord v).toNat = v.toNat % 2 ^ 32 := BitVec.toNat_ofNat _ _
  simp only [dwordBytes, wordBytes, beBytes, hi, lo, List.cons_append, List.nil_append, Nat.shiftRight_eq_div_pow,
    Nat.reduceMul, Nat.reducePow, List.cons.injEq, ← BitVec.toNat_inj, BitVec.toNat_ofNat, and_true]
  omega

theorem memWriteBytes_append (m : Mem) (x : Nat) (as bs : List Byte) :
    memWriteBytes m x (as ++ bs) = memWriteBytes (memWriteBytes m x as) (x + as.length) bs := by
  induction as generalizing m x with
  | nil => rfl
  | cons a as ih => simp [memWriteBytes, ih, Nat.add_assoc, Nat.add_comm 1]

/-! ### What an element reads back as -/

section
variable {e : Ev} (w : Memory.wf e.mem = true)
include w

theorem boolRead_commit_boolean (i j : Nat) (v : Dword) :
    boolRead (e.commit .boolean i v).mem j = if i = j then tst v 0 else boolRead e.mem j :=
  bitRead_bitWrite w 0 i j _

theorem edgeRead_commit_edge (i j : Nat) (v : Dword) :
    edgeRead (e.commit .edge i v).mem j = if i = j then tst v 0 else edgeRead e.mem j :=
  bitRead_bitWrite w 0x6E0000 i j _

theorem wordRead_commit_word (i : Nat) (v : Dword) : wordRead (e.commit .word i v).mem i = loWord v :=
  memWord_memWriteWord w _ _

theorem elapsedRead_commit_elapsed (i : Nat) (v : Dword) : elapsedRead (e.commit .elapsed i v).mem i = loWord v :=
  memWord_memWriteWord w _ _

theorem timerState_commit_timer (i : Nat) (v : Dword) : timerState (e.commit .timer i v).mem i = v.setWidth 8 := by
  simp only [timerState, Ev.commit, elWrite, memRead_memWrite w, if_true]

theorem maskRead_commit_mask (g : Nat) (v : Dword) : maskRead (e.commit .mask g v).mem g = v := by
  have split : (e.commit .mask g v).mem =
      memWriteWord (memWriteWord e.mem (0x700000 + 8 * g) (hiWord v)) (0x700000 + 8 * g + 4) (loWord v) := by
    simp [Ev.commit, elWrite, dwordBytes_eq_append, memWriteBytes_append, memWriteWord]
  have w1 := memWriteWord_wf (0x700000 + 8 * g) (hiWord v) w
  rw [maskRead, split, memWord_memWriteWord w1, memWord_memWriteWord_other w1 _ _ _ (by omega), memWord_memWriteWord w,
    dwordOf_hiWord_loWord]

/-! ### What a commit of another kind leaves as it was -/

theorem boolRead_commit_other {k : ElKind} (hk : k ≠ .boolean) (i : Nat) (v : Dword) {j : Nat} (hj : j < 8388608) :
    boolRead (e.commit k i v).mem j = boolRead e.mem j := by
  have := elAddr_above_booleans hk i
  simp only [boolRead, bitRead]
  rw [memRead_commit_outside w k i v (by omega)]

theorem elapsedRead_commit_timer (i j : Nat) (v : Dword) (hj : j < 262144) :
    elapsedRead (e.commit .timer i v).mem j = elapsedRead e.mem j :=
  memWord_commit_outside w _ _ _ (by simp only [elAddr]; omega)

theorem elapsedRead_commit_boolean {i : Nat} (hi : i < 8388608) (j : Nat) (v : Dword) :
    elapsedRead (e.commit .boolean i v).mem j = elapsedRead e.mem j :=
  memWord_commit_outside w _ _ _ (by simp only [elAddr, elSize]; omega)

theorem timerState_commit_boolean {i : Nat} (hi : i < 8388608) (j : Nat) (v : Dword) :
    timerState (e.commit .boolean i v).mem j = timerState e.mem j :=
  memRead_commit_outside w _ _ _ (by simp only [elAddr, elSize]; omega)

theorem maskRead_commit_boolean {i : Nat} (hi : i < 8388608) (g : Nat) (v : Dword) :
    maskRead (e.commit .boolean i v).mem g = maskRead e.mem g := by
  simp only [maskRead]
  rw [memWord_commit_outside w _ _ _ (by simp only [elAddr, elSize]; omega),
    memWord_commit_outside w _ _ _ (by simp only [elAddr, elSize]; omega)]

/-! ### The Q boolean of a head (R42) -/

/-- A Q boolean, less its ARG's NEG, reads as the value written. -/
theorem boolRead_commitQ (a : Lit) (q : Bool) : (boolRead (commitQ (some a) q e).mem a.idx != a.neg) = q := by
  rw [commitQ, boolRead_commit_boolean w, if_pos rfl, tst_boolVal]
  cases q <;> cases a.neg <;> rfl

theorem boolRead_commitQ_of_ne {a : Lit} {r : Nat} (h : a.idx ≠ r) (q : Bool) :
    boolRead (commitQ (some a) q e).mem r = boolRead e.mem r := by
  rw [commitQ, boolRead_commit_boolean w, if_neg h]

theorem maskRead_commitQ {a : Lit} (ha : a.idx < 8388608) (q : Bool) (g : Nat) :
    maskRead (commitQ (some a) q e).mem g = maskRead e.mem g :=
  maskRead_commit_boolean w ha g _

end

end Sys2Proof.Proofs
end

section
/-! SUPPORT. EDGE and WCMP factors (R53, R55) and the WORD head (R62): what each says of the image, and O58. -/
namespace Sys2Proof.Proofs
open Sys2Proof.Machine

/-! ### Factors -/

section
variable {c : EvalCtx} {m : Mem} {o : Operand} {a : Lit}

theorem factorValue_edge (ho : o.lit.op = 0x3) (ha : o.arg = some a) : factorValue c m o =
    (edgeFactor o.lit.mod (boolRead m a.idx != a.neg) (edgeRead m o.lit.idx) != o.lit.neg) := by
  simp [factorValue, ho, ha, argBool]

theorem factorValue_wcmp (ho : o.lit.op = 0x4) (ha : o.arg = some a) : factorValue c m o =
    (wordRelation o.lit.mod (wordRead m o.lit.idx) (wordRead m a.idx) != o.lit.neg) := by
  simp [factorValue, ho, ha]

theorem edgeRead_commitEdges_single {e : Ev} (w : Memory.wf e.mem = true) (m : Mem) (ha : o.arg = some a) :
    edgeRead (commitEdges m [o] e).mem o.lit.idx = (boolRead m a.idx != a.neg) := by
  have one : commitEdges m [o] e = e.commit .edge o.lit.idx (boolVal (argBool m o.arg)) := rfl
  rw [one, edgeRead_commit_edge w, if_pos rfl, tst_boolVal, ha]
  rfl

end

/-- A value inverted by NEG is 1 exactly when the value agrees with NEG being 0. -/
theorem bne_neg_iff (b n : Bool) (p : Prop) (h : b = true ↔ p) : (b != n) = true ↔ (p ↔ n = false) := by
  rw [← h]
  cases b <;> cases n <;> simp

/-- The relations of R55, by the low three bits of MOD. -/
theorem wordRelation_iff (rel : Nat) (x y : Word) :
    (rel % 8 = 0 → (wordRelation rel x y = true ↔ x = y)) ∧
    (rel % 8 = 1 → (wordRelation rel x y = true ↔ x.toNat < y.toNat)) ∧
    (rel % 8 = 2 → (wordRelation rel x y = true ↔ x.toNat ≤ y.toNat)) ∧
    (rel % 8 = 3 → (wordRelation rel x y = true ↔ x.toInt < y.toInt)) ∧
    (rel % 8 = 4 → (wordRelation rel x y = true ↔ x.toInt ≤ y.toInt)) ∧
    (rel % 8 = 5 → (wordRelation rel x y = true ↔ x &&& y ≠ 0)) := by
  refine ⟨?_, ?_, ?_, ?_, ?_, ?_⟩ <;> intro h <;>
    simp [wordRelation, h, BitVec.ult, BitVec.ule, BitVec.slt, BitVec.sle]

/-! ### The WORD head -/

section
variable {c : EvalCtx} {q : Equation} {a : Lit} {e : Ev} (s2 s3 : Bool)

theorem headStep_word (ho : q.head.op = 0x9) (ha : q.args.head? = some a) : headStep c q true s2 s3 e =
    e.commit .word q.head.idx
      ((wordResult q.head.mod (wordRead e.mem q.head.idx) (wordRead e.mem a.idx)).setWidth 64) := by
  simp [headStep, ho, ha]

theorem headStep_word_unguarded (ho : q.head.op = 0x9) : headStep c q false s2 s3 e = e := by
  simp [headStep, ho]

theorem wordRead_headStep_word (w : Memory.wf e.mem = true) (ho : q.head.op = 0x9) (ha : q.args.head? = some a) :
    wordRead (headStep c q true s2 s3 e).mem q.head.idx =
      wordResult q.head.mod (wordRead e.mem q.head.idx) (wordRead e.mem a.idx) := by
  rw [headStep_word s2 s3 ho ha, wordRead_commit_word w, loWord_setWidth]

end

/-- The new value of a WORD target, by MOD (R62). -/
theorem wordResult_eq (op : Nat) (t s : Word) :
    (op = 0 → wordResult op t s = s) ∧
    (op = 1 → (wordResult op t s).toNat = (t.toNat + s.toNat) % 2 ^ 32) ∧
    (op = 2 → ((wordResult op t s).toNat : Int) = ((t.toNat : Int) - s.toNat) % 2 ^ 32) ∧
    (op = 3 → wordResult op t s = t &&& s) ∧ (op = 4 → wordResult op t s = t ||| s) ∧
    (op = 5 → wordResult op t s = t ^^^ s) := by
  refine ⟨?copy, ?add, ?sub, ?and, ?or, ?xor⟩ <;> rintro rfl
  case add => exact BitVec.toNat_add t s
  case sub =>
    have := s.isLt
    simp only [wordResult, BitVec.toNat_sub]
    omega
  all_goals rfl

/-- Settles O58: the factors by their kind and relation, the detector's memory by the commit, WORD by its MOD. -/
theorem factorsAndWordHead : Obligations.FactorsAndWordHead := by
  refine ⟨?edge, ?wcmp, ?word⟩
  case edge =>
    intro c m o a ho ha source before
    rw [factorValue_edge ho ha]
    refine ⟨?_, ?_, ?_, fun e w => edgeRead_commitEdges_single w m ha⟩ <;> intro h <;> simp [edgeFactor, h, source, before]
  case wcmp =>
    intro c m o b ho hb x y holds
    have value (p : Prop) (h : wordRelation o.lit.mod x y = true ↔ p) : holds p := by
      simp only [holds, factorValue_wcmp ho hb]
      exact bne_neg_iff _ _ _ h
    obtain ⟨eq, ult, ule, slt, sle, mask⟩ := wordRelation_iff o.lit.mod x y
    exact ⟨fun h => value _ (eq h), fun h => value _ (ult h), fun h => value _ (ule h), fun h => value _ (slt h),
      fun h => value _ (sle h), fun h => value _ (mask h)⟩
  case word =>
    intro c q a s2 s3 e ho ha w x before after
    have result : after = wordResult q.head.mod before x := wordRead_headStep_word s2 s3 w ho ha
    obtain ⟨copy, add, sub, and, or, xor⟩ := wordResult_eq q.head.mod before x
    rw [result]
    refine ⟨copy, add, sub, and, or, xor, fun i hi => ?_, headStep_word_unguarded s2 s3 ho⟩
    rw [headStep_word s2 s3 ho ha]
    exact memRead_commit_outside w .word q.head.idx _ hi

end Sys2Proof.Proofs
end

section
/-! SUPPORT. TIMER heads (R58, R59): the rows of the three kinds, what the head leaves in the image, and O59. -/
namespace Sys2Proof.Proofs
open Sys2Proof.Machine

/-! ### The rows of R59, with the completion test "if elapsed ≥ p" decided -/

section
variable {t u : TimerVal} {el p d : Nat} {doneAt : Bool}

theorem timerReach_of_le (h : p ≤ el) :
    timerReach t el p doneAt = { t with run := false, done := doneAt, elapsed := el } := if_pos h

theorem timerReach_of_lt (h : el < p) : timerReach t el p doneAt = { t with run := true, elapsed := el } :=
  if_neg (by omega)

theorem with_done_eq {b : Bool} (h : t.done = b) : { t with done := b } = t := by rw [← h]

theorem ton_off : timerStep 0 t false p d false = ⟨false, false, false, 0, false⟩ := by
  simp [timerStep, tonStep]

theorem ton_done (hd : t.done = true) : timerStep 0 t true p d false = ⟨t.run, true, false, t.elapsed, true⟩ := by
  simp [timerStep, tonStep, hd]

theorem ton_running (hd : t.done = false) (hr : t.run = true)
    (hu : timerReach { t with done := false } (t.elapsed + d) p true = u) :
    timerStep 0 t true p d false = ⟨u.run, u.done, false, u.elapsed, u.done⟩ := by
  rw [with_done_eq hd] at hu
  simp [timerStep, tonStep, timerGain, hd, hr, hu]

theorem ton_starts (hd : t.done = false) (hr : t.run = false)
    (hu : timerReach { t with done := false } 0 p true = u) :
    timerStep 0 t true p d false = ⟨u.run, u.done, false, u.elapsed, u.done⟩ := by
  rw [with_done_eq hd] at hu
  simp [timerStep, tonStep, hd, hr, hu]

theorem tof_on : timerStep 1 t true p d false = ⟨false, true, false, 0, true⟩ := by
  simp [timerStep, tofStep]

theorem tof_running (hr : t.run = true) (hu : timerReach t (t.elapsed + d) p false = u) :
    timerStep 1 t false p d false = ⟨u.run, u.done, false, u.elapsed, u.done⟩ := by
  simp [timerStep, tofStep, timerGain, hr, hu]

theorem tof_starts (hr : t.run = false) (hd : t.done = true)
    (hu : timerReach { t with done := true } 0 p false = u) :
    timerStep 1 t false p d false = ⟨u.run, u.done, false, u.elapsed, u.done⟩ := by
  rw [with_done_eq hd] at hu
  simp [timerStep, tofStep, hd, hr, hu]

theorem tof_idle (hr : t.run = false) (hd : t.done = false) :
    timerStep 1 t false p d false = ⟨false, false, false, t.elapsed, false⟩ := by
  simp [timerStep, tofStep, hr, hd]

theorem tp_running (inn : Bool) (hr : t.run = true) (hu : timerReach t (t.elapsed + d) p true = u) :
    timerStep 2 t inn p d false = ⟨u.run, u.done, inn, u.elapsed, u.run⟩ := by
  simp [timerStep, tpStep, timerGain, hr, hu]

theorem tp_starts (hr : t.run = false) (hp : t.prev = false)
    (hu : timerReach { t with done := false } 0 p true = u) :
    timerStep 2 t true p d false = ⟨u.run, u.done, true, u.elapsed, u.run⟩ := by
  subst hu
  simp [timerStep, tpStep, hr, hp]

theorem tp_held (hr : t.run = false) (hp : t.prev = true) :
    timerStep 2 t true p d false = ⟨false, t.done, true, t.elapsed, false⟩ := by
  simp [timerStep, tpStep, hr, hp]

theorem tp_idle (hr : t.run = false) : timerStep 2 t false p d false = ⟨false, false, false, t.elapsed, false⟩ := by
  simp [timerStep, tpStep, hr]

end

/-! ### What a TIMER head leaves in the image -/

/-- Timer i and the Q boolean of an ARG read in an image as a timer value. -/
def timerReads (m : Mem) (i : Nat) (a : Lit) (t : TimerVal) : Prop :=
  timerState m i = t.byte ∧ (elapsedRead m i).toNat = t.elapsed ∧ (boolRead m a.idx != a.neg) = t.q

section
variable {c : EvalCtx} {q : Equation} {a : Lit} {inn : Bool} {e : Ev}

theorem headStep_timer (s2 s3 : Bool) (ho : q.head.op = 0x7) (ha : q.args.head? = some a) :
    let t := timerStep q.head.mod (timerOf e.mem q.head.idx) inn (c.bank.timerPreset q.head.idx) c.delta c.warm
    headStep c q inn s2 s3 e = commitQ (some a) t.q
      ((e.commit .elapsed q.head.idx (BitVec.ofNat 64 (t.elapsed % 2 ^ 32))).commit .timer q.head.idx
        (t.byte.setWidth 64)) := by
  simp only [headStep, ho, ha]

/-- The elapsed value, the state byte and Q are read back; the three lie apart in the image. -/
theorem timerReads_headStep (s2 s3 : Bool) (ho : q.head.op = 0x7) (ha : q.args.head? = some a)
    (w : Memory.wf e.mem = true) (hi : q.head.idx < 262144) (hq : a.idx < 8388608) {t : TimerVal}
    (ht : timerStep q.head.mod (timerOf e.mem q.head.idx) inn (c.bank.timerPreset q.head.idx) c.delta c.warm = t)
    (hl : t.elapsed < 2 ^ 32) : timerReads (headStep c q inn s2 s3 e).mem q.head.idx a t := by
  have w1 := commit_wf .elapsed q.head.idx (BitVec.ofNat 64 (t.elapsed % 2 ^ 32)) w
  have w2 := commit_wf .timer q.head.idx (t.byte.setWidth 64) w1
  rw [headStep_timer s2 s3 ho ha, ht]
  refine ⟨?state, ?elapsed, boolRead_commitQ w2 a t.q⟩
  case state =>
    rw [commitQ, timerState_commit_boolean w2 hq, timerState_commit_timer w1]
    simp
  case elapsed =>
    rw [commitQ, elapsedRead_commit_boolean w2 hq, elapsedRead_commit_timer w1 _ _ _ hi, elapsedRead_commit_elapsed w,
      Nat.mod_eq_of_lt hl, toNat_loWord_ofNat hl]

end

/-- Settles O59: each clause is its row of R59, read back from the image. -/
theorem timersFollowTheirTables : Obligations.TimersFollowTheirTables := by
  intro c q a inn s2 s3 e ho ha w hw hi hq i m after p sum reads run done prev el hsum
  have hel : el < 2 ^ 32 := (elapsedRead m i).isLt
  have h0 : 0 < 2 ^ 32 := by decide
  have row {k : Nat} (hk : q.head.mod = k) {t : TimerVal} (hl : t.elapsed < 2 ^ 32)
      (ht : timerStep k (timerOf m i) inn p c.delta false = t) : reads t.run t.done t.prev t.elapsed t.q :=
    timerReads_headStep s2 s3 ho ha w hi hq (by rw [hk, hw]; exact ht) hl
  refine ⟨fun hk => ?ton, fun hk => ?tof, fun hk => ?tp⟩
  case ton =>
    refine ⟨?off, ?stays, ?completes, ?runs, ?startsDone, ?starts⟩
    case off => rintro rfl; exact row hk h0 ton_off
    case stays => rintro rfl hd; exact row hk hel (ton_done hd)
    case completes => rintro rfl hd hr hp; exact row hk hsum (ton_running hd hr (timerReach_of_le hp))
    case runs => rintro rfl hd hr hp; exact row hk hsum (ton_running hd hr (timerReach_of_lt hp))
    case startsDone => rintro rfl hd hr hp; exact row hk h0 (ton_starts hd hr (timerReach_of_le hp.le))
    case starts => rintro rfl hd hr hp; exact row hk h0 (ton_starts hd hr (timerReach_of_lt hp))
  case tof =>
    refine ⟨?on, ?completes, ?runs, ?startsDone, ?starts, ?idle⟩
    case on => rintro rfl; exact row hk h0 tof_on
    case completes => rintro rfl hr hp; exact row hk hsum (tof_running hr (timerReach_of_le hp))
    case runs => rintro rfl hr hp; exact row hk hsum (tof_running hr (timerReach_of_lt hp))
    case startsDone => rintro rfl hr hd hp; exact row hk h0 (tof_starts hr hd (timerReach_of_le hp.le))
    case starts => rintro rfl hr hd hp; exact row hk h0 (tof_starts hr hd (timerReach_of_lt hp))
    case idle => rintro rfl hr hd; exact row hk hel (tof_idle hr hd)
  case tp =>
    refine ⟨?completes, ?runs, ?startsDone, ?starts, ?held, ?idle⟩
    case completes => intro hr hp; exact row hk hsum (tp_running inn hr (timerReach_of_le hp))
    case runs => intro hr hp; exact row hk hsum (tp_running inn hr (timerReach_of_lt hp))
    case startsDone => rintro rfl hr hv hp; exact row hk h0 (tp_starts hr hv (timerReach_of_le hp.le))
    case starts => rintro rfl hr hv hp; exact row hk h0 (tp_starts hr hv (timerReach_of_lt hp))
    case held => rintro rfl hr hv; exact row hk hel (tp_held hr hv)
    case idle => rintro rfl hr; exact row hk hel (tp_idle hr)

end Sys2Proof.Proofs
end

section
/-! SUPPORT. CLAIM heads (R64): the resources and the mask that each kind leaves in the image, and O60. -/
namespace Sys2Proof.Proofs
open Sys2Proof.Machine

/-! ### Resources of a set, written in entry order (R52) -/

section
variable {e : Ev} (w : Memory.wf e.mem = true)
include w

theorem boolRead_commitResource (r x : Nat) (v : Bool) :
    boolRead (commitResource r v e).mem x = if r = x then v else boolRead e.mem x := by
  rw [commitResource]
  split
  · next same =>
    split
    · next hx => rw [← hx]; exact eq_of_beq same
    · rfl
  · rw [boolRead_commit_boolean w, tst_boolVal]

theorem maskRead_commitResource {r : Nat} (hr : r < 8388608) (v : Bool) (g : Nat) :
    maskRead (commitResource r v e).mem g = maskRead e.mem g := by
  rw [commitResource]
  split
  · rfl
  · exact maskRead_commit_boolean w hr g _

end

/-- The resource of an entry, committed when the mask selects the entry: one step of `commitResources`. -/
def commitEntry (mask : Dword) (v : Bool) (e : Ev) (r : Nat × Nat) : Ev :=
  if tst mask r.1 then commitResource r.2 v e else e

theorem commitResources_eq (set : List Nat) (mask : Dword) (v : Bool) (e : Ev) :
    commitResources set mask v e = ((List.range set.length).zip set).foldl (commitEntry mask v) e := rfl

theorem mem_entries {set : List Nat} {i r : Nat} :
    (i, r) ∈ (List.range set.length).zip set ↔ set[i]? = some r := by
  simp only [List.mem_iff_getElem?, List.getElem?_zip_eq_some]
  refine ⟨fun ⟨j, hj, hr⟩ => ?_, fun h => ⟨i, ?_, h⟩⟩
  · obtain ⟨_, rfl⟩ := List.getElem?_eq_some_iff.mp hj
    simpa using hr
  · exact List.getElem?_range (List.getElem?_eq_some_iff.mp h).1

theorem commitEntry_wf {e : Ev} (mask : Dword) (v : Bool) (r : Nat × Nat) (w : Memory.wf e.mem = true) :
    Memory.wf (commitEntry mask v e r).mem = true := by
  rw [commitEntry]
  split
  · exact commitResource_wf _ _ w
  · exact w

/-- After a run over entries, a resource holds the value written exactly when the mask selects an entry of it. -/
theorem boolRead_foldl_commitEntry (mask : Dword) (v : Bool) (x : Nat) (entries : List (Nat × Nat)) {e : Ev}
    (w : Memory.wf e.mem = true) : boolRead (entries.foldl (commitEntry mask v) e).mem x =
      if ∃ r ∈ entries, tst mask r.1 = true ∧ r.2 = x then v else boolRead e.mem x := by
  induction entries generalizing e with
  | nil => simp
  | cons r entries ih =>
    rw [List.foldl_cons, ih (commitEntry_wf mask v r w)]
    have head : boolRead (commitEntry mask v e r).mem x =
        if tst mask r.1 = true ∧ r.2 = x then v else boolRead e.mem x := by
      by_cases hs : tst mask r.1 = true <;> simp [commitEntry, hs, boolRead_commitResource w]
    simp only [head, List.exists_mem_cons_iff]
    by_cases hs : tst mask r.1 = true ∧ r.2 = x
    · simp [hs]
    · simp only [hs, false_or, if_false]

theorem maskRead_foldl_commitEntry (mask : Dword) (v : Bool) (g : Nat) {entries : List (Nat × Nat)}
    (h : ∀ r ∈ entries, r.2 < 8388608) {e : Ev} (w : Memory.wf e.mem = true) :
    maskRead (entries.foldl (commitEntry mask v) e).mem g = maskRead e.mem g := by
  induction entries generalizing e with
  | nil => rfl
  | cons r entries ih =>
    rw [List.foldl_cons, ih (fun r hr => h r (by simp [hr])) (commitEntry_wf mask v r w), commitEntry]
    split
    · exact maskRead_commitResource w (h r (by simp)) v g
    · rfl

section
variable {e : Ev} (w : Memory.wf e.mem = true) {set : List Nat} {mask : Dword} (v : Bool)
include w

theorem boolRead_commitResources_selected {i r : Nat} (hi : set[i]? = some r) (hs : tst mask i = true) :
    boolRead (commitResources set mask v e).mem r = v := by
  rw [commitResources_eq, boolRead_foldl_commitEntry _ _ _ _ w, if_pos ⟨(i, r), mem_entries.mpr hi, hs, rfl⟩]

theorem boolRead_commitResources_unselected {r : Nat} (h : ∀ i, set[i]? = some r → tst mask i = false) :
    boolRead (commitResources set mask v e).mem r = boolRead e.mem r := by
  rw [commitResources_eq, boolRead_foldl_commitEntry _ _ _ _ w, if_neg]
  rintro ⟨⟨i, r'⟩, hm, hs, rfl⟩
  rw [h i (mem_entries.mp hm)] at hs
  contradiction

theorem maskRead_commitResources (h : ∀ r ∈ set, r < 8388608) (g : Nat) :
    maskRead (commitResources set mask v e).mem g = maskRead e.mem g := by
  rw [commitResources_eq]
  refine maskRead_foldl_commitEntry mask v g (fun r hr => h r.2 ?_) w
  exact List.mem_of_getElem? (mem_entries.mp hr)

end

/-! ### The mask of a whole set -/

theorem toNat_lowMask {n : Nat} (h : n ≤ 64) : (lowMask n).toNat = 2 ^ n - 1 := by
  have := Nat.pow_le_pow_right (by decide : 0 < 2) h
  rw [lowMask, BitVec.toNat_ofNat, Nat.mod_eq_of_lt]
  have := Nat.two_pow_pos n
  omega

theorem tst_lowMask {n i : Nat} (h : n ≤ 64) (hi : i < n) : tst (lowMask n) i = true := by
  rw [tst, BitVec.getLsbD, toNat_lowMask h, Nat.testBit_two_pow_sub_one]
  exact decide_eq_true hi

/-! ### The three kinds of CLAIM -/

/-- A claim that changes: the new mask, the resources that `sel` selects, and Q. -/
def claimCommit (set : List Nat) (g : Nat) (mask sel : Dword) (v : Bool) (a : Lit) (q : Bool) (e : Ev) : Ev :=
  commitQ (some a) q (commitResources set sel v (e.commit .mask g mask))

section
variable {b : Bank} {g : Nat} {a : Lit} {s : Bool} {e : Ev}

/-- ACQUIRE without its guard, with a held mask or with a resource that is 1 writes Q alone. -/
theorem claimStep_acquire_refused
    (h : s = false ∨ maskRead e.mem g ≠ 0 ∨ ∃ r ∈ b.claimSet g, boolRead e.mem r = true) :
    claimStep b 0 g (some a) s e = commitQ (some a) (maskRead e.mem g != 0) e := by
  refine if_neg ?_
  simp only [Bool.and_eq_true, beq_iff_eq, List.all_eq_true, Bool.not_eq_true', not_and]
  rintro ⟨hs, hm⟩ hf
  rcases h with h | h | ⟨r, hr, h⟩
  · rw [h] at hs
    contradiction
  · exact h hm
  · rw [hf r hr] at h
    contradiction

theorem claimStep_acquire_taken (hm : maskRead e.mem g = 0) (hf : ∀ r ∈ b.claimSet g, boolRead e.mem r = false) :
    claimStep b 0 g (some a) true e = claimCommit (b.claimSet g) g (lowMask (b.claimSet g).length)
      (lowMask (b.claimSet g).length) true a true e := by
  refine if_pos ?_
  simpa [hm] using hf

theorem claimStep_release_unguarded :
    claimStep b 1 g (some a) false e = commitQ (some a) (maskRead e.mem g != 0) e := rfl

theorem claimStep_release_unheld (hm : maskRead e.mem g = 0) :
    claimStep b 1 g (some a) true e = commitQ (some a) false e := if_pos hm

theorem claimStep_release_held (hm : maskRead e.mem g ≠ 0) : claimStep b 1 g (some a) true e =
    claimCommit (b.claimSet g) g 0 (maskRead e.mem g) false a false e := if_neg hm

/-- In a set of different resources the entry that DROP names is the only one of its resource. -/
theorem findIdx?_eq_of_nodup {set : List Nat} (hn : set.Nodup) {i r : Nat} (hi : set[i]? = some r) :
    set.findIdx? (· == r) = some i := by
  obtain ⟨hl, he⟩ := List.getElem?_eq_some_iff.mp hi
  rw [List.findIdx?_eq_some_iff_getElem]
  refine ⟨hl, by simp [he], fun j hj => ?_⟩
  have : set[j] ≠ set[i] := fun h => by have := (List.Nodup.getElem_inj_iff hn).mp h; omega
  simpa [← he] using this

theorem claimStep_drop_held (hn : (b.claimSet g).Nodup) {i : Nat} (hi : (b.claimSet g)[i]? = some a.idx)
    (h : s = true ∧ tst (maskRead e.mem g) i = true) : claimStep b 2 g (some a) s e =
      commitResource a.idx false (e.commit .mask g (maskRead e.mem g &&& ~~~(1#64 <<< i))) := by
  simp [claimStep, findIdx?_eq_of_nodup hn hi, h]

theorem claimStep_drop_unheld (hn : (b.claimSet g).Nodup) {i : Nat} (hi : (b.claimSet g)[i]? = some a.idx)
    (h : ¬(s = true ∧ tst (maskRead e.mem g) i = true)) : claimStep b 2 g (some a) s e = e := by
  simp only [claimStep, Option.map_some, Option.getD_some, findIdx?_eq_of_nodup hn hi]
  exact if_neg (by simpa using h)

end

theorem headStep_claim {c : EvalCtx} {q : Equation} {a : Lit} {e : Ev} (s1 s2 s3 : Bool) (ho : q.head.op = 0xB)
    (ha : q.args.head? = some a) :
    headStep c q s1 s2 s3 e = claimStep c.bank q.head.mod q.head.idx (some a) s1 e := by
  simp [headStep, ho, ha]

/-! ### What a claim leaves in the image -/

section
variable {set : List Nat} {g : Nat} {a : Lit} {e : Ev} (w : Memory.wf e.mem = true) (hq : a.idx < 8388608)
  (hset : ∀ r ∈ set, r < 8388608) (hna : a.idx ∉ set)
include w hq hna

/-- A claim that writes Q alone leaves the mask and the resources as they were. -/
theorem claim_refused_reads (q : Bool) :
    (maskRead (commitQ (some a) q e).mem g = maskRead e.mem g ∧
      ∀ r ∈ set, boolRead (commitQ (some a) q e).mem r = boolRead e.mem r) ∧
    (boolRead (commitQ (some a) q e).mem a.idx != a.neg) = q :=
  ⟨⟨maskRead_commitQ w hq q g, fun _ hr => boolRead_commitQ_of_ne w (fun h => hna (h ▸ hr)) q⟩, boolRead_commitQ w a q⟩

include hset

/-- A claim that changes: the mask, Q, and every resource by whether its entry is selected. -/
theorem claimCommit_reads (hn : set.Nodup) (mask sel : Dword) (v q : Bool) :
    let after := (claimCommit set g mask sel v a q e).mem
    maskRead after g = mask ∧ (boolRead after a.idx != a.neg) = q ∧
      ∀ i r, set[i]? = some r → boolRead after r = if tst sel i = true then v else boolRead e.mem r := by
  have w1 := commit_wf .mask g mask w
  have w2 := commitResources_wf set sel v w1
  refine ⟨?mask, boolRead_commitQ w2 a q, fun i r hi => ?_⟩
  case mask =>
    rw [claimCommit, maskRead_commitQ w2 hq, maskRead_commitResources w1 v hset, maskRead_commit_mask w]
  have hr := List.mem_of_getElem? hi
  rw [claimCommit, boolRead_commitQ_of_ne w2 (fun h => hna (h ▸ hr))]
  split
  · next hs => exact boolRead_commitResources_selected w1 v hi hs
  · next hs =>
    rw [boolRead_commitResources_unselected w1 v, boolRead_commit_other w (by decide) _ _ (hset r hr)]
    intro j hj
    have hl := (List.getElem?_eq_some_iff.mp hi).1
    rw [← (List.getElem?_inj hl hn).mp (hi.trans hj.symm)]
    exact Bool.eq_false_iff.mpr hs

end

/-- DROP of a held entry: its resource and its mask bit fall, the other resources stay. -/
theorem claim_drop_reads {e : Ev} (w : Memory.wf e.mem = true) (g : Nat) (mask : Dword) {r : Nat} (hr : r < 8388608) :
    let after := (commitResource r false (e.commit .mask g mask)).mem
    boolRead after r = false ∧ maskRead after g = mask ∧
      ∀ x, x < 8388608 → x ≠ r → boolRead after x = boolRead e.mem x := by
  have w1 := commit_wf .mask g mask w
  refine ⟨?_, ?_, fun x hx hne => ?_⟩
  · rw [boolRead_commitResource w1, if_pos rfl]
  · rw [maskRead_commitResource w1 hr, maskRead_commit_mask w]
  · rw [boolRead_commitResource w1, if_neg hne.symm, boolRead_commit_other w (by decide) _ _ hx]

/-- Settles O60: each kind is refused, which leaves set and mask as they were, or changes both together. -/
theorem claimsTakeSetsWhole : Obligations.ClaimsTakeSetsWhole := by
  intro c q a s1 s2 s3 e ho ha w hg hq g set before after out hne hlen hn hset hna asBefore
  have refused (hk : q.head.mod < 2) {v : Bool} (h : headStep c q s1 s2 s3 e = commitQ (some a) v e) :
      asBefore ∧ out = v := by
    simp only [asBefore, out, after, h]
    exact claim_refused_reads w hq (hna hk) v
  have changed (hk : q.head.mod < 2) {mask sel : Dword} {v o : Bool}
      (h : headStep c q s1 s2 s3 e = claimCommit set g mask sel v a o e) : maskRead after g = mask ∧ out = o ∧
        ∀ i r, set[i]? = some r → boolRead after r = if tst sel i = true then v else boolRead e.mem r := by
    simp only [out, after, h]
    exact claimCommit_reads w hq hset (hna hk) hn mask sel v o
  have step := headStep_claim (c := c) (e := e) s1 s2 s3 ho ha
  refine ⟨fun hk => ?acquire, fun hk => ?release, fun hk i hi => ?drop⟩ <;> rw [hk] at step
  case acquire =>
    have hk2 : q.head.mod < 2 := by omega
    refine ⟨?unguarded, ?held, ?taken, ?occupied⟩
    case unguarded =>
      intro hs
      exact refused hk2 (step.trans (claimStep_acquire_refused (.inl hs)))
    case held =>
      intro _ hm
      obtain ⟨same, hout⟩ := refused hk2 (step.trans (claimStep_acquire_refused (.inr (.inl hm))))
      exact ⟨same, hout.trans (bne_iff_ne.mpr hm)⟩
    case taken =>
      rintro rfl hm hf
      obtain ⟨hmask, hout, hres⟩ := changed hk2 (step.trans (claimStep_acquire_taken hm hf))
      refine ⟨fun r hr => ?_, by rw [hmask, toNat_lowMask hlen], hout⟩
      obtain ⟨i, hi, rfl⟩ := List.mem_iff_getElem.mp hr
      rw [hres i _ (List.getElem?_eq_getElem hi), if_pos (tst_lowMask hlen hi)]
    case occupied =>
      intro _ hm hex
      obtain ⟨same, hout⟩ := refused hk2 (step.trans (claimStep_acquire_refused (.inr (.inr hex))))
      exact ⟨same, hout.trans (bne_eq_false_iff_eq.mpr hm)⟩
  case release =>
    have hk2 : q.head.mod < 2 := by omega
    refine ⟨?unguarded, ?guarded⟩
    case unguarded =>
      rintro rfl
      exact refused hk2 (step.trans claimStep_release_unguarded)
    case guarded =>
      rintro rfl
      by_cases hm : before = 0
      · obtain ⟨⟨hmask, hres⟩, hout⟩ := refused hk2 (step.trans (claimStep_release_unheld hm))
        refine ⟨hmask.trans hm, hout, fun i r hi => ?_⟩
        rw [hres r (List.mem_of_getElem? hi), hm, tst_zero]
        simp
      · obtain ⟨hmask, hout, hres⟩ := changed hk2 (step.trans (claimStep_release_held hm))
        refine ⟨hmask, hout, fun i r hi => ?_⟩
        rw [hres i r hi]
        cases tst before i <;> simp
  case drop =>
    refine ⟨fun hs hm => ?held, fun hno => ?unheld⟩
    case held =>
      obtain ⟨hr, hmask, hres⟩ := claim_drop_reads w g (before &&& ~~~(1#64 <<< i)) hq
      simp only [after, step.trans (claimStep_drop_held hn hi ⟨hs, hm⟩)]
      exact ⟨hr, hmask, fun r hr hne => hres r (hset r hr) hne⟩
    case unheld =>
      simp only [after, step.trans (claimStep_drop_unheld hn hi hno)]

end Sys2Proof.Proofs
end

section
/-!
SUPPORT. One sample instant of the inputs (R250 to R255, R276): the class of a sample, what reports of a changed input leave alone,
what one sample does to its own input and to the others, and O53.
-/
namespace Sys2Proof.Proofs
open Sys2Proof.Machine

/-! ### The class of a sample (R251) -/

/-- The current ranges of R251: those of ON, OFF and BREAK; what is in none of them is UNDEF. -/
def inClassRange (wb : Bool) (ua : Nat) (c : InClass) : Prop :=
  (c = .on ↔ 4000 ≤ ua) ∧ (c = .off ↔ (wb = true → 800 ≤ ua) ∧ ua < 3000) ∧ (c = .brk ↔ wb = true ∧ ua < 500)

/-- The ranges settle the class. -/
theorem eq_currentClass {wb : Bool} {ua : Nat} {c : InClass} (h : inClassRange wb ua c) : c = currentClass wb ua := by
  obtain ⟨hon, hoff, hbrk⟩ := h
  have undef (h3 : ¬ ua < 3000 ∨ wb = true ∧ ua < 800) (h4 : ua < 4000) (h5 : 500 ≤ ua) : c = .undef := by
    have ho : c ≠ .on := mt hon.1 (by omega)
    have hf : c ≠ .off := mt hoff.1 fun ⟨h8, h⟩ => h3.elim (· h) fun ⟨hw, hl⟩ => by have := h8 hw; omega
    have hb : c ≠ .brk := mt hbrk.1 (by omega)
    cases c <;> simp_all
  unfold currentClass
  split_ifs with h4 h3 hwb h8 h5
  · exact hon.2 h4
  · exact undef (.inl (by omega)) (by omega) (by omega)
  · exact hoff.2 ⟨fun h => by simp [h] at hwb, by omega⟩
  · exact hoff.2 ⟨fun _ => h8, by omega⟩
  · exact undef (.inr ⟨by simpa using hwb, by omega⟩) (by omega) h5
  · exact hbrk.2 ⟨by simpa using hwb, by omega⟩

section
variable {n a b : Nat} {s : State}

theorem sampleClass_disabled (hen : tst (ioIn s.io.live n) 31 = false) : sampleClass n (a, b) s = .brk := by
  simp [sampleClass, hen]

theorem sampleClass_undef (hen : tst (ioIn s.io.live n) 31 = true)
    (h : currentClass (tst (ioIn s.io.live n) 30) a ≠ currentClass (tst (ioIn s.io.live n) 30) b ∨ s.io.fs1.st ≠ .ok ∨
      feedbackPulse n s = true) : sampleClass n (a, b) s = .undef := by
  simp only [sampleClass, hen, Bool.not_true, Bool.false_eq_true, if_false, if_pos h]

theorem sampleClass_agreed (hen : tst (ioIn s.io.live n) 31 = true)
    (hab : currentClass (tst (ioIn s.io.live n) 30) a = currentClass (tst (ioIn s.io.live n) 30) b)
    (hfs : s.io.fs1.st = .ok) (hp : feedbackPulse n s = false) :
    sampleClass n (a, b) s = currentClass (tst (ioIn s.io.live n) 30) a := by
  simp [sampleClass, hen, ← hab, hfs, hp]

end

@[simp] theorem filterStep_raw (c : InClass) (x : InSt) : (filterStep c x).raw = c := by
  simp only [filterStep]
  split_ifs <;> rfl

/-- The adaptation of N (R253) changes neither the filtered class nor the latest sample's. -/
theorem adaptStep_classes (least most req : Nat) (x : InSt) :
    (adaptStep least most req x).cls = x.cls ∧ (adaptStep least most req x).raw = x.raw := by
  unfold adaptStep
  dsimp only
  generalize (if x.n < req then min req most else x.n) = k
  split <;> exact ⟨rfl, rfl⟩

/-! ### An input read after a write to one input -/

theorem input_updInput_same {n : Nat} (hn : n < 32) (f : InSt → InSt) (s : State) :
    (s.updInput n f).io.input n = f (s.io.input n) := by
  simp [State.updInput, Io.input, vget, vmod, hn]

theorem input_updInput_ne {n m : Nat} (h : m ≠ n) (f : InSt → InSt) (s : State) :
    (s.updInput n f).io.input m = s.io.input m := by
  simp only [State.updInput, State.updIo_io, Io.input, vget, vmod]
  split
  · rw [Vector.getElem?_set_ne _ h.symm]
  · rfl

/-! ### What a sample and its reports leave alone -/

/-- State `s` with the parts that a sample can change taken from `b`: inputs, acknowledge press, COS queue, recorder. -/
def withSampledOf (b s : State) : State :=
  { s with ice := b.ice,
           io := { s.io with inputs := b.io.inputs, ack := b.io.ack, cos := b.io.cos, cosLost := b.io.cosLost,
                             cosSeq := b.io.cosSeq } }

/-- State `t` is `s` but for what a sample can change. -/
def sameButSampled (s t : State) : Prop := ∀ b, withSampledOf b t = withSampledOf b s

theorem sameButSampled.refl (s : State) : sameButSampled s s := fun _ => rfl

theorem sameButSampled.trans {s t u : State} (a : sameButSampled s t) (b : sameButSampled t u) : sameButSampled s u :=
  fun c => (b c).trans (a c)

theorem sameButSampled.frame {s t : State} (h : sameButSampled s t) :
    { t with io := s.io, ice := s.ice } = s ∧ t.io.outs = s.io.outs ∧ t.io.rules = s.io.rules ∧ t.io.gen1 = s.io.gen1 ∧
      t.io.gen2 = s.io.gen2 := by
  have h := h s
  exact ⟨congrArg (fun u : State => { u with io := s.io }) h, congrArg (·.io.outs) h, congrArg (·.io.rules) h,
    congrArg (·.io.gen1) h, congrArg (·.io.gen2) h⟩

/-- The class of a sample rests on nothing that an earlier sample of the instant changes. -/
theorem sameButSampled.sampleClass_eq {s t : State} (h : sameButSampled s t) (n : Nat) (ua : Nat × Nat) :
    sampleClass n ua t = sampleClass n ua s :=
  show sampleClass n ua (withSampledOf s t) = sampleClass n ua (withSampledOf s s) by rw [h s]

theorem sameButSampled_updInput (n : Nat) (f : InSt → InSt) (s : State) : sameButSampled s (s.updInput n f) := fun _ => rfl

/-- From `s` to `t` a change of input n is reported: of the inputs only n changes, and keeps its filtered class and its latest
sample's class. -/
structure reportsInput (n : Nat) (s t : State) : Prop where
  frame  : sameButSampled s t
  others : ∀ m, m ≠ n → t.io.input m = s.io.input m
  cls    : (t.io.input n).cls = (s.io.input n).cls
  raw    : (t.io.input n).raw = (s.io.input n).raw

/-- Reports that write no input: press, COS queue, recorder. -/
theorem reportsInput.of_inputs {n : Nat} {s t : State} (frame : sameButSampled s t) (h : t.io.inputs = s.io.inputs) :
    reportsInput n s t := by
  have h (m : Nat) : t.io.input m = s.io.input m := by simp only [Io.input, h]
  exact ⟨frame, fun m _ => h m, congrArg InSt.cls (h n), congrArg InSt.raw (h n)⟩

theorem reportsInput.refl (n : Nat) (s : State) : reportsInput n s s := .of_inputs (fun _ => rfl) rfl

theorem reportsInput.trans {n : Nat} {s t u : State} (a : reportsInput n s t) (b : reportsInput n t u) : reportsInput n s u where
  frame := a.frame.trans b.frame
  others m h := (b.others m h).trans (a.others m h)
  cls := b.cls.trans a.cls
  raw := b.raw.trans a.raw

/-- A report under a condition. -/
theorem reportsInput.ite {n : Nat} {s t u : State} (c : Prop) [Decidable c] (ht : reportsInput n s t)
    (hu : reportsInput n s u) : reportsInput n s (if c then t else u) := by
  split
  · exact ht
  · exact hu

section
variable {n : Nat} (hn : n < 32) (s : State)
include hn

theorem reportsInput_updInput {f : InSt → InSt} (hcls : ∀ x, (f x).cls = x.cls := by exact fun _ => rfl)
    (hraw : ∀ x, (f x).raw = x.raw := by exact fun _ => rfl) :
    reportsInput n s (s.updInput n f) where
  frame := sameButSampled_updInput n f s
  others _ h := input_updInput_ne h f s
  cls := by rw [input_updInput_same hn, hcls]
  raw := by rw [input_updInput_same hn, hraw]

theorem reportsInput_adaptStep (least most req : Nat) : reportsInput n s (s.updInput n (adaptStep least most req)) :=
  reportsInput_updInput hn s (fun x => (adaptStep_classes least most req x).1) fun x => (adaptStep_classes least most req x).2

/-- A record of input n, and what of its report is kept with the input. -/
theorem reportsInput_record {f : InSt → InSt} (code : Half) (sev src p0 p1 p2 p3 : Nat)
    (hcls : ∀ x, (f x).cls = x.cls := by exact fun _ => rfl) (hraw : ∀ x, (f x).raw = x.raw := by exact fun _ => rfl) :
    reportsInput n s (record code sev src p0 p1 p2 p3 (s.updInput n f)) :=
  (reportsInput_updInput hn s hcls hraw).trans (.of_inputs (fun _ => rfl) rfl)

theorem reportsInput_recordPinned (req most : Nat) : reportsInput n s (recordPinned n req most s) :=
  .ite _ (.refl n s) (reportsInput_record hn s ..)

theorem reportsInput_recordValidity : reportsInput n s (recordValidity n s) :=
  .ite _ (reportsInput_updInput hn s) (reportsInput_record hn s ..)

end

theorem reportsInput_pressChange (n : Nat) (was now : InClass) (s : State) : reportsInput n s (pressChange was now s) :=
  .of_inputs (fun _ => rfl) rfl

theorem reportsInput_pushCos (n m : Nat) (s : State) : reportsInput n s (pushCos m s) := by
  unfold pushCos
  split
  · exact .refl n s
  · simp only [State.updIo]
    split <;> exact .of_inputs (fun _ => rfl) rfl

/-- An accepted change adapts N, records, tells the press and joins the COS queue. -/
theorem reportsInput_inputChanged {n : Nat} (hn : n < 32) (old : InSt) (b : Nat) (s : State) :
    reportsInput n s (inputChanged n old b s) := by
  have adapted := reportsInput_adaptStep hn s (fld (ioIn s.io.live n) 5 0) (fld (ioIn s.io.live n) 21 16) (b + 2)
  have pinned := adapted.trans (reportsInput_recordPinned hn _ (b + 2) (fld (ioIn s.io.live n) 21 16))
  have validity {t : State} (h : reportsInput n s t) (c : Prop) [Decidable c] :
      reportsInput n s (if c then t else recordValidity n t) := .ite c h (h.trans (reportsInput_recordValidity hn t))
  have press {t : State} (h : reportsInput n s t) (c : Prop) [Decidable c] (x : InClass) :
      reportsInput n s (if c then pressChange old.cls x t else t) := .ite c (h.trans (reportsInput_pressChange n _ x t)) h
  exact (press (validity (.ite _ (.ite _ pinned adapted) (.refl n s)) _) _ _).trans (reportsInput_pushCos n n _)

/-! ### One sample of one input (R252) -/

/-- The filter after the sample `ua` of input n in state `s`. -/
def filtered (n : Nat) (ua : Nat × Nat) (s : State) : InSt :=
  filterStep (sampleClass n ua s) { s.io.input n with ua := min ua.1 0x7FFF }

/-- The filter's result `x` taken over by an input `y`: as it stands below the target, at it with the candidate as the filtered
class. -/
structure takesFilter (x y : InSt) : Prop where
  running  : x.count < x.target → y = x
  complete : x.target ≤ x.count → y.cls = x.cand
  raw      : y.raw = x.raw

section
variable {n : Nat} (hn : n < 32) (ua : Nat × Nat) (s : State)
include hn

/-- A sample below the target is written as the filter stands; at the target the candidate is accepted, and a change reported. -/
theorem sampleInput_cases :
    ((filtered n ua s).count < (filtered n ua s).target ∧ sampleInput n ua s = s.updInput n fun _ => filtered n ua s) ∨
    ((filtered n ua s).target ≤ (filtered n ua s).count ∧
      reportsInput n (s.updInput n fun _ => acceptClass (filtered n ua s)) (sampleInput n ua s)) := by
  by_cases h : (filtered n ua s).count < (filtered n ua s).target
  · exact .inl ⟨h, if_pos h⟩
  · refine .inr ⟨by omega, ?_⟩
    rw [show sampleInput n ua s = _ from if_neg h]
    exact .ite _ (.refl n _) (reportsInput_inputChanged hn ..)

theorem sampleInput_sameButSampled : sameButSampled s (sampleInput n ua s) := by
  rcases sampleInput_cases hn ua s with ⟨-, h⟩ | ⟨-, h⟩
  · rw [h]
    exact sameButSampled_updInput n _ s
  · exact (sameButSampled_updInput n _ s).trans h.frame

theorem sampleInput_others {m : Nat} (hm : m ≠ n) : (sampleInput n ua s).io.input m = s.io.input m := by
  rcases sampleInput_cases hn ua s with ⟨-, h⟩ | ⟨-, h⟩
  · rw [h, input_updInput_ne hm]
  · rw [h.others m hm, input_updInput_ne hm]

theorem sampleInput_takesFilter : takesFilter (filtered n ua s) ((sampleInput n ua s).io.input n) := by
  rcases sampleInput_cases hn ua s with ⟨hlt, h⟩ | ⟨hle, h⟩
  · rw [h, input_updInput_same hn]
    exact ⟨fun _ => rfl, fun hle => by omega, rfl⟩
  · have hcls := h.cls
    have hraw := h.raw
    rw [input_updInput_same hn] at hcls hraw
    exact ⟨fun hlt => by omega, fun _ => hcls, hraw⟩

end

/-! ### One sample instant (R250) -/

/-- The filter of an input rests on that input and on what no sample changes. -/
theorem sameButSampled.filtered_eq {s t : State} (h : sameButSampled s t) {n : Nat} (hn : t.io.input n = s.io.input n)
    (ua : Nat × Nat) : filtered n ua t = filtered n ua s := by
  simp only [filtered, h.sampleClass_eq, hn]

/-- Samples of different inputs, one after the other: each input takes the filter it has in the state before them all. -/
theorem sampleInputs_take (ua : Nat → Nat × Nat) {l : List Nat} (hl : ∀ n ∈ l, n < 32) (nodup : l.Nodup) (s : State) :
    let t := l.foldl (fun s n => sampleInput n (ua n) s) s
    sameButSampled s t ∧ (∀ m, m ∉ l → t.io.input m = s.io.input m) ∧
      ∀ n ∈ l, takesFilter (filtered n (ua n) s) (t.io.input n) := by
  induction l generalizing s with
  | nil => exact ⟨.refl s, fun _ _ => rfl, by simp⟩
  | cons a l ih =>
    obtain ⟨ha, hl⟩ := List.forall_mem_cons.mp hl
    obtain ⟨hal, nodup⟩ := List.nodup_cons.mp nodup
    have frame := sampleInput_sameButSampled ha (ua a) s
    obtain ⟨rest, others, takes⟩ := ih hl nodup (sampleInput a (ua a) s)
    refine ⟨frame.trans rest, fun m hm => ?untouched, fun n hn => ?sampled⟩
    case untouched =>
      obtain ⟨hma, hml⟩ := not_or.mp (mt List.mem_cons.mpr hm)
      exact (others m hml).trans (sampleInput_others ha (ua a) s hma)
    case sampled =>
      rcases List.mem_cons.mp hn with rfl | hnl
      · rw [List.foldl_cons, others n hal]
        exact sampleInput_takesFilter ha (ua n) s
      · have hna : n ≠ a := fun h => hal (h ▸ hnl)
        rw [← frame.filtered_eq (sampleInput_others ha (ua a) s hna)]
        exact takes n hnl

/-- The press watched before the samples leaves the inputs alone. -/
theorem sameButSampled_watchPress (s : State) : sameButSampled s (watchPress s) := fun _ => rfl

/-- The row while neither the module stands still nor a BIST runs. -/
theorem exec_inputSample {s : State} (hr : s.runs = true) (hb : bistRuns s = false) (currents : List (Nat × Nat)) :
    exec (.inputSample currents) s =
      .next ((List.range 32).foldl (fun s n => sampleInput n (currents.getD n (0, 0)) s) (watchPress s)) := by
  change execInputSample currents s = _
  simp [execInputSample, hr, hb]

/-- Settles O53: each input takes its filter as it stood before the instant, and the filter keeps the class of the sample. -/
theorem inputsAreClassified : Obligations.InputsAreClassified := by
  intro currents s hr hb
  have watched := sameButSampled_watchPress s
  obtain ⟨frame, -, takes⟩ := sampleInputs_take (fun n => currents.getD n (0, 0)) (l := List.range 32)
    (fun _ => List.mem_range.mp) List.nodup_range (watchPress s)
  obtain ⟨rest, houts, hrules, hgen1, hgen2⟩ := (watched.trans frame).frame
  refine ⟨_, exec_inputSample hr hb currents, rest, houts, hrules, hgen1, hgen2, ?_⟩
  intro n hn en wb a b isClass
  obtain ⟨running, complete, hraw⟩ := takes n (List.mem_range.mpr hn)
  rw [watched.filtered_eq rfl] at running complete hraw
  replace hraw := hraw.trans (filterStep_raw _ _)
  have isClass_eq {ua : Nat} {c : InClass} (h : isClass ua c) : c = currentClass wb ua := eq_currentClass h
  refine ⟨fun hen => ?disabled, fun hen h => ?doubtful, fun ca cb ha hbc hen hne => ?differ,
    fun c ha hbc hen hfs hp => ?agreed, running, complete⟩
  case disabled => exact hraw.trans (sampleClass_disabled hen)
  case doubtful => exact hraw.trans (sampleClass_undef hen (.inr h))
  case differ =>
    rw [isClass_eq ha, isClass_eq hbc] at hne
    exact hraw.trans (sampleClass_undef hen (.inl hne))
  case agreed =>
    have hab := (isClass_eq ha).symm.trans (isClass_eq hbc)
    exact (hraw.trans (sampleClass_agreed hen hab hfs hp)).trans (isClass_eq ha).symm

end Sys2Proof.Proofs
end

section
/-! SUPPORT. Faults (R278 to R284): the table of sources, the final class by the lines of R280, what the decision on a fault notes,
locks out and leaves alone, and O56. -/
namespace Sys2Proof.Proofs
open Sys2Proof.Machine

/-! ### Tables read after a write -/

section
variable {α : Type} (t : Tbl α) (x : Nat) (v d : α)

theorem getD_nil : Tbl.getD [] x d = d := rfl

theorem getD_cons (e : Nat × α) : Tbl.getD (e :: t) x d = if e.1 = x then e.2 else Tbl.getD t x d := by
  simp only [Tbl.getD, Tbl.find]
  split_ifs <;> rfl

theorem getD_put_same : Tbl.getD (Tbl.put t x v) x d = v := by
  induction t with
  | nil => simp [Tbl.put, getD_cons]
  | cons e t ih =>
    simp only [Tbl.put]
    split_ifs with hlt heq
    · simp [getD_cons]
    · simp [getD_cons]
    · simp [getD_cons, Ne.symm heq, ih]

theorem getD_put_ne {y : Nat} (h : y ≠ x) : Tbl.getD (Tbl.put t x v) y d = Tbl.getD t y d := by
  induction t with
  | nil => simp [Tbl.put, getD_cons, h.symm]
  | cons e t ih =>
    simp only [Tbl.put]
    split_ifs with hlt heq
    · rw [getD_cons, if_neg h.symm]
    · simp [getD_cons, h.symm, ← heq]
    · simp [getD_cons, ih]

variable {t x v d} {p : α → Bool}

/-- What a read finds with a property that the default lacks stands in the table. -/
theorem any_of_getD (hd : p d = false) (h : p (Tbl.getD t x d) = true) : t.any (fun e => p e.2) = true := by
  induction t with
  | nil => simp [getD_nil, hd] at h
  | cons e t ih =>
    rw [getD_cons] at h
    rw [List.any_cons, Bool.or_eq_true]
    split_ifs at h
    · exact .inl h
    · exact .inr (ih h)

/-- A write that keeps a property of its entry keeps whether any entry has it. -/
theorem any_put (hd : p d = false) (hv : p v = p (Tbl.getD t x d)) :
    (Tbl.put t x v).any (fun e => p e.2) = t.any (fun e => p e.2) := by
  induction t with
  | nil => simp [Tbl.put, hv, getD_nil, hd]
  | cons e t ih =>
    simp only [Tbl.put]
    split_ifs with hlt heq
    · rw [List.any_cons, hv, Bool.or_eq_right_iff_imp]
      exact any_of_getD hd
    · rw [getD_cons, if_pos heq.symm] at hv
      simp [hv]
    · rw [getD_cons, if_neg (Ne.symm heq)] at hv
      simp [ih hv]

end

/-! ### One source of the fault collection -/

section
variable (n : Nat) (f : FcuSource → FcuSource) (s : State)

theorem fcuSource_updSource_same : (s.updSource n f).fcuSource n = f (s.fcuSource n) :=
  getD_put_same s.fcu.sources n _ _

theorem fcuSource_updSource_ne {m : Nat} (h : m ≠ n) : (s.updSource n f).fcuSource m = s.fcuSource m :=
  getD_put_ne s.fcu.sources n _ _ h

/-- A write that keeps a source's UNACK_MASK keeps UNACK(k). -/
theorem unack_updSource (h : ∀ x, (f x).unack = x.unack) (k : Nat) : unack (s.updSource n f).fcu k = unack s.fcu k :=
  any_put (p := fun x : FcuSource => tst x.unack (k - 1)) (d := .fresh) BitVec.getLsbD_zero
    (congrArg (fun m : BitVec 4 => tst m (k - 1)) (h _))

end

theorem fcuSource_of_fcu_eq {s t : State} (h : t.fcu = s.fcu) (n : Nat) : t.fcuSource n = s.fcuSource n :=
  congrArg (fun c : Fcu => Tbl.getD c.sources n .fresh) h

theorem unack_iff (c : Fcu) (k : Nat) : unack c k = true ↔ ∃ e ∈ c.sources, tst e.2.unack (k - 1) = true := List.any_eq_true

/-! ### The final class (R280) -/

/-- The class code of the event, one more where the pattern is broken. -/
def patternClass (code : Nat) (broken : Bool) : Nat := if broken then min (min code 4 + 1) 4 else min code 4

/-- 4 for a collector, else one class more where a fault of the class is unacknowledged. -/
def escalatedClass (c : Fcu) (src cls : Nat) : Nat :=
  if src < 8 then 4 else if (1 ≤ cls ∧ cls ≤ 3) ∧ unack c cls = true then cls + 1 else cls

/-- 4 where class 3 has no target. -/
def targetClass (src cls : Nat) : Nat := if cls = 3 ∧ classThreeTarget src = none then 4 else cls

theorem finalClass_cls (c : Fcu) (src code : Nat) (broken : Bool) :
    (finalClass c src code broken).cls = targetClass src (escalatedClass c src (patternClass code broken)) := by
  unfold finalClass
  extract_lets c0 c1 collector esc c2 none3
  have h2 : c2 = escalatedClass c src c1 := by
    by_cases h : src < 8 <;> simp [c2, esc, collector, escalatedClass, h]
  have h3 : (if none3 = true then 4 else c2) = targetClass src c2 := by simp [none3, targetClass]
  exact h3.trans (congrArg (targetClass src) h2)

/-- Of the fault collection the final class rests on UNACK alone. -/
theorem finalClass_congr {c c' : Fcu} (h : ∀ k, unack c k = unack c' k) (src code : Nat) (broken : Bool) :
    finalClass c src code broken = finalClass c' src code broken := by
  simp only [finalClass, h]

/-! ### The decision in three parts: what is noted, the lock-out record, the effect -/

/-- The bit of a final class in an UNACK_MASK. -/
def classBit (cls : Nat) : BitVec 4 := if cls = 0 then 0 else 1#4 <<< (cls - 1)

/-- The source of a fault after the decision on it. -/
def decidedSource (d : Decision) (broken : Bool) (ms : Nat) (x : FcuSource) : FcuSource :=
  { x with unack := x.unack ||| classBit d.cls, lastClass := d.cls, lastBroken := broken, lastEsc := d.esc,
           count := satInc 0xFFFF x.count, activeMs := ms }

/-- The counters of all faults after a decision. -/
def countFault (d : Decision) (broken : Bool) (c : Fcu) : Fcu :=
  { c with faults := satInc 0xFFFFFFFF c.faults,
           escalations := if d.esc then satInc 0xFFFFFFFF c.escalations else c.escalations,
           broken := if broken then satInc 0xFFFFFFFF c.broken else c.broken }

/-- The fault collection and the recorder take a decision: source, counters, FAULT record. -/
def noteFault (d : Decision) (src code : Nat) (broken forced : Bool) (detail : Word) (s : State) : State :=
  let t := (s.updSource src (decidedSource d broken s.tb.ms)).updFcu (countFault d broken)
  record 0x0101 d.cls src
    (src * 2 ^ 24 + min code 7 * 2 ^ 16 + d.cls * 2 ^ 8 + bit broken * 2 ^ 7 + bit d.esc * 2 ^ 6 + bit forced * 2 ^ 5)
    detail.toNat (match decisionRecord src d.cls s with | some (k, i) => k * 256 + i | none => 0) (unackClasses t.fcu) t

/-- The lock-out record of a decision. -/
def lockDecided (cls src : Nat) (cause : Half) (s : State) : State :=
  match decisionRecord src cls s with
  | some (k, i) => writeLock k i cause src s
  | none => s

/-- What the final class does beside records (R283). -/
def decisionEffect (second : State → State) (cls src : Nat) (detail : Word) (s : State) : State :=
  if cls = 4 then enterSafe s
  else if cls = 3 then match classThreeTarget src with
    | some t => targetEffect second t (detail.toNat % 256) s
    | none => s
  else s

section
variable (second : State → State) (src code : Nat) (broken forced : Bool) (detail : Word) (specific : Option Half) (s : State)

theorem decideBase_eq :
    decideBase second src code broken forced detail specific s =
      let d := finalClass s.fcu src code broken
      decisionEffect second d.cls src detail
        (lockDecided d.cls src (lockCause d code forced (specific <|> sourceCause src detail))
          (noteFault d src code broken forced detail s)) := rfl

theorem noteFault_frame (d : Decision) : { noteFault d src code broken forced detail s with fcu := s.fcu, ice := s.ice } = s := rfl

theorem fcuSource_noteFault_same (d : Decision) :
    (noteFault d src code broken forced detail s).fcuSource src = decidedSource d broken s.tb.ms (s.fcuSource src) :=
  fcuSource_updSource_same src _ s

theorem fcuSource_noteFault_ne (d : Decision) {n : Nat} (h : n ≠ src) :
    (noteFault d src code broken forced detail s).fcuSource n = s.fcuSource n :=
  fcuSource_updSource_ne src _ s h

end

/-! ### The lock-out record of a decision (R283) -/

/-- The function that a final class locks out with a record: the module, or the source's target. -/
def lockedFunction (src cls : Nat) : Option (Nat × Nat) :=
  if cls = 4 then some (1, 0) else if cls = 3 then (classThreeTarget src).bind targetRecord else none

theorem decisionRecord_eq (src cls : Nat) (s : State) :
    decisionRecord src cls s = (lockedFunction src cls).filter fun k => !lockStands k.1 k.2 s := rfl

theorem decisionRecord_of_locked {src cls : Nat} {s : State} {k : Nat × Nat} (h : lockedFunction src cls = some k)
    (hs : lockStands k.1 k.2 s = true) : decisionRecord src cls s = none := by
  simp [decisionRecord_eq, h, Option.filter_some, hs]

theorem decisionRecord_of_unlocked {src cls : Nat} {s : State} {k : Nat × Nat} (h : lockedFunction src cls = some k)
    (hs : lockStands k.1 k.2 s = false) : decisionRecord src cls s = some k := by
  simp [decisionRecord_eq, h, Option.filter_some, hs]

/-- A record's KIND and INDEX fit their bytes. -/
theorem lockedFunction_lt {src cls kind index : Nat} (h : lockedFunction src cls = some (kind, index)) :
    kind < 256 ∧ index < 256 := by
  unfold lockedFunction at h
  split_ifs at h
  · cases h
    decide
  · obtain ⟨t, ht, hr⟩ := Option.bind_eq_some_iff.mp h
    unfold classThreeTarget at ht
    split_ifs at ht <;> cases ht <;> cases hr <;> omega

/-- After it the function that the final class locks out has a record. -/
theorem lockDecided_stands {src cls kind index : Nat} (h : lockedFunction src cls = some (kind, index)) (cause : Half)
    (s : State) : lockStands kind index (lockDecided cls src cause s) = true := by
  unfold lockDecided
  cases hs : lockStands kind index s with
  | true => rwa [decisionRecord_of_locked h hs]
  | false =>
    rw [decisionRecord_of_unlocked h hs]
    obtain ⟨hk, hi⟩ := lockedFunction_lt h
    exact writeLock_stands hk hi cause src s

/-- A final class below 3 writes no record. -/
theorem lockDecided_of_le {cls : Nat} (h : cls ≤ 2) (src : Nat) (cause : Half) (s : State) : lockDecided cls src cause s = s := by
  have none : lockedFunction src cls = none := by
    rw [lockedFunction, if_neg (by omega), if_neg (by omega)]
  simp [lockDecided, decisionRecord_eq, none]

theorem lockDecided_frame (cls src : Nat) (cause : Half) (s : State) :
    { lockDecided cls src cause s with fram := s.fram, ice := s.ice, lanes := s.lanes, twin := s.twin } = s := by
  unfold lockDecided
  split
  · exact writeLock_frame ..
  · rfl

theorem lockDecided_fcu (cls src : Nat) (cause : Half) (s : State) : (lockDecided cls src cause s).fcu = s.fcu :=
  (congrArg State.fcu (lockDecided_frame cls src cause s) :)

theorem lockDecided_mstate (cls src : Nat) (cause : Half) (s : State) : (lockDecided cls src cause s).mstate = s.mstate :=
  (congrArg State.mstate (lockDecided_frame cls src cause s) :)

/-! ### What the effects leave of the fault collection and of the lock-outs -/

theorem enterSafe_fcu (s : State) : (enterSafe s).fcu = s.fcu :=
  (congrArg (·.2.1) (enterSafe_frame s) :)

theorem enterSafe_fram (s : State) : (enterSafe s).fram = s.fram :=
  (congrArg (·.2.2.2.1) (enterSafe_frame s) :)

theorem lockStands_of_fram_eq {s t : State} (h : t.fram = s.fram) (kind index : Nat) :
    lockStands kind index t = lockStands kind index s := by
  simp only [lockStands, h]

theorem setPState_fcu (new : PState) (s : State) : (setPState new s).fcu = s.fcu :=
  (congrArg State.fcu (setPState_frame new s) :)

theorem setPState_fram (new : PState) (s : State) : (setPState new s).fram = s.fram :=
  (congrArg State.fram (setPState_frame new s) :)

theorem lockLane_fcu (i cause : Nat) (s : State) : (lockLane i cause s).fcu = s.fcu := by
  unfold lockLane
  split <;> rfl

theorem failVerify_fcu (v : Option (Port × Half)) (code : Half) (s : State) : (failVerify v code s).fcu = s.fcu := by
  unfold failVerify
  split
  · exact (congrArg State.fcu (complete_frame _ _ _ _ s) :)
  · rfl

theorem interruptLoads_fcu (code : Half) (s : State) : (interruptLoads code s).fcu = s.fcu :=
  (failVerify_fcu _ _ _).trans (failVerify_fcu _ _ _)

theorem afterExclusion_fcu (i cause : Nat) (fp : Fingerprint) (lockNow was3 : Bool) (s : State) :
    (afterExclusion i cause fp lockNow was3 s).fcu = s.fcu := by
  unfold afterExclusion
  extract_lets recorded locked counted interrupted
  have hlocked : locked.fcu = s.fcu := by
    dsimp only [locked]
    split
    · exact lockLane_fcu i cause recorded
    · rfl
  have hcounted : counted.fcu = locked.fcu := by
    dsimp only [counted]
    split <;> rfl
  have hall : interrupted.fcu = s.fcu := ((interruptLoads_fcu _ _).trans hcounted).trans hlocked
  split <;> exact hall

section
variable {second : State → State} {n : Nat} (h2 : ∀ u, (second u).fcuSource n = u.fcuSource n)
include h2

theorem fcuSource_lockTarget (i cause : Nat) (s : State) : (lockTarget second i cause s).fcuSource n = s.fcuSource n := by
  unfold lockTarget
  split
  · exact fcuSource_of_fcu_eq (lockLane_fcu i cause s) n
  · split
    · exact h2 s
    · exact fcuSource_of_fcu_eq (afterExclusion_fcu ..) n

theorem fcuSource_targetEffect (t : Target) (cause : Nat) (s : State) :
    (targetEffect second t cause s).fcuSource n = s.fcuSource n := by
  cases t with
  | lane i => exact fcuSource_lockTarget h2 i cause s
  | twin => exact fcuSource_of_fcu_eq (setPState_fcu .removed s) n
  | can c => cases c <;> rfl
  | _ => rfl

theorem fcuSource_decisionEffect (cls src : Nat) (detail : Word) (s : State) :
    (decisionEffect second cls src detail s).fcuSource n = s.fcuSource n := by
  unfold decisionEffect
  split_ifs
  · exact fcuSource_of_fcu_eq (enterSafe_fcu s) n
  · split
    · exact fcuSource_targetEffect h2 ..
    · rfl
  · rfl

/-- The decision on a fault of another source leaves a source alone. -/
theorem fcuSource_decideBase_ne {src : Nat} (h : n ≠ src) (code : Nat) (broken forced : Bool) (detail : Word)
    (specific : Option Half) (s : State) :
    (decideBase second src code broken forced detail specific s).fcuSource n = s.fcuSource n := by
  rw [decideBase_eq]
  dsimp only
  rw [fcuSource_decisionEffect h2, fcuSource_of_fcu_eq (lockDecided_fcu ..), fcuSource_noteFault_ne (h := h)]

theorem fcuSource_changeBase_ne {src : Nat} (h : n ≠ src) (code : Nat) (forced : Bool) (detail : Word)
    (specific : Option Half) (endMs : Nat) (s : State) :
    (changeBase second src code forced detail specific endMs s).fcuSource n = s.fcuSource n := by
  unfold changeBase
  extract_lets x new s'
  have hs' : s'.fcuSource n = s.fcuSource n := fcuSource_updSource_ne src _ s h
  split_ifs
  · exact (fcuSource_decideBase_ne h2 h ..).trans hs'
  · exact hs'
  · exact hs'

theorem fcuSource_presentBase_ne {src : Nat} (h : n ≠ src) (rails : BitVec 2) (code : Nat) (detail : Word)
    (specific : Option Half) (s : State) :
    (presentBase second src rails code detail specific s).fcuSource n = s.fcuSource n := by
  unfold presentBase
  extract_lets x ended
  have hended : ended.fcuSource n = s.fcuSource n := by
    dsimp only [ended]
    split
    · exact (fcuSource_changeBase_ne h2 h ..).trans (fcuSource_updSource_ne src _ s h)
    · rfl
  split
  · rfl
  · exact ((fcuSource_changeBase_ne h2 h ..).trans (fcuSource_updSource_ne src _ ended h)).trans hended

end

/-- The fault of a second lane out is one of source 0x04. -/
theorem fcuSource_raiseNoAgree {n : Nat} (h : n ≠ 4) (s : State) : (raiseNoAgree s).fcuSource n = s.fcuSource n :=
  fcuSource_presentBase_ne (fun _ => rfl) h _ _ _ _ (s.updFreeCtr fun k => k + 1)

/-- A target with a record of its own is locked out without touching the FRAM again. -/
theorem targetEffect_fram {t : Target} (h : (targetRecord t).isSome = true) (second : State → State) (cause : Nat) (s : State) :
    (targetEffect second t cause s).fram = s.fram := by
  cases t with
  | twin => exact setPState_fram .removed s
  | lane i => exact absurd h (by simp [targetRecord])
  | can c => exact absurd h (by simp [targetRecord])
  | ice => exact absurd h (by simp [targetRecord])
  | _ => rfl

/-! ### What a decision comes to -/

theorem decisionEffect_of_no_target {src : Nat} (h : classThreeTarget src = none) (second : State → State) (cls : Nat)
    (detail : Word) (s : State) : decisionEffect second cls src detail s = if cls = 4 then enterSafe s else s := by
  simp [decisionEffect, h]

/-- A source keeps what its decision noted: only source 0x04, which has no target, could be raised by an effect. -/
theorem fcuSource_decisionEffect_raiseNoAgree (cls src : Nat) (detail : Word) (s : State) :
    (decisionEffect raiseNoAgree cls src detail s).fcuSource src = s.fcuSource src := by
  by_cases h : src = 4
  · rw [decisionEffect_of_no_target (by rw [h]; rfl)]
    split
    · exact fcuSource_of_fcu_eq (enterSafe_fcu s) src
    · rfl
  · exact fcuSource_decisionEffect (fcuSource_raiseNoAgree h) cls src detail s

/-- The function that the final class locks out is locked out after the effect too. -/
theorem decisionEffect_fram {src cls : Nat} (h : (lockedFunction src cls).isSome = true) (second : State → State)
    (detail : Word) (s : State) : (decisionEffect second cls src detail s).fram = s.fram := by
  unfold lockedFunction at h
  unfold decisionEffect
  split_ifs at h ⊢ with h4 h3
  · exact enterSafe_fram s
  · cases ht : classThreeTarget src with
    | none => rfl
    | some t =>
      rw [ht] at h
      exact targetEffect_fram h second _ s
  · rfl

section
variable (src code : Nat) (broken forced : Bool) (detail : Word) (specific : Option Half) (s : State)

theorem fcuSource_decideBase_same :
    (decideBase raiseNoAgree src code broken forced detail specific s).fcuSource src =
      decidedSource (finalClass s.fcu src code broken) broken s.tb.ms (s.fcuSource src) := by
  rw [decideBase_eq]
  dsimp only
  rw [fcuSource_decisionEffect_raiseNoAgree, fcuSource_of_fcu_eq (lockDecided_fcu ..), fcuSource_noteFault_same]

variable {src code broken forced detail specific s} (second : State → State)

theorem decideBase_locks {kind index : Nat}
    (h : lockedFunction src (finalClass s.fcu src code broken).cls = some (kind, index)) :
    lockStands kind index (decideBase second src code broken forced detail specific s) = true := by
  rw [decideBase_eq]
  dsimp only
  rw [lockStands_of_fram_eq (decisionEffect_fram (by rw [h]; rfl) second detail _)]
  exact lockDecided_stands h _ _

theorem decideBase_mstate (hr : s.runs = true) (h : (finalClass s.fcu src code broken).cls = 4) :
    (decideBase second src code broken forced detail specific s).mstate = .safe := by
  obtain ⟨hoff, hfrozen⟩ : s.mstate ≠ .off ∧ s.mstate ≠ .frozen := by
    simp only [State.runs, Bool.and_eq_true, Bool.not_eq_true', decide_eq_false_iff_not, not_or] at hr
    exact ⟨hr.2.1, hr.2.2.2⟩
  rw [decideBase_eq]
  dsimp only
  rw [decisionEffect, if_pos h]
  refine enterSafe_mstate _ ?_ ?_ <;> rw [lockDecided_mstate]
  · exact hoff
  · exact hfrozen

theorem decideBase_frame (h : (finalClass s.fcu src code broken).cls ≤ 2) :
    { decideBase second src code broken forced detail specific s with fcu := s.fcu, ice := s.ice } = s := by
  have noted : decideBase second src code broken forced detail specific s =
      noteFault (finalClass s.fcu src code broken) src code broken forced detail s := by
    rw [decideBase_eq]
    dsimp only
    rw [lockDecided_of_le h, decisionEffect, if_neg (by omega), if_neg (by omega)]
  rw [noted]
  exact noteFault_frame src code broken forced detail s _

end

/-! ### A healthy source that leaves healthy (R278) -/

/-- Source n shows a pattern, on its lines and as the pattern the FCU uses. -/
def showPattern (n : Nat) (rails : BitVec 2) (s : State) : State :=
  (s.updSource n fun x => { x with real := rails }).updSource n fun x => { x with rail := rails }

section
variable (n : Nat) (rails : BitVec 2) (s : State)

theorem fcuSource_showPattern :
    (showPattern n rails s).fcuSource n = { s.fcuSource n with real := rails, rail := rails } := by
  rw [showPattern, fcuSource_updSource_same, fcuSource_updSource_same]

theorem unack_showPattern (k : Nat) : unack (showPattern n rails s).fcu k = unack s.fcu k := by
  rw [showPattern, unack_updSource, unack_updSource] <;> exact fun _ => rfl

variable {n rails s}

/-- A healthy source takes over the pattern it shows. -/
theorem presentBase_healthy (hreal : (s.fcuSource n).real = 1) (second : State → State) (code : Nat) (detail : Word)
    (specific : Option Half) :
    presentBase second n rails code detail specific s =
      changeBase second n code false detail specific 0 (s.updSource n fun x => { x with real := rails }) := by
  simp [presentBase, hreal]

/-- A used pattern that leaves healthy is decided. -/
theorem changeBase_leaves (hrail : (s.fcuSource n).rail = 1) (used : usedPattern (s.fcuSource n) = rails) (hb : rails ≠ 1)
    (second : State → State) (code : Nat) (forced : Bool) (detail : Word) (specific : Option Half) (endMs : Nat) :
    changeBase second n code forced detail specific endMs s =
      decideBase second n code (patternBroken rails) forced detail specific (s.updSource n fun x => { x with rail := rails }) := by
  subst used
  exact if_pos ⟨hrail, hb⟩

theorem presentPattern_quiet (listed : sourceListed n = true) (quiet : quietSource n s = true) (hb : rails ≠ 1) (code : Nat)
    (detail : Word) (specific : Option Half) :
    presentPattern n rails code detail specific s =
      decideBase raiseNoAgree n code (patternBroken rails) false detail specific (showPattern n rails s) := by
  simp only [quietSource, Bool.and_eq_true, beq_iff_eq] at quiet
  obtain ⟨⟨hreal, hrail⟩, -⟩ := quiet
  rw [presentPattern, if_pos listed, presentBase_healthy hreal]
  refine changeBase_leaves ?_ ?_ hb .. <;> rw [fcuSource_updSource_same]
  · exact hrail
  · exact if_pos hb

end

theorem patternBroken_iff {rails : BitVec 2} (h : rails ≠ 1) : patternBroken rails = true ↔ rails ≠ 2 := by
  revert rails
  decide

theorem exec_faultRaised {s : State} {rails : BitVec 2} (hr : s.runs = true) (hb : rails ≠ 1) (src : Byte) (code : BitVec 3)
    (detail : Word) :
    exec (.faultRaised src rails code detail) s = .next (presentPattern src.toNat rails code.toNat detail none s) := by
  change execFaultRaised src rails code detail s = _
  rw [execFaultRaised, if_neg (by simpa [hr] using hb)]

/-- Settles O56: the fault is decided by the lines of R280 on the UNACK state before it, and the decision's parts say the rest. -/
theorem faultsAreDecided : Obligations.FaultsAreDecided := by
  intro src rails code detail s hr hb listed quiet held
  have hheld (k : Nat) : held k ↔ unack s.fcu k = true := (unack_iff s.fcu k).symm
  have source := fcuSource_decideBase_same src.toNat code.toNat (patternBroken rails) false detail none
    (showPattern src.toNat rails s)
  have final := finalClass_cls s.fcu src.toNat code.toNat (patternBroken rails)
  rw [fcuSource_showPattern] at source
  rw [← finalClass_congr (unack_showPattern src.toNat rails s)] at final
  generalize hc1 : patternClass code.toNat (patternBroken rails) = c1 at final
  generalize hc2 : escalatedClass s.fcu src.toNat c1 = c2 at final
  generalize hc3 : targetClass src.toNat c2 = c3 at final
  refine ⟨_, min code.toNat 4, c1, c2, c3,
    (exec_faultRaised hr hb src code detail).trans (congrArg _ (presentPattern_quiet listed quiet hb _ _ _)), rfl,
    fun h => ?plain, fun h => ?oneMore, fun h => ?collector, fun h h1 h3 hk => ?escalated, fun h hk => ?kept,
    fun h hn => ?noTarget, fun h => ?target, ?lastClass, fun h => ?held, fun h => ?unheld, ?count,
    fun h => ⟨decideBase_mstate _ hr (final.trans h), decideBase_locks _ ?module⟩,
    fun kind index h ht => decideBase_locks _ ?function, fun h => ?frame⟩
  case plain => exact hc1.symm.trans (if_neg (mt (patternBroken_iff hb).mp (not_not.mpr h)))
  case oneMore => exact hc1.symm.trans (if_pos ((patternBroken_iff hb).mpr h))
  case collector => exact hc2.symm.trans (if_pos h)
  case escalated => rw [← hc2, escalatedClass, if_neg (by omega), if_pos ⟨⟨h1, h3⟩, (hheld c1).mp hk⟩]
  case kept =>
    rw [hheld, ← and_assoc] at hk
    rw [← hc2, escalatedClass, if_neg (by omega), if_neg hk]
  case noTarget => exact hc3.symm.trans (if_pos ⟨h, hn⟩)
  case target => exact hc3.symm.trans (if_neg h)
  case lastClass => rw [source]; exact final
  case held => rw [source]; simp [decidedSource, classBit, final, Nat.ne_of_gt h]
  case unheld => rw [source]; simp [decidedSource, classBit, final, h]
  case count => rw [source]; rfl
  case module => rw [final, h]; rfl
  case function => rw [final, h]; exact ht
  case frame =>
    have left := decideBase_frame (detail := detail) (forced := false) (specific := none) raiseNoAgree (final.trans_le h)
    exact congrArg (fun u : State => { u with fcu := s.fcu, ice := s.ice }) left

end Sys2Proof.Proofs
end

section
/-! SUPPORT. READ_RESP on the pins of the host port (R305, R307): the ways a read of the response mailbox goes, and O9. -/
namespace Sys2Proof.Proofs
open Sys2Proof.Machine

theorem whenReady_served {s : State} (h : portServed .host s = true) (f : State → State) : whenReady f s = f s := if_pos h

/-! ### HIO and the read of a response change nothing but the host interface -/

@[simp] theorem drive_hio (bytes : List Byte) (s : State) : (drive bytes s).hif.hio = bytes := rfl

@[simp] theorem drive_port (bytes : List Byte) (s : State) (p : Port) : (drive bytes s).port p = s.port p := by cases p <;> rfl

theorem drive_frame (bytes : List Byte) (s : State) :
    { drive bytes s with hif := { (drive bytes s).hif with hio := s.hif.hio } } = s := rfl

@[simp] theorem noteRead_hio (p : Port) (s : State) : (noteRead p s).hif.hio = s.hif.hio := rfl

@[simp] theorem noteRead_port (p q : Port) (s : State) : (noteRead p s).port q = s.port q := by cases q <;> rfl

@[simp] theorem updPort_hio (p : Port) (f : PortSt → PortSt) (s : State) : (s.updPort p f).hif.hio = s.hif.hio := by
  cases p <;> rfl

/-! ### The ways of READ_RESP (R305) -/

/-- The bytes that n byte times of READ_RESP drive from a response. -/
def driven (n : Nat) (r : List Byte) : List Byte := r.take n ++ List.replicate (n - r.length) 0

theorem exec_readResp {s : State} (h : portServed .host s = true) (n : Nat) :
    exec (.readResp n) s = .next (readResponse n s) :=
  congrArg Host.Outcome.next (whenReady_served h (readResponse n))

section
variable {n : Nat} {s : State} {r : List Byte} {rest : List (List Byte)}

theorem readResponse_empty (hr : s.hif.host.resps = []) : readResponse n s = drive (List.replicate n 0) s := by
  simp [readResponse, hr]

theorem readResponse_early (hr : s.hif.host.resps = r :: rest) (h : n < r.length) : readResponse n s =
    (drive (driven n r) s).updPort .host fun q => { q with respReread := satInc 0xFFFF q.respReread } := by
  simp [readResponse, hr, h, driven]

theorem readResponse_whole (hr : s.hif.host.resps = r :: rest) (h : r.length ≤ n) : readResponse n s =
    noteRead .host ((drive (driven n r) s).updPort .host fun q => { q with resps := rest }) := by
  simp [readResponse, hr, Nat.not_lt.mpr h, driven]

theorem readResponse_hio (hr : s.hif.host.resps = r :: rest) : (readResponse n s).hif.hio = driven n r := by
  rcases Nat.lt_or_ge n r.length with early | whole
  · simp [readResponse_early hr early]
  · simp [readResponse_whole hr whole]

theorem readResponse_host_early (hr : s.hif.host.resps = r :: rest) (h : n < r.length) : (readResponse n s).port .host =
    { s.port .host with respReread := satInc 0xFFFF (s.port .host).respReread } := by
  simp [readResponse_early hr h]

theorem readResponse_host_whole (hr : s.hif.host.resps = r :: rest) (h : r.length ≤ n) :
    (readResponse n s).port .host = { s.port .host with resps := rest } := by
  simp [readResponse_whole hr h]

end

theorem readResponse_maint (n : Nat) (s : State) : (readResponse n s).port .maint = s.port .maint := by
  unfold readResponse
  split
  · exact drive_port ..
  · dsimp only
    split <;> simp [updPort_port_other]

theorem readResponse_frame (n : Nat) (s : State) : { readResponse n s with hif := s.hif } = s := by
  unfold readResponse
  split
  · rfl
  · dsimp only
    split <;> rfl

/-- Settles O9: an empty mailbox drives zeros alone, else the read ends early or takes the whole oldest response. -/
theorem readRespReturnsOldest : Obligations.ReadRespReturnsOldest := by
  intro n s served
  refine ⟨fun hr => ⟨_, exec_readResp served n, ?empty⟩, fun r rest hr => ⟨_, exec_readResp served n, ?oldest⟩⟩
  case empty =>
    rw [readResponse_empty hr]
    exact ⟨drive_hio .., drive_frame ..⟩
  case oldest =>
    exact ⟨readResponse_hio hr, readResponse_frame n s, readResponse_maint n s,
      fun whole => readResponse_host_whole hr whole, fun early => readResponse_host_early hr early⟩

end Sys2Proof.Proofs
end

section
/-! SUPPORT. The step itself: the queue's front, one CD7 cycle on an empty queue (R92, R94), the state after a power-on start, and
O1, O2, O3. -/
namespace Sys2Proof.Proofs
open Sys2Proof.Machine

/-! ### The step -/

theorem step_cons {c : Instr} {rest : List Instr} {s : State} (h : s.pending = c :: rest) :
    step s = exec c { s with pending := rest } := by
  simp only [step, h]

theorem step_nil {s : State} (h : s.pending = []) : step s = .next (tick s) := by
  simp only [step, h]

/-- Settles O1: `step` matches on the queue. -/
theorem stepRunsFrontCommand : Obligations.StepRunsFrontCommand := fun _ _ _ => step_cons

/-! ### One cycle of CD7 -/

theorem tick_still {s : State} (h : s.mstate = .off ∨ s.mstate = .frozen ∨ s.resetHold.isSome = true) : tick s = s := if_pos h

theorem tick_runs {s : State} (ho : s.mstate ≠ .off) (hf : s.mstate ≠ .frozen) (hr : s.resetHold = none) :
    tick s = s.updTb TimeBase.tick :=
  if_neg (by simp [ho, hf, hr])

theorem tick_frame (s : State) : { tick s with tb := s.tb } = s := by
  unfold tick
  split <;> rfl

/-- A count put into TB_NS and TB_FRAC reads back. -/
theorem count_withCount (x : BitVec 96) (c : Clock) : (c.withCount x).count = x := by
  apply BitVec.eq_of_toNat_eq
  have := x.isLt
  simp only [Clock.withCount, Clock.count, BitVec.toNat_append, BitVec.toNat_ofNat, Nat.shiftRight_eq_div_pow]
  rw [← Nat.shiftLeft_add_eq_or_of_lt (Nat.mod_lt _ (by norm_num)), Nat.shiftLeft_eq]
  omega

/-- The slew of one cycle is the sign of what is still to be applied. -/
theorem slewStep_eq_sign (c : Clock) : c.slewStep = c.slew16.sign := by
  unfold Clock.slewStep
  split_ifs with pos neg
  · exact (Int.sign_eq_one_of_pos pos).symm
  · exact (Int.sign_eq_neg_one_of_neg neg).symm
  · rw [show c.slew16 = 0 by omega]
    rfl

theorem count_tick (c : Clock) : c.tick.count =
    c.count + BitVec.ofInt 96 (8 * 2 ^ 32 + 8 * c.rate.toInt + c.slew16.sign * 2 ^ 28) := by
  rw [← slewStep_eq_sign]
  exact count_withCount _ c

theorem slew_tick (c : Clock) : c.tick.slew16 = c.slew16 - c.slew16.sign := by
  rw [← slewStep_eq_sign]
  rfl

/-- Settles O2: the cycle touches the time base alone, and its clock gains the increment of R92. -/
theorem emptyQueueIsOneCycle : Obligations.EmptyQueueIsOneCycle := by
  intro s hq
  refine ⟨tick s, step_nil hq, tick_frame s, tick_still, fun ho hf hr => ?_⟩
  rw [tick_runs ho hf hr]
  exact ⟨count_tick _, slew_tick _, rfl, rfl, rfl, rfl⟩

/-! ### The state after a power-on start -/

/-- Settles O3: every field is read off the reset state, part by part. -/
theorem resetStateIsSound : Obligations.ResetStateIsSound := by
  refine ⟨⟨rfl, rfl, rfl, rfl, rfl, rfl, by decide, rfl, rfl, rfl, rfl, rfl, by decide, rfl, rfl, rfl, rfl, rfl, rfl, rfl, rfl,
    rfl, rfl, rfl⟩, by decide, by decide⟩

end Sys2Proof.Proofs
end

section
/-!
SUPPORT. What every operation keeps, said once per operation: the canonical form of the memories (R35, R120, R340), the mailboxes of
both ports (R304, R312), the depth of every queue (R255, R294, R295, R313), and that SAFE is not left.
-/
namespace Sys2Proof.Proofs
open Sys2Proof.Machine

/-! ### Sound states, part by part -/

theorem memoriesWf_iff (s : State) : s.memoriesWf = true ↔ Memory.wf s.mem = true ∧ Memory.wf s.xsram = true ∧
    Memory.wf s.fram.home = true ∧ (∀ i (_ : i < 3), s.lanes[i].memoriesWf = true) ∧
      ∀ j ∈ s.twin.join, Memory.wf j.journal = true := by
  unfold State.memoriesWf
  cases s.twin.join <;> simp [and_assoc]

/-- The queues of the Ice Core are within their depths (R294, R295). -/
def iceBounded (i : Ice) : Prop :=
  i.inbound.length ≤ 64 ∧ i.store.length ≤ 65536 ∧ i.nandQueue.length ≤ 2048 ∧ i.ring.length ≤ 262144

theorem queuesBounded_iff (s : State) : s.queuesBounded = true ↔
    (∀ q, (s.port q).cmds.length ≤ 4 ∧ (s.port q).resps.length ≤ 4 ∧ (s.port q).pend.length ≤ 8) ∧
      iceBounded s.ice ∧ s.io.cos.length ≤ 64 := by
  have ports : (∀ q, (s.port q).cmds.length ≤ 4 ∧ (s.port q).resps.length ≤ 4 ∧ (s.port q).pend.length ≤ 8) ↔
      (s.hif.host.cmds.length ≤ 4 ∧ s.hif.host.resps.length ≤ 4 ∧ s.hif.host.pend.length ≤ 8) ∧
        s.hif.maint.cmds.length ≤ 4 ∧ s.hif.maint.resps.length ≤ 4 ∧ s.hif.maint.pend.length ≤ 8 :=
    ⟨fun h => ⟨h .host, h .maint⟩, fun h q => by cases q; exacts [h.1, h.2]⟩
  rw [ports]
  simp only [State.queuesBounded, portBounded, iceBounded, Bool.and_eq_true, decide_eq_true_eq, and_assoc]

/-- The states to which SAFE may lead (R31). -/
def offService (m : MState) : Prop := m = .safe ∨ m = .hold ∨ m = .boot ∨ m = .frozen ∨ m = .off

/-- What an operation may do beside: start operations that pend (R313), take packets out of the mailboxes. -/
structure Slack where
  pends  : Port → Nat
  drains : Bool

/-- One operation more may pend at a port. -/
def Slack.more (p : Port) (n : Slack) : Slack := { n with pends := fun q => n.pends q + if q = p then 1 else 0 }

/-- What no operation inside a step disturbs: canonical memories, mailboxes, bounded queues, SAFE. At most `n.pends q` operations
have started to pend. -/
structure Quiet (n : Slack) (s t : State) : Prop where
  wf   : s.memoriesWf = true → t.memoriesWf = true
  mail : ∀ q, ((t.port q).cmds = (s.port q).cmds ∧ (t.port q).resps = (s.port q).resps ∧
    (t.port q).commands = (s.port q).commands) ∨ n.drains = true ∧
      (t.port q).cmds.length ≤ (s.port q).cmds.length ∧ (t.port q).resps.length ≤ (s.port q).resps.length
  pend : ∀ q, (t.port q).pend.length ≤ (s.port q).pend.length + n.pends q
  ice  : iceBounded s.ice → iceBounded t.ice
  cos  : s.io.cos.length ≤ 64 → t.io.cos.length ≤ 64
  safe : s.mstate = .safe → offService t.mstate

/-- The part of a state that `Quiet` speaks of. -/
def watched (s : State) := (s.mem, s.xsram, s.fram.home, s.lanes, s.twin.join, s.hif, s.ice, s.io.cos, s.mstate)

namespace Quiet

variable {n : Slack} {s t u : State}

protected theorem refl (s : State) : Quiet n s s :=
  ⟨id, fun _ => .inl ⟨rfl, rfl, rfl⟩, fun _ => Nat.le_add_right _ _, id, id, .inl⟩

/-- A state that shows the same of what is watched. -/
theorem same (h : Quiet n s t) (e : watched u = watched t) : Quiet n s u := by
  simp only [watched, Prod.mk.injEq] at e
  obtain ⟨mem, xsram, fram, lanes, join, hif, ice, cos, mstate⟩ := e
  have port : ∀ q, u.port q = t.port q := fun q => by cases q <;> simp only [State.port, hif]
  constructor
  · intro w
    simpa only [memoriesWf_iff, mem, xsram, fram, lanes, join] using h.wf w
  · simpa only [port] using h.mail
  · simpa only [port] using h.pend
  · simpa only [ice] using h.ice
  · simpa only [cos] using h.cos
  · simpa only [mstate] using h.safe

/-! ### Updates of one field -/

theorem updResetHold (f : Option Nat → Option Nat) (h : Quiet n s t) : Quiet n s (t.updResetHold f) := h.same rfl
theorem updTestsDone (f : Bool → Bool) (h : Quiet n s t) : Quiet n s (t.updTestsDone f) := h.same rfl
theorem updFromDormant (f : Bool → Bool) (h : Quiet n s t) : Quiet n s (t.updFromDormant f) := h.same rfl
theorem updHoldFrom (f : MState → MState) (h : Quiet n s t) : Quiet n s (t.updHoldFrom f) := h.same rfl
theorem updPower (f : Power → Power) (h : Quiet n s t) : Quiet n s (t.updPower f) := h.same rfl
theorem updTb (f : TimeBase → TimeBase) (h : Quiet n s t) : Quiet n s (t.updTb f) := h.same rfl
theorem updVoter (f : Voter → Voter) (h : Quiet n s t) : Quiet n s (t.updVoter f) := h.same rfl
theorem updFcu (f : Fcu → Fcu) (h : Quiet n s t) : Quiet n s (t.updFcu f) := h.same rfl
theorem updProg (f : Prog → Prog) (h : Quiet n s t) : Quiet n s (t.updProg f) := h.same rfl
theorem updTasks (f : Tasks → Tasks) (h : Quiet n s t) : Quiet n s (t.updTasks f) := h.same rfl
theorem updFloe (f : Floe → Floe) (h : Quiet n s t) : Quiet n s (t.updFloe f) := h.same rfl
theorem updFw (f : Firmware → Firmware) (h : Quiet n s t) : Quiet n s (t.updFw f) := h.same rfl
theorem updKeys (f : Keys → Keys) (h : Quiet n s t) : Quiet n s (t.updKeys f) := h.same rfl
theorem updFabric (f : Fabric → Fabric) (h : Quiet n s t) : Quiet n s (t.updFabric f) := h.same rfl
theorem updCan1 (f : CanSt → CanSt) (h : Quiet n s t) : Quiet n s (t.updCan1 f) := h.same rfl
theorem updCan2 (f : CanSt → CanSt) (h : Quiet n s t) : Quiet n s (t.updCan2 f) := h.same rfl
theorem updJtag (f : Jtag → Jtag) (h : Quiet n s t) : Quiet n s (t.updJtag f) := h.same rfl
theorem updRimeArmed (f : Bool → Bool) (h : Quiet n s t) : Quiet n s (t.updRimeArmed f) := h.same rfl
theorem updMaintEn (f : Bool → Bool) (h : Quiet n s t) : Quiet n s (t.updMaintEn f) := h.same rfl
theorem updFreeCtr (f : Nat → Nat) (h : Quiet n s t) : Quiet n s (t.updFreeCtr f) := h.same rfl

theorem updMem (f : Mem → Mem) (h : Quiet n s t) (w : Memory.wf t.mem = true → Memory.wf (f t.mem) = true) :
    Quiet n s (t.updMem f) where
  __ := h
  wf hs := by
    have ht := (memoriesWf_iff t).mp (h.wf hs)
    exact (memoriesWf_iff _).mpr ⟨w ht.1, ht.2⟩

theorem updXsram (f : Mem → Mem) (h : Quiet n s t) (w : Memory.wf t.xsram = true → Memory.wf (f t.xsram) = true) :
    Quiet n s (t.updXsram f) where
  __ := h
  wf hs := by
    obtain ⟨mem, xsram, rest⟩ := (memoriesWf_iff t).mp (h.wf hs)
    exact (memoriesWf_iff _).mpr ⟨mem, w xsram, rest⟩

theorem updFram (f : Fram → Fram) (h : Quiet n s t)
    (w : Memory.wf t.fram.home = true → Memory.wf (f t.fram).home = true) : Quiet n s (t.updFram f) where
  __ := h
  wf hs := by
    obtain ⟨mem, xsram, fram, rest⟩ := (memoriesWf_iff t).mp (h.wf hs)
    exact (memoriesWf_iff _).mpr ⟨mem, xsram, w fram, rest⟩

theorem updLanes (f : Vector LaneSt 3 → Vector LaneSt 3) (h : Quiet n s t)
    (w : t.memoriesWf = true → ∀ i (_ : i < 3), (f t.lanes)[i].memoriesWf = true) : Quiet n s (t.updLanes f) where
  __ := h
  wf hs := by
    obtain ⟨mem, xsram, fram, -, join⟩ := (memoriesWf_iff t).mp (h.wf hs)
    exact (memoriesWf_iff _).mpr ⟨mem, xsram, fram, w (h.wf hs), join⟩

theorem updLane (i : Nat) (f : LaneSt → LaneSt) (h : Quiet n s t)
    (w : t.memoriesWf = true → ∀ l, l.memoriesWf = true → (f l).memoriesWf = true) : Quiet n s (t.updLane i f) := by
  refine h.updLanes _ fun ht k hk => ?_
  have lanes := ((memoriesWf_iff t).mp ht).2.2.2.1
  unfold vmod
  split
  · rw [Vector.getElem_set]
    split
    · exact w ht _ (lanes i _)
    · exact lanes k hk
  · exact lanes k hk

/-- A change of the twin's record that leaves the journal slots received as canonical as they were. -/
theorem updTwinJoin (f : Twin → Twin) (h : Quiet n s t)
    (w : (∀ j ∈ t.twin.join, Memory.wf j.journal = true) → ∀ j ∈ (f t.twin).join, Memory.wf j.journal = true) :
    Quiet n s (t.updTwin f) where
  __ := h
  wf hs := by
    obtain ⟨mem, xsram, fram, lanes, join⟩ := (memoriesWf_iff t).mp (h.wf hs)
    exact (memoriesWf_iff _).mpr ⟨mem, xsram, fram, lanes, w join⟩

theorem updTwin (f : Twin → Twin) (h : Quiet n s t) (hj : (f t.twin).join = t.twin.join) : Quiet n s (t.updTwin f) :=
  h.same (by simp only [watched, State.updTwin, hj])

theorem updIce (f : Ice → Ice) (h : Quiet n s t) (w : iceBounded t.ice → iceBounded (f t.ice)) :
    Quiet n s (t.updIce f) where
  __ := h
  ice hs := w (h.ice hs)

theorem updIoCos (f : Io → Io) (h : Quiet n s t) (w : t.io.cos.length ≤ 64 → (f t.io).cos.length ≤ 64) :
    Quiet n s (t.updIo f) where
  __ := h
  cos hs := w (h.cos hs)

theorem updIo (f : Io → Io) (h : Quiet n s t) (hc : (f t.io).cos = t.io.cos) : Quiet n s (t.updIo f) :=
  h.same (by simp only [watched, State.updIo, hc])

theorem updMstate (f : MState → MState) (h : Quiet n s t) (w : s.mstate = .safe → offService (f t.mstate)) : Quiet n s (t.updMstate f) where
  __ := h
  safe := w

/-! ### Ports -/

theorem updHif (f : HostIf → HostIf) (h : Quiet n s t) (host : (f t.hif).host = t.hif.host)
    (maint : (f t.hif).maint = t.hif.maint) : Quiet n s (t.updHif f) := by
  have port : ∀ q, (t.updHif f).port q = t.port q := fun q => by cases q <;> assumption
  exact { h with mail := by simpa only [port] using h.mail, pend := by simpa only [port] using h.pend }

/-- A change of a port under which no operation starts to pend. -/
theorem updPortEnd (p : Port) (f : PortSt → PortSt) (h : Quiet n s t) (cmds : (f (t.port p)).cmds = (t.port p).cmds)
    (resps : (f (t.port p)).resps = (t.port p).resps) (commands : (f (t.port p)).commands = (t.port p).commands)
    (pend : (f (t.port p)).pend.length ≤ (t.port p).pend.length) : Quiet n s (t.updPort p f) := by
  refine { h with mail := fun q => ?_, pend := fun q => ?_ }
  · by_cases hq : q = p
    · subst hq
      rw [updPort_port, cmds, resps, commands]
      exact h.mail q
    · rw [updPort_port_other hq]
      exact h.mail q
  · by_cases hq : q = p
    · subst hq
      rw [updPort_port]
      exact pend.trans (h.pend q)
    · rw [updPort_port_other hq]
      exact h.pend q

theorem updPort (p : Port) (f : PortSt → PortSt) (h : Quiet n s t) (cmds : (f (t.port p)).cmds = (t.port p).cmds)
    (resps : (f (t.port p)).resps = (t.port p).resps) (commands : (f (t.port p)).commands = (t.port p).commands)
    (pend : (f (t.port p)).pend = (t.port p).pend) : Quiet n s (t.updPort p f) :=
  h.updPortEnd p f cmds resps commands (by rw [pend])

/-- Packets leave a mailbox. -/
theorem updPortDrain (p : Port) (f : PortSt → PortSt) (h : Quiet n s t) (hn : n.drains = true)
    (cmds : (f (t.port p)).cmds.length ≤ (t.port p).cmds.length) (resps : (f (t.port p)).resps.length ≤ (t.port p).resps.length)
    (pend : (f (t.port p)).pend.length ≤ (t.port p).pend.length) : Quiet n s (t.updPort p f) := by
  refine { h with mail := fun q => .inr ⟨hn, ?_⟩, pend := fun q => ?_ }
  · have hq : (t.port q).cmds.length ≤ (s.port q).cmds.length ∧ (t.port q).resps.length ≤ (s.port q).resps.length := by
      rcases h.mail q with ⟨c, r, -⟩ | ⟨-, c, r⟩
      · exact ⟨by rw [c], by rw [r]⟩
      · exact ⟨c, r⟩
    by_cases e : q = p
    · subst e
      rw [updPort_port]
      exact ⟨cmds.trans hq.1, resps.trans hq.2⟩
    · rw [updPort_port_other e]
      exact hq
  · by_cases e : q = p
    · subst e
      rw [updPort_port]
      exact pend.trans (h.pend q)
    · rw [updPort_port_other e]
      exact h.pend q

theorem more (p : Port) (h : Quiet n s t) : Quiet (n.more p) s t :=
  { h with pend := fun q => (h.pend q).trans (Nat.add_le_add_left (Nat.le_add_right _ _) _) }

/-- An operation starts to pend. -/
theorem pendStart (p : Port) (op tag : Half) (h : Quiet n s t) : Quiet (n.more p) s (pendStart p op tag t) := by
  refine { h with mail := fun q => ?_, pend := fun q => ?_ }
  · by_cases hq : q = p
    · subst hq
      rw [Machine.pendStart, updPort_port]
      exact h.mail q
    · rw [Machine.pendStart, updPort_port_other hq]
      exact h.mail q
  · have := h.pend q
    by_cases hq : q = p
    · subst hq
      rw [Machine.pendStart, updPort_port]
      simp only [Slack.more, List.length_append, List.length_cons, List.length_nil, if_true]
      omega
    · rw [Machine.pendStart, updPort_port_other hq]
      simp only [Slack.more, if_neg hq]
      omega

theorem ite {c : Prop} [Decidable c] (h : Quiet n s t) (h' : Quiet n s u) : Quiet n s (if c then t else u) := by
  split <;> assumption

theorem foldl {α : Type} {f : State → α → State} (l : List α) (h : Quiet n s t) (hf : ∀ u a, Quiet n s u → Quiet n s (f u a)) :
    Quiet n s (l.foldl f t) :=
  foldl_keeps hf l h

theorem complete (p : Port) (op tag : Half) (r : Reply) (h : Quiet n s t) : Quiet n s (complete p op tag r t) := by
  unfold Machine.complete
  refine ite (h.updPortEnd p _ rfl rfl rfl ?_) h
  exact (List.erase_sublist).length_le

theorem failPending (p : Port) (h : Quiet n s t) : Quiet n s (failPending p t) :=
  h.foldl _ fun _ _ hu => hu.complete _ _ _ _

/-! ### Records and changes of state -/

theorem emit (r : IceRec) (h : Quiet n s t) : Quiet n s (emit r t) := by
  refine h.updIce _ fun ht => ?_
  split
  · refine ⟨?_, ht.2⟩
    simp only [List.length_append, List.length_singleton]
    omega
  · exact ht

theorem record (code : Half) (sev src p0 p1 p2 p3 : Nat) (h : Quiet n s t) : Quiet n s (record code sev src p0 p1 p2 p3 t) :=
  h.emit _

theorem recordState (old new : MState) (h : Quiet n s t) : Quiet n s (recordState old new t) := h.record ..

theorem enterState (new : MState) (h : Quiet n s t) (w : s.mstate = .safe → offService new) :
    Quiet n s (enterState new t) :=
  (h.updMstate _ w).recordState _ _

/-- A change of the state the module acts in is one away from service, or one that SAFE does not see. -/
theorem enterEff (new : MState) (h : Quiet n s t) (w : offService new ∨ ¬ offService t.eff) : Quiet n s (enterEff new t) := by
  unfold Machine.enterEff
  split
  · exact (h.updHoldFrom _).recordState _ _
  · next hold =>
    refine Quiet.recordState _ _ { h with safe := fun hs => ?_ }
    rcases w with w | w
    · exact w
    · rw [State.eff, if_neg hold] at w
      exact absurd (h.safe hs) w

/-! ### Marks of a write, image copies -/

theorem copyBlock_wf (k : Nat) (m : t.memoriesWf = true) {l : LaneSt} (hl : l.memoriesWf = true) :
    (copyBlock k t l).memoriesWf = true := by
  obtain ⟨mem, -, fram, -⟩ := (memoriesWf_iff t).mp m
  simp only [LaneSt.memoriesWf, Bool.and_eq_true] at hl ⊢
  unfold copyBlock
  split_ifs
  · exact hl
  · exact ⟨hl.1, memReplace_wf _ _ hl.2 fram⟩
  · exact hl
  · exact hl
  · exact hl
  · exact ⟨memReplace_wf _ _ hl.1 mem, hl.2⟩

theorem copyBulk_wf (k : Nat) (m : t.memoriesWf = true) {l : LaneSt} (hl : l.memoriesWf = true) :
    (copyBulk k t l).memoriesWf = true := by
  have each : ∀ (js : List Nat) (x : LaneSt), x.memoriesWf = true →
      (js.foldl (fun x j => copyBlock (2128 - l.dirty + j) t x) x).memoriesWf = true := by
    intro js
    induction js with
    | nil => exact fun _ hx => hx
    | cons j js ih => exact fun x hx => ih _ (copyBlock_wf _ m hx)
  exact each _ l hl

theorem syncCopy_wf (m : t.memoriesWf = true) {l : LaneSt} (hl : l.memoriesWf = true) : (syncCopy t l).memoriesWf = true := by
  unfold syncCopy
  split
  · exact hl
  · exact copyBulk_wf (copiedSince l t) m hl

theorem markLane_memoriesWf (bs : List Nat) (l : LaneSt) : (markLane bs l).memoriesWf = l.memoriesWf := by
  unfold markLane
  split <;> rfl

theorem markJoin_journal (bs : List Nat) (j : Join) : (markJoin bs j).journal = j.journal := by
  unfold markJoin
  split <;> rfl

theorem touchBlocks (bs : List Nat) (h : Quiet n s t) : Quiet n s (touchBlocks bs t) := by
  unfold Machine.touchBlocks
  refine ite (updTwinJoin _ (h.updLanes _ fun m i hi => ?_) fun w j hj => ?_) h
  · rw [Vector.getElem_map, markLane_memoriesWf]
    exact syncCopy_wf m (((memoriesWf_iff t).mp m).2.2.2.1 i hi)
  · obtain ⟨k, hk, rfl⟩ := Option.map_eq_some_iff.mp hj
    rw [markJoin_journal]
    exact w k hk

theorem writeImage (bs : List Nat) (m : Mem) (h : Quiet n s t) (w : t.memoriesWf = true → Memory.wf m = true) :
    Quiet n s (writeImage bs m t) := by
  have hu := h.touchBlocks (if t.copying then bs ++ (memDiff t.mem m).map imageBlock else [])
  refine { hu with wf := fun hs => ?_ }
  exact (memoriesWf_iff _).mpr ⟨w (h.wf hs), ((memoriesWf_iff _).mp (hu.wf hs)).2⟩

theorem writeFramBlocks (bs : List Nat) (f : Fram → Fram) (h : Quiet n s t)
    (w : Memory.wf t.fram.home = true → Memory.wf (f t.fram).home = true) : Quiet n s (writeFramBlocks bs f t) :=
  (h.touchBlocks bs).updFram f (by rwa [touchBlocks_fram])

theorem writeLock (kind index : Nat) (cause : Half) (source : Nat) (h : Quiet n s t) :
    Quiet n s (writeLock kind index cause source t) := by
  unfold Machine.writeLock
  exact ite h ((h.writeFramBlocks _ _ id).record ..)

theorem finishImage (unpub : Bool) (k : Nat) (w : ImgWait) (h : Quiet n s t) : Quiet n s (finishImage unpub k w t) :=
  ((h.touchBlocks _).updXsram _ fun ht => memWriteBytes_wf _ _ ht).complete ..

theorem finishImages (p unpub : ImgWait → Bool) (h : Quiet n s t) : Quiet n s (finishImages p unpub t) :=
  (h.updHif _ rfl rfl).foldl _ fun _ _ hu => hu.finishImage ..

theorem sameButCopies_eff (e : sameButCopies t u) : u.eff = t.eff :=
  show ({ u with hif := t.hif, xsram := t.xsram, lanes := t.lanes, twin := t.twin } : State).eff = t.eff from
    congrArg State.eff (show ({ u with hif := t.hif, xsram := t.xsram, lanes := t.lanes, twin := t.twin } : State) = t from e)

theorem leaveService (new : MState) (h : Quiet n s t) (w : offService new ∨ ¬ offService t.eff) :
    Quiet n s (leaveService new t) := by
  refine (h.finishImages _ _).enterEff new ?_
  rwa [sameButCopies_eff (finishImages_copies ..)]

end Quiet

end Sys2Proof.Proofs
end

section
/-! SUPPORT. The same of the shared operations: CAN channels that fall silent, entry into SAFE, faults, lanes, host commands. -/
namespace Sys2Proof.Proofs
open Sys2Proof.Machine
namespace Quiet
variable {n : Slack} {s t u : State}

theorem updCan (ch : CanCh) (f : CanSt → CanSt) (h : Quiet n s t) : Quiet n s (t.updCan ch f) := by
  cases ch <;> exact h.same rfl

theorem drawFree (h : Quiet n s t) : Quiet n s (Machine.drawFree t).2 := h.same rfl

theorem updTask (k : Nat) (f : TaskSt → TaskSt) (h : Quiet n s t) : Quiet n s (State.updTask k f t) := h.same rfl

theorem haltCan (ch : CanCh) (h : Quiet n s t) : Quiet n s (Machine.haltCan ch t) :=
  (h.updCan ch _).updXsram _ (clearTxreq_wf ch)

theorem afterFrame (ch : CanCh) (w : CanWait) {now : State → State} (h : Quiet n s t)
    (hn : ∀ u, Quiet n s u → Quiet n s (now u)) : Quiet n s (Machine.afterFrame ch w now t) := by
  unfold Machine.afterFrame
  exact ite (hn _ h) (ite (h.drawFree.updCan ch _) (hn _ h.drawFree))

theorem quietCan (ch : CanCh) (h : Quiet n s t) : Quiet n s (Machine.quietCan ch t) :=
  h.afterFrame ch .stop fun _ => haltCan ch

theorem abandonAll (h : Quiet n s t) : Quiet n s (Machine.abandonAll t) := by
  unfold Machine.abandonAll
  apply_rules [quietCan, updFabric, updFloe, updTwinJoin, updProg]
  exact fun _ _ hj => by cases hj

theorem keepLockTokens (p : Port) (h : Quiet n s t) : Quiet n s (t.updPort p Machine.keepLockTokens) :=
  h.updPort p _ rfl rfl rfl rfl

theorem enterSafe (h : Quiet n s t) : Quiet n s (Machine.enterSafe t) := by
  unfold Machine.enterSafe
  refine ite h (enterState .safe (updIo _ (abandonAll ?_) rfl) fun _ => .inl rfl)
  refine Quiet.keepLockTokens .maint (Quiet.keepLockTokens .host ?_)
  exact ((h.finishImages _ _).failPending .host).failPending .maint

theorem updSource (src : Nat) (f : FcuSource → FcuSource) (h : Quiet n s t) : Quiet n s (State.updSource src f t) := h.same rfl

theorem endAgreement (h : Quiet n s t) : Quiet n s (Machine.endAgreement t) := h.same rfl

theorem setPState (new : PState) (h : Quiet n s t) : Quiet n s (Machine.setPState new t) := by
  unfold Machine.setPState
  apply_rules [endAgreement, record, updTwin, ite]

theorem stopGroup (g : Nat) (h : Quiet n s t) : Quiet n s (Machine.stopGroup g t) := by
  unfold Machine.stopGroup
  split <;> apply_rules [updIo, ite]

theorem failVerify (v : Option (Port × Half)) (code : Half) (h : Quiet n s t) : Quiet n s (Machine.failVerify v code t) := by
  unfold Machine.failVerify
  split <;> apply_rules [complete]

theorem interruptLoads (code : Half) (h : Quiet n s t) : Quiet n s (Machine.interruptLoads code t) := by
  unfold Machine.interruptLoads
  apply_rules [failVerify, updProg]

theorem maskLane (i cause : Nat) (fp : Fingerprint) (h : Quiet n s t) : Quiet n s (Machine.maskLane i cause fp t) := by
  refine (h.updLane i _ fun m l hl => ?_).updVoter _
  obtain ⟨mem, -, fram, -⟩ := (memoriesWf_iff t).mp m
  simp only [LaneSt.memoriesWf, Bool.and_eq_true] at hl ⊢
  split
  · exact ⟨mem, fram⟩
  · exact hl

theorem lockLane (i cause : Nat) (h : Quiet n s t) : Quiet n s (Machine.lockLane i cause t) := by
  unfold Machine.lockLane
  exact ite h (record _ _ _ _ _ _ _ (h.updLane i _ fun _ _ hl => hl))

theorem afterExclusion (i cause : Nat) (fp : Fingerprint) (lockNow was3 : Bool) (h : Quiet n s t) :
    Quiet n s (Machine.afterExclusion i cause fp lockNow was3 t) := by
  unfold Machine.afterExclusion
  extract_lets s1 s2 s3 s4
  have h1 : Quiet n s s1 := h.record ..
  have h2 : Quiet n s s2 := ite (h1.lockLane _ _) h1
  have h3 : Quiet n s s3 := ite h2 (h2.updLane i _ fun _ _ hl => hl)
  have h4 : Quiet n s s4 := h3.interruptLoads _
  exact ite (h4.recordState _ _) h4

theorem lockTarget {second : State → State} (h₂ : ∀ u, Quiet n s u → Quiet n s (second u)) (i cause : Nat) (h : Quiet n s t) :
    Quiet n s (Machine.lockTarget second i cause t) := by
  unfold Machine.lockTarget
  exact ite (h.lockLane _ _) (ite (h₂ _ h) ((h.maskLane ..).afterExclusion ..))

theorem targetEffect {second : State → State} (h₂ : ∀ u, Quiet n s u → Quiet n s (second u)) (x : Target) (cause : Nat) (h : Quiet n s t) :
    Quiet n s (Machine.targetEffect second x cause t) := by
  cases x with
  | group g => exact h.stopGroup g
  | task i => exact h.updTask i _
  | twin => exact h.setPState _
  | channel _ => exact h
  | can c => exact h.updCan c _
  | ice => exact h.updIce (fun i => { i with stopped := true }) fun hi => hi
  | lane i => exact lockTarget h₂ i cause h

theorem decideBase {second : State → State} (h₂ : ∀ u, Quiet n s u → Quiet n s (second u)) (src code : Nat) (broken forced : Bool) (detail : Word)
    (specific : Option Half) (h : Quiet n s t) : Quiet n s (Machine.decideBase second src code broken forced detail specific t) := by
  unfold Machine.decideBase
  extract_lets d mask s1 s2 lk p0 p2 s3 s4
  have h3 : Quiet n s s3 := ((h.updSource _ _).updFcu _).record ..
  have h4 : Quiet n s s4 := by
    rcases lk with _ | ⟨k, i⟩
    · exact h3
    · exact h3.writeLock ..
  refine ite h4.enterSafe (ite ?_ h4)
  split
  · exact targetEffect h₂ _ _ h4
  · exact h4

theorem changeBase {second : State → State} (h₂ : ∀ u, Quiet n s u → Quiet n s (second u)) (src code : Nat) (forced : Bool) (detail : Word) (specific : Option Half)
    (endMs : Nat) (h : Quiet n s t) : Quiet n s (Machine.changeBase second src code forced detail specific endMs t) := by
  unfold Machine.changeBase
  exact ite (decideBase h₂ _ _ _ _ _ _ (h.updSource _ _)) (ite ((h.updSource _ _).record ..) (h.updSource _ _))

theorem presentBase {second : State → State} (h₂ : ∀ u, Quiet n s u → Quiet n s (second u)) (src : Nat) (rails : BitVec 2) (code : Nat) (detail : Word)
    (specific : Option Half) (h : Quiet n s t) : Quiet n s (Machine.presentBase second src rails code detail specific t) := by
  unfold Machine.presentBase
  exact ite h (changeBase h₂ _ _ _ _ _ _ ((ite (changeBase h₂ _ _ _ _ _ _ (h.updSource _ _)) h).updSource _ _))

theorem raiseNoAgree (h : Quiet n s t) : Quiet n s (Machine.raiseNoAgree t) :=
  presentBase (fun _ => id) _ _ _ _ _ h.drawFree

theorem patternChange (src code : Nat) (forced : Bool) (detail : Word) (specific : Option Half) (endMs : Nat) (h : Quiet n s t) :
    Quiet n s (Machine.patternChange src code forced detail specific endMs t) :=
  changeBase (fun _ => raiseNoAgree) _ _ _ _ _ _ h

theorem endPattern (src endMs : Nat) (h : Quiet n s t) : Quiet n s (Machine.endPattern src endMs t) := by
  unfold Machine.endPattern
  apply_rules [patternChange, updSource]

theorem presentUnlisted (src : Nat) (rails : BitVec 2) (h : Quiet n s t) :
    Quiet n s (Machine.presentUnlisted src rails t) := by
  unfold Machine.presentUnlisted
  exact ite (presentBase (fun _ => raiseNoAgree) _ _ _ _ _ (h.updSource _ _).drawFree) (h.updSource _ _)

theorem presentPattern (src : Nat) (rails : BitVec 2) (code : Nat) (detail : Word) (specific : Option Half) (h : Quiet n s t) :
    Quiet n s (Machine.presentPattern src rails code detail specific t) := by
  unfold Machine.presentPattern
  exact ite (presentBase (fun _ => raiseNoAgree) _ _ _ _ _ h) (h.presentUnlisted _ _)

theorem raise (src code detail : Nat) (specific : Option Half) (h : Quiet n s t) : Quiet n s (Machine.raise src code detail specific t) := by
  unfold Machine.raise
  apply_rules [presentPattern]

theorem raiseOpen (src code : Nat) (specific : Option Half) (h : Quiet n s t) : Quiet n s (Machine.raiseOpen src code specific t) := by
  unfold Machine.raiseOpen
  apply_rules [raise, drawFree]

theorem takeLost (k : Nat) (h : Quiet n s t) : Quiet n s (Machine.takeLost k t) := h.same rfl

theorem exclusionSteps (i cause : Nat) (fp : Fingerprint) (lockNow : Bool) (h : Quiet n s t) : Quiet n s (Machine.exclusionSteps i cause fp lockNow t) := by
  unfold Machine.exclusionSteps
  apply_rules [raise, afterExclusion, maskLane]

theorem excludeLane (i cause : Nat) (fp : Fingerprint) (lockNow : Bool) (h : Quiet n s t) : Quiet n s (Machine.excludeLane i cause fp lockNow t) := by
  unfold Machine.excludeLane
  apply_rules [exclusionSteps, raiseNoAgree, ite]

theorem laneFault (i cause : Nat) (h : Quiet n s t) : Quiet n s (Machine.laneFault i cause t) := by
  unfold Machine.laneFault
  apply_rules [excludeLane]

theorem laneFaultIn (cause : Nat) (lane : Option LaneId) (h : Quiet n s t) : Quiet n s (Machine.laneFaultIn cause lane t) := by
  unfold Machine.laneFaultIn
  split <;> apply_rules [laneFault]

theorem countRetries {f : LaneSt → LaneSt} (lane : Option LaneId) (h : Quiet n s t)
    (hf : ∀ l, (f l).memoriesWf = l.memoriesWf) : Quiet n s (Machine.countRetries f lane t) := by
  cases lane with
  | none => exact h
  | some i => exact h.updLane _ _ fun _ l hl => (hf l).trans hl

theorem voteAgreement (a : Agreement) (cause : Nat) {noAgree : State → State} (h : Quiet n s t)
    (hn : Quiet n s (noAgree t)) : Quiet n s (Machine.voteAgreement a cause noAgree t) := by
  cases a with
  | all => exact h
  | minority l x => exact h.excludeLane ..
  | none => exact hn

theorem recordConfig (p : Port) (op : Half) (payload : List Byte) (r : Reply) (h : Quiet n s t) : Quiet n s (Machine.recordConfig p op payload r t) := by
  unfold Machine.recordConfig
  apply_rules [record, ite]

theorem noteRead (p : Port) (h : Quiet n s t) : Quiet n s (Machine.noteRead p t) := by
  unfold Machine.noteRead
  apply_rules [updHif, ite]

theorem actAfter (p : Port) (a : Action) (h : Quiet n s t) : Quiet n s (Machine.actAfter p a t) := by
  unfold Machine.actAfter
  apply_rules [updHif]

/-! ### Handlers: a refusal, an arm, a choice between answers -/

theorem armToken (p : Port) (op : Half) (bound : List Word) (h : Quiet n s t) :
    Quiet n s (Machine.armToken p op bound t).2 := by
  unfold Machine.armToken
  dsimp only
  exact h.updPort p _ rfl rfl rfl rfl

theorem armReply (p : Port) (op : Half) (ws extra : List Word) (h : Quiet n s t) :
    Quiet n s (Machine.armReply p op ws extra t).2 :=
  h.armToken p op (boundWords ws)

theorem spendToken (p : Port) (op : Half) (h : Quiet n s t) : Quiet n s (Machine.spendToken p op t) :=
  h.updPort p _ rfl rfl rfl rfl

theorem ite_snd {α : Type} {c : Prop} [Decidable c] {a b : α × State} (h : Quiet n s a.2) (h' : Quiet n s b.2) :
    Quiet n s (if c then a else b).2 := by
  split <;> assumption

theorem checked (ws : List Word) (rs : List FieldRule) (k : Reply × State) (h : Quiet n s t) (hk : Quiet n s k.2) :
    Quiet n s (Machine.checked ws rs t k).2 := by
  unfold Machine.checked
  split <;> assumption

theorem armExecute (op : Half) {execute : Port → Half → List Word → State → Reply × State} (p : Port) (tag : Half)
    (payload : List Byte) (h : Quiet n s t) (he : Quiet n s (execute p tag (bytesWords payload) t).2) :
    Quiet n s (Machine.armExecute op execute p tag payload t).2 := by
  unfold Machine.armExecute
  dsimp only
  split
  · exact h
  · exact ite_snd (h.armReply ..) he

end Quiet

end Sys2Proof.Proofs
end

section
/-! SUPPORT. The same of commands, restarts, records stored, twin messages and program banks. -/
namespace Sys2Proof.Proofs
open Sys2Proof.Machine
namespace Quiet
variable {n : Slack} {s t u : State}

/-- The answer beside a state does not matter. -/
theorem reply {α : Type} {r : α} (h : Quiet n s t) : Quiet n s (r, t).2 := h

theorem executeLater (op : Half) (a : Action) (p : Port) (tag : Half) (ws : List Word) (h : Quiet n s t) :
    Quiet n s (Machine.executeLater op a p tag ws t).2 := by
  unfold Machine.executeLater
  exact reply (Quiet.actAfter _ _ (h.spendToken p op))

theorem refuseAt (cs : List FieldCheck) (k : Reply × State) (h : Quiet n s t) (hk : Quiet n s k.2) :
    Quiet n s (Machine.refuseAt cs t k).2 := by
  unfold Machine.refuseAt
  split <;> assumption

theorem inService_eff (h : t.inService = true) : ¬ offService t.eff := by
  simp only [State.inService, decide_eq_true_eq] at h
  simp [h, offService]


theorem handleIdent (p : Port) (tag : Half) (payload : List Byte) (h : Quiet n s t) :
    Quiet n s (Machine.handleIdent p tag payload t).2 := h.same rfl

theorem handleRstWarm (p : Port) (tag : Half) (payload : List Byte) (h : Quiet n s t) :
    Quiet n s (Machine.handleRstWarm p tag payload t).2 :=
  h.armExecute _ p tag payload (h.executeLater ..)

theorem handleRstCold (p : Port) (tag : Half) (payload : List Byte) (h : Quiet n s t) :
    Quiet n s (Machine.handleRstCold p tag payload t).2 :=
  h.armExecute _ p tag payload (h.executeLater ..)

theorem handleTestExit (p : Port) (tag : Half) (payload : List Byte) (h : Quiet n s t) :
    Quiet n s (Machine.handleTestExit p tag payload t).2 :=
  h.armExecute _ p tag payload (h.executeLater ..)

theorem dormantExecute (p : Port) (tag : Half) (ws : List Word) (h : Quiet n s t) :
    Quiet n s (Machine.dormantExecute p tag ws t).2 := by
  unfold Machine.dormantExecute
  exact ite_snd h (h.executeLater ..)

theorem handlePwrDormant (p : Port) (tag : Half) (payload : List Byte) (h : Quiet n s t) :
    Quiet n s (Machine.handlePwrDormant p tag payload t).2 := by
  unfold Machine.handlePwrDormant
  apply_rules [dormantExecute, armExecute]

theorem testEnterExecute (p : Port) (x1 : Half) (x2 : List Word) (h : Quiet n s t) (w : ¬ offService t.eff) :
    Quiet n s (Machine.testEnterExecute p x1 x2 t).2 :=
  ((h.spendToken p 0x0104).record ..).enterEff .test (.inr w)

theorem handleTestEnter (p : Port) (tag : Half) (payload : List Byte) (h : Quiet n s t) (w : ¬ offService t.eff) :
    Quiet n s (Machine.handleTestEnter p tag payload t).2 :=
  h.armExecute _ p tag payload (h.testEnterExecute _ _ _ w)

theorem rimeArmDo (p : Port) (x1 : Half) (x2 : List Word) (h : Quiet n s t) : Quiet n s (Machine.rimeArmDo p x1 x2 t).2 := by
  unfold Machine.rimeArmDo
  apply_rules [spendToken, record, updRimeArmed, ite_snd, ite]

theorem handleRimeArm (p : Port) (tag : Half) (payload : List Byte) (h : Quiet n s t) :
    Quiet n s (Machine.handleRimeArm p tag payload t).2 := by
  unfold Machine.handleRimeArm
  apply_rules [rimeArmDo, armExecute]

theorem timeSetLoad (ws : List Word) (h : Quiet n s t) : Quiet n s (Machine.timeSetLoad ws t).2 := by
  unfold Machine.timeSetLoad
  exact h.checked _ _ _ (ite_snd h (ite_snd h (reply (h.updTb _))))

theorem timeSetPoints (ws : List Word) (h : Quiet n s t) : Quiet n s (Machine.timeSetPoints ws t).2 := by
  unfold Machine.timeSetPoints
  exact h.checked _ _ _ (reply (h.updTb _))

theorem handleTimeSet (p : Port) (tag : Half) (payload : List Byte) (h : Quiet n s t) :
    Quiet n s (Machine.handleTimeSet p tag payload t).2 := by
  unfold Machine.handleTimeSet
  apply_rules [timeSetPoints, timeSetLoad, ite_snd, ite]

theorem noteSeq (r : IceRec) (h : Quiet n s t) : Quiet n s (Machine.noteSeq r t) := by
  unfold Machine.noteSeq
  exact ite (h.updSource _ _) (ite (updFram _ h fun w => w) h)

theorem moveMark (seq : Word) (h : Quiet n s t) : Quiet n s (Machine.moveMark seq t) := by
  refine updFram _ h fun w => ?_
  split <;> exact w

theorem persist (r : IceRec) (h : Quiet n s t) : Quiet n s (Machine.persist r t) := by
  unfold Machine.persist
  split
  · exact h
  · split
    · next room =>
      exact updIce _ h fun hi => ⟨hi.1, hi.2.1, by simp only [List.length_append, List.length_singleton]; omega, hi.2.2.2⟩
    · exact raiseOpen _ _ _ (updIce _ h fun hi => hi)

theorem storePlace_length {r : IceRec} {l l' : List IceRec} (hl : l.length ≤ 65536) (e : storePlace r l = some l') :
    l'.length ≤ 65536 := by
  unfold storePlace at e
  split at e
  · cases e
    simp only [List.length_append, List.length_singleton]
    omega
  · split at e
    · next low =>
      cases e
      obtain ⟨x, hx, px⟩ := List.any_eq_true.mp low
      have := List.length_eraseP_of_mem (p := fun x : IceRec => decide (x.sev ≤ r.sev)) hx px
      have := List.length_pos_of_mem hx
      simp only [List.length_append, List.length_singleton]
      omega
    · cases e


theorem iceTake (h : Quiet n s t) : Quiet n s (Machine.iceTake t) := by
  unfold Machine.iceTake
  split
  · exact h
  · next r rest hin =>
    have shorter (hi : iceBounded t.ice) : rest.length ≤ 64 := by
      have := hi.1
      rw [hin, List.length_cons] at this
      omega
    dsimp only
    split
    · exact updIce _ h fun hi => ⟨shorter hi, hi.2⟩
    · next place =>
      exact persist _ (moveMark _ (noteSeq _ (updIce _ h fun hi => ⟨shorter hi, storePlace_length hi.2.1 place, hi.2.2⟩)))

theorem iceDrain (k : Nat) (h : Quiet n s t) : Quiet n s (Machine.iceDrain k t) := by
  induction k generalizing t with
  | zero => exact h
  | succ k ih => exact ih h.iceTake

theorem ringAppend_length (ring new : List IceRec) : (ringAppend ring new).length ≤ 262144 := by
  simp only [ringAppend, lastN, List.length_drop]
  omega


theorem pageWrite (h : Quiet n s t) : Quiet n s (Machine.pageWrite t) := by
  refine updIce _ h fun hi => ?_
  split
  · exact hi
  · simp only [iceBounded]
    exact ⟨hi.1, hi.2.1, (List.length_drop ..).trans_le ((Nat.sub_le _ _).trans hi.2.2.1), ringAppend_length _ _⟩

theorem writeAllPages (h : Quiet n s t) : Quiet n s (Machine.writeAllPages t) := by
  refine updIce _ h fun hi => ?_
  split
  · exact hi
  · simp only [iceBounded]
    exact ⟨hi.1, hi.2.1, Nat.zero_le _, ringAppend_length _ _⟩

theorem beforeRestart (h : Quiet n s t) : Quiet n s (Machine.beforeRestart t) :=
  ((h.updFram commitAll commitAll_wf).iceDrain 80).writeAllPages

theorem restart_memoriesWf (warm : Bool) {l : LaneSt} (hl : l.memoriesWf = true) : (l.restart warm).memoriesWf = true := by
  simp only [LaneSt.memoriesWf, Bool.and_eq_true] at hl ⊢
  unfold LaneSt.restart
  split <;> exact ⟨rfl, hl.2⟩

theorem iceBounded_restart (warm : Bool) (mark : Word) {i : Ice} (hi : iceBounded i) : iceBounded (i.restart warm mark) := by
  unfold Ice.restart
  split
  · exact ⟨Nat.zero_le _, hi.2.1, Nat.zero_le _, hi.2.2.2⟩
  · exact ⟨Nat.zero_le _, Nat.zero_le _, Nat.zero_le _, hi.2.2.2⟩


theorem startAs (kind : StartKind) (cause : Nat) (h : Quiet n s t) (hn : n.drains = true) :
    Quiet n s (Machine.startAs kind cause t) := by
  refine recordState _ _ (record _ _ _ _ _ _ _ ?_)
  constructor
  case wf =>
    intro hs
    obtain ⟨mem, -, fram, lanes, -⟩ := (memoriesWf_iff t).mp (h.wf hs)
    have lane : ∀ i (_ : i < 3), (t.lanes.map (LaneSt.restart (decide (kind = .warm))))[i].memoriesWf = true := fun i hi => by
      rw [Vector.getElem_map]
      exact restart_memoriesWf _ (lanes i hi)
    rw [memoriesWf_iff]
    refine ⟨?_, ?_, fram, lane, fun j hj => nomatch hj⟩
    · show Memory.wf (if decide (kind = .warm) = true then warmImage t.mem else []) = true
      split
      · exact warmImage_wf mem
      · rfl
    · dsimp only
      exact canBuffers_wf _ _ (canBuffers_wf _ _ (x := []) rfl)
  case mail => exact fun q => .inr ⟨hn, by cases q <;> exact ⟨Nat.zero_le _, Nat.zero_le _⟩⟩
  case pend => exact fun q => by cases q <;> exact Nat.zero_le _
  case ice => exact fun hi => iceBounded_restart _ _ (h.ice hi)
  case cos => exact fun _ => Nat.zero_le _
  case safe => exact fun _ => .inr (.inr (.inl rfl))

theorem restart (kind : StartKind) (cause : Nat) (h : Quiet n s t) (hn : n.drains = true) :
    Quiet n s (Machine.restart kind cause t) :=
  h.beforeRestart.startAs kind cause hn

theorem setTaskRecord (k : Nat) (r : Word) (h : Quiet n s t) : Quiet n s (Machine.setTaskRecord k r t) := h.same rfl

theorem taskWrite (k : Nat) (r : Word) (h : Quiet n s t) : Quiet n s (Machine.taskWrite k r t).2 := by
  unfold Machine.taskWrite
  dsimp only
  (repeat' split) <;> apply_rules [setTaskRecord, ite_snd, ite]

theorem taskClear (k : Nat) (r : Word) (h : Quiet n s t) (w : ¬ offService t.eff) : Quiet n s (Machine.taskClear k r t) := by
  unfold Machine.taskClear
  exact ite ((h.setTaskRecord _ _).updTask _ _) (leaveService _ (((h.setTaskRecord _ _).updTask _ _).updTasks _) (.inr w))

theorem handleTaskCfg (p : Port) (tag : Half) (payload : List Byte) (h : Quiet n s t) :
    Quiet n s (Machine.handleTaskCfg p tag payload t).2 := by
  refine h.refuseAt _ _ ?_
  split
  · exact ite_snd h (h.taskWrite ..)
  · exact ite_snd (h.armReply ..) h
  · split
    · next clears =>
      exact (h.spendToken p 0x0201).taskClear _ _ (inService_eff (Bool.and_eq_true_iff.mp clears).1)
    · exact h

theorem handleIoCfg (p : Port) (tag : Half) (payload : List Byte) (h : Quiet n s t) :
    Quiet n s (Machine.handleIoCfg p tag payload t).2 :=
  h.refuseAt _ _ (reply (h.updIo _ rfl))

theorem handleTwinCfg (p : Port) (tag : Half) (payload : List Byte) (h : Quiet n s t) :
    Quiet n s (Machine.handleTwinCfg p tag payload t).2 :=
  h.refuseAt _ _ (ite ((h.updTwin _ rfl).updKeys _) (h.updTwin _ rfl))

theorem floeWrite (r : List Word) (h : Quiet n s t) : Quiet n s (Machine.floeWrite r t).2 := by
  unfold Machine.floeWrite
  apply_rules [updKeys, updFloe, ite_snd, ite]

theorem handleFloeCfg (p : Port) (tag : Half) (payload : List Byte) (h : Quiet n s t) :
    Quiet n s (Machine.handleFloeCfg p tag payload t).2 := by
  refine h.refuseAt _ _ ?_
  split
  · exact ite_snd h (h.floeWrite ..)
  · exact ite_snd (h.armReply ..) h
  · exact ite_snd ((h.spendToken ..).updKeys _) h

theorem endLoad (m : Nat) (h : Quiet n s t) : Quiet n s (Machine.endLoad m t) := h.same rfl

theorem setSched (m : Nat) (x : Option (List Word)) (h : Quiet n s t) : Quiet n s (Machine.setSched m x t) := h.same rfl

theorem schedChunk (p : Port) (m : Nat) (last : Bool) (all : List Word) (h : Quiet n s t) :
    Quiet n s (Machine.schedChunk p m last all t).2 := by
  unfold Machine.schedChunk
  refine ite_snd ?_ (reply (h.updFloe _))
  split
  · exact h.endLoad _
  · exact (h.endLoad _).setSched _ _

theorem schedClear (m len : Nat) (h : Quiet n s t) : Quiet n s (Machine.schedClear m len t).2 := by
  unfold Machine.schedClear
  apply_rules [setSched, endLoad, ite_snd, ite]

theorem handleFloeSched (p : Port) (tag : Half) (payload : List Byte) (h : Quiet n s t) :
    Quiet n s (Machine.handleFloeSched p tag payload t).2 := by
  refine h.refuseAt _ _ (ite_snd (h.schedClear ..) (ite_snd h (ite_snd (ite_snd h (h.schedChunk ..)) ?_)))
  split
  · exact h
  · exact ite_snd h (ite_snd h (h.schedChunk ..))

theorem handleFloeModereq (p : Port) (tag : Half) (payload : List Byte) (h : Quiet n s t) :
    Quiet (n.more p) s (Machine.handleFloeModereq p tag payload t).2 :=
  have h' := h.more p
  h'.refuseAt _ _ (ite_snd h' (ite_snd h' ((h.updFloe _).pendStart ..)))

theorem endModereq (r : Reply) (h : Quiet n s t) : Quiet n s (Machine.endModereq r t) := by
  unfold Machine.endModereq
  split <;> apply_rules [complete, updFloe]

theorem sendMsg (mtype prio : Nat) (body : List Byte) (h : Quiet n s t) : Quiet n s (Machine.sendMsg mtype prio body t) := by
  unfold Machine.sendMsg
  apply_rules [updTwin, ite_snd, ite]

theorem drainLink (h : Quiet n s t) : Quiet n s (Machine.drainLink t) := h.same rfl

theorem onPayload (mtype : Nat) (m : List Byte) (act : List Byte → State → State) (h : Quiet n s t)
    (ha : ∀ b u, Quiet n s u → Quiet n s (act b u)) :
    Quiet n s (Machine.onPayload mtype m act t) := by
  unfold Machine.onPayload
  exact ite h (ite (h.updTwin _ rfl) (ite (ite ((h.updTwin _ rfl).raiseOpen ..) (h.updTwin _ rfl)) (ha _ _ (h.updTwin _ rfl))))

theorem onMessage (mtype : Nat) (frame : List Byte) (act : List Byte → State → State) (h : Quiet n s t)
    (ha : ∀ b u, Quiet n s u → Quiet n s (act b u)) :
    Quiet n s (Machine.onMessage mtype frame act t) := by
  unfold Machine.onMessage
  split
  · exact h.onPayload _ _ _ ha
  · exact h

theorem abandonRecord (reason kind : Nat) (h : Quiet n s t) : Quiet n s (Machine.abandonRecord reason kind t) := by
  unfold Machine.abandonRecord
  apply_rules [raiseOpen, record]

theorem endSplit (r : Reply) (h : Quiet n s t) : Quiet n s (Machine.endSplit r t) := by
  unfold Machine.endSplit
  dsimp only
  (repeat' split) <;> apply_rules [complete, updTwin]

theorem abandonSplit (reason : Nat) (h : Quiet n s t) : Quiet n s (Machine.abandonSplit reason t) := by
  unfold Machine.abandonSplit
  apply_rules [endSplit, abandonRecord, ite_snd, ite]

theorem abandonJoin (reason : Nat) (h : Quiet n s t) : Quiet n s (Machine.abandonJoin reason t) := by
  unfold Machine.abandonJoin
  split
  · exact h
  · next j _ =>
    have h1 : Quiet n s (t.updTwin fun x => { x with join := none, retryMs := t.tb.ms + 1000 }) :=
      h.updTwinJoin _ fun _ _ hj => nomatch hj
    have h2 := ite (c := j.mine = true ∧ t.twin.ps = .joining) (h1.setPState j.cameFrom) h1
    refine Quiet.abandonRecord _ _ ?_
    split
    · exact h2.complete ..
    · exact h2

theorem sendAbort (reason : Nat) (h : Quiet n s t) : Quiet n s (Machine.sendAbort reason t) := by
  unfold Machine.sendAbort
  apply_rules [sendMsg]

theorem dropJoin (reason : Nat) (h : Quiet n s t) : Quiet n s (Machine.dropJoin reason t) := by
  unfold Machine.dropJoin
  apply_rules [sendAbort, abandonJoin, ite_snd, ite]

theorem dropSplit (reason : Nat) (h : Quiet n s t) : Quiet n s (Machine.dropSplit reason t) := by
  unfold Machine.dropSplit
  apply_rules [sendAbort, abandonSplit, ite_snd, ite]

theorem openReason {k : Nat → State → State} (h : Quiet n s t) (hk : ∀ x u, Quiet n s u → Quiet n s (k x u)) :
    Quiet n s (Machine.openReason k t) :=
  hk _ _ h.drawFree

theorem updStandby (f : Bank → Bank) (h : Quiet n s t) : Quiet n s (Machine.updStandby f t) := h.same rfl

theorem storeChunk (first : Bool) (b : Bank) (data : List Byte) (h : Quiet n s t) :
    Quiet n s (Machine.storeChunk first b data t).2 := by
  unfold Machine.storeChunk
  dsimp only
  split <;> apply_rules [updStandby, ite_snd, ite]

theorem handlePrgLoad (p : Port) (tag : Half) (payload : List Byte) (h : Quiet n s t) :
    Quiet n s (Machine.handlePrgLoad p tag payload t).2 :=
  h.refuseAt _ _ (ite_snd (ite_snd h (ite_snd h (h.storeChunk ..))) (ite_snd h (ite_snd h (h.storeChunk ..))))

theorem handlePrgVerify (p : Port) (tag : Half) (payload : List Byte) (h : Quiet n s t) :
    Quiet (n.more p) s (Machine.handlePrgVerify p tag payload t).2 := by
  unfold Machine.handlePrgVerify
  split
  iterate 3 exact (h.updStandby _).pendStart ..
  exact h.more p

theorem verifyFails (c : Option (Port × Half)) (code : Half) (inDesc : Bool) (off : Nat) (h : Quiet n s t) :
    Quiet n s (Machine.verifyFails c code inDesc off t) := by
  unfold Machine.verifyFails
  split <;> apply_rules [updStandby, complete]

theorem verifyPasses (c : Option (Port × Half)) (slots : List Nat) (h : Quiet n s t) :
    Quiet n s (Machine.verifyPasses c slots t) := by
  unfold Machine.verifyPasses
  split <;> apply_rules [updStandby, complete]

theorem nandDiffers (c : Option (Port × Half)) (h : Quiet n s t) : Quiet n s (Machine.nandDiffers c t) := by
  unfold Machine.nandDiffers
  apply_rules [verifyFails, drawFree]

theorem sendStsig (wkind wid : Nat) (sig : Dword) (h : Quiet n s t) : Quiet n s (Machine.sendStsig wkind wid sig t) := by
  unfold Machine.sendStsig
  apply_rules [sendMsg, updTwin, ite_snd, ite]

theorem takeBank (src : Nat) (b : Bool) (h : Quiet n s t) : Quiet n s (Machine.takeBank src b t) := by
  unfold Machine.takeBank
  apply_rules [touchBlocks, record, updTasks, updProg]

theorem remapNow (h : Quiet n s t) : Quiet n s (Machine.remapNow t) := by
  unfold Machine.remapNow
  split
  · next old new _ _ =>
    have h1 := (((h.updProg fun p => { p with remapFrom := none }).writeImage
      (remapBlocks ++ (remapImage old new t.mem (crc64Fold crc64Init (windowBytes 8 0 t.relRound))).blocks)
      (remapImage old new t.mem (crc64Fold crc64Init (windowBytes 8 0 t.relRound))).mem fun m =>
        remapImage_wf _ _ _ ((memoriesWf_iff _).mp m).1).updXsram (remapSeqs old new) (remapSeqs_wf _ _)).updTasks
      fun x => { x with newEls := freshElements old new x.newEls, oc := remapStatus new x.oc }
    have h2 := h1.updFram (fun f => reformatHome new (commitAll f)) fun _ => reformatHome_wf _ _
    exact ite (h2.takeLost 8) (h2.sendStsig _ _ _)
  · exact h

theorem switchBank (src : Nat) (b : Bool) (h : Quiet n s t) : Quiet n s (Machine.switchBank src b t) := by
  unfold Machine.switchBank
  apply_rules [remapNow, takeBank]

theorem answerClient (c : Option (Port × Half)) (r : Reply) (h : Quiet n s t) : Quiet n s (Machine.answerClient c r t) := by
  unfold Machine.answerClient
  split <;> apply_rules [complete]

theorem abandonActivation (code : Code) (group : Nat) (h : Quiet n s t) : Quiet n s (Machine.abandonActivation code group t) := by
  unfold Machine.abandonActivation
  split <;> apply_rules [answerClient, record, updProg]

theorem reportLater (c : Option (Port × Half)) (h : Quiet n s t) : Quiet n s (Machine.reportLater c t) := h.same rfl

theorem reportActivation (h : Quiet n s t) : Quiet n s (Machine.reportActivation t) := by
  unfold Machine.reportActivation
  split <;> apply_rules [complete, updProg]

theorem setSchedule (a : Activation) (h : Quiet n s t) : Quiet n s (Machine.setSchedule a t) := h.same rfl

theorem scheduleActivation (p : Port) (tag : Half) (lit desc : Dword) (h : Quiet n s t) :
    Quiet n s (Machine.scheduleActivation p tag lit desc t) := by
  unfold Machine.scheduleActivation
  apply_rules [setSchedule, sendMsg, ite_snd, ite]

theorem activateExecute (p : Port) (tag : Half) (ws : List Word) (h : Quiet n s t) :
    Quiet (n.more p) s (Machine.activateExecute p tag ws t).2 := by
  unfold Machine.activateExecute
  dsimp only
  split
  · exact h.more p
  · have h1 := (h.spendToken p 0x0403).pendStart p 0x0403 tag
    exact ite_snd (h1.scheduleActivation ..) ((h1.switchBank ..).complete ..)

theorem handlePrgActivate (p : Port) (tag : Half) (payload : List Byte) (h : Quiet n s t) :
    Quiet (n.more p) s (Machine.handlePrgActivate p tag payload t).2 := by
  unfold Machine.handlePrgActivate
  dsimp only
  split
  · exact h.more p
  · exact ite_snd ((h.more p).armReply ..) (h.activateExecute ..)

theorem actForwarded (b : List Byte) (h : Quiet n s t) : Quiet n s (Machine.actForwarded b t) := by
  unfold Machine.actForwarded
  refine ite h ?_
  split
  · exact h.sendMsg ..
  · exact (h.setSchedule _).sendMsg ..

theorem actRefused (round : Nat) (h : Quiet n s t) : Quiet n s (Machine.actRefused round t) := by
  unfold Machine.actRefused
  split <;> apply_rules [abandonActivation, ite_snd, ite]

theorem actProposed (b : List Byte) (h : Quiet n s t) : Quiet n s (Machine.actProposed b t) := by
  unfold Machine.actProposed
  dsimp only
  (repeat' split) <;> apply_rules [actRefused, setSchedule, abandonActivation, sendMsg, updProg, ite_snd, ite]

theorem actConfirmed (b : List Byte) (h : Quiet n s t) : Quiet n s (Machine.actConfirmed b t) := by
  unfold Machine.actConfirmed
  split <;> apply_rules [setSchedule, abandonActivation, ite_snd, ite]

theorem settleConfirmation (h : Quiet n s t) : Quiet n s (Machine.settleConfirmation t) := by
  unfold Machine.settleConfirmation
  split <;> apply_rules [setSchedule, ite_snd, ite]

theorem handleFwStage (p : Port) (tag : Half) (payload : List Byte) (h : Quiet n s t) :
    Quiet n s (Machine.handleFwStage p tag payload t).2 :=
  h.refuseAt _ _ (ite_snd h (ite_snd h (ite_snd h (reply (h.updFw _)))))

theorem fwActivateDo (p : Port) (tag : Half) (ws : List Word) (h : Quiet n s t) :
    Quiet n s (Machine.fwActivateDo p tag ws t).2 := by
  unfold Machine.fwActivateDo
  exact ite_snd h (h.executeLater ..)

theorem handleFwActivate (p : Port) (tag : Half) (payload : List Byte) (h : Quiet n s t) :
    Quiet n s (Machine.handleFwActivate p tag payload t).2 := by
  unfold Machine.handleFwActivate
  apply_rules [fwActivateDo, armExecute]

theorem countCheck (v : Verdict200) (ch : Chan) (h : Quiet n s t) : Quiet n s (Machine.countCheck v ch t) := h.same rfl

theorem duplicateMismatch (key : Nat) (ch : Chan) (p : List Byte) (h : Quiet n s t) :
    Quiet n s (Machine.duplicateMismatch key ch p t) := by
  unfold Machine.duplicateMismatch
  apply_rules [record, updFloe, ite_snd, ite]

end Quiet

end Sys2Proof.Proofs
end

section
/-! SUPPORT. The same of the twin pair, CAN, the fabric, cycles, lanes and local I/O. -/
namespace Sys2Proof.Proofs
open Sys2Proof.Machine
namespace Quiet
variable {n : Slack} {s t u : State}

theorem whileRunning {f : State → State} (h : Quiet n s t) (hf : Quiet n s (f t)) : Quiet n s (Machine.whileRunning f t) :=
  ite hf h

theorem checkBuffer (key : Nat) (check : List Byte → Verdict200) (prim alt : List Byte) (h : Quiet n s t) :
    Quiet n s (Machine.checkBuffer key check prim alt t).2.2 := by
  unfold Machine.checkBuffer
  extract_lets buf ach v v2 s1 s2
  have h1 : Quiet n s s1 := h.countCheck _ _
  have h2 : Quiet n s s2 := ite h1 (h1.countCheck _ _)
  exact ite (h2.duplicateMismatch ..) h2

theorem updateData (release : Nat) (e : Nat × List Byte × List Byte) (h : Quiet n s t) :
    Quiet n s (Machine.updateData release e t) := by
  unfold Machine.updateData
  have hb := h.checkBuffer (dataKey e.1) (checkData t e.1 release) e.2.1 e.2.2
  generalize Machine.checkBuffer (dataKey e.1) (checkData t e.1 release) e.2.1 e.2.2 t = x at hb ⊢
  obtain ⟨v, v2, u⟩ := x
  dsimp only at hb ⊢
  split
  · exact hb.updFloe _
  · exact hb

theorem mem_wf (h : t.memoriesWf = true) : Memory.wf t.mem = true := ((memoriesWf_iff t).mp h).1


theorem updateController (b : Bank) (release r : Nat) (e : OcRec × List Byte × List Byte) (h : Quiet n s t) :
    Quiet n s (Machine.updateController b release r e t) := by
  unfold Machine.updateController
  obtain ⟨c, prim, alt⟩ := e
  dsimp -zeta only
  extract_lets old f l p new missed lost valid loss new' s1 m0 m1 s2
  have hb := h.checkBuffer c.node (checkStatus t c old release) prim alt
  have h1 : Quiet n s s1 := hb.updTasks _
  have h2 : Quiet n s s2 := h1.writeImage _ _ fun m => by
    have w : Memory.wf m0 = true := bitWrite_wf _ _ _ (mem_wf m)
    show Memory.wf (if _ then _ else _) = true
    split
    · exact writeInputs_wf _ _ _ w
    · rcases f with _ | q
      · exact w
      · exact writeInputs_wf _ _ _ w
  exact ite (h2.record ..) (ite (h2.record ..) h2)

theorem latchSlice (b : Bank) (task : Nat) (c : Cycle) (h : Quiet n s t) : Quiet n s (Machine.latchSlice b task c t) := by
  unfold Machine.latchSlice
  dsimp only
  refine writeImage _ _ (Quiet.touchBlocks _ ?_) fun m => latchHost_wf _ _ _ (latchLocal_wf _ _ _ ?_)
  · exact (h.foldl _ fun _ _ hu => hu.updateController ..).foldl _ fun _ _ hu => hu.updateData ..
  · have w := mem_wf m
    rwa [touchBlocks_mem] at w

theorem goSilent (cause cls : Nat) (h : Quiet n s t) : Quiet n s (Machine.goSilent cause cls t) := by
  unfold Machine.goSilent
  apply_rules [raiseOpen, setPState, updTwin]

theorem updRun (task : Nat) (f : Cycle → Cycle) (h : Quiet n s t) : Quiet n s (Machine.updRun task f t) := h.same rfl

theorem sendSlice (task round : Nat) (sl : List Byte) (h : Quiet n s t) : Quiet n s (Machine.sendSlice task round sl t) :=
  h.foldl _ fun _ _ hu => hu.sendMsg ..

theorem countAdopt (h : Quiet n s t) : Quiet n s (Machine.countAdopt t) := h.same rfl

theorem resolveAgreement (task : Nat) (h : Quiet n s t) : Quiet n s (Machine.resolveAgreement task t) := by
  unfold Machine.resolveAgreement
  dsimp only
  (repeat' split) <;> apply_rules [countAdopt, sendSlice, updRun, goSilent, ite_snd, ite]

theorem meetSignatures (task : Nat) (h : Quiet n s t) : Quiet n s (Machine.meetSignatures task t) := by
  unfold Machine.meetSignatures
  apply_rules [resolveAgreement, ite_snd, ite]

theorem endWait (task : Nat) (h : Quiet n s t) : Quiet n s (Machine.endWait task t) := h.same rfl

theorem endWaits (h : Quiet n s t) : Quiet n s (Machine.endWaits t) := by
  unfold Machine.endWaits
  refine ite (h.foldl _ fun u k hu => ?_) h
  split
  · exact ite (hu.endWait _) hu
  · exact hu

theorem insigTaken (b : List Byte) (h : Quiet n s t) : Quiet n s (Machine.insigTaken b t) := by
  unfold Machine.insigTaken
  dsimp only
  split <;> apply_rules [meetSignatures, updRun, ite_snd, ite]

theorem adoptSlice (task : Nat) (c : Cycle) (bytes : List Byte) (h : Quiet n s t) :
    Quiet n s (Machine.adoptSlice task c bytes t) := by
  unfold Machine.adoptSlice
  apply_rules [countAdopt, updRun, goSilent, ite_snd, ite]

theorem insliceTaken (b : List Byte) (h : Quiet n s t) : Quiet n s (Machine.insliceTaken b t) := by
  unfold Machine.insliceTaken
  dsimp only
  split <;> apply_rules [adoptSlice, updRun, ite_snd, ite]

theorem divergence (what round : Nat) (own peer : Dword) (h : Quiet n s t) :
    Quiet n s (Machine.divergence what round own peer t) := by
  unfold Machine.divergence
  extract_lets s1 rec' again s2 s3
  have h2 : Quiet n s s2 := (h.updTwin _ rfl).updTwin _ rfl
  have h3 : Quiet n s s3 := (h2.updTwin _ rfl).record ..
  exact ite (raiseOpen _ _ _ (h2.record ..)) (ite ((h3.setPState _).raiseOpen ..) (h3.goSilent ..))

theorem shadowCycle (task : Nat) (own : Nat × Bool × Dword × Dword × Word) (peer : Nat × Bool × Dword × Dword) (h : Quiet n s t) :
    Quiet n s (Machine.shadowCycle task own peer t) := by
  unfold Machine.shadowCycle
  apply_rules [updTask, record, updTwin, ite_snd, ite]

theorem compareCycle (task : Nat) (h : Quiet n s t) : Quiet n s (Machine.compareCycle task t) := by
  unfold Machine.compareCycle
  dsimp only
  (repeat' split) <;> apply_rules [shadowCycle, divergence, updTask, ite_snd, ite]

theorem twcmpTaken (b : List Byte) (h : Quiet n s t) : Quiet n s (Machine.twcmpTaken b t) := by
  unfold Machine.twcmpTaken
  apply_rules [compareCycle, updTask]

theorem compareWindow (h : Quiet n s t) : Quiet n s (Machine.compareWindow t) := by
  unfold Machine.compareWindow
  split <;> apply_rules [divergence, updTwin, ite_snd, ite]

theorem stsigTaken (b : List Byte) (h : Quiet n s t) : Quiet n s (Machine.stsigTaken b t) := by
  unfold Machine.stsigTaken
  apply_rules [compareWindow, updTwin]

theorem comparisonTimeout (task : Nat) (h : Quiet n s t) : Quiet n s (Machine.comparisonTimeout task t) := by
  unfold Machine.comparisonTimeout
  apply_rules [goSilent, updTask, updTwin, ite_snd, ite]

theorem setBufWord (ch : CanCh) (b i : Nat) (w : Word) (h : Quiet n s t) : Quiet n s (Machine.setBufWord ch b i w t) :=
  h.updXsram _ (memWriteWord_wf _ _)

theorem markBuf (ch : CanCh) (b : Nat) (clear set : Word) (h : Quiet n s t) : Quiet n s (Machine.markBuf ch b clear set t) := by
  unfold Machine.markBuf
  apply_rules [setBufWord]

theorem fillBuf (ch : CanCh) (b : Nat) (w1 w2 w3 : Word) (data : List Byte) (h : Quiet n s t) :
    Quiet n s (Machine.fillBuf ch b w1 w2 w3 data t) :=
  h.updXsram _ (memWriteBytes_wf _ _)

theorem loadBus (ch : CanCh) (h : Quiet n s t) : Quiet n s (Machine.loadBus ch t) := by
  unfold Machine.loadBus
  apply_rules [updCan, updCan, updCan, ite_snd, ite]

theorem endAttempt (ch : CanCh) (h : Quiet n s t) : Quiet n s (Machine.endAttempt ch t) := by
  unfold Machine.endAttempt
  apply_rules [loadBus, updCan, updCan, updCan]

theorem retry (ch : CanCh) (b : Nat) (h : Quiet n s t) : Quiet n s (Machine.retry ch b t) := by
  unfold Machine.retry
  apply_rules [endAttempt, markBuf, ite_snd, ite]

theorem loadCan (ch : CanCh) (rec : List Word) (h : Quiet n s t) : Quiet n s (Machine.loadCan ch rec t) :=
  (h.updCan ch _).updXsram _ (canBuffers_wf _ _)

theorem frameDone (ch : CanCh) (h : Quiet n s t) : Quiet n s (Machine.frameDone ch t) := by
  unfold Machine.frameDone
  split
  · exact h.loadCan ..
  · exact h.haltCan _
  · exact h

theorem handleCanCfg (p : Port) (tag : Half) (payload : List Byte) (h : Quiet n s t) :
    Quiet n s (Machine.handleCanCfg p tag payload t).2 :=
  ite_snd h (h.refuseAt _ _ (reply (ite (h.updCan _ _) (h.afterFrame _ _ fun _ hu => hu.loadCan ..))))

theorem abortBuf (ch : CanCh) (b : Nat) (h : Quiet n s t) : Quiet n s (Machine.abortBuf ch b t) := by
  unfold Machine.abortBuf
  apply_rules [endAttempt, markBuf, drawFree, updCan, updCan, updCan, ite_snd, ite]

theorem requestBuf (ch : CanCh) (b : Nat) (once : Bool) (w2 w3 : Word) (data : List Byte) (h : Quiet n s t) :
    Quiet n s (Machine.requestBuf ch b once w2 w3 data t) :=
  Quiet.loadBus ch (updCan ch _ (Quiet.markBuf _ _ _ _ (h.fillBuf ..)))

theorem bufReply (ch : CanCh) (b : Nat) (h : Quiet n s t) : Quiet n s (Machine.bufReply ch b t).2 := h.same rfl

theorem handleCanSend (p : Port) (tag : Half) (payload : List Byte) (h : Quiet n s t) :
    Quiet n s (Machine.handleCanSend p tag payload t).2 := by
  refine h.refuseAt _ _ (ite_snd h (ite_snd h (reply ?_)))
  have hm := fun ch b => ite (c := tst (wordAt payload 0) 6 = true) (h.markBuf ch b (bSusp ||| bColl) 0) h
  exact ite ((hm _ _).abortBuf ..) (ite ((hm _ _).requestBuf ..) (hm _ _))

theorem releaseBuf (ch : CanCh) (b : Nat) (h : Quiet n s t) : Quiet n s (Machine.releaseBuf ch t b) := by
  unfold Machine.releaseBuf
  apply_rules [markBuf, ite_snd, ite]

theorem holdLock (ch : CanCh) (bs : List Nat) (h : Quiet n s t) : Quiet n s (Machine.holdLock ch bs t) := by
  unfold Machine.holdLock
  split <;> apply_rules [markBuf]

theorem handleCanRead (cutOff : Bool) (p : Port) (tag : Half) (payload : List Byte) (h : Quiet n s t) :
    Quiet n s (Machine.handleCanRead cutOff p tag payload t).2 :=
  h.refuseAt _ _ (ite_snd h (reply (ite ((h.foldl _ fun _ _ hu => hu.releaseBuf ..).holdLock ..)
    (h.foldl _ fun _ _ hu => hu.releaseBuf ..))))

theorem storeIn (ch : CanCh) (b : Nat) (ovr : Bool) (w1 w2 sof : Word) (data : List Byte) (h : Quiet n s t) :
    Quiet n s (Machine.storeIn ch b ovr w1 w2 sof data t) :=
  updCan ch _ (Quiet.markBuf _ _ _ _ (h.fillBuf ..))

theorem storeFrame (ch : CanCh) (w1 w2 sof : Word) (data : List Byte) (h : Quiet n s t) :
    Quiet n s (Machine.storeFrame ch w1 w2 sof data t) := by
  unfold Machine.storeFrame
  dsimp only
  split
  · exact h.storeIn ..
  · split
    · exact h.storeIn ..
    · split
      · exact (h.updCan _ _).markBuf ..
      · exact h

theorem receivedWell (ch : CanCh) (h : Quiet n s t) : Quiet n s (Machine.receivedWell ch t) := by
  unfold Machine.receivedWell
  apply_rules [drawFree, updCan, updCan, updCan, ite_snd, ite]

theorem sentBuf (ch : CanCh) (b : Nat) (sof delay : Word) (h : Quiet n s t) : Quiet n s (Machine.sentBuf ch b sof delay t) := by
  unfold Machine.sentBuf
  apply_rules [storeFrame, endAttempt, markBuf, setBufWord, updCan, updCan, updCan, ite_snd, ite]

theorem addTec (ch : CanCh) (h : Quiet n s t) : Quiet n s (Machine.addTec ch t) := by
  unfold Machine.addTec
  apply_rules [updCan, updCan, updCan]

theorem enterBusOff (ch : CanCh) (h : Quiet n s t) : Quiet n s (Machine.enterBusOff ch t) := by
  unfold Machine.enterBusOff
  apply_rules [raiseOpen, updCan, record, updCan, updCan, ite_snd, ite]

theorem suspendBuf (ch : CanCh) (b : Nat) (h : Quiet n s t) : Quiet n s (Machine.suspendBuf ch b t) := by
  unfold Machine.suspendBuf
  apply_rules [markBuf, raiseOpen, updCan, record, updCan, updCan]

theorem collide (ch : CanCh) (b : Nat) (h : Quiet n s t) : Quiet n s (Machine.collide ch b t) := by
  unfold Machine.collide
  have h1 := ((h.updCan ch fun c => { c with lec := 4 }).markBuf ch b bColl (at32 19 (min 16 (bufColl ch b t + 1)))).addTec ch
  exact ite (h1.retry ..) (((ite (h1.enterBusOff _) h1).suspendBuf ..).endAttempt _)

theorem transmitError (ch : CanCh) (err : CanError) (phase : CanPhase) (b : Nat) (h : Quiet n s t) :
    Quiet n s (Machine.transmitError ch err phase b t) := by
  unfold Machine.transmitError
  apply_rules [addTec, frameDone, retry, updCan, updCan, updCan, ite_snd, ite]

theorem receiveError (ch : CanCh) (err : CanError) (phase : CanPhase) (h : Quiet n s t) :
    Quiet n s (Machine.receiveError ch err phase t) := by
  unfold Machine.receiveError
  apply_rules [frameDone, updCan, updCan, updCan, ite_snd, ite]

theorem handleFcuRead (p : Port) (tag : Half) (payload : List Byte) (h : Quiet n s t) :
    Quiet n s (Machine.handleFcuRead p tag payload t).2 := by
  unfold Machine.handleFcuRead
  apply_rules [checked, ite_snd, ite]

theorem handleFcuAck (p : Port) (tag : Half) (payload : List Byte) (h : Quiet n s t) :
    Quiet n s (Machine.handleFcuAck p tag payload t).2 := by
  unfold Machine.handleFcuAck
  apply_rules [checked, record, updFcu, ite_snd, ite]

theorem forceSource (src fclass pattern : Nat) (h : Quiet n s t) : Quiet n s (Machine.forceSource src fclass pattern t) := by
  unfold Machine.forceSource
  apply_rules [patternChange, updSource]

theorem handleFcuForce (p : Port) (tag : Half) (payload : List Byte) (h : Quiet n s t) :
    Quiet n s (Machine.handleFcuForce p tag payload t).2 := by
  unfold Machine.handleFcuForce
  apply_rules [forceSource, checked, record, ite_snd, ite]

theorem setCursor (p : Port) (c : Cursor) (h : Quiet n s t) : Quiet n s (t.updIce fun i => i.setCursor p c) :=
  updIce _ h fun hi => by cases p <;> exact hi


theorem handleIceOpen (p : Port) (tag : Half) (payload : List Byte) (h : Quiet n s t) :
    Quiet n s (Machine.handleIceOpen p tag payload t).2 :=
  h.checked _ _ _ (reply (h.setCursor ..))

theorem windowEcc (failed : List Word) (c : Cursor) (h : Quiet n s t) : Quiet n s (Machine.windowEcc failed c t) := by
  unfold Machine.windowEcc
  apply_rules [raiseOpen, ite_snd, ite]

theorem readWindow (failed : List Word) (p : Port) (tag : Half) (payload : List Byte) (h : Quiet n s t) :
    Quiet n s (Machine.readWindow failed p tag payload t).2 := by
  refine h.checked _ _ _ ?_
  split
  · exact h
  · exact reply ((h.setCursor ..).windowEcc ..)

theorem handleIceRead (p : Port) (tag : Half) (payload : List Byte) (h : Quiet n s t) :
    Quiet n s (Machine.handleIceRead p tag payload t).2 := by
  unfold Machine.handleIceRead
  apply_rules [readWindow]

theorem handleLockArm (p : Port) (tag : Half) (payload : List Byte) (h : Quiet n s t) :
    Quiet n s (Machine.handleLockArm p tag payload t).2 := by
  unfold Machine.handleLockArm
  apply_rules [checked, armToken, ite_snd, ite]

theorem clearLock (p : Port) (l : LockRec) (h : Quiet n s t) : Quiet n s (Machine.clearLock p l t) := by
  unfold Machine.clearLock
  exact Quiet.actAfter _ _ (record _ _ _ _ _ _ _ (updIo _ (writeFramBlocks _ _ (h.spendToken ..) fun w => w) rfl))

theorem handleLockReset (p : Port) (tag : Half) (payload : List Byte) (h : Quiet n s t) :
    Quiet n s (Machine.handleLockReset p tag payload t).2 := by
  unfold Machine.handleLockReset
  dsimp only
  (repeat' split) <;> apply_rules [clearLock, checked, ite_snd, ite]

theorem handleImgRead (p : Port) (tag : Half) (payload : List Byte) (h : Quiet n s t) :
    Quiet (n.more p) s (Machine.handleImgRead p tag payload t).2 := by
  unfold Machine.handleImgRead
  dsimp only
  split
  · exact h.more p
  · have h1 := h.pendStart p 0x0601 tag
    exact reply (ite (updHif _ h1 rfl rfl) (h1.finishImage ..))

theorem hinStore (count first : Nat) (ws : List Word) (h : Quiet n s t) : Quiet n s (Machine.hinStore count first ws t) := by
  unfold Machine.hinStore
  refine updHif _ (updXsram _ h fun w => ?_) rfl rfl
  exact foldl_wf (fun _ _ hm => memWriteWord_wf _ _ hm) _ (memWriteBytes_wf _ _ w)

theorem handleHinWrite (p : Port) (tag : Half) (payload : List Byte) (h : Quiet n s t) :
    Quiet n s (Machine.handleHinWrite p tag payload t).2 := by
  unfold Machine.handleHinWrite
  dsimp only
  split <;> apply_rules [hinStore]

theorem handleArbCfg (p : Port) (tag : Half) (payload : List Byte) (h : Quiet n s t) :
    Quiet n s (Machine.handleArbCfg p tag payload t).2 :=
  h.checked _ _ _ (reply (h.updFabric _))

theorem handleArbCounters (p : Port) (tag : Half) (payload : List Byte) (h : Quiet n s t) :
    Quiet n s (Machine.handleArbCounters p tag payload t).2 := by
  unfold Machine.handleArbCounters
  apply_rules [checked, updFabric, ite_snd, ite]

theorem pinRequester (i w : Nat) (h : Quiet n s t) : Quiet n s (Machine.pinRequester i w t) := by
  unfold Machine.pinRequester
  apply_rules [record, updFabric, ite_snd, ite]

theorem grantTo (i w : Nat) (h : Quiet n s t) : Quiet n s (Machine.grantTo i w t) := h.same rfl

theorem arbDecide (waits : List (Option Nat)) (h : Quiet n s t) : Quiet n s (Machine.arbDecide waits t) := by
  unfold Machine.arbDecide
  have h1 := fun g : Fabric → Fabric => (h.updFabric g).foldl (presentReqs waits) fun _ e hu => hu.pinRequester e.1 e.2
  dsimp only
  split
  · exact (h1 _).grantTo ..
  · exact h1 _

theorem freeBytes (k : Nat) (h : Quiet n s t) : Quiet n s (Machine.freeBytes k t).2 := h.same rfl

theorem sourceBytes (ds : List Word) (i : Nat) (h : Quiet n s t) : Quiet n s (Machine.sourceBytes ds i t).2 := by
  unfold Machine.sourceBytes
  apply_rules [freeBytes, ite_snd, ite]

theorem chainSources (ds : List Word) (k : Nat) (h : Quiet n s t) : Quiet n s (Machine.chainSources ds k t).2 := by
  induction k with
  | zero => exact h
  | succ k ih => exact ih.sourceBytes ds k


theorem startChain (h : Quiet n s t) : Quiet n s (Machine.startChain t) := by
  unfold Machine.startChain
  split
  · exact h
  · exact ite h (((h.updXsram _ (memWriteBytes_wf _ _)).chainSources ..).updFabric _)

theorem handleCvuRun (p : Port) (tag : Half) (payload : List Byte) (h : Quiet n s t) :
    Quiet (n.more p) s (Machine.handleCvuRun p tag payload t).2 := by
  refine (h.more p).checked _ _ _ ?_
  split
  · exact h.more p
  · split
    · exact h.more p
    · exact reply ((h.updFabric _).pendStart ..).startChain

theorem matchFlags (ds : List Word) (rs : List (Nat × Option Dword)) (h : Quiet n s t) :
    Quiet n s (Machine.matchFlags ds rs t).2 := by
  induction rs generalizing t with
  | nil => exact h
  | cons r rs ih =>
    obtain ⟨i, _ | v⟩ := r
    · exact ih h.drawFree
    · exact ih h


theorem endChain (c : Chain) (poisoned : List Nat) (corrected : Nat) (h : Quiet n s t) :
    Quiet n s (Machine.endChain c poisoned corrected t) := by
  unfold Machine.endChain
  have h1 := fun g : Fabric → Fabric => (h.updFabric g).startChain
  exact ite ((((h1 _).matchFlags ..).updFabric _).complete ..) ((h1 _).complete ..)

theorem chainProgress (h : Quiet n s t) : Quiet n s (Machine.chainProgress t).2 := by
  unfold Machine.chainProgress
  split
  · exact h
  · exact reply (h.drawFree.updFabric _)

theorem updOut (k : Nat) (f : OutSt → OutSt) (h : Quiet n s t) : Quiet n s (State.updOut k f t) := h.same rfl

theorem settleOutputs (h : Quiet n s t) : Quiet n s (Machine.settleOutputs t) :=
  h.foldl _ fun _ _ hu => ite hu (hu.updOut _ _)

theorem recordOrHold (code : Half) (sev src p0 p1 : Nat) (h : Quiet n s t) :
    Quiet n s (Machine.recordOrHold code sev src p0 p1 t) := by
  unfold Machine.recordOrHold
  exact ite (h.record ..) (ite (updIce _ h fun hi => hi) h)

theorem tripGuard (h : Quiet n s t) : Quiet n s (Machine.tripGuard t) := by
  unfold Machine.tripGuard
  apply_rules [recordOrHold, raiseOpen, updIo, ite_snd, ite]

theorem preload (b : Bank) (task : Nat) (h : Quiet n s t) : Quiet n s (Machine.preload b task t) := by
  unfold Machine.preload
  exact updTasks _ (ite (h.writeImage _ _ fun m => loadPrevious_wf _ _ _ (mem_wf m)) h)

theorem evaluateTo (b : Bank) (task : Nat) (c : Cycle) (stop : Nat) (h : Quiet n s t) :
    Quiet n s (Machine.evaluateTo b task c stop t) := by
  unfold Machine.evaluateTo
  exact Quiet.updRun _ _ (h.writeImage _ _ fun m => runEquations_wf _ _ _ _ (mem_wf m))

theorem beginCycle (b : Bank) (task : Nat) (c : Cycle) (h : Quiet n s t) : Quiet n s (Machine.beginCycle b task c t) :=
  Quiet.updRun _ _ (Quiet.preload _ _ (h.latchSlice ..))

theorem remapWindow (h : Quiet n s t) : Quiet n s (Machine.remapWindow t) := by
  unfold Machine.remapWindow
  apply_rules [compareWindow, remapNow, ite_snd, ite]

theorem evalFault (f : Option (LaneId × EvalFault)) (h : Quiet n s t) : Quiet n s (Machine.evalFault f t) := by
  unfold Machine.evalFault
  split <;> apply_rules [laneFault]

theorem enterLanes (h : Quiet n s t) : Quiet n s (Machine.enterLanes t) := by
  unfold Machine.enterLanes
  exact ite h (Quiet.recordState _ _ (h.foldl _ fun _ _ hu => record _ _ _ _ _ _ _ (updLane _ _ hu fun _ _ _ => rfl)))

theorem passGap (h : Quiet n s t) : Quiet n s (Machine.passGap t) := by
  refine updLanes _ h fun m i hi => ?_
  rw [Vector.getElem_map]
  have w := ((memoriesWf_iff t).mp m).2.2.2.1 i hi
  split <;> exact w

theorem startCycle (b : Bank) (task : Nat) (h : Quiet n s t) : Quiet n s (Machine.startCycle b task t) := h.same rfl

theorem raiseOverrun (task literal relRound : Nat) (consecutive : Bool) (h : Quiet n s t) :
    Quiet n s (Machine.raiseOverrun task literal relRound consecutive t) := by
  unfold Machine.raiseOverrun
  apply_rules [raiseOpen, updTask, record, ite_snd, ite]

theorem openOffset (b : Bank) (task : Nat) (c : Cycle) (h : Quiet n s t) : Quiet n s (Machine.openOffset b task c t).2 := h.same rfl

theorem lateRelease (b : Bank) (task : Nat) (c : Cycle) (h : Quiet n s t) : Quiet n s (Machine.lateRelease b task c t) := by
  unfold Machine.lateRelease
  apply_rules [openOffset, raiseOverrun, ite_snd, ite]

theorem commitCycle (task : Nat) (h : Quiet n s t) : Quiet n s (Machine.commitCycle task t) := by
  unfold Machine.commitCycle
  exact ite (raiseNoAgree (updFram _ h fun w => w)) (updFram _ h fun w => w)

theorem setCommand (k : Nat) (v : Bool) (h : Quiet n s t) : Quiet n s (Machine.setCommand k v t) := h.same rfl

theorem publish (b : Bank) (task : Nat) (c : Cycle) (stop : Nat) (h : Quiet n s t) :
    Quiet n s (Machine.publish b task c stop t) := by
  unfold Machine.publish
  refine updTask _ _ (settleOutputs (Quiet.foldl _ ?_ fun _ _ hu => hu.setCommand ..))
  exact h.updXsram _ (storeFrames_wf _ _ _)

theorem copyAtEnd (task : Nat) (counts sup : Bool) (h : Quiet n s t) : Quiet n s (Machine.copyAtEnd task counts sup t) := by
  unfold Machine.copyAtEnd
  apply_rules [finishImages]

theorem sendTwcmp (task : Nat) (c : Cycle) (out ev : Dword) (h : Quiet n s t) : Quiet n s (Machine.sendTwcmp task c out ev t) := by
  unfold Machine.sendTwcmp
  apply_rules [compareCycle, sendMsg, takeLost, updTask, ite_snd, ite]

theorem shadowSeqs_wf {x : Mem} (b : Bank) (k : Nat) (w : Memory.wf x = true) : Memory.wf (shadowSeqs b k x) = true :=
  foldl_wf (fun _ _ h => memWriteWord_wf _ _ h) _ w


theorem closeCycle (b : Bank) (task : Nat) (c : Cycle) (stop : Nat) (h : Quiet n s t) :
    Quiet n s (Machine.closeCycle b task c stop t) := by
  unfold Machine.closeCycle
  extract_lets ev rel out us lost s1 sup pub s2 s3 s4 s5 s6
  have h1 : Quiet n s s1 := (h.takeLost 2).takeLost 3
  have h2 : Quiet n s s2 := ite (h1.publish ..) (ite (h1.updXsram _ (shadowSeqs_wf _ _)) h1)
  have h5 : Quiet n s s5 := (((h2.updTask ..).updTasks _).touchBlocks _ |>.copyAtEnd ..).reportActivation
  exact ite ((h5.commitCycle _).updTask ..) ((h5.commitCycle _).sendTwcmp ..)

theorem overrunCycle (task literal : Nat) (h : Quiet n s t) : Quiet n s (Machine.overrunCycle task literal t) := by
  unfold Machine.overrunCycle
  split <;> apply_rules [raiseOverrun, updRun, ite_snd, ite]

theorem finishCycle (b : Bank) (task : Nat) (c : Cycle) (stop : Nat) (h : Quiet n s t) :
    Quiet n s (Machine.finishCycle b task c stop t) := by
  unfold Machine.finishCycle
  have h1 := ite (c := deadlineNs task c t < stop) (((h.openOffset b task c).overrunCycle task (Machine.openOffset b task c t).1)) h
  dsimp only
  split
  · exact (h1.evaluateTo ..).closeCycle ..
  · exact h1.evaluateTo ..

theorem completeAll (b : Bank) (h : Quiet n s t) : Quiet n s (Machine.completeAll b t) := by
  refine h.foldl _ fun u k hu => ?_
  split
  · next c _ =>
    have h1 := ite (c := c.started = true) hu (hu.beginCycle b k c)
    dsimp only
    split
    · exact h1.finishCycle ..
    · exact h1
  · exact hu

theorem recordUnscheduled (h : Quiet n s t) : Quiet n s (Machine.recordUnscheduled t) := by
  unfold Machine.recordUnscheduled
  split
  · exact h.foldl _ fun _ _ hu => hu.record ..
  · exact h

theorem boundarySwitch (a : Activation) (h : Quiet n s t) : Quiet n s (Machine.boundarySwitch a t) := by
  unfold Machine.boundarySwitch
  split
  · exact h
  · refine ite (h.completeAll _) ?_
    split
    · exact (h.completeAll _).abandonActivation ..
    · exact (((h.completeAll _).takeBank ..).reportLater _).recordUnscheduled

theorem countMinority (i : Nat) (h : Quiet n s t) : Quiet n s (Machine.countMinority i t) := h.same rfl

theorem loseVotes (ks : List Nat) (h : Quiet n s t) : Quiet n s (Machine.loseVotes ks t) := h.same rfl

theorem selfTest (r : Nat → VRec) (h : Quiet n s t) : Quiet n s (Machine.selfTest r t) := by
  unfold Machine.selfTest
  apply_rules [loseVotes, raiseOpen, updVoter, ite_snd, ite]

theorem stepTags (r : Nat → VRec) (h : Quiet n s t) : Quiet n s (Machine.stepTags r t) :=
  h.foldl _ fun _ _ hu => updLane _ _ hu fun _ _ hl => hl

theorem actOnVote (kinds : List Nat) (v : VoteResult) (h : Quiet n s t) : Quiet n s (Machine.actOnVote kinds v t) := by
  unfold Machine.actOnVote
  split <;> apply_rules [loseVotes, countMinority, excludeLane, raiseNoAgree, ite_snd, ite]

theorem voterFaults (kinds : List Nat) (votersAgree parityOk : Bool) (h : Quiet n s t) :
    Quiet n s (Machine.voterFaults kinds votersAgree parityOk t) := by
  unfold Machine.voterFaults
  apply_rules [loseVotes, raiseOpen, ite_snd, ite]

theorem laneFrom (old : LaneState) (i : Nat) {f : State → State} (h : Quiet n s t) (hf : Quiet n s (f t)) :
    Quiet n s (Machine.laneFrom old i f t) :=
  ite hf h

theorem updInput (k : Nat) (f : InSt → InSt) (h : Quiet n s t) : Quiet n s (State.updInput k f t) := h.same rfl

theorem recordPinned (k req most : Nat) (h : Quiet n s t) : Quiet n s (Machine.recordPinned k req most t) := by
  unfold Machine.recordPinned
  apply_rules [updInput, record, ite_snd, ite]

theorem recordValidity (k : Nat) (h : Quiet n s t) : Quiet n s (Machine.recordValidity k t) := by
  unfold Machine.recordValidity
  apply_rules [updInput, record, ite_snd, ite]

theorem pushCos (k : Nat) (h : Quiet n s t) : Quiet n s (Machine.pushCos k t) := by
  unfold Machine.pushCos
  refine ite h (updIoCos _ h fun hc => ?_)
  split
  · exact hc
  · simp only [List.length_append, List.length_singleton]
    omega

theorem pressChange (was now : InClass) (h : Quiet n s t) : Quiet n s (Machine.pressChange was now t) := h.same rfl

theorem watchPress (h : Quiet n s t) : Quiet n s (Machine.watchPress t) := h.same rfl

theorem inputChanged (k : Nat) (old : InSt) (b : Nat) (h : Quiet n s t) : Quiet n s (Machine.inputChanged k old b t) := by
  unfold Machine.inputChanged
  apply_rules [pressChange, pushCos, recordValidity, recordPinned, updInput, ite_snd, ite]

theorem sampleInput (k : Nat) (ua : Nat × Nat) (h : Quiet n s t) : Quiet n s (Machine.sampleInput k ua t) := by
  unfold Machine.sampleInput
  apply_rules [inputChanged, updInput, ite_snd, ite]

theorem evaluateRules (h : Quiet n s t) : Quiet n s (Machine.evaluateRules t) :=
  h.updIo _ rfl

theorem stopHeartbeat (h : Quiet n s t) : Quiet n s (Machine.stopHeartbeat t) := h.same rfl

theorem heartbeat (h : Quiet n s t) : Quiet n s (Machine.heartbeat t) := by
  unfold Machine.heartbeat
  apply_rules [stopHeartbeat, updVoter, ite_snd, ite]

theorem insertSelftest (h : Quiet n s t) : Quiet n s (Machine.insertSelftest t) := by
  unfold Machine.insertSelftest
  apply_rules [stepTags, selfTest, ite_snd, ite]

end Quiet

end Sys2Proof.Proofs
end

section
/-! SUPPORT. The same of Floe, joins and splits, starts and stops. -/
namespace Sys2Proof.Proofs
open Sys2Proof.Machine
namespace Quiet
variable {n : Slack} {s t u : State}

theorem supplySource (src : Nat) (old new : FsState) (h : Quiet n s t) : Quiet n s (Machine.supplySource src old new t) := by
  unfold Machine.supplySource
  apply_rules [presentPattern, endPattern, drawFree, ite_snd, ite]

theorem wiringFault (g : Nat) (cause : Half) (h : Quiet n s t) : Quiet n s (Machine.wiringFault g cause t) := by
  unfold Machine.wiringFault
  apply_rules [raiseOpen]

theorem lockGroup (g : Nat) (cause : Half) (h : Quiet n s t) : Quiet n s (Machine.lockGroup g cause t) := by
  unfold Machine.lockGroup
  apply_rules [stopGroup, writeLock]

theorem wiringFaultBoth (g : Nat) (cause other : Half) (h : Quiet n s t) : Quiet n s (Machine.wiringFaultBoth g cause other t) := by
  unfold Machine.wiringFaultBoth
  apply_rules [lockGroup, wiringFault, ite_snd, ite]

theorem discriminate (k : Nat) (h : Quiet n s t) : Quiet n s (Machine.discriminate k t) := by
  unfold Machine.discriminate
  dsimp only
  (repeat' split) <;> apply_rules [updIo, ite_snd, ite]

theorem readbackOutput (k mv ma : Nat) (h : Quiet n s t) : Quiet n s (Machine.readbackOutput k mv ma t) := by
  unfold Machine.readbackOutput
  apply_rules [discriminate, updOut, raiseOpen, ite_snd, ite]

theorem pulseOutcome (k : Nat) (readOff : Bool) (fell : BitVec 16) (h : Quiet n s t) :
    Quiet n s (Machine.pulseOutcome k readOff fell t) := by
  unfold Machine.pulseOutcome
  apply_rules [discriminate, wiringFaultBoth, wiringFault, ite_snd, ite]

theorem updChan (c : Chan) (f : FloeChan → FloeChan) (h : Quiet n s t) : Quiet n s (State.updChan c f t) := h.same rfl

theorem channelFault (c : Chan) (h : Quiet n s t) : Quiet n s (Machine.channelFault c t) := by
  unfold Machine.channelFault
  apply_rules [raiseOpen]

theorem setFState (new : FState) (h : Quiet n s t) : Quiet n s (Machine.setFState new t) := by
  unfold Machine.setFState
  apply_rules [record, updFloe, updTb, ite_snd, ite]

theorem toListen (h : Quiet n s t) : Quiet n s (Machine.toListen t) := by
  unfold Machine.toListen
  apply_rules [setFState, updFloe, updTb]

theorem loseSync (h : Quiet n s t) : Quiet n s (Machine.loseSync t) := by
  unfold Machine.loseSync
  dsimp only
  split
  · next hs => exact h.toListen.leaveService _ (.inr (inService_eff hs))
  · exact h.toListen

theorem enterPassive (cls : Nat) (h : Quiet n s t) : Quiet n s (Machine.enterPassive cls t) := by
  unfold Machine.enterPassive
  apply_rules [loseSync, setFState, raiseOpen, updFloe, ite_snd, ite]

theorem gainSync (h : Quiet n s t) (hn : n.drains = true) : Quiet n s (Machine.gainSync t) := by
  unfold Machine.gainSync
  exact ite ((h.setFState _).restart _ _ hn) (h.setFState _)

theorem bothLost (h : Quiet n s t) : Quiet n s (Machine.bothLost t) := by
  unfold Machine.bothLost
  apply_rules [loseSync, ite_snd, ite]

theorem leaveDown (h : Quiet n s t) : Quiet n s (Machine.leaveDown t) := by
  unfold Machine.leaveDown
  apply_rules [setFState, channelFault, updFloe, ite_snd, ite]

theorem setPinned (r : Option Nat) (h : Quiet n s t) : Quiet n s (Machine.setPinned r t) := h.same rfl

theorem recordPinnedRate (want bound : Int) (h : Quiet n s t) : Quiet n s (Machine.recordPinnedRate want bound t) := by
  unfold Machine.recordPinnedRate
  apply_rules [setPinned, record, ite_snd, ite]

theorem applyCorrection (ftm : Int) (h : Quiet n s t) : Quiet n s (Machine.applyCorrection ftm t) := by
  unfold Machine.applyCorrection
  apply_rules [recordPinnedRate, setPinned, updTb, ite_snd, ite]

theorem judgeChannel (c : Chan) (h : Quiet n s t) : Quiet n s (Machine.judgeChannel c t) := h.same rfl

theorem stopSending (c : Chan) (h : Quiet n s t) : Quiet n s (Machine.stopSending c t) := by
  unfold Machine.stopSending
  apply_rules [channelFault, updChan, ite_snd, ite]

theorem syncLimits (now : Option Int) (h : Quiet n s t) : Quiet n s (Machine.syncLimits now t) := by
  unfold Machine.syncLimits
  apply_rules [stopSending, enterPassive, ite_snd, ite]

theorem passiveRound (now : Option Int) (h : Quiet n s t) : Quiet n s (Machine.passiveRound now t) := by
  unfold Machine.passiveRound
  apply_rules [setFState, updFloe, ite_snd, ite]

theorem integrateRound (now : Option Int) (h : Quiet n s t) : Quiet n s (Machine.integrateRound now t) := h.same rfl

theorem noteResults (k : Nat) (d : Dword) (h : Quiet n s t) : Quiet n s (Machine.noteResults k d t) := h.same rfl

theorem noRecord (h : Quiet n s t) : Quiet n s (Machine.noRecord t) := h.same rfl

theorem judgeState (now : Option Int) (h : Quiet n s t) : Quiet n s (Machine.judgeState now t) := by
  unfold Machine.judgeState
  split <;> apply_rules [integrateRound, passiveRound, syncLimits, loseSync, ite_snd, ite]

theorem correctRound (h : Quiet n s t) : Quiet n s (Machine.correctRound t).2 := by
  unfold Machine.correctRound
  dsimp only
  (repeat' split) <;> apply_rules [noRecord, noteResults, applyCorrection, ite_snd, ite]

theorem judgeChannels (h : Quiet n s t) : Quiet n s (Machine.judgeChannels t) := by
  unfold Machine.judgeChannels
  apply_rules [judgeChannel, bothLost, ite_snd, ite]

theorem switchMode (h : Quiet n s t) : Quiet n s (Machine.switchMode t) := by
  unfold Machine.switchMode
  dsimp only
  split <;> apply_rules [endModereq, record, updFloe, ite_snd, ite]

theorem startSchedule (origin : Nat) (h : Quiet n s t) : Quiet n s (Machine.startSchedule origin t) := h.same rfl

theorem beginService (origin : Nat) (h : Quiet n s t) (w : ¬ offService t.eff) : Quiet n s (Machine.beginService origin t) :=
  (((h.startSchedule origin).updIoCos (fun i => { i with cos := [] }) fun _ => Nat.zero_le _).enterEff .service
    (.inr w)).settleOutputs.recordUnscheduled

theorem offsetStep (o : Int) (h : Quiet n s t) : Quiet n s (Machine.offsetStep o t) := by
  unfold Machine.offsetStep
  apply_rules [raiseOpen, updTwin, ite_snd, ite]

/-- A change of the twin's record that leaves canonical journal slots. -/
theorem setJoin (f : Twin → Twin) (h : Quiet n s t)
    (w : s.memoriesWf = true → ∀ j ∈ (f t.twin).join, Memory.wf j.journal = true) : Quiet n s (t.updTwin f) where
  __ := h
  wf hs := by
    obtain ⟨mem, xsram, fram, lanes, -⟩ := (memoriesWf_iff t).mp (h.wf hs)
    exact (memoriesWf_iff _).mpr ⟨mem, xsram, fram, lanes, w hs⟩

theorem journal_wf (h : Quiet n s t) {j : Join} (hj : t.twin.join = some j) (hs : s.memoriesWf = true) :
    Memory.wf j.journal = true :=
  ((memoriesWf_iff t).mp (h.wf hs)).2.2.2.2 j hj


theorem startJoin (client : Option (Port × Half)) (h : Quiet n s t) : Quiet n s (Machine.startJoin client t) := by
  refine settleOutputs (Quiet.setPState _ (Quiet.sendMsg _ _ _ (setJoin _ h fun _ j hj => ?_)))
  cases hj
  rfl

theorem autoJoin (h : Quiet n s t) : Quiet n s (Machine.autoJoin t) := by
  unfold Machine.autoJoin
  apply_rules [startJoin, ite_snd, ite]

theorem helloEffects (h : Quiet n s t) : Quiet n s (Machine.helloEffects t) := by
  unfold Machine.helloEffects
  dsimp only
  split <;> apply_rules [autoJoin, endWaits, dropJoin, setPState, ite_snd, ite]

theorem helloTaken (receipt : Dword) (b : List Byte) (h : Quiet n s t) : Quiet n s (Machine.helloTaken receipt b t) := by
  unfold Machine.helloTaken
  apply_rules [helloEffects, offsetStep, updTwin]

theorem splitExecute (p : Port) (tag : Half) (x2 : List Word) (h : Quiet n s t) :
    Quiet (n.more p) s (Machine.splitExecute p tag x2 t).2 := by
  unfold Machine.splitExecute
  refine ite_snd (h.more p) ?_
  split
  · exact h.more p
  · exact reply ((updTwin _ ((h.spendToken ..).pendStart ..) rfl).sendMsg ..)

theorem handleTwinSplit (p : Port) (tag : Half) (payload : List Byte) (h : Quiet n s t) :
    Quiet (n.more p) s (Machine.handleTwinSplit p tag payload t).2 :=
  (h.more p).armExecute _ p tag payload (h.splitExecute ..)

theorem splitRequested (b : List Byte) (h : Quiet n s t) : Quiet n s (Machine.splitRequested b t) := by
  unfold Machine.splitRequested
  split <;> apply_rules [sendMsg, updTwin]

theorem splitAnswered (b : List Byte) (h : Quiet n s t) : Quiet n s (Machine.splitAnswered b t) := by
  unfold Machine.splitAnswered
  split <;> apply_rules [abandonSplit, updTwin, ite_snd, ite]

theorem splitNow (x : Split) (h : Quiet n s t) : Quiet n s (Machine.splitNow x t) := by
  unfold Machine.splitNow
  apply_rules [settleOutputs, endSplit, setPState, updTwin, updTasks, ite_snd, ite]

theorem joinExecute (p : Port) (tag : Half) (x2 : List Word) (h : Quiet n s t) :
    Quiet (n.more p) s (Machine.joinExecute p tag x2 t).2 := by
  unfold Machine.joinExecute
  refine ite_snd (h.more p) ?_
  split
  · exact h.more p
  · exact reply (((h.spendToken ..).pendStart ..).startJoin _)

theorem handleTwinJoin (p : Port) (tag : Half) (payload : List Byte) (h : Quiet n s t) :
    Quiet (n.more p) s (Machine.handleTwinJoin p tag payload t).2 :=
  (h.more p).armExecute _ p tag payload (h.joinExecute ..)

theorem joinRequested (b : List Byte) (h : Quiet n s t) : Quiet n s (Machine.joinRequested b t) := by
  unfold Machine.joinRequested
  dsimp only
  split
  · exact h.sendMsg ..
  · refine Quiet.sendMsg _ _ _ (setJoin _ h fun _ j hj => ?_)
    cases hj
    rfl

theorem joinAnswered (b : List Byte) (h : Quiet n s t) : Quiet n s (Machine.joinAnswered b t) := by
  unfold Machine.joinAnswered
  split
  · next j hj =>
    refine ite h (ite (setJoin _ h fun hs k hk => ?_) (h.abandonJoin _))
    cases hk
    exact (h.journal_wf hj hs :)
  · exact h

theorem abortTaken (b : List Byte) (h : Quiet n s t) : Quiet n s (Machine.abortTaken b t) := by
  unfold Machine.abortTaken
  apply_rules [abandonJoin, abandonSplit]

theorem sendQuarter (j : Join) (k part : Nat) (h : Quiet n s t) (hj : s.memoriesWf = true → Memory.wf j.journal = true) :
    Quiet n s (Machine.sendQuarter j k part t) := by
  unfold Machine.sendQuarter
  refine setJoin _ (h.sendMsg ..) fun hs k hk => ?_
  cases hk
  exact hj hs

theorem endStream (j : Join) (h : Quiet n s t) (hj : s.memoriesWf = true → Memory.wf j.journal = true) :
    Quiet n s (Machine.endStream j t) := by
  unfold Machine.endStream
  split
  · exact h
  · refine Quiet.sendMsg _ _ _ (setJoin _ h fun hs k hk => ?_)
    cases hk
    exact hj hs

theorem streamNext (j : Join) (h : Quiet n s t) (hj : s.memoriesWf = true → Memory.wf j.journal = true) :
    Quiet n s (Machine.streamNext j t) := by
  unfold Machine.streamNext
  split
  · exact h.sendQuarter _ _ _ hj
  · split
    · exact h.sendQuarter _ _ _ hj
    · exact h.endStream _ hj

theorem writeRuntime (d : List Byte) (h : Quiet n s t) : Quiet n s (Machine.writeRuntime d t) := by
  unfold Machine.writeRuntime
  refine updTasks _ (updTwinJoin _ h fun w j hj => ?_)
  obtain ⟨k, hk, rfl⟩ := Option.map_eq_some_iff.mp hj
  exact w k hk

theorem writeSlots (a : Nat) (d : List Byte) (h : Quiet n s t) : Quiet n s (Machine.writeSlots a d t) := by
  refine updTwinJoin _ h fun w j hj => ?_
  obtain ⟨k, hk, rfl⟩ := Option.map_eq_some_iff.mp hj
  exact memWriteBytes_wf _ _ (w k hk)

theorem writeQuarter (k part : Nat) (d : List Byte) (h : Quiet n s t) : Quiet n s (Machine.writeQuarter k part d t) := by
  unfold Machine.writeQuarter
  exact ite (ite (h.writeRuntime _) h) (ite (h.updTasks _) (ite h (ite (h.writeSlots ..) (ite (updFram _ h (writeFram_wf _ _))
    (ite (updMem _ h (memWriteBytes_wf _ _)) (updXsram _ h (memWriteBytes_wf _ _)))))))

theorem stateblkTaken (b : List Byte) (h : Quiet n s t) : Quiet n s (Machine.stateblkTaken b t) := by
  unfold Machine.stateblkTaken
  split
  · next j hj =>
    refine ite h (Quiet.writeQuarter _ _ _ (setJoin _ h fun hs k hk => ?_))
    cases hk
    exact (h.journal_wf hj hs :)
  · exact h

theorem joinEnded (b : List Byte) (h : Quiet n s t) : Quiet n s (Machine.joinEnded b t) := by
  unfold Machine.joinEnded
  split
  · next j hj =>
    refine ite h (ite (setJoin _ h fun hs k hk => ?_) (h.dropJoin _))
    cases hk
    exact (h.journal_wf hj hs :)
  · exact h

theorem enterPair (j : Join) (h : Quiet n s t) : Quiet n s (Machine.enterPair j t) := by
  unfold Machine.enterPair
  extract_lets s1 s2 s3 s4 s5 s6
  have h1 : Quiet n s s1 := setJoin _ h fun _ _ hj => nomatch hj
  have h3 : Quiet n s s3 := updFram _ (h1.updVoter _) fun w => w
  have h5 : Quiet n s s5 := (h3.updTasks _).setPState _
  have h6 : Quiet n s s6 := by
    dsimp only [s6]
    split
    · next start => exact h5.beginService _ (by rw [start]; simp [offService])
    · exact (h5.startSchedule _).settleOutputs
  split
  · exact h6.complete ..
  · exact h6

theorem joinEntry (h : Quiet n s t) : Quiet n s (Machine.joinEntry t) := by
  unfold Machine.joinEntry
  split
  · exact ite h (ite (ite (h.enterPair _) h) (Quiet.setPState _ (setJoin _ h fun _ _ hj => nomatch hj)))
  · exact h

theorem takeColdStart (h : Quiet n s t) (hn : n.drains = true) : Quiet n s (Machine.takeColdStart t) := by
  unfold Machine.takeColdStart
  split
  · exact h
  · exact ite (((h.updFloe _).updTb _).gainSync hn) ((h.updFloe _).updTb _)

theorem takeSync (h : Quiet n s t) (hn : n.drains = true) : Quiet n s (Machine.takeSync t) := by
  unfold Machine.takeSync
  exact ite (((h.updTb _).updFloe _).gainSync hn) h

theorem openRound (h : Quiet n s t) : Quiet n s (Machine.openRound t) := h.same rfl

theorem superviseLink (h : Quiet n s t) : Quiet n s (Machine.superviseLink t) := h.same rfl

theorem takeRoles (h : Quiet n s t) : Quiet n s (Machine.takeRoles t) := by
  unfold Machine.takeRoles
  dsimp only
  (repeat' split) <;> apply_rules [abandonActivation, updTwin, ite_snd, ite]

theorem pairRound (h : Quiet n s t) : Quiet n s (Machine.pairRound t) := by
  unfold Machine.pairRound
  split <;> apply_rules [setPState, ite_snd, ite]

theorem endHandshakes (h : Quiet n s t) : Quiet n s (Machine.endHandshakes t) := by
  unfold Machine.endHandshakes
  dsimp only
  (repeat' split) <;> apply_rules [dropSplit, dropJoin, ite_snd, ite]

theorem countBoundary (h : Quiet n s t) : Quiet n s (Machine.countBoundary t) := by
  unfold Machine.countBoundary
  split
  · next j hj =>
    refine ite (setJoin _ h fun hs k hk => ?_) h
    cases hk
    exact (h.journal_wf hj hs :)
  · exact h

theorem twinRound (h : Quiet n s t) : Quiet n s (Machine.twinRound t) := by
  unfold Machine.twinRound
  apply_rules [countBoundary, endHandshakes, pairRound, takeRoles, superviseLink, joinEntry, autoJoin, settleConfirmation, ite_snd, ite]

theorem passStopped (h : Quiet n s t) : Quiet n s (Machine.passStopped t) := by
  unfold Machine.passStopped
  apply_rules [updTasks, ite_snd, ite]

theorem blockWords (b : Nat) (h : Quiet n s t) : Quiet n s (Machine.blockWords b t).2 := by
  unfold Machine.blockWords
  dsimp only
  split
  case h_4 => exact reply (h.updTb _)
  case h_13 => exact h.chainProgress
  all_goals exact h

theorem statusServe (b first count : Nat) (h : Quiet n s t) : Quiet n s (Machine.statusServe b first count t).2 := by
  unfold Machine.statusServe
  refine ite_snd h (ite_snd h (ite_snd (reply (updIoCos _ h fun hc => ?_)) (h.blockWords _)))
  exact (List.length_drop ..).trans_le ((Nat.sub_le _ _).trans hc)

theorem handleStatus (p : Port) (tag : Half) (payload : List Byte) (h : Quiet n s t) :
    Quiet n s (Machine.handleStatus p tag payload t).2 := by
  unfold Machine.handleStatus
  apply_rules [statusServe, checked, ite_snd, ite]

theorem peekServe (a count : Nat) (h : Quiet n s t) : Quiet n s (Machine.peekServe a count t).2 := by
  unfold Machine.peekServe
  dsimp only
  (repeat' split) <;> apply_rules [chainProgress, ite_snd, ite]

theorem handleRegPeek (p : Port) (tag : Half) (payload : List Byte) (h : Quiet n s t) :
    Quiet n s (Machine.handleRegPeek p tag payload t).2 := by
  unfold Machine.handleRegPeek
  apply_rules [peekServe, checked, ite_snd, ite]

theorem bookkeeping (iceAgrees logAgrees : Bool) (h : Quiet n s t) : Quiet n s (Machine.bookkeeping iceAgrees logAgrees t) := h.same rfl

theorem dropImage (h : Quiet n s t) : Quiet n s (Machine.dropImage t) := h.same rfl

theorem lockOutLane (i : Nat) (h : Quiet n s t) : Quiet n s (Machine.lockOutLane t i) := by
  unfold Machine.lockOutLane
  apply_rules [excludeLane]

theorem refuseUpdate (code : Nat) (h : Quiet n s t) : Quiet n s (Machine.refuseUpdate code t) := by
  unfold Machine.refuseUpdate
  apply_rules [dropImage, record]

theorem acceptUpdate (h : Quiet n s t) : Quiet n s (Machine.acceptUpdate t) :=
  Quiet.record _ _ _ _ _ _ _ (Quiet.dropImage (h.updFw _))

theorem testLane (ok : Bool) (i : Nat) (h : Quiet n s t) : Quiet n s (Machine.testLane ok t i) := by
  unfold Machine.testLane
  exact ite h (ite (updLane _ _ h fun _ _ hl => hl) (h.exclusionSteps ..))

theorem startGroups (h : Quiet n s t) : Quiet n s (Machine.startGroups t) := h.same rfl

theorem tryListen (h : Quiet n s t) : Quiet n s (Machine.tryListen t) := by
  unfold Machine.tryListen
  apply_rules [leaveDown, ite_snd, ite]

theorem checkBank (k : Bool) (r : BankCheck) (h : Quiet n s t) : Quiet n s (Machine.checkBank k r t) := by
  unfold Machine.checkBank
  apply_rules [drawFree, updProg, ite_snd, ite]

theorem forgetActive (h : Quiet n s t) : Quiet n s (Machine.forgetActive t) := h.same rfl

theorem restoreElements (h : Quiet n s t) : Quiet n s (Machine.restoreElements t) := by
  unfold Machine.restoreElements
  split
  · exact h
  · exact updFram _ (updMem _ (h.updVoter _) (restoreImage_wf _ _)) fun _ => reformatHome_wf _ _

theorem stopLocked (k : Nat) (h : Quiet n s t) : Quiet n s (Machine.stopLocked t k) := by
  unfold Machine.stopLocked
  apply_rules [updTask, ite_snd, ite]

theorem reimpose (h : Quiet n s t) : Quiet n s (Machine.reimpose t) :=
  h.foldl _ fun _ _ hu => hu.stopLocked _

theorem pauseCopy (h : Quiet n s t) : Quiet n s (Machine.pauseCopy t) := by
  refine updLanes _ h fun m i hi => ?_
  rw [Vector.getElem_map]
  exact syncCopy_wf m (((memoriesWf_iff t).mp m).2.2.2.1 i hi)

theorem resumeCopy (h : Quiet n s t) : Quiet n s (Machine.resumeCopy t) := by
  refine updLanes _ h fun m i hi => ?_
  rw [Vector.getElem_map]
  have w := ((memoriesWf_iff t).mp m).2.2.2.1 i hi
  split <;> exact w

theorem enterHold (mv : Word) (h : Quiet n s t) : Quiet n s (Machine.enterHold mv t) :=
  ((h.pauseCopy.updHoldFrom _).record ..).enterState _ fun _ => .inr (.inl rfl)

theorem holdIf (mv : Word) (h : Quiet n s t) : Quiet n s (Machine.holdIf mv t) := by
  unfold Machine.holdIf
  apply_rules [enterHold, ite_snd, ite]

theorem leaveHold (mv : Word) (h : Quiet n s t) (hs : s.mstate ≠ .safe) (hn : n.drains = true) :
    Quiet n s (Machine.leaveHold mv t) := by
  unfold Machine.leaveHold
  have h1 := ((h.record 0x0206 1 0x042 0 mv.toNat 0 0).enterState t.holdFrom (fun e => absurd e hs)).resumeCopy.updHoldFrom fun _ => .off
  exact ite (h1.restart _ _ hn) h1

theorem enterDormant (h : Quiet n s t) (ht : ¬ offService t.mstate) : Quiet n s (Machine.enterDormant t) := by
  have h1 := ((updTwin (fun x => { x with txQueue := [] }) (h.setFState .down) rfl).stopGroup 2).stopGroup 1
  refine Quiet.enterState _ (updXsram _ (((h1.updFram commitAll commitAll_wf).updCan1 _).updCan2 _) fun w => ?_)
    fun hs => absurd (h.safe hs) ht
  exact clearTxreq_wf _ (clearTxreq_wf _ w)

theorem releaseHeld (h : Quiet n s t) : Quiet n s (Machine.releaseHeld t) :=
  Quiet.foldl _ (updIce _ h fun hi => hi) fun _ _ hu => hu.emit _

theorem wakeItems (h : Quiet n s t) (hn : n.drains = true) : Quiet n s (Machine.wakeItems t) := by
  constructor
  case wf =>
    intro hs
    obtain ⟨mem, -, fram, lanes, -⟩ := (memoriesWf_iff t).mp (h.wf hs)
    have lane : ∀ i (_ : i < 3), (t.lanes.map (LaneSt.restart true))[i].memoriesWf = true := fun i hi => by
      rw [Vector.getElem_map]
      exact restart_memoriesWf _ (lanes i hi)
    rw [memoriesWf_iff]
    refine ⟨warmImage_wf mem, ?_, fram, lane, fun j hj => nomatch hj⟩
    unfold Machine.wakeItems
    dsimp only
    exact canBuffers_wf _ _ (canBuffers_wf _ _ (x := []) rfl)
  case mail => exact fun q => .inr ⟨hn, by cases q <;> exact ⟨Nat.zero_le _, Nat.zero_le _⟩⟩
  case pend => exact fun q => by cases q <;> exact Nat.zero_le _
  case ice => exact fun hi => h.ice hi
  case cos => exact fun _ => Nat.zero_le _
  case safe => exact h.safe

theorem actIn (states : List MState) {f : State → State} (h : Quiet n s t) (hf : t.mstate ∈ states → Quiet n s (f t)) :
    Quiet n s (Machine.actIn states f t) := by
  unfold Machine.actIn
  split
  · next m => exact hf (List.contains_iff_mem.mp m)
  · exact h

theorem runAction (a : Action) (h : Quiet n s t) (hn : n.drains = true) : Quiet n s (Machine.runAction a t) := by
  cases a with
  | rstWarm => exact h.actIn _ fun _ => h.restart _ _ hn
  | rstCold => exact h.actIn _ fun _ => h.restart _ _ hn
  | testExit => exact h.actIn _ fun _ => h.restart _ _ hn
  | fwActivate =>
    unfold Machine.runAction
    refine h.actIn _ fun _ => Quiet.restart _ _ ?_ hn
    exact updFram _ h fun w => w
  | lockReset => exact h.actIn _ fun _ => h.restart _ _ hn
  | dormant =>
    unfold Machine.runAction
    refine h.actIn _ fun m => ?_
    exact ite h (h.enterDormant (by rw [List.mem_singleton.mp m]; simp [offService]))

theorem whenReady {f : State → State} (h : Quiet n s t) (hf : Quiet n s (f t)) : Quiet n s (Machine.whenReady f t) :=
  ite hf h

theorem countFrameErr (h : Quiet n s t) : Quiet n s (Machine.countFrameErr t) := by
  unfold Machine.countFrameErr
  apply_rules [updPort]

theorem drive (bytes : List Byte) (h : Quiet n s t) : Quiet n s (Machine.drive bytes t) := by
  unfold Machine.drive
  apply_rules [updHif]

theorem countCrcErr (p : Port) (h : Quiet n s t) : Quiet n s (Machine.countCrcErr p t) := by
  unfold Machine.countCrcErr
  apply_rules [updPort]

theorem storeRx (key : Nat) (ch : Chan) (p : List Byte) (h : Quiet n s t) : Quiet n s (Machine.storeRx key ch p t) := h.same rfl

theorem beaconTwin (h : Quiet n s t) : Quiet n s (Machine.beaconTwin t) := by
  unfold Machine.beaconTwin
  apply_rules [endWaits, goSilent, setPState, ite_snd, ite]

theorem readBlock (b : Word × Word) (h : Quiet n s t) : Quiet n s (Machine.readBlock b t) := by
  unfold Machine.readBlock
  apply_rules [beaconTwin, updTwin]

theorem modeSlip (m : Nat) (h : Quiet n s t) : Quiet n s (Machine.modeSlip m t) := by
  unfold Machine.modeSlip
  apply_rules [raiseOpen, updFloe]

theorem announce (h : Quiet n s t) : Quiet n s (Machine.announce t) := by
  unfold Machine.announce
  split <;> apply_rules [endModereq, ite_snd, ite]

theorem acceptBeacon (ch : Chan) (rank : Nat) (p : List Byte) (h : Quiet n s t) : Quiet n s (Machine.acceptBeacon ch rank p t) := by
  unfold Machine.acceptBeacon
  dsimp only
  split <;> apply_rules [announce, modeSlip, readBlock, updChan, updFloe, ite_snd, ite]

theorem beaconArrived (ch : Chan) (x : Slot) (p : List Byte) (h : Quiet n s t) : Quiet n s (Machine.beaconArrived ch x p t) := by
  unfold Machine.beaconArrived
  dsimp only
  (repeat' split) <;> apply_rules [acceptBeacon, updChan, updFloe, ite_snd, ite]

theorem countSync (ch : Chan) (x : Slot) (dev : Int) (ftype : Nat) (p : List Byte) (h : Quiet n s t) :
    Quiet n s (Machine.countSync ch x dev ftype p t) := by
  unfold Machine.countSync
  apply_rules [updChan, updFloe, ite_snd, ite]

theorem statusArrived (ch : Chan) (x : Slot) (dev : Int) (p : List Byte) (h : Quiet n s t) :
    Quiet n s (Machine.statusArrived ch x dev p t) := by
  unfold Machine.statusArrived
  apply_rules [countSync, storeRx, countCheck, ite_snd, ite]

theorem dataArrived (ch : Chan) (x : Slot) (dev : Int) (p : List Byte) (h : Quiet n s t) :
    Quiet n s (Machine.dataArrived ch x dev p t) := by
  unfold Machine.dataArrived
  apply_rules [countSync, storeRx]

theorem maintArrived (ch : Chan) (x : Slot) (p : List Byte) (h : Quiet n s t) : Quiet n s (Machine.maintArrived ch x p t) := by
  unfold Machine.maintArrived
  apply_rules [countCheck, updFloe, ite_snd, ite]

theorem ownFrame (ch : Chan) (x : Slot) (dev : Int) (p : List Byte) (h : Quiet n s t) :
    Quiet n s (Machine.ownFrame ch x dev p t) := by
  unfold Machine.ownFrame
  apply_rules [updChan, ite_snd, ite]

theorem slotFrame (ch : Chan) (x : Slot) (dev : Int) (p : List Byte) (h : Quiet n s t) :
    Quiet n s (Machine.slotFrame ch x dev p t) := by
  unfold Machine.slotFrame
  refine ite (h.ownFrame ..) (ite h ?_)
  split
  · exact ite ((h.countCheck ..).beaconArrived ..) (h.countCheck ..)
  · exact h.statusArrived ..
  · exact h.dataArrived ..
  · exact h.maintArrived ..
  · exact h

theorem ringOverflow (ch : Chan) (h : Quiet n s t) : Quiet n s (Machine.ringOverflow ch t) := h.same rfl

theorem poisonRead (h : Quiet n s t) : Quiet n s (Machine.poisonRead t) := h.same rfl

theorem roundFrame (ch : Chan) (arrival : Nat) (fate : RingFate) (p : List Byte) (h : Quiet n s t) :
    Quiet n s (Machine.roundFrame ch arrival fate p t) := by
  unfold Machine.roundFrame
  dsimp only
  (repeat' split) <;> apply_rules [poisonRead, ringOverflow, slotFrame, updChan, ite_snd, ite]

theorem integrateFrom (x : Slot) (p : List Byte) (h : Quiet n s t) : Quiet n s (Machine.integrateFrom x p t) := by
  unfold Machine.integrateFrom
  apply_rules [setFState, updFloe, updTb]

theorem listenFrame (ch : Chan) (p : List Byte) (h : Quiet n s t) : Quiet n s (Machine.listenFrame ch p t) := by
  unfold Machine.listenFrame
  split <;> apply_rules [integrateFrom, countCheck, updFloe, ite_snd, ite]

theorem countFcs (ch : Chan) (h : Quiet n s t) : Quiet n s (Machine.countFcs ch t) := h.same rfl

theorem coldArrived (ch : Chan) (arrival : Dword) (p : List Byte) (h : Quiet n s t) :
    Quiet n s (Machine.coldArrived ch arrival p t) := by
  unfold Machine.coldArrived
  apply_rules [countCheck, updFloe, ite_snd, ite]

theorem adoptCold (c : ColdRx) (h : Quiet n s t) : Quiet n s (Machine.adoptCold c t) := by
  unfold Machine.adoptCold
  dsimp only
  split <;> apply_rules [setFState, updFloe]

theorem countDiscards (k : Nat) (h : Quiet n s t) : Quiet n s (Machine.countDiscards k t) := by
  unfold Machine.countDiscards
  apply_rules [updPort]

theorem nextFragment (maxd : Nat) (h : Quiet n s t) (hn : n.drains = true) : Quiet n s (Machine.nextFragment maxd t) := by
  unfold Machine.nextFragment
  split
  · exact h
  · next r rest hr =>
    refine ite (Quiet.noteRead _ (updPortDrain _ _ h hn le_rfl ?_ le_rfl)) (updPort _ _ h rfl rfl rfl rfl)
    show rest.length ≤ t.hif.maint.resps.length
    rw [hr]
    exact Nat.le_succ _

theorem guardCut (c : Chan) (h : Quiet n s t) : Quiet n s (Machine.guardCut c t) := by
  unfold Machine.guardCut
  apply_rules [updChan, raiseOpen]

theorem countTx (c : Chan) (h : Quiet n s t) : Quiet n s (Machine.countTx c t) := h.same rfl

theorem putOnWire (num : Nat) (p : List Byte) (task : Tx) (h : Quiet n s t) : Quiet n s (Machine.putOnWire num p t task) := by
  unfold Machine.putOnWire
  apply_rules [countTx, guardCut, updFloe, ite_snd, ite]

theorem keyMissing (h : Quiet n s t) : Quiet n s (Machine.keyMissing t) := by
  unfold Machine.keyMissing
  apply_rules [raiseOpen, updFloe, ite_snd, ite]

theorem advanceSeq (h : Quiet n s t) : Quiet n s (Machine.advanceSeq t) := h.same rfl

theorem slotPayload_after {x : Slot} {u : State} {p : Option (List Byte)} {after : State → State}
    (e : slotPayload x u = some (p, after)) (h : Quiet n s t) (hn : n.drains = true) : Quiet n s (after t) := by
  unfold slotPayload at e
  dsimp only at e
  split at e
  · split at e
    · cases e
      exact h.advanceSeq
    · cases e
  · split at e
    · obtain ⟨d, -, e⟩ := Option.map_eq_some_iff.mp e
      cases e
      exact h.advanceSeq.nextFragment _ hn
    · cases e
  · split at e
    · obtain ⟨d, -, e⟩ := Option.map_eq_some_iff.mp e
      cases e
      exact h.updFloe _
    · cases e
  · cases e


theorem sendSlot (x : Slot) (ts : List Tx) (h : Quiet n s t) (hn : n.drains = true) : Quiet n s (Machine.sendSlot x ts t) := by
  unfold Machine.sendSlot
  split
  · exact h
  · split
    · exact h
    · exact h.keyMissing
    · next e => exact (slotPayload_after e h hn).foldl _ fun _ _ hu => hu.putOnWire ..

theorem sendCold (h : Quiet n s t) : Quiet n s (Machine.sendCold t) := by
  unfold Machine.sendCold
  dsimp only
  split
  · exact h.keyMissing
  · exact Quiet.setFState _ (h.advanceSeq.foldl _ fun _ _ hu => hu.putOnWire ..)

theorem scanOut (code : Byte) (k : Nat) (v : BitVec 384) (h : Quiet n s t) : Quiet n s (Machine.scanOut code k v t) := h.same rfl

theorem bypassScan (code : Byte) (h : Quiet n s t) : Quiet n s (Machine.bypassScan code t) := h.same rfl

theorem powered {f : State → State} (h : Quiet n s t) (hf : Quiet n s (f t)) : Quiet n s (Machine.powered f t) :=
  ite h hf

theorem frozenOnly (code : Byte) {f : State → State} (h : Quiet n s t) (hf : Quiet n s (f t)) :
    Quiet n s (Machine.frozenOnly code f t) :=
  h.powered (ite hf (h.bypassScan _))

theorem boundaryScan (code : Byte) (shiftIn : Dword) (h : Quiet n s t) : Quiet n s (Machine.boundaryScan code shiftIn t) := by
  unfold Machine.boundaryScan
  exact Quiet.updJtag _ (Quiet.scanOut _ _ _ h.drawFree)

theorem selectChain (value : Word) (h : Quiet n s t) : Quiet n s (Machine.selectChain value t) := h.same rfl

end Quiet

end Sys2Proof.Proofs
end

section
/-! SUPPORT. What each instruction that is not a host command keeps (O4, O5, O7): the body of `exec` runs only operations that keep it. -/
namespace Sys2Proof.Proofs
open Sys2Proof.Machine
namespace Quiet
/-- What an instruction of `exec` may do: start no operation that pends, and take packets out of the mailboxes. -/
def loose : Slack := ⟨fun _ => 0, true⟩
/-- The state that an instruction leaves keeps what is watched. -/
def QuietNext (s : State) (o : Host.Outcome State Fault Refusal) : Prop := ∀ t, o = .next t → Quiet loose s t
variable {n : Slack} {s t u : State}
theorem next (h : Quiet loose s t) : QuietNext s (.next t) := by
  rintro _ ⟨⟩
  exact h
theorem done (s : State) : Quiet loose s s := .refl s

theorem enterEff_selftest (h : Quiet n s t) (ht : t.eff = .boot) (hs : s.eff = .boot) : Quiet n s (Machine.enterEff .selftest t) := by
  unfold Machine.enterEff
  split
  · exact (h.updHoldFrom _).recordState _ _
  · refine Quiet.recordState _ _ (h.updMstate _ fun safe => ?_)
    rw [State.eff, if_neg (by rw [safe]; decide), safe] at hs
    cases hs

theorem execModereqTimeout (s : State) : QuietNext s (Machine.execModereqTimeout s) := by
  refine next ((done s).whileRunning ?_)
  split <;> apply_rules [done s, endModereq, ite]

theorem execVerifyComplete (nandEqual : Bool) (s : State) : QuietNext s (Machine.execVerifyComplete nandEqual s) := by
  refine next (ite (done s) ?_)
  split
  · exact (done s).verifyFails ..
  · exact ite ((done s).verifyPasses ..) ((done s).nandDiffers _)

theorem execActivationNoBoundary (s : State) : QuietNext s (Machine.execActivationNoBoundary s) := by
  refine next ((done s).whileRunning ?_)
  split <;> apply_rules [done s, abandonActivation, ite]

theorem execActfwd (msg : List Byte) (s : State) : QuietNext s (Machine.execActfwd msg s) :=
  next ((done s).onMessage _ _ _ fun b _ hu => actForwarded b hu)

theorem execActprop (msg : List Byte) (s : State) : QuietNext s (Machine.execActprop msg s) :=
  next ((done s).onMessage _ _ _ fun b _ hu => actProposed b hu)

theorem execActconf (msg : List Byte) (s : State) : QuietNext s (Machine.execActconf msg s) :=
  next ((done s).onMessage _ _ _ fun b _ hu => actConfirmed b hu)

theorem execActConfirmTimeout (s : State) : QuietNext s (Machine.execActConfirmTimeout s) := by
  refine next ((done s).whileRunning ?_)
  split <;> apply_rules [done s, abandonActivation, sendMsg, ite]

theorem execSliceCopyComplete (task : TaskId) (s : State) : QuietNext s (Machine.execSliceCopyComplete task s) := by
  refine next ((done s).whileRunning ?_)
  split <;> apply_rules [done s, endWaits, meetSignatures, updRun, sendMsg, takeLost, ite]

theorem execInsig (msg : List Byte) (s : State) : QuietNext s (Machine.execInsig msg s) :=
  next ((done s).onMessage _ _ _ fun b _ hu => insigTaken b hu)

theorem execInslice (msg : List Byte) (s : State) : QuietNext s (Machine.execInslice msg s) :=
  next ((done s).onMessage _ _ _ fun b _ hu => insliceTaken b hu)

theorem execAgreeTimeout (task : TaskId) (s : State) : QuietNext s (Machine.execAgreeTimeout task s) := by
  refine next ((done s).whileRunning ?_)
  split <;> apply_rules [done s, endWait, updRun, goSilent, updTwin, ite]

theorem execTwcmp (msg : List Byte) (s : State) : QuietNext s (Machine.execTwcmp msg s) :=
  next ((done s).onMessage _ _ _ fun b _ hu => twcmpTaken b hu)

theorem execStsig (msg : List Byte) (s : State) : QuietNext s (Machine.execStsig msg s) :=
  next ((done s).onMessage _ _ _ fun b _ hu => stsigTaken b hu)

theorem execCanLockTimeout (ch : CanCh) (buf : Fin 64) (s : State) : QuietNext s (Machine.execCanLockTimeout ch buf s) := by
  refine next ?_
  apply_rules [done s, markBuf, updCan, updCan, updCan, ite]

theorem execCanFrameReceive (ch : CanCh) (frame : CanFrame) (sof : Word) (s : State) : QuietNext s (Machine.execCanFrameReceive ch frame sof s) := by
  refine next ?_
  apply_rules [done s, receivedWell, storeFrame, frameDone, ite]

theorem execCanTxComplete (ch : CanCh) (buf : Fin 64) (sof loopDelayNs : Word) (s : State) : QuietNext s (Machine.execCanTxComplete ch buf sof loopDelayNs s) := by
  refine next ?_
  apply_rules [done s, sentBuf, frameDone, ite]

theorem execCanBusOff (ch : CanCh) (s : State) : QuietNext s (Machine.execCanBusOff ch s) := by
  refine next ?_
  apply_rules [done s, enterBusOff, ite]

theorem execCanBoHoldExpiry (ch : CanCh) (s : State) : QuietNext s (Machine.execCanBoHoldExpiry ch s) := by
  refine next ?_
  apply_rules [done s, updCan, updCan, updCan, ite]

theorem execCanBusOffRecovery (ch : CanCh) (s : State) : QuietNext s (Machine.execCanBusOffRecovery ch s) := by
  refine next ?_
  apply_rules [done s, loadBus, updCan, updCan, updCan, ite]

theorem execCanCollision (ch : CanCh) (buf : Fin 64) (s : State) : QuietNext s (Machine.execCanCollision ch buf s) := by
  refine next ?_
  apply_rules [done s, collide, frameDone, ite]

theorem execCanBusError (ch : CanCh) (err : CanError) (transmitting : Bool) (buf : Fin 64) (phase : CanPhase) (s : State) : QuietNext s (Machine.execCanBusError ch err transmitting buf s phase) := by
  refine next ?_
  apply_rules [done s, receiveError, transmitError, ite]

theorem execCanProtocolException (ch : CanCh) (s : State) : QuietNext s (Machine.execCanProtocolException ch s) := by
  refine next ?_
  apply_rules [done s, frameDone, updCan, updCan, updCan, ite]

theorem execCanIntegration (ch : CanCh) (s : State) : QuietNext s (Machine.execCanIntegration ch s) := by
  refine next ?_
  apply_rules [done s, loadBus, updCan, updCan, updCan, ite]

theorem execCanWake (ch : CanCh) (frame : Option CanFrame) (s : State) : QuietNext s (Machine.execCanWake ch s frame) := by
  refine next ?_
  apply_rules [done s, updPower, ite]

theorem execArbiterDecision (waits : List (Option Nat)) (s : State) : QuietNext s (Machine.execArbiterDecision waits s) := by
  refine next ?_
  apply_rules [done s, arbDecide, ite]

theorem execCrossingResync (x : Fin 17) (discarded : Nat) (s : State) : QuietNext s (Machine.execCrossingResync x discarded s) := by
  refine next ?_
  apply_rules [done s, updFabric, ite]

theorem execPulseTransfer (x : Fin 17) (pulses : Nat) (s : State) : QuietNext s (Machine.execPulseTransfer x pulses s) := by
  refine next ?_
  apply_rules [done s, raiseOpen, updFabric, ite]

theorem execOnlineTestStep (ok : Bool) (s : State) : QuietNext s (Machine.execOnlineTestStep ok s) := by
  refine next ((done s).whileRunning ?_)
  apply_rules [done s, raiseOpen, updFabric, ite]

theorem execCvuChainComplete (poisoned : List Nat) (corrected : Nat) (s : State) : QuietNext s (Machine.execCvuChainComplete poisoned s corrected) := by
  refine next ?_
  split <;> apply_rules [done s, endChain, ite]

theorem execEvaluationStart (task : TaskId) (fault : Option (LaneId × EvalFault)) (s : State) : QuietNext s (Machine.execEvaluationStart task fault s) := by
  refine next ((done s).whileRunning ?_)
  split <;> apply_rules [done s, evalFault, remapWindow, beginCycle, updRun, takeLost, ite]

theorem execTaskYield (task : TaskId) (s : State) : QuietNext s (Machine.execTaskYield task s) := by
  refine next ((done s).whileRunning ?_)
  beta_reduce
  split
  · split
    · exact ite (updTasks _ (((done s).evaluateTo ..).updRun ..)) (done s)
    · exact done s
  · exact done s

theorem execTaskRelease (task : TaskId) (s : State) : QuietNext s (Machine.execTaskRelease task s) := by
  refine next ((done s).whileRunning ?_)
  beta_reduce
  split
  · exact done s
  · refine ite (done s) ?_
    split
    · exact (done s).lateRelease ..
    · exact Quiet.startCycle _ _ (updTasks _ (Quiet.comparisonTimeout _ (ite (done s).passGap.enterLanes (done s))))

theorem execFramCommitComplete (failed : Option LaneId) (s : State) : QuietNext s (Machine.execFramCommitComplete failed s) :=
  next ((done s).whileRunning (ite (done s) (Quiet.laneFaultIn _ _ (Quiet.countRetries _ (writeFramBlocks _ _ (done s) commitOne_wf)
    fun _ => rfl))))

theorem execTaskEnd (task : TaskId) (endTime : Dword) (backlog : Option LaneId) (s : State) : QuietNext s (Machine.execTaskEnd task endTime backlog s) := by
  refine next ((done s).whileRunning ?_)
  split <;> apply_rules [done s, finishCycle, laneFaultIn, ite]

theorem execDeadlineInstant (task : TaskId) (literal : Word) (s : State) : QuietNext s (Machine.execDeadlineInstant task literal s) := by
  refine next ((done s).whileRunning ?_)
  apply_rules [done s, overrunCycle, ite]

theorem execActivationBoundary (s : State) : QuietNext s (Machine.execActivationBoundary s) := by
  refine next ((done s).whileRunning ?_)
  split <;> apply_rules [done s, boundarySwitch, abandonActivation, ite]

theorem execVoteRecord (r0 r1 r2 : VRec) (votersAgree parityOk inPath : Bool) (s : State) : QuietNext s (Machine.execVoteRecord r0 r1 r2 votersAgree parityOk s inPath) := by
  refine next ((done s).whileRunning ?_)
  have h := (done s).stepTags (laneRecord r0 r1 r2)
  refine ite (h.voterFaults ..) (ite (h.selfTest _) ?_)
  split
  · exact h.actOnVote ..
  · exact done s

theorem execLaneWatchdogExpiry (lane : LaneId) (s : State) : QuietNext s (Machine.execLaneWatchdogExpiry lane s) := by
  refine next ((done s).whileRunning ?_)
  apply_rules [done s, laneFault, ite]

theorem execLaneRailWindowFault (lane : LaneId) (mv : Half) (s : State) : QuietNext s (Machine.execLaneRailWindowFault lane s mv) :=
  next ((done s).whileRunning (Quiet.laneFault _ _ (updLane _ _ (done s) fun _ _ hl => hl)))

theorem execLaneRailsCommonMode (s : State) : QuietNext s (Machine.execLaneRailsCommonMode s) := by
  refine next ((done s).whileRunning ?_)
  apply_rules [done s, raiseOpen, ite]

theorem execLaneRailsLost (s : State) : QuietNext s (Machine.execLaneRailsLost s) :=
  next (ite (done s) (((updIo _ (updMstate _ (done s) fun _ => by simp [offService]) rfl).haltCan .can1).haltCan .can2))

theorem execReintResetElapsed (lane : LaneId) (s : State) : QuietNext s (Machine.execReintResetElapsed lane s) :=
  next ((done s).whileRunning ((done s).laneFrom _ _ (updLane _ _ (done s) fun _ _ hl => hl)))

theorem execReintTestComplete (lane : LaneId) (passed : Bool) (s : State) : QuietNext s (Machine.execReintTestComplete lane passed s) := by
  refine next ((done s).whileRunning ((done s).laneFrom _ _ (ite (done s) (ite ((done s).exclusionSteps ..) (ite (done s)
    (updLane _ _ (done s) fun _ l hl => ?_))))))
  simp only [LaneSt.memoriesWf, Bool.and_eq_true] at hl ⊢
  exact ⟨rfl, hl.2⟩

theorem execReintBulkCopyDone (lane : LaneId) (s : State) : QuietNext s (Machine.execReintBulkCopyDone lane s) :=
  next ((done s).whileRunning ((done s).laneFrom _ _ (ite (done s) (updLane _ _ (done s) fun m l hl =>
    (copyBulk_wf l.dirty m hl :)))))

theorem execReintDeltaEmpty (lane : LaneId) (s : State) : QuietNext s (Machine.execReintDeltaEmpty lane s) := by
  refine next ((done s).whileRunning ((done s).laneFrom _ _ (ite (done s) (updLane _ _ (done s) fun m l hl => ?_))))
  have each : ∀ (ks : List Nat) (x : LaneSt), x.memoriesWf = true →
      (ks.foldl (fun x k => copyBlock k s x) x).memoriesWf = true := by
    intro ks
    induction ks with
    | nil => exact fun _ hx => hx
    | cons k ks ih => exact fun x hx => ih _ (copyBlock_wf _ m hx)
  exact (each l.marked l hl :)

theorem execReintGapsExhausted (lane : LaneId) (s : State) : QuietNext s (Machine.execReintGapsExhausted lane s) := by
  refine next ((done s).whileRunning ?_)
  apply_rules [done s, laneFrom, exclusionSteps, ite]

theorem execScanStep (s : State) : QuietNext s (Machine.execScanStep s) := by
  refine next ((done s).whileRunning ?_)
  apply_rules [done s, compareWindow, sendStsig, takeLost, updVoter, ite]

theorem execInputSample (microamps : List (Nat × Nat)) (s : State) : QuietNext s (Machine.execInputSample microamps s) := by
  refine next ?_
  apply_rules [done s, sampleInput, watchPress, foldl, ite]

theorem execQuenchEvaluation (s : State) : QuietNext s (Machine.execQuenchEvaluation s) :=
  next ((done s).whileRunning (ite (done s) (ite ((done s).takeLost _).stopHeartbeat
    (Quiet.heartbeat (ite (done s).evaluateRules.insertSelftest (done s).evaluateRules)))))

theorem execFieldSupplySample (mv1 mv2 : Nat) (s : State) : QuietNext s (Machine.execFieldSupplySample mv1 mv2 s) := by
  refine next ?_
  apply_rules [done s, supplySource, settleOutputs, updIo, ite]

theorem execOutputReadbackSample (mvMa : List (Nat × Nat)) (s : State) : QuietNext s (Machine.execOutputReadbackSample mvMa s) :=
  next (ite (done s) ((done s).settleOutputs.foldl _ fun _ _ hu => hu.readbackOutput ..).watchPress)

theorem execTestPulseStart (k : Fin 16) (s : State) : QuietNext s (Machine.execTestPulseStart k s) := by
  refine next ?_
  apply_rules [done s, updOut, ite]

theorem execTestPulseEnd (k : Fin 16) (readOff : Bool) (fell : BitVec 16) (s : State) : QuietNext s (Machine.execTestPulseEnd k readOff fell s) := by
  refine next ((done s).whileRunning ?_)
  apply_rules [done s, pulseOutcome, updOut, ite]

theorem execDiscriminationEnd (g : Fin 2) (readOn : Bool) (s : State) : QuietNext s (Machine.execDiscriminationEnd g readOn s) := by
  refine next ((done s).whileRunning ?_)
  dsimp only
  (repeat' split) <;> apply_rules [done s, wiringFaultBoth, wiringFault, settleOutputs, updIo, ite]

theorem execOutputOverload (k : Fin 16) (ma : Nat) (s : State) : QuietNext s (Machine.execOutputOverload k ma s) := by
  refine next ?_
  apply_rules [done s, updOut, raiseOpen, record, ite]

theorem execOvlClear (k : Fin 16) (s : State) : QuietNext s (Machine.execOvlClear k s) := by
  refine next ?_
  apply_rules [done s, updOut, ite]

theorem execOpenLoad (k : Fin 16) (s : State) : QuietNext s (Machine.execOpenLoad k s) := by
  refine next ?_
  apply_rules [done s, updOut, record, ite]

theorem execFeedbackFault (k : Fin 16) (s : State) : QuietNext s (Machine.execFeedbackFault k s) := by
  refine next ?_
  apply_rules [done s, updOut, raiseOpen, ite]

theorem execGuardBeat (sincePrevUs : Nat) (s : State) : QuietNext s (Machine.execGuardBeat sincePrevUs s) := by
  refine next ?_
  apply_rules [done s, tripGuard, updIo, ite]

theorem execGuardHbEqual (s : State) : QuietNext s (Machine.execGuardHbEqual s) := by
  refine next ?_
  apply_rules [done s, tripGuard, ite]

theorem execGuardTimeout (s : State) : QuietNext s (Machine.execGuardTimeout s) := by
  refine next ?_
  apply_rules [done s, tripGuard, ite]

theorem execLinkUp (ch : Chan) (s : State) : QuietNext s (Machine.execLinkUp ch s) := by
  refine next ?_
  apply_rules [done s, leaveDown, updChan, ite]

theorem execLinkDown (ch : Chan) (inFrame : Bool) (s : State) : QuietNext s (Machine.execLinkDown ch s inFrame) := by
  refine next ?_
  apply_rules [done s, bothLost, channelFault, updChan, updFabric, ite]

theorem execChannelSilent (ch : Chan) (s : State) : QuietNext s (Machine.execChannelSilent ch s) := by
  refine next ?_
  apply_rules [done s, bothLost, channelFault, updChan, ite]

theorem execEchoMissing (ch : Chan) (s : State) : QuietNext s (Machine.execEchoMissing ch s) := by
  refine next ?_
  apply_rules [done s, channelFault, updChan, ite]

theorem execCorrectionPoint (s : State) : QuietNext s (Machine.execCorrectionPoint s) := by
  refine next ?_
  split <;> apply_rules [done s, judgeChannels, correctRound, judgeState, ite]

theorem execColdstartTimeout (s : State) : QuietNext s (Machine.execColdstartTimeout s) := by
  refine next ((done s).whileRunning ?_)
  apply_rules [done s, toListen, updFloe, ite]

theorem execIntegrateTimeout (s : State) : QuietNext s (Machine.execIntegrateTimeout s) := by
  refine next ((done s).whileRunning ?_)
  apply_rules [done s, toListen, ite]

theorem execPassiveTimeout (s : State) : QuietNext s (Machine.execPassiveTimeout s) := by
  refine next ((done s).whileRunning ?_)
  apply_rules [done s, loseSync, ite]

theorem execModeSwitch (s : State) : QuietNext s (Machine.execModeSwitch s) := by
  refine next ?_
  dsimp only
  (repeat' split) <;> apply_rules [done s, switchMode, enterPassive, updFloe, ite]

theorem execServiceEntry (s : State) : QuietNext s (Machine.execServiceEntry s) := by
  refine next ((done s).whileRunning ?_)
  beta_reduce
  split
  · next start =>
    simp only [Bool.and_eq_true, decide_eq_true_eq] at start
    exact (done s).beginService _ (by rw [start.1.1.1]; simp [offService])
  · exact done s

theorem execHelloSend (s : State) : QuietNext s (Machine.execHelloSend s) := by
  refine next ?_
  apply_rules [done s, sendMsg, ite]

theorem execHello (receipt : Dword) (msg : List Byte) (restarted : Bool) (s : State) : QuietNext s (Machine.execHello receipt msg s restarted) := by
  refine next (Quiet.onMessage _ _ _ ?_ fun _ _ hu => hu.helloTaken ..)
  exact ite (updTwin _ (done s) rfl) (done s)

theorem execJoinRetry (s : State) : QuietNext s (Machine.execJoinRetry s) := by
  refine next ((done s).whileRunning ?_)
  apply_rules [done s, autoJoin, ite]

theorem execSplitreq (msg : List Byte) (s : State) : QuietNext s (Machine.execSplitreq msg s) :=
  next ((done s).onMessage _ _ _ fun b _ hu => splitRequested b hu)

theorem execSplitack (msg : List Byte) (s : State) : QuietNext s (Machine.execSplitack msg s) :=
  next ((done s).onMessage _ _ _ fun b _ hu => splitAnswered b hu)

theorem execSplitackTimeout (s : State) : QuietNext s (Machine.execSplitackTimeout s) := by
  refine next ((done s).whileRunning ?_)
  beta_reduce
  split
  · exact ite ((done s).openReason fun _ _ hu => hu.dropSplit _) (done s)
  · exact done s

theorem execSplitBoundary (s : State) : QuietNext s (Machine.execSplitBoundary s) := by
  refine next ((done s).whileRunning ?_)
  split <;> apply_rules [done s, splitNow, ite]

theorem execSplitNoBoundary (s : State) : QuietNext s (Machine.execSplitNoBoundary s) := by
  refine next ((done s).whileRunning ?_)
  beta_reduce
  split
  · exact ite ((done s).openReason fun _ _ hu => ((hu.sendAbort _).endSplit _).abandonRecord ..) (done s)
  · exact done s

theorem execJoinreq (msg : List Byte) (s : State) : QuietNext s (Machine.execJoinreq msg s) :=
  next ((done s).onMessage _ _ _ fun b _ hu => joinRequested b hu)

theorem execJoinack (msg : List Byte) (s : State) : QuietNext s (Machine.execJoinack msg s) :=
  next ((done s).onMessage _ _ _ fun b _ hu => joinAnswered b hu)

theorem execJoinackTimeout (s : State) : QuietNext s (Machine.execJoinackTimeout s) := by
  refine next ((done s).whileRunning ?_)
  beta_reduce
  split
  · exact ite ((done s).openReason fun _ _ hu => hu.dropJoin _) (done s)
  · exact done s

theorem execJoinabort (msg : List Byte) (s : State) : QuietNext s (Machine.execJoinabort msg s) :=
  next ((done s).onMessage _ _ _ fun b _ hu => abortTaken b hu)

theorem execJoinNoEntry (s : State) : QuietNext s (Machine.execJoinNoEntry s) := by
  refine next ((done s).whileRunning ?_)
  split <;> apply_rules [done s, dropJoin, ite]

theorem execStateblkSend (s : State) : QuietNext s (Machine.execStateblkSend s) := by
  refine next ((done s).whileRunning ?_)
  beta_reduce
  split
  · next j hj => exact ite (done s) ((done s).drainLink.streamNext _ ((done s).journal_wf hj))
  · exact done s

theorem execStateblk (msg : List Byte) (s : State) : QuietNext s (Machine.execStateblk msg s) :=
  next ((done s).onMessage _ _ _ fun b _ hu => stateblkTaken b hu)

theorem execJoinend (msg : List Byte) (s : State) : QuietNext s (Machine.execJoinend msg s) :=
  next ((done s).onMessage _ _ _ fun b _ hu => joinEnded b hu)

theorem execRoundStart (s : State) : QuietNext s (Machine.execRoundStart s) := by
  refine next ((done s).whileRunning ?_)
  apply_rules [done s, passStopped, twinRound, openRound, takeSync, takeColdStart, settleOutputs, drainLink, updKeys, ite]

theorem execPowerOnStart (rimeAgrees iceAgrees logAgrees : Bool) (s : State) : QuietNext s (Machine.execPowerOnStart rimeAgrees iceAgrees logAgrees s) := by
  refine next (ite (done s) ?_)
  have h1 := ((done s).bookkeeping iceAgrees logAgrees).updJtag fun _ => .fresh
  exact ite (Quiet.startAs _ _ (updFram _ (h1.updKeys _) fun w => w) rfl) (h1.startAs _ _ rfl)

theorem execFirmwareSlotCheck (sig0 sig1 sig2 fwMarkAgrees : Bool) (s : State) : QuietNext s (Machine.execFirmwareSlotCheck sig0 sig1 sig2 fwMarkAgrees s) := by
  refine next ((done s).whileRunning ?_)
  beta_reduce
  split
  · exact done s
  · next boot =>
    have hb : s.eff = .boot := not_not.mp boot
    extract_lets s1 passed
    have h1 : Quiet loose s s1 := ite (done s) (done s).dropImage
    have e1 : s1.eff = s.eff := by
      dsimp only [s1]
      split <;> rfl
    exact ite h1 (ite (Quiet.enterEff_selftest (h1.updFw _) (e1.trans hb) hb) (h1.updResetHold _))

theorem execFwUpdateBoot (sig0 sig1 sig2 copyBad0 copyBad1 copyBad2 : Bool) (s : State) : QuietNext s (Machine.execFwUpdateBoot sig0 sig1 sig2 copyBad0 copyBad1 copyBad2 s) := by
  refine next ((done s).whileRunning ?_)
  beta_reduce
  refine ite (done s) ?_
  split
  · exact ite (done s).raiseNoAgree ((done s).refuseUpdate _)
  · next sigOk minority _ =>
    have h1 : Quiet loose s (if formatOk s.fw.image then minority.toList.foldl Machine.lockOutLane s else s) :=
      ite ((done s).foldl _ fun _ _ hu => hu.lockOutLane _) (done s)
    dsimp only
    split
    · exact h1.refuseUpdate _
    · exact ite (Quiet.acceptUpdate (h1.foldl _ fun _ _ hu => hu.lockOutLane _)) (h1.foldl _ fun _ _ hu => hu.lockOutLane _)

theorem execSelftestComplete (logicOk memoryOk guardOk wrap0Ok wrap1Ok wrapTwinOk reintOk : Bool) (s : State) : QuietNext s (Machine.execSelftestComplete logicOk memoryOk guardOk wrap0Ok wrap1Ok wrapTwinOk reintOk s) := by
  refine next ((done s).whileRunning ?_)
  beta_reduce
  split
  · exact done s
  · split
    · exact (done s).updResetHold _
    · extract_lets s1 s2 s3
      have h1 : Quiet loose s s1 := ite (updIo _ (done s) rfl) (done s)
      have h3 : Quiet loose s s3 := (h1.updKeys _).foldl _ fun _ _ hu => hu.testLane ..
      exact (h3.updTestsDone _).tryListen

theorem execStartupReached (bank0 bank1 : BankCheck) (retentive : Agreement) (locksAgree actBankAgrees homeAgrees : Bool) (s : State) : QuietNext s (Machine.execStartupReached bank0 bank1 retentive locksAgree actBankAgrees homeAgrees s) := by
  refine next ((done s).whileRunning ?_)
  beta_reduce
  refine ite (done s) ?_
  extract_lets s1 s2 s3 s4 s5
  have h2 : Quiet loose s s2 := ite (((done s).checkBank ..).checkBank ..) ((((done s).checkBank ..).checkBank ..).forgetActive)
  have h3 : Quiet loose s s3 := h2.restoreElements
  have h4 : Quiet loose s s4 := ite (h3.voteAgreement _ _ h3.raiseNoAgree) h3.raiseNoAgree
  have h5 : Quiet loose s s5 := ite h4.reimpose (h4.raiseOpen ..)
  split
  · exact h5
  · next selftest =>
    have h6 := h5.enterEff .startup (.inr (by rw [not_not.mp selftest]; simp [offService]))
    exact Quiet.tryListen (ite h6.enterSafe (ite h6 h6.startGroups))

theorem execUndervoltage (mv : Word) (s : State) : QuietNext s (Machine.execUndervoltage mv s) := by
  refine next ?_
  apply_rules [done s, holdIf, ite]

theorem execSupplyRestored (mv : Word) (s : State) : QuietNext s (Machine.execSupplyRestored mv s) := by
  refine next ((done s).whileRunning ?_)
  beta_reduce
  split
  · exact done s
  · next hold =>
    have hs : s.mstate ≠ .safe := fun e => hold (.inl (by rw [e]; decide))
    exact ite (((done s).updPower _).restart _ _ rfl) (((done s).updPower _).leaveHold _ hs rfl)

theorem execBrownout (storeMv : Word) (s : State) : QuietNext s (Machine.execBrownout s storeMv) :=
  next ((done s).whileRunning (ite (done s) (((((done s).updPower _).raiseOpen ..).stopGroup 2).stopGroup 1).beforeRestart))

theorem execOvervoltageDisconnect (mv : Word) (s : State) : QuietNext s (Machine.execOvervoltageDisconnect mv s) := by
  refine next ?_
  apply_rules [done s, holdIf, updPower, ite]

theorem execOvervoltageReconnect (mv : Word) (s : State) : QuietNext s (Machine.execOvervoltageReconnect s mv) := by
  refine next ?_
  apply_rules [done s, updPower, ite]

theorem execDormantWake (src : WakeSource) (s : State) : QuietNext s (Machine.execDormantWake src s) := by
  refine next ?_
  split
  · exact done s
  · next dormant =>
    refine ((done s).wakeItems rfl).releaseHeld.enterState _ fun e => absurd ?_ dormant
    exact .inl (by rw [e]; decide)

theorem execRestartCommandAction (s : State) : QuietNext s (Machine.execRestartCommandAction s) := by
  refine next ((done s).whileRunning ?_)
  beta_reduce
  refine ite (done s) ?_
  split
  · exact done s
  · exact Quiet.runAction _ (updHif _ (done s) rfl rfl) rfl

theorem execFreeze (stopCycles : BitVec 4) (s : State) : QuietNext s (Machine.execFreeze stopCycles s) := by
  refine next (ite (done s) (updHoldFrom _ (updMstate _ (updJtag _ (updFram _ ?_ fun w => w)) fun _ => by simp [offService])))
  exact ((((((done s).drawFree).updKeys _).stopGroup 2).stopGroup 1).haltCan .can1).haltCan .can2

theorem execFaultRaised (source : Byte) (rails : BitVec 2) (code : BitVec 3) (detail : Word) (s : State) : QuietNext s (Machine.execFaultRaised source rails code detail s) := by
  refine next ?_
  apply_rules [done s, presentPattern, ite]

theorem execFaultEnd (source : Byte) (ms : Word) (s : State) : QuietNext s (Machine.execFaultEnd source ms s) := by
  refine next ?_
  apply_rules [done s, endPattern, ite]

theorem execIceRecordStore (s : State) : QuietNext s (Machine.execIceRecordStore s) := by
  refine next ?_
  apply_rules [done s, iceTake, ite]

theorem execNandPageWrite (failed : Option LaneId) (s : State) : QuietNext s (Machine.execNandPageWrite failed s) := by
  refine next ?_
  apply_rules [done s, pageWrite, countRetries, laneFaultIn, raiseOpen, ite]

theorem execSyncPointFire (k : Fin 4) (s : State) : QuietNext s (Machine.execSyncPointFire k s) := by
  refine next ?_
  apply_rules [done s, updTb, ite]

theorem execReadStat (s : State) : QuietNext s (Machine.execReadStat s) :=
  next ((done s).whenReady ((done s).drive _))

theorem execInvalidTransaction (clocks : Nat) (code : Byte) (s : State) : QuietNext s (Machine.execInvalidTransaction clocks code s) := by
  refine next ?_
  apply_rules [done s, countFrameErr, whenReady, ite]

theorem execFrameReceive (ch : Chan) (arrival : Dword) (fcsOk : Bool) (frame : List Byte) (fate : RingFate) (s : State) : QuietNext s (Machine.execFrameReceive ch arrival fcsOk frame s fate) := by
  refine next (ite (done s) ?_)
  split
  · exact done s
  · refine ite ((done s).countFcs _) ?_
    split
    · split
      · exact (done s).listenFrame ..
      · exact (done s).ringOverflow _
      · exact (done s).poisonRead
    iterate 3 exact (done s).roundFrame ..
    exact done s

theorem execColdstartReceive (ch : Chan) (arrival : Dword) (frame : List Byte) (fcsOk : Bool) (s : State) : QuietNext s (Machine.execColdstartReceive ch arrival frame s fcsOk) := by
  refine next (ite (done s) ?_)
  split
  · exact done s
  · exact ite ((done s).coldArrived ..) ((done s).countFcs _)

theorem execColdstartDecision (s : State) : QuietNext s (Machine.execColdstartDecision s) := by
  refine next ((done s).whileRunning ?_)
  split <;> apply_rules [done s, adoptCold, ite]

theorem execFrameTransmit (slot : Nat) (lateA lateB : Int) (poisonA poisonB : Bool) (s : State) : QuietNext s (Machine.execFrameTransmit slot lateA lateB s poisonA poisonB) := by
  refine next (ite (done s) ?_)
  split
  · exact done s
  · exact ite ((done s).sendSlot _ _ rfl) (done s)

theorem execListenTimerExpiry (s : State) : QuietNext s (Machine.execListenTimerExpiry s) := by
  refine next ?_
  apply_rules [done s, sendCold, ite]

theorem execTapReset (s : State) : QuietNext s (Machine.execTapReset s) := by
  refine next ?_
  apply_rules [done s, powered, updJtag, ite]

theorem execExtest (shiftIn : Dword) (s : State) : QuietNext s (Machine.execExtest shiftIn s) := by
  refine next ?_
  apply_rules [done s, boundaryScan, frozenOnly, ite]

theorem execSamplePreload (shiftIn : Dword) (s : State) : QuietNext s (Machine.execSamplePreload shiftIn s) := by
  refine next ?_
  apply_rules [done s, boundaryScan, powered, ite]

theorem execIdcode (s : State) : QuietNext s (Machine.execIdcode s) := by
  refine next ?_
  apply_rules [done s, powered, scanOut, ite]

theorem execClamp (s : State) : QuietNext s (Machine.execClamp s) := by
  refine next ?_
  apply_rules [done s, frozenOnly, bypassScan, ite]

theorem execHighz (s : State) : QuietNext s (Machine.execHighz s) := by
  refine next ?_
  apply_rules [done s, frozenOnly, bypassScan, ite]

theorem execIdread (s : State) : QuietNext s (Machine.execIdread s) := by
  refine next ?_
  apply_rules [done s, powered, scanOut, ite]

theorem execBypass (x0 : Bool) (code : Byte) (s : State) : QuietNext s (Machine.execBypass x0 s code) := by
  refine next ?_
  apply_rules [done s, powered, bypassScan, ite]

theorem execRimeStat (s : State) : QuietNext s (Machine.execRimeStat s) := by
  refine next ?_
  apply_rules [done s, frozenOnly, scanOut, ite]

theorem execRimeSel (value : Word) (s : State) : QuietNext s (Machine.execRimeSel value s) := by
  refine next ?_
  apply_rules [done s, selectChain, frozenOnly, scanOut, ite]

theorem execRimeRead (s : State) : QuietNext s (Machine.execRimeRead s) := by
  refine next ?_
  apply_rules [done s, frozenOnly, scanOut, updJtag, ite]

end Quiet
end Sys2Proof.Proofs
end

section
/-!
SUPPORT. What the host's mailboxes keep: a handler starts at most one operation that pends, and only where a place for it was found
free (R311 check 7); every packet that enters a mailbox finds a place there (R304, R312, R314). O4, O5, O7, O11.
-/
namespace Sys2Proof.Proofs
open Sys2Proof.Machine

/-! ### Arm and execute -/

theorem firstBad_none {ws : List Word} {rs : List FieldRule} (h : firstBad ws rs = none) :
    ∀ r ∈ rs, r.min ≤ fld (nth ws r.word) r.hi r.lo ∧ fld (nth ws r.word) r.hi r.lo ≤ r.max := by
  intro r hr
  have := List.find?_eq_none.mp h r hr
  simpa [FieldRule.holds] using this

/-- A payload that passes the checks of PHASE is an arm without a token, or an execute. -/
theorem phaseRefusal_none {ws : List Word} (h : phaseRefusal ws = none) :
    fld (nth ws 0) 31 8 = 0 ∧ (fld (nth ws 0) 7 0 = 1 ∧ nth ws 1 = 0 ∨ fld (nth ws 0) 7 0 = 2) := by
  unfold phaseRefusal at h
  split at h
  · cases h
  · next good =>
    have rules := firstBad_none good
    have w0 := rules _ (.head _)
    have ph := rules _ (.tail _ (.head _))
    simp only [rsvd] at w0 ph
    split at h
    · cases h
    · next arm => exact ⟨by omega, by by_cases one : fld (nth ws 0) 7 0 = 1 <;> [left; right] <;> [skip; omega]; exact ⟨one, not_not.mp fun w => arm ⟨one, w⟩⟩⟩

theorem nth_bytesWords_zero {payload : List Byte} (h : 4 ≤ payload.length) : nth (bytesWords payload) 0 = wordAt payload 0 := by
  have : 0 < payload.length / 4 := by omega
  simp [nth, bytesWords, this]

/-- An execute names PHASE 2, and its row knows it. -/
theorem isExecute_of_phase {payload : List Byte} {k : CmdKind} (hk : k = .arm ∨ k = .armPend)
    (hp : fld (nth (bytesWords payload) 0) 7 0 = 2) : isExecute k payload = true := by
  have hl : 4 ≤ payload.length := by
    by_contra short
    have : payload.length / 4 = 0 := by omega
    simp [nth, bytesWords, this, fld] at hp
  rw [nth_bytesWords_zero hl] at hp
  rcases hk with rfl | rfl <;> simp [isExecute, phaseOf, hp, show ¬ payload.length < 4 by omega]

namespace Quiet

variable {n m : Slack} {s t : State} {p : Port} {tag : Half} {payload : List Byte}

/-- What only an execute starts pends only at an execute. -/
theorem armExecute_pend (op : Half) {execute : Port → Half → List Word → State → Reply × State} (h : Quiet n s t)
    (he : fld (nth (bytesWords payload) 0) 7 0 = 2 → Quiet n s (execute p tag (bytesWords payload) t).2) :
    Quiet n s (Machine.armExecute op execute p tag payload t).2 := by
  unfold Machine.armExecute
  dsimp only
  split
  · exact h
  · next ok =>
    split
    · exact h.armReply ..
    · next arm => exact he ((phaseRefusal_none ok).2.resolve_left fun a => arm a.1)

end Quiet

/-! ### Handlers -/

/-- Nothing pends, and no packet leaves a mailbox. -/
def strict : Slack := ⟨fun _ => 0, false⟩

/-- One operation may pend where the command needs a place for it. -/
def slackOf (k : CmdKind) (payload : List Byte) (p : Port) : Slack := if needsPlace k payload then strict.more p else strict

theorem slackOf_pend {payload : List Byte} {p : Port} : slackOf .pend payload p = strict.more p := rfl

theorem slackOf_execute {payload : List Byte} {p : Port} (h : fld (nth (bytesWords payload) 0) 7 0 = 2) :
    slackOf .armPend payload p = strict.more p := by
  rw [slackOf, needsPlace, isExecute_of_phase (.inr rfl) h]
  rfl

/-- A catalogue row is found by its OPCODE. -/
theorem catalogueRow_eq {op : Half} {k : Nat} {row row' : CmdRow} (hr : catalogueRow op = some row) (hk : op.toNat = k)
    (h : (catalogue.find? fun r => r.opcode == k) = some row') : row = row' := by
  rw [catalogueRow, hk, h] at hr
  exact (Option.some.inj hr).symm

/-- A handler keeps what is watched, with one operation more pending where its row asks for a place. -/
def QuietHandler (row : CmdRow) (late : Prop) (h : Handler) : Prop := ∀ p tag payload s, (late → ¬ offService s.eff) →
  Quiet (slackOf row.kind payload p) s (h p tag payload s).2

theorem handlerOf_quiet {op : Half} {row : CmdRow} (hr : catalogueRow op = some row) :
    QuietHandler row (op.toNat = 0x0104) (handlerOf op) := by
  unfold handlerOf
  split <;> intro p tag payload s late
  all_goals
    have h : Quiet (slackOf row.kind payload p) s s := .refl s
    have h0 : Quiet strict s s := .refl s
  case h_1 => exact h.handleIdent ..
  case h_2 => exact h.handleStatus ..
  case h_3 => exact h.handleRegPeek ..
  case h_4 => exact h.handleRstWarm ..
  case h_5 => exact h.handleRstCold ..
  case h_6 => exact h.handlePwrDormant ..
  case h_7 => exact h.handleTestEnter _ _ _ (late ‹_›)
  case h_8 => exact h.handleTestExit ..
  case h_9 => exact h.handleTaskCfg ..
  case h_10 => exact h.handleIoCfg ..
  case h_11 => exact h.handleTimeSet ..
  case h_12 => exact h.handlePrgLoad ..
  case h_13 =>
    obtain rfl := catalogueRow_eq hr ‹_› rfl
    exact h0.handlePrgVerify ..
  case h_14 =>
    obtain rfl := catalogueRow_eq hr ‹_› rfl
    unfold handlePrgActivate
    dsimp only
    split
    · exact h
    · next ok =>
      split
      · exact h.armReply ..
      · next arm =>
        rw [slackOf_execute ((phaseRefusal_none ok).2.resolve_left fun a => arm a.1)]
        exact h0.activateExecute ..
  case h_15 => exact h.handleFwStage ..
  case h_16 => exact h.handleFwActivate ..
  case h_17 =>
    obtain rfl := catalogueRow_eq hr ‹_› rfl
    exact h0.handleImgRead ..
  case h_18 => exact h.handleHinWrite ..
  case h_19 => exact h.handleIceOpen ..
  case h_20 => exact h.handleIceRead ..
  case h_21 => exact h.handleFcuRead ..
  case h_22 => exact h.handleFcuAck ..
  case h_23 => exact h.handleFcuForce ..
  case h_24 => exact h.handleLockArm ..
  case h_25 => exact h.handleLockReset ..
  case h_26 => exact h.handleTwinCfg ..
  case h_27 =>
    obtain rfl := catalogueRow_eq hr ‹_› rfl
    refine h.armExecute_pend _ fun execute => ?_
    rw [slackOf_execute execute]
    exact h0.splitExecute ..
  case h_28 =>
    obtain rfl := catalogueRow_eq hr ‹_› rfl
    refine h.armExecute_pend _ fun execute => ?_
    rw [slackOf_execute execute]
    exact h0.joinExecute ..
  case h_29 => exact h.handleFloeCfg ..
  case h_30 => exact h.handleFloeSched ..
  case h_31 =>
    obtain rfl := catalogueRow_eq hr ‹_› rfl
    exact h0.handleFloeModereq ..
  case h_32 => exact h.handleArbCfg ..
  case h_33 => exact h.handleArbCounters ..
  case h_34 =>
    obtain rfl := catalogueRow_eq hr ‹_› rfl
    exact h0.handleCvuRun ..
  case h_35 => exact h.handleCanCfg ..
  case h_36 => exact h.handleCanSend ..
  case h_37 => exact h.handleCanRead ..
  case h_38 => exact h.handleRimeArm ..
  case h_39 => exact h

/-- The handler that a packet with this OPCODE may meet. -/
def servesAs (h : Handler) (op : Half) : Prop := h = handlerOf op ∨ (∃ failed, h = readWindow failed) ∨ ∃ cut, h = handleCanRead cut

theorem rowHandler_servesAs (i : Instr) (op : Half) : servesAs (rowHandler i op) op := by
  unfold rowHandler
  split
  · exact .inr (.inl ⟨_, rfl⟩)
  · exact .inr (.inr ⟨_, rfl⟩)
  · exact .inl rfl

theorem servesAs.quiet {h : Handler} {op : Half} (hs : servesAs h op) {row : CmdRow} (hr : catalogueRow op = some row) (p : Port)
    (tag : Half) (payload : List Byte) (s : State) (late : op.toNat = 0x0104 → ¬ offService s.eff) :
    Quiet (slackOf row.kind payload p) s (h p tag payload s).2 := by
  rcases hs with rfl | ⟨failed, rfl⟩ | ⟨cut, rfl⟩
  · exact handlerOf_quiet hr p tag payload s late
  · exact (Quiet.refl s).readWindow ..
  · exact (Quiet.refl s).handleCanRead ..

/-! ### Serving a command -/

/-- The checks of the entry that a handler's effect rests on: its place is free, and its state serves it. -/
theorem entryRefusal_none {row : CmdRow} {p : Port} {op tag : Half} {payload : List Byte} {s : State}
    (h : entryRefusal row p op tag payload s = none) :
    (needsPlace row.kind payload = true → (s.port p).pend.length < 8) ∧ row.states.contains s.eff = true := by
  unfold entryRefusal at h
  split_ifs at h with tagged full remote token serves
  refine ⟨fun needs => ?_, ?_⟩
  · simpa [needs] using full
  · simp only [stateServes, Bool.not_eq_eq_eq_not, Bool.not_true, Bool.not_eq_false, Bool.and_eq_true] at serves
    exact serves.1

/-- What serving a command leaves of its port's places. -/
structure Served (p : Port) (s t : State) : Prop where
  quiet : Quiet (strict.more p) s t
  room  : (∀ q, (s.port q).pend.length ≤ 8) → ∀ q, (t.port q).pend.length ≤ 8

theorem Quiet.served {p : Port} {s t : State} (h : Quiet strict s t) : Served p s t :=
  ⟨h.more p, fun room q => (h.pend q).trans (room q)⟩

theorem slackOf_served {k : CmdKind} {payload : List Byte} {p : Port} {s t : State} (h : Quiet (slackOf k payload p) s t)
    (free : needsPlace k payload = true → (s.port p).pend.length < 8) : Served p s t := by
  by_cases needs : needsPlace k payload = true
  · rw [slackOf, if_pos needs] at h
    refine ⟨h, fun room q => (h.pend q).trans ?_⟩
    have := room q
    by_cases hq : q = p
    · subst hq
      have := free needs
      simp only [Slack.more, strict, if_true]
      omega
    · simp only [Slack.more, strict, if_neg hq]
      omega
  · rw [slackOf, if_neg needs] at h
    exact h.served

theorem serve_served {h : Handler} {op : Half} (hs : servesAs h op) (p : Port) (tag : Half) (payload : List Byte) (s : State) :
    Served p s (serve h p op tag payload s).2 := by
  unfold serve
  split
  · exact (Quiet.refl s).served
  · next row hr =>
    split
    · exact (Quiet.refl s).served
    · next ok =>
      obtain ⟨free, state⟩ := entryRefusal_none ok
      unfold runHandler
      split
      · exact ((Quiet.refl s).recordConfig ..).served
      · refine slackOf_served (Quiet.recordConfig _ _ _ _ (hs.quiet hr p tag payload s fun late => ?_)) free
        have startup := state
        rw [catalogueRow_eq hr late (row' := ⟨0x0104, .arm, [.startup]⟩) rfl] at startup
        simp only [List.contains_cons, List.contains_nil, Bool.or_false, beq_iff_eq] at startup
        rw [startup]
        simp [offService]

theorem servePacket_served (poisoned : Bool) (p : Port) (pkt : List Byte) (s : State) : Served p s (servePacket poisoned p pkt s).2 := by
  unfold servePacket
  split
  · exact Quiet.served (t := countCrcErr p s) (Quiet.updPort p _ (Quiet.refl s) rfl rfl rfl rfl)
  · split
    · exact (Quiet.refl s).served
    · exact serve_served (.inl rfl) ..

/-! ### What every instruction keeps -/

/-- What every instruction keeps (O4, O5, O7). -/
structure Kept (s t : State) : Prop where
  wf     : s.memoriesWf = true → t.memoriesWf = true
  queues : s.queuesBounded = true → t.queuesBounded = true
  safe   : s.mstate = .safe → offService t.mstate

namespace Kept

variable {s t u : State}

protected theorem refl (s : State) : Kept s s := ⟨id, id, .inl⟩

theorem ite {c : Prop} [Decidable c] (h : Kept s t) (h' : Kept s u) : Kept s (if c then t else u) := by
  split <;> assumption

end Kept

/-- One port changes, and stays within its depths. -/
theorem Kept.port (p : Port) (f : PortSt → PortSt) (s : State)
    (bounded : (s.port p).cmds.length ≤ 4 → (s.port p).resps.length ≤ 4 → (s.port p).pend.length ≤ 8 →
      (f (s.port p)).cmds.length ≤ 4 ∧ (f (s.port p)).resps.length ≤ 4 ∧ (f (s.port p)).pend.length ≤ 8) :
    Kept s (s.updPort p f) := by
  refine ⟨id, fun b => ?_, .inl⟩
  obtain ⟨ports, rest⟩ := (queuesBounded_iff s).mp b
  refine (queuesBounded_iff _).mpr ⟨fun q => ?_, rest⟩
  by_cases hq : q = p
  · subst hq
    rw [updPort_port]
    exact bounded (ports q).1 (ports q).2.1 (ports q).2.2
  · rw [updPort_port_other hq]
    exact ports q

theorem Quiet.kept {drains : Bool} {s t : State} (h : Quiet ⟨fun _ => 0, drains⟩ s t) : Kept s t where
  wf := h.wf
  safe := h.safe
  queues b := by
    obtain ⟨ports, ice, cos⟩ := (queuesBounded_iff s).mp b
    refine (queuesBounded_iff t).mpr ⟨fun q => ?_, h.ice ice, h.cos cos⟩
    obtain ⟨cmds, resps, pend⟩ := ports q
    have hp := (h.pend q).trans pend
    rcases h.mail q with ⟨c, r, -⟩ | ⟨-, c, r⟩
    · exact ⟨c ▸ cmds, r ▸ resps, hp⟩
    · exact ⟨c.trans cmds, r.trans resps, hp⟩

theorem Kept.trans {s t u : State} (a : Kept s t) (b : Kept t u) (safe : u.mstate = t.mstate ∨ t.mstate = s.mstate) : Kept s u where
  wf := b.wf ∘ a.wf
  queues := b.queues ∘ a.queues
  safe e := by
    rcases safe with h | h
    · exact h ▸ a.safe e
    · exact b.safe (h.trans e)

/-- A command's response is queued in a place that its serving left free. -/
theorem Served.respond {p : Port} {s t : State} (h : Served p s t) (free : (s.port p).resps.length < 4) (lost : Bool)
    (op tag : Half) (r : Reply) : Kept s (Machine.respond lost p op tag r t) := by
  have room : s.queuesBounded = true → t.queuesBounded = true := fun b => by
    obtain ⟨ports, ice, cos⟩ := (queuesBounded_iff s).mp b
    refine (queuesBounded_iff t).mpr ⟨fun q => ?_, h.quiet.ice ice, h.quiet.cos cos⟩
    obtain ⟨c, r, -⟩ := (h.quiet.mail q).resolve_right fun a => nomatch a.1
    rw [c, r]
    exact ⟨(ports q).1, (ports q).2.1, h.room (fun q => (ports q).2.2) q⟩
  have served : Kept s t := ⟨h.quiet.wf, room, h.quiet.safe⟩
  unfold Machine.respond
  split
  · exact served.trans (Quiet.refl t |>.updVoter _ : Quiet strict t _).kept (.inl rfl)
  · refine served.trans (.port p _ t fun c _ pe => ⟨c, ?_, pe⟩) (.inl rfl)
    rw [((h.quiet.mail p).resolve_right fun a => nomatch a.1).2.1]
    simpa using free

theorem takeCommand_kept (p : Port) (s : State) : Kept s (takeCommand p s) :=
  .port p _ s fun c r pe => ⟨c, flushWaiting_bounded _ r, pe⟩

theorem mailboxPut_kept (p : Port) (bytes : List Byte) (s : State) : Kept s (mailboxPut p bytes s) := by
  refine .port p _ s fun c r pe => ?_
  split
  · exact ⟨c, r, pe⟩
  · next free =>
    refine ⟨?_, r, pe⟩
    simp only [List.length_append, List.length_cons, List.length_nil]
    omega

theorem placeFree_takeCommand {p : Port} {s : State} (h : placeFree p s = true) : ((takeCommand p s).port p).resps.length < 4 := by
  simpa [placeFree] using h

theorem answer_kept {h : Handler} {op : Half} (hs : servesAs h op) {p : Port} (tag : Half) (payload : List Byte) {s : State}
    (free : placeFree p s = true) : Kept s (answer h p op tag payload s) :=
  (takeCommand_kept p s).trans ((serve_served hs p tag payload _).respond (placeFree_takeCommand free) ..) (.inr rfl)

theorem arrive_kept {h : Handler} {op : Half} (hs : servesAs h op) (p : Port) (tag : Half) (payload : List Byte) (s : State) :
    Kept s (arrive h p op tag payload s) := by
  unfold arrive
  split
  · exact .refl s
  · split
    · next now =>
      simp only [Bool.and_eq_true] at now
      exact answer_kept hs tag payload now.2
    · exact mailboxPut_kept ..

theorem takeOldest_kept (poisoned : Bool) (p : Port) (s : State) : Kept s (takeOldest poisoned p s) := by
  unfold takeOldest
  split
  · exact .refl s
  · next pkt rest cmds =>
    split
    · exact .refl s
    · next served =>
      simp only [Bool.or_eq_true, Bool.not_eq_eq_eq_not, Bool.not_true, not_or, Bool.not_eq_false] at served
      extract_lets s1 s2
      have k1 : Kept s s1 := by
        refine Kept.trans (.port p _ s fun c r pe => ⟨?_, r, pe⟩) (takeCommand_kept p _) (.inl rfl)
        rw [cmds] at c
        exact Nat.le_of_succ_le c
      have free1 : (s1.port p).resps.length < 4 := by
        refine placeFree_takeCommand ?_
        simpa [placeFree, flushWaiting] using served.2
      have free2 : (s2.port p).resps.length < 4 := by
        dsimp only [s2]
        split <;> exact free1
      have k2 : Kept s s2 := by
        dsimp only [s2]
        split
        · exact k1.trans ((Quiet.refl s1).updFabric _ : Quiet strict s1 _).kept (.inl rfl)
        · exact k1
      refine k2.trans ((servePacket_served poisoned p pkt s2).respond free2 ..) (.inr ?_)
      dsimp only [s2]
      split <;> rfl

theorem writeCommand_kept (bytes : List Byte) (s : State) : Kept s (writeCommand bytes s) :=
  .ite (mailboxPut_kept ..) (.ite (Quiet.updPort .host _ (Quiet.refl s) rfl rfl rfl rfl : Quiet strict s _).kept (mailboxPut_kept ..))

theorem readResponse_quiet (n : Nat) (s : State) : Quiet Quiet.loose s (readResponse n s) := by
  unfold readResponse
  split
  · exact (Quiet.done s).drive _
  · next r rest resps =>
    have h := (Quiet.done s).drive (r.take n ++ List.replicate (n - r.length) 0)
    refine .ite (h.updPort _ _ rfl rfl rfl rfl) (Quiet.noteRead _ (h.updPortDrain _ _ rfl le_rfl ?_ le_rfl))
    show rest.length ≤ s.hif.host.resps.length
    rw [resps]
    exact Nat.le_succ _

theorem fragDone_kept (x : FragSt) (s : State) : Kept s (fragDone x s) := by
  have h : Quiet strict s (s.updPort .maint fun q => { q with frags := none }) := Quiet.updPort .maint _ (.refl s) rfl rfl rfl rfl
  exact .ite (h.countDiscards 1).kept (h.kept.trans (mailboxPut_kept ..) (.inl rfl))

theorem takeFragment_kept (d : List Byte) (s : State) : Kept s (takeFragment d s) := by
  refine .ite (.refl s) ?_
  dsimp only
  have h : Quiet strict s (s.updPort .maint fun q => { q with frags := some (fragStep s.floe.round d s.hif.maint.frags).1 }) :=
    Quiet.updPort .maint _ (.refl s) rfl rfl rfl rfl
  exact .ite ((h.countDiscards _).kept.trans (fragDone_kept ..) (.inr rfl)) (h.countDiscards _).kept

theorem maintFragmentReceive_kept (payload : List Byte) (s t : State) (h : execMaintFragmentReceive payload s = .next t) : Kept s t := by
  obtain rfl := Host.Outcome.next.inj h
  exact .ite (.refl s) (((Quiet.refl s).updFloe _ : Quiet strict s _).kept.trans (takeFragment_kept ..) (.inr rfl))

end Sys2Proof.Proofs
end

section
/-!
SUPPORT. What every step keeps: the canonical memories (O4), the depths of the queues (O5), SAFE (O7); and a host command that is
taken at once: one response (O11).
-/
namespace Sys2Proof.Proofs
open Sys2Proof.Machine

/-! ### Every instruction -/

theorem exec_kept (c : Instr) (s t : State) (h : exec c s = .next t) : Kept s t := by
  cases host : hostCommand c with
  | some cmd =>
    rw [exec_hostCommand host] at h
    obtain rfl := Host.Outcome.next.inj h
    exact arrive_kept (rowHandler_servesAs ..) ..
  | none =>
    cases c
    case writeCmd bytes =>
      obtain rfl := Host.Outcome.next.inj h
      exact .ite (writeCommand_kept ..) (.refl s)
    case readResp n =>
      obtain rfl := Host.Outcome.next.inj h
      exact .ite (readResponse_quiet n s).kept (.refl s)
    case commandTaken p poisoned =>
      obtain rfl := Host.Outcome.next.inj h
      exact takeOldest_kept ..
    case completionQueued p =>
      obtain rfl := Host.Outcome.next.inj h
      exact .ite (.port p _ s fun c r pe => ⟨c, flushWaiting_bounded _ r, pe⟩) (.refl s)
    case maintFragmentReceive payload => exact maintFragmentReceive_kept payload s t h
    case readStat => exact (Quiet.execReadStat _ _ h).kept
    case invalidTransaction => exact (Quiet.execInvalidTransaction _ _ _ _ h).kept
    case restartCommandAction => exact (Quiet.execRestartCommandAction _ _ h).kept
    case verifyComplete => exact (Quiet.execVerifyComplete _ _ _ h).kept
    case modereqTimeout => exact (Quiet.execModereqTimeout _ _ h).kept
    case cvuChainComplete => exact (Quiet.execCvuChainComplete _ _ _ _ h).kept
    case powerOnStart => exact (Quiet.execPowerOnStart _ _ _ _ _ h).kept
    case firmwareSlotCheck => exact (Quiet.execFirmwareSlotCheck _ _ _ _ _ _ h).kept
    case fwUpdateBoot => exact (Quiet.execFwUpdateBoot _ _ _ _ _ _ _ _ h).kept
    case selftestComplete => exact (Quiet.execSelftestComplete _ _ _ _ _ _ _ _ _ h).kept
    case startupReached => exact (Quiet.execStartupReached _ _ _ _ _ _ _ _ h).kept
    case serviceEntry => exact (Quiet.execServiceEntry _ _ h).kept
    case undervoltage => exact (Quiet.execUndervoltage _ _ _ h).kept
    case supplyRestored => exact (Quiet.execSupplyRestored _ _ _ h).kept
    case brownout => exact (Quiet.execBrownout _ _ _ h).kept
    case overvoltageDisconnect => exact (Quiet.execOvervoltageDisconnect _ _ _ h).kept
    case overvoltageReconnect => exact (Quiet.execOvervoltageReconnect _ _ _ h).kept
    case laneRailsLost => exact (Quiet.execLaneRailsLost _ _ h).kept
    case laneRailWindowFault => exact (Quiet.execLaneRailWindowFault _ _ _ _ h).kept
    case laneRailsCommonMode => exact (Quiet.execLaneRailsCommonMode _ _ h).kept
    case dormantWake => exact (Quiet.execDormantWake _ _ _ h).kept
    case freeze => exact (Quiet.execFreeze _ _ _ h).kept
    case tapReset => exact (Quiet.execTapReset _ _ h).kept
    case extest => exact (Quiet.execExtest _ _ _ h).kept
    case samplePreload => exact (Quiet.execSamplePreload _ _ _ h).kept
    case idcode => exact (Quiet.execIdcode _ _ h).kept
    case clamp => exact (Quiet.execClamp _ _ h).kept
    case highz => exact (Quiet.execHighz _ _ h).kept
    case idread => exact (Quiet.execIdread _ _ h).kept
    case rimeStat => exact (Quiet.execRimeStat _ _ h).kept
    case rimeSel => exact (Quiet.execRimeSel _ _ _ h).kept
    case rimeRead => exact (Quiet.execRimeRead _ _ h).kept
    case bypass shiftIn code => exact (Quiet.execBypass shiftIn _ _ _ h).kept
    case roundStart => exact (Quiet.execRoundStart _ _ h).kept
    case taskRelease => exact (Quiet.execTaskRelease _ _ _ h).kept
    case sliceCopyComplete => exact (Quiet.execSliceCopyComplete _ _ _ h).kept
    case evaluationStart => exact (Quiet.execEvaluationStart _ _ _ _ h).kept
    case taskYield => exact (Quiet.execTaskYield _ _ _ h).kept
    case taskEnd => exact (Quiet.execTaskEnd _ _ _ _ _ h).kept
    case deadlineInstant => exact (Quiet.execDeadlineInstant _ _ _ _ h).kept
    case framCommitComplete => exact (Quiet.execFramCommitComplete _ _ _ h).kept
    case activationBoundary => exact (Quiet.execActivationBoundary _ _ h).kept
    case activationNoBoundary => exact (Quiet.execActivationNoBoundary _ _ h).kept
    case actConfirmTimeout => exact (Quiet.execActConfirmTimeout _ _ h).kept
    case frameTransmit => exact (Quiet.execFrameTransmit _ _ _ _ _ _ _ h).kept
    case frameReceive => exact (Quiet.execFrameReceive _ _ _ _ _ _ _ h).kept
    case correctionPoint => exact (Quiet.execCorrectionPoint _ _ h).kept
    case listenTimerExpiry => exact (Quiet.execListenTimerExpiry _ _ h).kept
    case coldstartReceive => exact (Quiet.execColdstartReceive _ _ _ _ _ _ h).kept
    case coldstartDecision => exact (Quiet.execColdstartDecision _ _ h).kept
    case coldstartTimeout => exact (Quiet.execColdstartTimeout _ _ h).kept
    case integrateTimeout => exact (Quiet.execIntegrateTimeout _ _ h).kept
    case passiveTimeout => exact (Quiet.execPassiveTimeout _ _ h).kept
    case linkUp => exact (Quiet.execLinkUp _ _ _ h).kept
    case linkDown => exact (Quiet.execLinkDown _ _ _ _ h).kept
    case channelSilent => exact (Quiet.execChannelSilent _ _ _ h).kept
    case echoMissing => exact (Quiet.execEchoMissing _ _ _ h).kept
    case modeSwitch => exact (Quiet.execModeSwitch _ _ h).kept
    case helloSend => exact (Quiet.execHelloSend _ _ h).kept
    case hello => exact (Quiet.execHello _ _ _ _ _ h).kept
    case actfwd => exact (Quiet.execActfwd _ _ _ h).kept
    case actprop => exact (Quiet.execActprop _ _ _ h).kept
    case actconf => exact (Quiet.execActconf _ _ _ h).kept
    case insig => exact (Quiet.execInsig _ _ _ h).kept
    case inslice => exact (Quiet.execInslice _ _ _ h).kept
    case twcmp => exact (Quiet.execTwcmp _ _ _ h).kept
    case stsig => exact (Quiet.execStsig _ _ _ h).kept
    case splitreq => exact (Quiet.execSplitreq _ _ _ h).kept
    case splitack => exact (Quiet.execSplitack _ _ _ h).kept
    case splitackTimeout => exact (Quiet.execSplitackTimeout _ _ h).kept
    case splitBoundary => exact (Quiet.execSplitBoundary _ _ h).kept
    case splitNoBoundary => exact (Quiet.execSplitNoBoundary _ _ h).kept
    case joinreq => exact (Quiet.execJoinreq _ _ _ h).kept
    case joinack => exact (Quiet.execJoinack _ _ _ h).kept
    case joinackTimeout => exact (Quiet.execJoinackTimeout _ _ h).kept
    case stateblkSend => exact (Quiet.execStateblkSend _ _ h).kept
    case stateblk => exact (Quiet.execStateblk _ _ _ h).kept
    case joinend => exact (Quiet.execJoinend _ _ _ h).kept
    case joinabort => exact (Quiet.execJoinabort _ _ _ h).kept
    case joinNoEntry => exact (Quiet.execJoinNoEntry _ _ h).kept
    case joinRetry => exact (Quiet.execJoinRetry _ _ h).kept
    case agreeTimeout => exact (Quiet.execAgreeTimeout _ _ _ h).kept
    case voteRecord => exact (Quiet.execVoteRecord _ _ _ _ _ _ _ _ h).kept
    case laneWatchdogExpiry => exact (Quiet.execLaneWatchdogExpiry _ _ _ h).kept
    case reintResetElapsed => exact (Quiet.execReintResetElapsed _ _ _ h).kept
    case reintTestComplete => exact (Quiet.execReintTestComplete _ _ _ _ h).kept
    case reintBulkCopyDone => exact (Quiet.execReintBulkCopyDone _ _ _ h).kept
    case reintDeltaEmpty => exact (Quiet.execReintDeltaEmpty _ _ _ h).kept
    case reintGapsExhausted => exact (Quiet.execReintGapsExhausted _ _ _ h).kept
    case scanStep => exact (Quiet.execScanStep _ _ h).kept
    case quenchEvaluation => exact (Quiet.execQuenchEvaluation _ _ h).kept
    case inputSample => exact (Quiet.execInputSample _ _ _ h).kept
    case fieldSupplySample => exact (Quiet.execFieldSupplySample _ _ _ _ h).kept
    case outputReadbackSample => exact (Quiet.execOutputReadbackSample _ _ _ h).kept
    case testPulseStart => exact (Quiet.execTestPulseStart _ _ _ h).kept
    case testPulseEnd => exact (Quiet.execTestPulseEnd _ _ _ _ _ h).kept
    case discriminationEnd => exact (Quiet.execDiscriminationEnd _ _ _ _ h).kept
    case outputOverload => exact (Quiet.execOutputOverload _ _ _ _ h).kept
    case ovlClear => exact (Quiet.execOvlClear _ _ _ h).kept
    case openLoad => exact (Quiet.execOpenLoad _ _ _ h).kept
    case feedbackFault => exact (Quiet.execFeedbackFault _ _ _ h).kept
    case guardBeat => exact (Quiet.execGuardBeat _ _ _ h).kept
    case guardHbEqual => exact (Quiet.execGuardHbEqual _ _ h).kept
    case guardTimeout => exact (Quiet.execGuardTimeout _ _ h).kept
    case syncPointFire => exact (Quiet.execSyncPointFire _ _ _ h).kept
    case faultRaised => exact (Quiet.execFaultRaised _ _ _ _ _ _ h).kept
    case faultEnd => exact (Quiet.execFaultEnd _ _ _ _ h).kept
    case iceRecordStore => exact (Quiet.execIceRecordStore _ _ h).kept
    case nandPageWrite => exact (Quiet.execNandPageWrite _ _ _ h).kept
    case arbiterDecision => exact (Quiet.execArbiterDecision _ _ _ h).kept
    case crossingResync => exact (Quiet.execCrossingResync _ _ _ _ h).kept
    case pulseTransfer => exact (Quiet.execPulseTransfer _ _ _ _ h).kept
    case onlineTestStep => exact (Quiet.execOnlineTestStep _ _ _ h).kept
    case canFrameReceive => exact (Quiet.execCanFrameReceive _ _ _ _ _ h).kept
    case canTxComplete => exact (Quiet.execCanTxComplete _ _ _ _ _ _ h).kept
    case canCollision => exact (Quiet.execCanCollision _ _ _ _ h).kept
    case canBusOff => exact (Quiet.execCanBusOff _ _ _ h).kept
    case canBoHoldExpiry => exact (Quiet.execCanBoHoldExpiry _ _ _ h).kept
    case canBusOffRecovery => exact (Quiet.execCanBusOffRecovery _ _ _ h).kept
    case canProtocolException => exact (Quiet.execCanProtocolException _ _ _ h).kept
    case canLockTimeout => exact (Quiet.execCanLockTimeout _ _ _ _ h).kept
    case canWake => exact (Quiet.execCanWake _ _ _ _ h).kept
    case canBusError => exact (Quiet.execCanBusError _ _ _ _ _ _ _ h).kept
    case canIntegration => exact (Quiet.execCanIntegration _ _ _ h).kept
    all_goals cases host

/-! ### Every step -/

theorem step_kept {s t : State} (h : step s = .next t) : Kept s t := by
  cases queue : s.pending with
  | nil =>
    rw [step_nil queue] at h
    obtain rfl := Host.Outcome.next.inj h
    exact .ite (.refl s) (Quiet.updTb _ (.refl s) : Quiet strict s _).kept
  | cons c rest =>
    rw [step_cons queue] at h
    obtain ⟨wf, queues, safe⟩ := exec_kept c _ t h
    exact ⟨wf, queues, safe⟩

/-- Settles O4. -/
theorem stepKeepsMemoriesCanonical : Obligations.StepKeepsMemoriesCanonical := fun _ _ w h => (step_kept h).wf w

/-- Settles O5. -/
theorem stepKeepsQueuesBounded : Obligations.StepKeepsQueuesBounded := fun _ _ b h => (step_kept h).queues b

/-- Settles O7. -/
theorem safeIsLeftByRestart : Obligations.SafeIsLeftByRestart := fun c s t safe h => (exec_kept c s t h).safe safe

/-! ### A host command that is taken at once -/

theorem Served.mail {p : Port} {s t : State} (h : Served p s t) (q : Port) : (t.port q).cmds = (s.port q).cmds ∧
    (t.port q).resps = (s.port q).resps ∧ (t.port q).commands = (s.port q).commands :=
  (h.quiet.mail q).resolve_right fun a => nomatch a.1

theorem answer_eq (h : Handler) (p : Port) (op tag : Half) (payload : List Byte) (s : State) :
    answer h p op tag payload s = respond (voteLost 4 s) p op tag (serve h p op tag payload (takeCommand p s)).1
      (serve h p op tag payload (takeCommand p s)).2 := rfl

theorem arrive_taken_once {h : Handler} {p : Port} {op tag : Half} {payload : List Byte} {s : State} (ht : takenAtOnce p s = true) :
    arrive h p op tag payload s = answer h p op tag payload s := by
  simp only [takenAtOnce, Bool.and_eq_true] at ht
  simp [arrive, ht.1.1, ht.1.2, ht.2]

/-- The reply of a command that is taken now, and the state in which its response is queued. -/
def served (i : Instr) (c : HostCommand) (s : State) : Reply × State :=
  serve (rowHandler i c.op) c.port c.op c.tag c.payload (takeCommand c.port s)

theorem served_mail (i : Instr) (c : HostCommand) (s : State) (q : Port) :
    ((served i c s).2.port q).cmds = ((takeCommand c.port s).port q).cmds ∧
      ((served i c s).2.port q).resps = ((takeCommand c.port s).port q).resps ∧
        ((served i c s).2.port q).commands = ((takeCommand c.port s).port q).commands :=
  (serve_served (rowHandler_servesAs i c.op) c.port c.tag c.payload (takeCommand c.port s)).mail q

theorem exec_takesNow {i : Instr} {c : HostCommand} {s : State} (hc : hostCommand i = some c) (ht : takesNow c.port s = true) :
    exec i s = .next (queueResponse c.port c.op c.tag (served i c s).1 (served i c s).2) := by
  have kept : voteLost 4 s = false := by
    simp only [takesNow, Bool.and_eq_true] at ht
    simpa using ht.2
  rw [exec_hostCommand hc, arrive_taken ht, answer_eq, kept, respond, if_neg Bool.false_ne_true]
  rfl

/-- The response of a command that is taken now stands behind the completions that waited. -/
theorem resps_queueResponse (i : Instr) (c : HostCommand) (s : State) :
    ((queueResponse c.port c.op c.tag (served i c s).1 (served i c s).2).port c.port).resps = respsAfter c (served i c s).1 s := by
  rw [queueResponse_port, (served_mail i c s c.port).2.1, takeCommand_port]
  rfl

/-- Settles O11: serving leaves the mailboxes alone, so that the response is the one packet that is queued. -/
theorem takenCommandIsAnsweredOnce : Obligations.TakenCommandIsAnsweredOnce := by
  constructor
  · intro i c s hc ht
    obtain ⟨cmds, -, commands⟩ := served_mail i c s c.port
    refine ⟨_, (served i c s).1, exec_takesNow hc ht, resps_queueResponse i c s, ?_, ?_, fun q hq => ?_⟩
    · have now := ht
      simp only [takesNow, takenAtOnce, Bool.and_eq_true, List.isEmpty_iff] at now
      rw [queueResponse_port, takeCommand_port] at *
      exact cmds.trans now.1.1.2
    · rw [queueResponse_port, takeCommand_port] at *
      exact commands
    · have other := served_mail i c s q
      rwa [takeCommand_port_other hq, ← queueResponse_port_other hq c.op c.tag (served i c s).1 (served i c s).2] at other
  · intro i c s hc ht lost
    obtain ⟨-, resps, commands⟩ := served_mail i c s c.port
    refine ⟨_, by rw [exec_hostCommand hc, arrive_taken_once ht, answer_eq, lost], ?_, ?_⟩
    · exact resps.trans (by rw [takeCommand_port])
    · exact commands.trans (by rw [takeCommand_port])

end Sys2Proof.Proofs
end

section
/-!
SUPPORT. Refusals: along every way through a handler the reply is OK or PENDING, or the state is the one in which the command was
met (R311). O14.
-/
namespace Sys2Proof.Proofs
open Sys2Proof.Machine

/-- The reply is OK or PENDING, or the state is left as it was. -/
def RefusalKeeps (s : State) (k : Reply × State) : Prop := k.1.code = .ok ∨ k.1.code = .pending ∨ k.2 = s

/-- The same, but for the load of a schedule, which a refusal at LAST ends (R205). -/
def RefusalEndsLoad (s : State) (k : Reply × State) : Prop :=
  k.1.code = .ok ∨ k.1.code = .pending ∨ { k.2 with floe := { k.2.floe with loads := s.floe.loads } } = s

namespace RefusalKeeps

variable {s t : State} {a b : Reply × State}

theorem refused (r : Reply) : RefusalKeeps s (r, s) := .inr (.inr rfl)
theorem done : RefusalKeeps s (.done, t) := .inl rfl
theorem words {ws : List Word} : RefusalKeeps s (.words ws, t) := .inl rfl
theorem pend : RefusalKeeps s (.pend, t) := .inr (.inl rfl)

theorem ite {c : Prop} [Decidable c] (ha : RefusalKeeps s a) (hb : RefusalKeeps s b) : RefusalKeeps s (if c then a else b) := by
  split <;> assumption

theorem checked (ws : List Word) (rs : List FieldRule) (ha : RefusalKeeps s a) : RefusalKeeps s (Machine.checked ws rs s a) := by
  unfold Machine.checked
  split
  · exact refused _
  · exact ha

theorem refuseAt (cs : List FieldCheck) (ha : RefusalKeeps s a) : RefusalKeeps s (Machine.refuseAt cs s a) := by
  unfold Machine.refuseAt
  split
  · exact refused _
  · exact ha

theorem armExecute {op : Half} {execute : Port → Half → List Word → State → Reply × State} {p : Port} {tag : Half}
    {payload : List Byte} (h : RefusalKeeps s (execute p tag (bytesWords payload) s)) :
    RefusalKeeps s (Machine.armExecute op execute p tag payload s) := by
  unfold Machine.armExecute
  dsimp only
  split
  · exact refused _
  · exact ite words h

variable (p : Port) (tag : Half) (ws : List Word) (payload : List Byte)

theorem dormantExecute : RefusalKeeps s (Machine.dormantExecute p tag ws s) := ite (refused _) done

theorem rimeArmDo : RefusalKeeps s (Machine.rimeArmDo p tag ws s) := ite (refused _) done

theorem fwActivateDo : RefusalKeeps s (Machine.fwActivateDo p tag ws s) := ite (refused _) done

theorem splitExecute : RefusalKeeps s (Machine.splitExecute p tag ws s) := by
  refine ite (refused _) ?_
  split
  · exact refused _
  · exact pend

theorem joinExecute : RefusalKeeps s (Machine.joinExecute p tag ws s) := by
  refine ite (refused _) ?_
  split
  · exact refused _
  · exact pend

theorem activateExecute : RefusalKeeps s (Machine.activateExecute p tag ws s) := by
  unfold Machine.activateExecute
  dsimp only
  split
  · exact refused _
  · exact ite pend pend

theorem handlePrgActivate : RefusalKeeps s (Machine.handlePrgActivate p tag payload s) := by
  unfold Machine.handlePrgActivate
  dsimp only
  split
  · exact refused _
  · exact ite words (activateExecute ..)

theorem statusServe (b first count : Nat) : RefusalKeeps s (Machine.statusServe b first count s) :=
  ite (refused _) (ite words (ite words words))

theorem handleStatus : RefusalKeeps s (Machine.handleStatus p tag payload s) := checked _ _ (ite (refused _) (statusServe ..))

theorem peekServe (a count : Nat) : RefusalKeeps s (Machine.peekServe a count s) := by
  refine ite (ite (refused _) words) ?_
  dsimp only
  split
  · exact words
  · exact refused _

theorem handleRegPeek : RefusalKeeps s (Machine.handleRegPeek p tag payload s) := ite (refused _) (checked _ _ (peekServe ..))

theorem taskWrite (n : Nat) (r : Word) : RefusalKeeps s (Machine.taskWrite n r s) := by
  refine ite (refused _) ?_
  dsimp only
  split
  · exact ite (refused _) done
  · exact done

theorem handleTaskCfg : RefusalKeeps s (Machine.handleTaskCfg p tag payload s) := by
  refine refuseAt _ ?_
  split
  · exact ite (refused _) (taskWrite ..)
  · exact ite words (refused _)
  · exact ite done (refused _)

theorem handleTimeSet : RefusalKeeps s (Machine.handleTimeSet p tag payload s) :=
  ite (checked _ _ (ite (refused _) (ite (refused _) done))) (checked _ _ done)

theorem storeChunk (first : Bool) (b : Bank) (data : List Byte) : RefusalKeeps s (Machine.storeChunk first b data s) := by
  unfold Machine.storeChunk
  dsimp only
  split
  · exact ite (refused _) words
  · exact words

theorem handlePrgLoad : RefusalKeeps s (Machine.handlePrgLoad p tag payload s) :=
  refuseAt _ (ite (ite (refused _) (ite (refused _) (storeChunk ..))) (ite (refused _) (ite (refused _) (storeChunk ..))))

theorem handlePrgVerify : RefusalKeeps s (Machine.handlePrgVerify p tag payload s) := by
  unfold Machine.handlePrgVerify
  split
  iterate 3 exact pend
  exact refused _

theorem handleFwStage : RefusalKeeps s (Machine.handleFwStage p tag payload s) :=
  refuseAt _ (ite (refused _) (ite (refused _) (ite (refused _) words)))

theorem handleImgRead : RefusalKeeps s (Machine.handleImgRead p tag payload s) := by
  unfold Machine.handleImgRead
  dsimp only
  split
  · exact refused _
  · exact pend

theorem handleHinWrite : RefusalKeeps s (Machine.handleHinWrite p tag payload s) := by
  unfold Machine.handleHinWrite
  dsimp only
  split
  · exact refused _
  · exact done

theorem readWindow (failed : List Word) : RefusalKeeps s (Machine.readWindow failed p tag payload s) := by
  refine checked _ _ ?_
  split
  · exact refused _
  · exact words

theorem handleFcuRead : RefusalKeeps s (Machine.handleFcuRead p tag payload s) := checked _ _ (ite (refused _) words)

theorem handleFcuAck : RefusalKeeps s (Machine.handleFcuAck p tag payload s) := checked _ _ words

theorem handleFcuForce : RefusalKeeps s (Machine.handleFcuForce p tag payload s) := checked _ _ (ite (refused _) done)

theorem handleLockArm : RefusalKeeps s (Machine.handleLockArm p tag payload s) := checked _ _ (ite words (refused _))

theorem handleLockReset : RefusalKeeps s (Machine.handleLockReset p tag payload s) := by
  refine checked _ _ ?_
  split
  · exact refused _
  · split
    · exact refused _
    · exact ite done (refused _)

theorem handleFloeCfg : RefusalKeeps s (Machine.handleFloeCfg p tag payload s) := by
  refine refuseAt _ ?_
  split
  · exact ite (refused _) (ite (refused _) done)
  · exact ite words (refused _)
  · exact ite done (refused _)

theorem handleFloeModereq : RefusalKeeps s (Machine.handleFloeModereq p tag payload s) :=
  refuseAt _ (ite (refused _) (ite (refused _) pend))

theorem handleCvuRun : RefusalKeeps s (Machine.handleCvuRun p tag payload s) := by
  refine checked _ _ ?_
  split
  · exact refused _
  · split
    · exact refused _
    · exact pend

theorem handleCanCfg : RefusalKeeps s (Machine.handleCanCfg p tag payload s) := ite (refused _) (refuseAt _ done)

theorem handleCanSend : RefusalKeeps s (Machine.handleCanSend p tag payload s) :=
  refuseAt _ (ite (refused _) (ite (refused _) (.inl rfl)))

theorem handleCanRead (cutOff : Bool) : RefusalKeeps s (Machine.handleCanRead cutOff p tag payload s) :=
  refuseAt _ (ite (refused _) (.inl rfl))

/-! ### FLOE.SCHED -/

theorem endsLoad (h : RefusalKeeps s a) : RefusalEndsLoad s a := by
  rcases h with ok | pending | same
  · exact .inl ok
  · exact .inr (.inl pending)
  · exact .inr (.inr (by rw [same]))

end RefusalKeeps

namespace RefusalEndsLoad

variable {s : State} {a b : Reply × State}

theorem refused (r : Reply) : RefusalEndsLoad s (r, s) := .inr (.inr rfl)

theorem ite {c : Prop} [Decidable c] (ha : RefusalEndsLoad s a) (hb : RefusalEndsLoad s b) :
    RefusalEndsLoad s (if c then a else b) := by
  split <;> assumption

theorem schedChunk (p : Port) (m : Nat) (last : Bool) (all : List Word) : RefusalEndsLoad s (Machine.schedChunk p m last all s) := by
  refine ite ?_ (.inl rfl)
  split
  · exact .inr (.inr rfl)
  · exact .inl rfl

theorem handleFloeSched (p : Port) (tag : Half) (payload : List Byte) :
    RefusalEndsLoad s (Machine.handleFloeSched p tag payload s) := by
  unfold Machine.handleFloeSched Machine.refuseAt
  dsimp only
  split
  · exact refused _
  · refine ite (ite (refused _) (ite (refused _) (.inl rfl))) (ite (refused _) (ite (ite (refused _) (schedChunk ..)) ?_))
    split
    · exact refused _
    · exact ite (refused _) (ite (refused _) (schedChunk ..))

end RefusalEndsLoad

/-! ### The catalogue -/

open RefusalKeeps in
theorem handlerOf_refusal {op : Half} (sched : op ≠ 0x0B02) (p : Port) (tag : Half) (payload : List Byte) (s : State) :
    RefusalKeeps s (handlerOf op p tag payload s) := by
  have each : ∀ h : Handler, h = handlerOf op → RefusalKeeps s (h p tag payload s) := by
    unfold handlerOf
    intro h e
    split at e <;> subst e
    case h_1 => exact words
    case h_2 => exact handleStatus ..
    case h_3 => exact handleRegPeek ..
    case h_4 => exact armExecute done
    case h_5 => exact armExecute done
    case h_6 => exact armExecute (dormantExecute ..)
    case h_7 => exact armExecute done
    case h_8 => exact armExecute done
    case h_9 => exact handleTaskCfg ..
    case h_10 => exact refuseAt _ done
    case h_11 => exact handleTimeSet ..
    case h_12 => exact handlePrgLoad ..
    case h_13 => exact handlePrgVerify ..
    case h_14 => exact handlePrgActivate ..
    case h_15 => exact handleFwStage ..
    case h_16 => exact armExecute (fwActivateDo ..)
    case h_17 => exact handleImgRead ..
    case h_18 => exact handleHinWrite ..
    case h_19 => exact checked _ _ words
    case h_20 => exact readWindow ..
    case h_21 => exact handleFcuRead ..
    case h_22 => exact handleFcuAck ..
    case h_23 => exact handleFcuForce ..
    case h_24 => exact handleLockArm ..
    case h_25 => exact handleLockReset ..
    case h_26 => exact refuseAt _ done
    case h_27 => exact armExecute (splitExecute ..)
    case h_28 => exact armExecute (joinExecute ..)
    case h_29 => exact handleFloeCfg ..
    case h_30 code => exact absurd (BitVec.eq_of_toNat_eq code) sched
    case h_31 => exact handleFloeModereq ..
    case h_32 => exact checked _ _ done
    case h_33 => exact checked _ _ words
    case h_34 => exact handleCvuRun ..
    case h_35 => exact handleCanCfg ..
    case h_36 => exact handleCanSend ..
    case h_37 => exact handleCanRead ..
    case h_38 => exact armExecute (rimeArmDo ..)
    case h_39 => exact refused _
  exact each _ rfl

theorem rowHandler_refusal (i : Instr) {op : Half} (sched : op ≠ 0x0B02) (p : Port) (tag : Half) (payload : List Byte) (s : State) :
    RefusalKeeps s (rowHandler i op p tag payload s) := by
  unfold rowHandler
  split
  · exact .readWindow ..
  · exact .handleCanRead ..
  · exact handlerOf_refusal sched p tag payload s

/-- FLOE.SCHED is the command of no other row's handler. -/
theorem rowHandler_sched {i : Instr} {c : HostCommand} (hc : hostCommand i = some c) (h : c.op = 0x0B02) :
    rowHandler i c.op = handleFloeSched := by
  unfold rowHandler
  split
  · simp [hostCommand] at hc
    simp [← hc] at h
  · simp [hostCommand] at hc
    simp [← hc] at h
  · rw [h]
    rfl

/-- Settles O14: each handler refuses before it changes the state; only FLOE.SCHED ends its load first. -/
theorem refusedCommandChangesNothing : Obligations.RefusedCommandChangesNothing := by
  intro i c s u r hc run notOk notPending
  by_cases sched : c.op = 0x0B02
  · rw [rowHandler_sched hc sched] at run
    have h := RefusalEndsLoad.handleFloeSched (s := s) c.port c.tag c.payload
    rw [run] at h
    rcases h with ok | pending | same
    · exact absurd ok notOk
    · exact absurd pending notPending
    · exact ⟨same, fun other => absurd sched other⟩
  · have h := rowHandler_refusal i sched c.port c.tag c.payload s
    rw [run] at h
    rcases h with ok | pending | rfl
    · exact absurd ok notOk
    · exact absurd pending notPending
    · exact ⟨rfl, fun _ => rfl⟩

end Sys2Proof.Proofs
end

section
/-!
SUPPORT. A HELLO of a partner that has restarted makes any MSEQ acceptable (R157) before it is asked whether the module runs, so that
it changes a module in FROZEN. O6.
-/
namespace Sys2Proof.Proofs
open Sys2Proof.Machine

/-- A frozen module that has received a twin message with MSEQ 0. -/
def frozenWithMseq : State := { State.reset with mstate := .frozen, twin := { State.reset.twin with rxSeq := some 0 } }

/-- The HELLO changes the frozen state: the last MSEQ is forgotten. -/
theorem exec_hello_frozen : exec (.hello 0 [] true) frozenWithMseq =
    .next { frozenWithMseq with twin := { frozenWithMseq.twin with rxSeq := none } } := rfl

/-- Refutes O6: in FROZEN a HELLO with `restarted` clears the MSEQ last received, though the module does not run. -/
theorem not_frozenAndOffAreHeld : ¬ Obligations.FrozenAndOffAreHeld := by
  intro h
  obtain ⟨⟨-, same⟩ | ⟨rails, -⟩, -⟩ := h.1 _ _ _ rfl exec_hello_frozen
  · have mseq : none = some (0 : Word) := congrArg (fun s : State => s.twin.rxSeq) same
    cases mseq
  · cases rails

end Sys2Proof.Proofs
end

section
/-! SUPPORT. The ports at work: transactions of the host port (O10), commands that wait (O12), the entry checks (O13), and the
events of the mailboxes (O15). -/
namespace Sys2Proof.Proofs
open Sys2Proof.Machine

/-! ### Transactions of the host port (R303, R304, R306, R307) -/

theorem whenReady_unserved {s : State} (h : portServed .host s = false) (f : State → State) : whenReady f s = s :=
  if_neg (by simp [hrdy, h])

theorem mailboxPut_free {p : Port} {s : State} (h : (s.port p).cmds.length < 4) (bytes : List Byte) :
    mailboxPut p bytes s = s.updPort p fun q => { q with cmds := q.cmds ++ [bytes] } := by
  cases p <;> simp only [State.port] at h <;> simp [mailboxPut, State.updPort, State.updHif, h]

theorem mailboxPut_full {p : Port} {s : State} (h : 4 ≤ (s.port p).cmds.length) (bytes : List Byte) :
    mailboxPut p bytes s = s.updPort p fun q => { q with cmdOvf := satInc 0xFFFF q.cmdOvf } := by
  cases p <;> simp only [State.port] at h <;> simp [mailboxPut, State.updPort, State.updHif, h]

/-- Settles O10: with HRDY high each transaction is its one effect, with HRDY low none. -/
theorem portTransactionsAct : Obligations.PortTransactionsAct := by
  refine ⟨fun s ready => ⟨?write, ?full, ?short, ?stat, ?bad, ?none⟩, fun s low => ⟨?lowWrite, ?lowRead, ?lowStat, ?lowBad⟩⟩
  case write =>
    intro bytes free long
    refine ⟨_, congrArg Host.Outcome.next (whenReady_served ready _), ?_⟩
    rw [writeCommand, if_neg (by omega), if_neg (by omega)]
    exact mailboxPut_free (p := .host) free _
  case full =>
    intro bytes full
    refine congrArg Host.Outcome.next ((whenReady_served ready _).trans ?_)
    rw [writeCommand, if_pos full]
    exact mailboxPut_full (p := .host) full _
  case short =>
    intro bytes free short
    refine congrArg Host.Outcome.next ((whenReady_served ready _).trans ?_)
    rw [writeCommand, if_neg (by omega), if_pos short]
    rfl
  case stat => exact ⟨_, congrArg Host.Outcome.next (whenReady_served ready _), rfl, rfl⟩
  case bad => exact fun n code bad => congrArg Host.Outcome.next ((whenReady_served ready _).trans (if_pos bad))
  case none => exact fun code => congrArg Host.Outcome.next ((whenReady_served ready _).trans (if_neg (by simp)))
  case lowWrite => exact fun bytes => congrArg Host.Outcome.next (whenReady_unserved low _)
  case lowRead => exact fun n => congrArg Host.Outcome.next (whenReady_unserved low _)
  case lowStat => exact congrArg Host.Outcome.next (whenReady_unserved low _)
  case lowBad => exact fun n code => congrArg Host.Outcome.next (whenReady_unserved low _)

/-! ### Commands that wait (R304, R307, R312) -/

theorem exec_waits {i : Instr} {c : HostCommand} {s : State} (hc : hostCommand i = some c) (served : portServed c.port s = true)
    (busy : takenAtOnce c.port s = false) : exec i s = .next (mailboxPut c.port (commandPacket c.op c.tag c.payload) s) := by
  rw [exec_hostCommand hc, arrive_waits served]
  simpa [takenAtOnce, served] using busy

/-- Settles O12. -/
theorem commandWaitsItsTurn : Obligations.CommandWaitsItsTurn := by
  intro i c s hc
  refine ⟨fun off => ?_, fun served busy free => ?_, fun served busy full => ?_⟩
  · rw [exec_hostCommand hc, arrive_unserved off]
  · rw [exec_waits hc served busy, mailboxPut_free free]
  · rw [exec_waits hc served busy, mailboxPut_full full]

/-! ### The entry checks (R311) -/

theorem answers_served {i : Instr} {c : HostCommand} {s : State} (hc : hostCommand i = some c) (ht : takesNow c.port s = true) :
    answers i (served i c s).1 s (queueResponse c.port c.op c.tag (served i c s).1 (served i c s).2) := by
  refine ⟨exec_takesNow hc ht, ?_⟩
  simp only [hc]
  exact resps_queueResponse i c s

/-- A command that a check of the entry refuses is answered with its code, and changes nothing but its port. -/
theorem answers_refused {i : Instr} {c : HostCommand} {row : CmdRow} {s : State} {e : Code} (hc : hostCommand i = some c)
    (ht : takesNow c.port s = true) (hrow : catalogueRow c.op = some row)
    (he : entryRefusal row c.port c.op c.tag c.payload s = some e) :
    ∃ t, answers i (.err e) s t ∧ { t with hif := s.hif } = s := by
  have refused : served i c s = (.err e, takeCommand c.port s) :=
    serve_refused hrow ((entryRefusal_takeCommand ..).trans he)
  have h := answers_served hc ht
  rw [refused] at h
  exact ⟨_, h, by simp only [queueResponse, takeCommand, State.updPort, State.updHif]⟩

/-- Settles O13: the checks are the branches of `entryRefusal`, with the length behind them. -/
theorem entryChecksInOrder : Obligations.EntryChecksInOrder := by
  intro i c row s hc ht hrow busyTag full barred noToken
  refine ⟨fun tag => answers_refused hc ht hrow ?_, fun tag place => answers_refused hc ht hrow ?_,
    fun tag place remote => answers_refused hc ht hrow ?_, fun tag place remote token => answers_refused hc ht hrow ?_,
    fun tag place remote token state => answers_refused hc ht hrow ?_, fun tag place remote token state k hk => ?_⟩
  · exact if_pos tag
  · exact (if_neg (by simp [tag, busyTag])).trans (if_pos place)
  · rw [entryRefusal, if_neg (ne_true_of_eq_false tag), if_neg (ne_true_of_eq_false place), if_pos remote]
  · rw [entryRefusal, if_neg (ne_true_of_eq_false tag), if_neg (ne_true_of_eq_false place), if_neg (ne_true_of_eq_false remote),
      if_pos token]
  · rw [entryRefusal, if_neg (ne_true_of_eq_false tag), if_neg (ne_true_of_eq_false place), if_neg (ne_true_of_eq_false remote),
      if_neg (ne_true_of_eq_false token), if_pos (by rw [state]; rfl)]
  · have passes : entryRefusal row c.port c.op c.tag c.payload s = none := by
      rw [entryRefusal, if_neg (ne_true_of_eq_false tag), if_neg (ne_true_of_eq_false place), if_neg (ne_true_of_eq_false remote),
        if_neg (ne_true_of_eq_false token), if_neg (by rw [state]; decide)]
    have refused : served i c s = (.len k c.payload.length,
        recordConfig c.port c.op c.payload (.len k c.payload.length) (takeCommand c.port s)) := by
      rw [served, serve_passes hrow ((entryRefusal_takeCommand ..).trans passes), runHandler, hk]
    have h := answers_served hc ht
    rw [refused] at h
    refine ⟨_, h, ?_⟩
    have frame := recordConfig_frame c.port c.op c.payload (.len k c.payload.length) (takeCommand c.port s)
    exact congrArg (fun u : State => { u with hif := s.hif }) frame

/-! ### The events of the mailboxes (R224, R311, R312, R314) -/

/-- The state in which the oldest packet of a port's mailbox is served: it has been taken, and a poisoned word counted. -/
def oldestTaken (poisoned : Bool) (p : Port) (rest : List (List Byte)) (s : State) : State :=
  let s := takeCommand p (s.updPort p fun q => { q with cmds := rest })
  if poisoned then s.updFabric fun f => { f with eccUncorr := satInc 0xFFFF f.eccUncorr } else s

theorem oldestTaken_port (poisoned : Bool) (p : Port) (rest : List (List Byte)) (s : State) : (oldestTaken poisoned p rest s).port p =
    { flushWaiting (s.port p) with cmds := rest, commands := satInc 0xFFFFFFFF (s.port p).commands } := by
  unfold oldestTaken
  cases poisoned <;> cases p <;> rfl

theorem oldestTaken_frame (poisoned : Bool) (p : Port) (rest : List (List Byte)) (s : State) :
    { oldestTaken poisoned p rest s with hif := s.hif, fabric := s.fabric } = s := by
  unfold oldestTaken
  cases poisoned <;> simp [takeCommand, State.updPort, State.updHif, State.updFabric]

theorem oldestTaken_fabric (poisoned : Bool) (p : Port) (rest : List (List Byte)) (s : State) :
    (oldestTaken poisoned p rest s).fabric =
      if poisoned then { s.fabric with eccUncorr := satInc 0xFFFF s.fabric.eccUncorr } else s.fabric := by
  unfold oldestTaken
  cases poisoned <;> rfl

/-- The oldest packet's reply, and the state that it leaves. -/
def packetServed (poisoned : Bool) (p : Port) (pkt : List Byte) (rest : List (List Byte)) (s : State) : Reply × State :=
  servePacket poisoned p pkt (oldestTaken poisoned p rest s)

theorem takeOldest_served {poisoned : Bool} {p : Port} {pkt : List Byte} {rest : List (List Byte)} {s : State}
    (served : portServed p s = true) (free : placeFree p s = true) (kept : voteLost 4 s = false)
    (cmds : (s.port p).cmds = pkt :: rest) : takeOldest poisoned p s = queueResponse p (pktOpcode pkt) (pktTag pkt)
      (packetServed poisoned p pkt rest s).1 (packetServed poisoned p pkt rest s).2 := by
  have vote : voteLost 4 (oldestTaken poisoned p rest s) = false := by
    unfold oldestTaken
    cases poisoned <;> exact kept
  simp only [takeOldest, cmds, served, free, Bool.not_true, Bool.or_self, Bool.false_eq_true, if_false]
  refine Eq.trans (b := respond (voteLost 4 (oldestTaken poisoned p rest s)) p (pktOpcode pkt) (pktTag pkt)
    (packetServed poisoned p pkt rest s).1 (packetServed poisoned p pkt rest s).2) rfl ?_
  rw [vote]
  rfl

theorem servePacket_unknown {poisoned : Bool} {p : Port} {pkt : List Byte} {s : State} (wire : wireRefusal poisoned pkt = none)
    (flags : flagRefusal pkt = none) (row : catalogueRow (pktOpcode pkt) = none) :
    (servePacket poisoned p pkt s).1 = .err .errOpcode := by
  simp only [servePacket, wire, flags, serve, row]

theorem servePacket_wire {poisoned : Bool} {p : Port} {pkt : List Byte} {s : State} {w : Reply}
    (wire : wireRefusal poisoned pkt = some w) : servePacket poisoned p pkt s = (w, countCrcErr p s) := by
  simp only [servePacket, wire]

/-- The state in which a first fragment is kept (R224). -/
def firstKept (d : List Byte) (s : State) : State :=
  countDiscards 0 (s.updPort .maint fun q => { q with frags := some (fragFirst s.floe.round d) })

theorem firstKept_floe (d : List Byte) (s : State) : (firstKept d s).floe = s.floe := by
  simp only [firstKept, countDiscards, State.updPort, State.updHif]

theorem firstKept_host (d : List Byte) (s : State) : (firstKept d s).hif.host = s.hif.host := by
  simp only [firstKept, countDiscards, State.updPort, State.updHif]

theorem firstKept_cmds (d : List Byte) (s : State) : (firstKept d s).hif.maint.cmds = s.hif.maint.cmds := by
  simp only [firstKept, countDiscards, State.updPort, State.updHif]

theorem firstKept_frags (d : List Byte) (s : State) : (firstKept d s).hif.maint.frags = some (fragFirst s.floe.round d) := by
  simp only [firstKept, countDiscards, State.updPort, State.updHif]

theorem firstKept_frame (d : List Byte) (h : HostIf) (f : Floe) (s : State) :
    { firstKept d s with hif := h, floe := f } = { s with hif := h, floe := f } := by
  simp only [firstKept, countDiscards, State.updPort, State.updHif]

/-- A first fragment whose head is in order is kept; the only one of its packet ends it. -/
theorem takeFragment_first {d : List Byte} {s : State} (served : portServed .maint s = true) (long : 8 ≤ d.length)
    (node : fld (wordAt d 0) 31 20 = floeNode s.floe.live) (kind : fld (wordAt d 0) 19 16 = 0) (idle : s.hif.maint.frags = none)
    (opens : fragOpens d = true) : takeFragment d s =
      if (fragFirst s.floe.round d).next = (fragFirst s.floe.round d).cnt then fragDone (fragFirst s.floe.round d) (firstKept d s) else firstKept d s := by
  have head : ¬ (d.length < 8 ∨ fld (wordAt d 0) 31 20 ≠ floeNode s.floe.live ∨ fld (wordAt d 0) 19 16 ≠ 0) := by
    simp [node, kind, long]
  have step : fragStep s.floe.round d s.hif.maint.frags = (fragFirst s.floe.round d, 0) := by
    simp [fragStep, idle, opens]
  simp only [takeFragment, served, head, step, Bool.not_true, decide_false, Bool.or_self, Bool.false_eq_true, if_false,
    firstKept]

/-- The module has taken a maintenance frame out of those received. -/
def frameTaken (f : List Byte) (s : State) : State := s.updFloe fun x => { x with maintRx := x.maintRx.erase f }

theorem exec_maintFragment {f : List Byte} {s : State} (mine : s.floe.maintRx.contains f = true)
    (whole : f.take (32 + frDlen f) = f) :
    exec (.maintFragmentReceive f) s = .next (takeFragment (frData f) (frameTaken f s)) := by
  refine congrArg Host.Outcome.next (Eq.trans (if_neg ?_) ?_)
  · rw [whole, mine]
    decide
  · rw [whole]
    rfl

theorem mailboxPut_frame (p : Port) (bytes : List Byte) (s : State) : { mailboxPut p bytes s with hif := s.hif } = s := rfl

theorem fragDone_frame (x : FragSt) (h : HostIf) (f : Floe) (s : State) :
    { fragDone x s with hif := h, floe := f } = { s with hif := h, floe := f } := by
  unfold fragDone
  dsimp only
  split <;> simp only [countDiscards, mailboxPut, State.updPort, State.updHif]

theorem fragDone_floe (x : FragSt) (s : State) : (fragDone x s).floe = s.floe := by
  unfold fragDone
  dsimp only
  split <;> rfl

theorem fragDone_host (x : FragSt) (s : State) : (fragDone x s).hif.host = s.hif.host := by
  unfold fragDone
  dsimp only
  split <;> rfl

/-- A packet of which all bytes have come enters the mailbox. -/
theorem fragDone_whole {x : FragSt} {s : State} (fits : x.pktLen ≤ x.bytes.length) (free : s.hif.maint.cmds.length < 4) :
    (fragDone x s).hif.maint = { s.hif.maint with frags := none, cmds := s.hif.maint.cmds ++ [x.bytes.take x.pktLen] } := by
  unfold fragDone
  dsimp only
  rw [if_neg (Nat.not_lt.mpr fits), mailboxPut_free (p := .maint) (s := s.updPort .maint fun q => { q with frags := none }) free]
  simp only [State.updPort, State.updHif]

/-- Settles O15. -/
theorem mailboxEvents : Obligations.MailboxEvents := by
  refine ⟨?taken, ?completion, ?fragment, ?foreign⟩
  case taken =>
    intro p poisoned pkt rest s served free kept cmds
    obtain ⟨hcmds, hresps, hcommands⟩ := (servePacket_served poisoned p pkt (oldestTaken poisoned p rest s)).mail p
    rw [oldestTaken_port] at hcmds hresps hcommands
    refine ⟨_, (packetServed poisoned p pkt rest s).1, congrArg Host.Outcome.next (takeOldest_served served free kept cmds),
      ?_, ?_, ?_, fun wire flags row => servePacket_unknown wire flags row, fun w wire => ?_⟩
    · rw [queueResponse_port]
      exact hcmds
    · rw [queueResponse_port]
      exact congrArg (· ++ _) hresps
    · rw [queueResponse_port]
      exact hcommands
    · have refused : packetServed poisoned p pkt rest s = (w, countCrcErr p (oldestTaken poisoned p rest s)) := servePacket_wire wire
      rw [refused]
      refine ⟨rfl, ?_, ?_, ?_⟩
      · simp only [queueResponse_port, countCrcErr, updPort_port, oldestTaken_port]
        rfl
      · refine Eq.trans ?_ (oldestTaken_frame poisoned p rest s)
        simp only [queueResponse, countCrcErr, State.updPort, State.updHif]
      · exact oldestTaken_fabric poisoned p rest s
  case completion =>
    intro p s served
    refine ⟨_, congrArg Host.Outcome.next (if_pos served), rfl, ?_, ?_⟩ <;> rw [updPort_port] <;> rfl
  case fragment =>
    intro f s served mine whole long node kind idle opens
    have first := takeFragment_first (s := frameTaken f s) served long node kind idle opens
    refine ⟨_, (exec_maintFragment mine whole).trans (congrArg Host.Outcome.next first), ?_⟩
    have host := firstKept_host (frData f) (frameTaken f s)
    have cmds := firstKept_cmds (frData f) (frameTaken f s)
    split
    · next one =>
      refine ⟨?_, ?_, ?_, fun more => absurd (Eq.symm one) more, fun _ fits free => ?_⟩
      · rw [fragDone_frame, firstKept_frame]
        rfl
      · rw [fragDone_floe, firstKept_floe]
        rfl
      · rw [fragDone_host, host]
        rfl
      · rw [fragDone_whole fits (cmds.symm ▸ free), cmds]
        exact ⟨rfl, rfl⟩
    · next more =>
      refine ⟨?_, ?_, ?_, fun _ => ⟨?_, ?_⟩, fun one => absurd (Eq.symm one) more⟩
      · rw [firstKept_frame]
        rfl
      · rw [firstKept_floe]
        rfl
      · rw [host]
        rfl
      · rw [firstKept_frags]
        rfl
      · rw [cmds]
        rfl
  case foreign => exact fun f s foreign => congrArg Host.Outcome.next (if_pos (by rw [foreign]; rfl))

end Sys2Proof.Proofs
end

section
/-!
SUPPORT. A host command that is ready (R311): its response is queued on the state that its handler leaves, behind the record of R321.
The fields of the words that its payload is made of.
-/
namespace Sys2Proof.Proofs
open Sys2Proof.Machine

/-! ### Fields of packed words (R7) -/

theorem fld_or {n : Nat} (x y : BitVec n) (hi lo : Nat) : fld (x ||| y) hi lo = fld x hi lo ||| fld y hi lo := by
  simp only [fld, BitVec.toNat_or, Nat.shiftRight_or_distrib, Nat.or_mod_two_pow]

theorem fld_at32 (l n hi lo : Nat) : fld (at32 l n) hi lo = n * 2 ^ l % 2 ^ 32 / 2 ^ lo % 2 ^ (hi + 1 - lo) := by
  simp only [fld, at32, BitVec.toNat_ofNat, Nat.shiftLeft_eq, Nat.shiftRight_eq_div_pow]

theorem flag_eq (i : Nat) (b : Bool) : flag i b = at32 i b.toNat := by
  cases b <;> simp [flag, at32]

theorem tst_or {n : Nat} (x y : BitVec n) (i : Nat) : tst (x ||| y) i = (tst x i || tst y i) := BitVec.getLsbD_or

theorem tst_at32 (l n i : Nat) : tst (at32 l n) i = (decide (i < 32) && (decide (l ≤ i) && n.testBit (i - l))) := by
  simp only [tst, at32, BitVec.getLsbD_ofNat, Nat.testBit_shiftLeft]

theorem tst_flag (i : Nat) (b : Bool) (j : Nat) : tst (flag i b) j = (decide (j < 32) && (decide (i = j) && b)) := by
  rw [flag_eq, tst_at32]
  cases b
  · simp
  · by_cases h : i = j
    · simp [h]
    · by_cases le : i ≤ j
      · obtain ⟨d, rfl⟩ : ∃ d, j = i + (d + 1) := ⟨j - i - 1, by omega⟩
        simp [Nat.testBit_succ, show i + (d + 1) - i = d + 1 by omega]
      · simp [h, le]

theorem fld_zero {n : Nat} (hi lo : Nat) : fld (0 : BitVec n) hi lo = 0 := by simp [fld]

/-! ### Words in a payload -/

theorem dwordBytes_eq (x : Dword) : dwordBytes x = wordsBytes [hiWord x, loWord x] := by
  simp only [dwordBytes, wordsBytes, List.flatMap_cons, List.flatMap_nil, wordBytes, beBytes, hiWord, loWord, BitVec.toNat_ofNat,
    List.cons_append, List.nil_append, List.append_nil, List.cons.injEq, and_true]
  refine ⟨?_, ?_, ?_, ?_, ?_, ?_, ?_, ?_⟩ <;> apply BitVec.eq_of_toNat_eq <;>
    simp only [BitVec.toNat_ofNat, Nat.shiftRight_eq_div_pow] <;> have := x.isLt <;> omega

theorem bytesWords_append (ws : List Word) (data : List Byte) :
    (bytesWords (wordsBytes ws ++ data)).take ws.length = ws := by
  apply List.ext_getElem
  · simp [bytesWords]
    omega
  · intro i h1 h2
    simp [bytesWords, wordAt_wordsBytes h2 data]

theorem nth_bytesWords {ws : List Word} {i : Nat} (h : i < ws.length) (data : List Byte) :
    nth (bytesWords (wordsBytes ws ++ data)) i = ws[i] := by
  have len : i < (wordsBytes ws ++ data).length / 4 := by
    simp
    omega
  rw [nth, bytesWords, List.getD_eq_getElem?_getD, List.getElem?_map, List.getElem?_range len, Option.map_some, Option.getD_some,
    wordAt_wordsBytes h]

theorem drop_wordsBytes (ws : List Word) (data : List Byte) : (wordsBytes ws ++ data).drop (4 * ws.length) = data := by
  rw [← wordsBytes_length ws, List.drop_left]

/-! ### Answers -/

/-- The state in which a command's response has been queued behind its record (R313, R321). -/
def responded (c : HostCommand) (r : Reply) (u : State) : State :=
  queueResponse c.port c.op c.tag r (recordConfig c.port c.op c.payload r u)

/-- A command that is ready is answered with its handler's reply. -/
theorem answers_responded {i : Instr} {c : HostCommand} {s u : State} {r : Reply} (hc : hostCommand i = some c)
    (hr : ready i s = true) (run : rowHandler i c.op c.port c.tag c.payload (takeCommand c.port s) = (r, u)) :
    answers i r s (responded c r u) := by
  have passes := hr
  simp only [ready, hc, Bool.and_eq_true, entryPasses] at passes
  obtain ⟨now, len, entry⟩ := passes
  have serve : served i c s = (r, recordConfig c.port c.op c.payload r u) := by
    cases hrow : catalogueRow c.op with
    | none => simp [hrow] at entry
    | some row =>
      have free : entryRefusal row c.port c.op c.tag c.payload (takeCommand c.port s) = none := by
        rw [entryRefusal_takeCommand]
        simpa [hrow] using entry
      rw [served, serve_passes hrow free, runHandler_runs (by simpa using len), run]
  have h := answers_served hc now
  rwa [serve] at h

theorem recordConfig_plain {op : Half} {payload : List Byte} (h : isConfig op payload = false) (p : Port) (r : Reply) (s : State) :
    recordConfig p op payload r s = s := if_pos (by rw [h]; rfl)

theorem responded_plain {c : HostCommand} (h : isConfig c.op c.payload = false) (r : Reply) (u : State) :
    responded c r u = queueResponse c.port c.op c.tag r u := by
  rw [responded, recordConfig_plain h]

/-- The record is all that a configuration command adds to its handler's effect. -/
theorem recordConfig_updIce (p : Port) (op : Half) (payload : List Byte) (r : Reply) (s : State) :
    ∃ f, recordConfig p op payload r s = s.updIce f := by
  refine ⟨fun _ => (recordConfig p op payload r s).ice, ?_⟩
  exact congrArg (fun u : State => { u with ice := (recordConfig p op payload r s).ice }) (recordConfig_frame p op payload r s)

/-- What is recorded depends on the time and the Ice Core alone. -/
theorem record_ice {s u : State} (ice : u.ice = s.ice) (time : u.tb.tb.ns = s.tb.tb.ns) (code : Half) (sev src p0 p1 p2 p3 : Nat) :
    (record code sev src p0 p1 p2 p3 u).ice = (record code sev src p0 p1 p2 p3 s).ice := by
  simp only [record, emit, State.updIce, ice, time]

/-- What is recorded depends on the reply's code, the time and the Ice Core alone. -/
theorem recordConfig_ice {s u : State} {r : Reply} (ice : u.ice = s.ice) (time : u.tb.tb.ns = s.tb.tb.ns) (ok : r.code = .ok)
    (p : Port) (op : Half) (payload : List Byte) :
    (recordConfig p op payload r u).ice = (recordConfig p op payload .done s).ice := by
  have done : Reply.done.code = .ok := rfl
  unfold recordConfig
  rw [ok, done]
  split
  · exact ice
  · split
    · exact record_ice ice time ..
    · exact record_ice ice time ..

section
variable (c : HostCommand) (r : Reply) (u : State)

theorem responded_frame (h : HostIf) (j : Ice) : { responded c r u with hif := h, ice := j } = { u with hif := h, ice := j } := by
  obtain ⟨f, hf⟩ := recordConfig_updIce c.port c.op c.payload r u
  simp only [responded, hf, queueResponse, State.updPort, State.updHif, State.updIce]

theorem responded_port : (responded c r u).port c.port =
    { u.port c.port with resps := (u.port c.port).resps ++ [responsePacket c.op c.tag r] } := by
  obtain ⟨f, hf⟩ := recordConfig_updIce c.port c.op c.payload r u
  rw [responded, queueResponse_port, hf]
  cases c.port <;> rfl

theorem responded_actions : (responded c r u).hif.actions = u.hif.actions := by
  obtain ⟨f, hf⟩ := recordConfig_updIce c.port c.op c.payload r u
  rw [responded, hf, queueResponse, State.updPort]
  cases c.port <;> rfl

theorem responded_ice : (responded c r u).ice = (recordConfig c.port c.op c.payload r u).ice := by
  rw [responded, queueResponse, State.updPort]
  rfl

end

theorem configRecorded_responded {i : Instr} {c : HostCommand} {s u : State} {r : Reply} (hc : hostCommand i = some c)
    (ice : u.ice = s.ice) (time : u.tb.tb.ns = s.tb.tb.ns) (ok : r.code = .ok) : configRecorded i s (responded c r u) := by
  simp only [configRecorded, hc]
  rw [responded_ice, recordConfig_ice ice time ok]

end Sys2Proof.Proofs
end

section
/-! SUPPORT. Arms and executes (R317, R318, R332, R335): O17, O18, O19. -/
namespace Sys2Proof.Proofs
open Sys2Proof.Machine

/-! ### The two phases -/

theorem phaseRefusal_arm (rest : List Word) : phaseRefusal (1 :: 0 :: rest) = none := by
  simp [phaseRefusal, firstBad, FieldRule.holds, rsvd, nth, fld]

theorem phaseRefusal_execute (rest : List Word) : phaseRefusal (2 :: rest) = none := by
  simp [phaseRefusal, firstBad, FieldRule.holds, rsvd, nth, fld]

theorem armExecute_arm (op : Half) (execute : Port → Half → List Word → State → Reply × State) (p : Port) (tag : Half) (s : State) :
    armExecute op execute p tag (wordsBytes [1, 0]) s = armReply p op [1, 0] [] s := by
  simp only [armExecute, bytesWords_wordsBytes, phaseRefusal_arm]
  rfl

theorem armExecute_execute (op : Half) (execute : Port → Half → List Word → State → Reply × State) (p : Port) (tag : Half)
    (token : Word) (s : State) : armExecute op execute p tag (wordsBytes [2, token]) s = execute p tag [2, token] s := by
  simp only [armExecute, bytesWords_wordsBytes, phaseRefusal_execute]
  rfl

/-! ### Arms -/

/-- The token that an arm gives. -/
def armTokenOf (p : Port) (op : Half) (s : State) : Word := tokenOf (s.port p).prevToken s.tb.tb.ns op

theorem armReply_takeCommand (p : Port) (op : Half) (ws extra : List Word) (s : State) :
    armReply p op ws extra (takeCommand p s) = (.words (armTokenOf p op s :: 0 :: extra),
      (takeCommand p s).updPort p fun q => { q with prevToken := armTokenOf p op s, tokens := q.tokens.filter (fun x => x.opcode ≠ op) ++
        [{ opcode := op, bound := boundWords ws, value := armTokenOf p op s, ms := s.tb.ms }] }) := by
  have time : (takeCommand p s).tb = s.tb := rfl
  simp only [armReply, armToken, takeCommand_port, time, armTokenOf]
  rfl

/-- What an arm that its handler takes leaves (R317). -/
theorem armed {i : Instr} {c : HostCommand} {s : State} {op : Half} {ws extra : List Word} (hc : hostCommand i = some c)
    (hr : ready i s = true) (run : rowHandler i c.op c.port c.tag c.payload (takeCommand c.port s) =
      armReply c.port op ws extra (takeCommand c.port s)) :
    ∃ t, answers i (.words (armTokenOf c.port op s :: 0 :: extra)) s t ∧ (t.port c.port).prevToken = armTokenOf c.port op s ∧
      (t.port c.port).tokens = (s.port c.port).tokens.filter (fun x => x.opcode ≠ op) ++
        [{ opcode := op, bound := boundWords ws, value := armTokenOf c.port op s, ms := s.tb.ms }] ∧
      { t with hif := s.hif, ice := s.ice } = s ∧ (isConfig c.op c.payload = false → t.ice = s.ice) ∧ configRecorded i s t := by
  rw [armReply_takeCommand] at run
  refine ⟨_, answers_responded hc hr run, ?_, ?_, ?_, fun plain => ?_, configRecorded_responded hc rfl rfl rfl⟩
  · rw [responded_port, updPort_port]
  · rw [responded_port, updPort_port, takeCommand_port]
    rfl
  · rw [responded_frame]
    simp only [takeCommand, State.updPort, State.updHif]
  · rw [responded_ice, recordConfig_plain plain]
    rfl

/-- The fields of the word that names a lock-out record (R335). -/
theorem fld_lockWord (kind index : Byte) : fld (lockWord kind index) 31 16 = 0 ∧ fld (lockWord kind index) 15 8 = kind.toNat ∧
    fld (lockWord kind index) 7 0 = index.toNat := by
  have k := kind.isLt
  have x := index.isLt
  refine ⟨?_, ?_, ?_⟩ <;> rw [lockWord, fld_or, fld_at32, fld_at32]
  · rw [show kind.toNat * 2 ^ 8 % 2 ^ 32 / 2 ^ 16 % 2 ^ (31 + 1 - 16) = 0 by omega,
      show index.toNat * 2 ^ 0 % 2 ^ 32 / 2 ^ 16 % 2 ^ (31 + 1 - 16) = 0 by omega]
    rfl
  · rw [show kind.toNat * 2 ^ 8 % 2 ^ 32 / 2 ^ 8 % 2 ^ (15 + 1 - 8) = kind.toNat by omega,
      show index.toNat * 2 ^ 0 % 2 ^ 32 / 2 ^ 8 % 2 ^ (15 + 1 - 8) = 0 by omega]
    exact Nat.or_zero _
  · rw [show kind.toNat * 2 ^ 8 % 2 ^ 32 / 2 ^ 0 % 2 ^ (7 + 1 - 0) = 0 by omega,
      show index.toNat * 2 ^ 0 % 2 ^ 32 / 2 ^ 0 % 2 ^ (7 + 1 - 0) = index.toNat by omega]
    exact Nat.zero_or _

/-- A payload whose checks all hold is not refused. -/
theorem refuseAt_all {α : Type} {cs : List FieldCheck} (h : (cs.all fun x => x.2.2) = true) (st : α) (k : Reply × α) :
    refuseAt cs st k = k := by
  have none : cs.find? (fun c => !c.2.2) = none :=
    List.find?_eq_none.mpr fun c hc => by simpa using List.all_eq_true.mp h c hc
  rw [refuseAt, none]

theorem checked_none {α : Type} {ws : List Word} {rs : List FieldRule} (h : firstBad ws rs = none) (st : α) (k : Reply × α) :
    checked ws rs st k = k := by
  rw [checked, h]

theorem handlePrgActivate_arm (p : Port) (tag : Half) (lit desc : Dword) (s : State) :
    handlePrgActivate p tag (wordsBytes [1, 0] ++ dwordBytes lit ++ dwordBytes desc) s =
      armReply p 0x0403 [1, 0, hiWord lit, loWord lit, hiWord desc, loWord desc]
        [BitVec.ofNat 32 (if s.prog.standby.st = .valid then s.prog.standby.programVersion else 0),
         BitVec.ofNat 32 (loadU s.prog.standby s.taskRecords), hiWord s.prog.standby.litCrc, loWord s.prog.standby.litCrc,
         hiWord s.prog.standby.descCrc, loWord s.prog.standby.descCrc] s := by
  rw [handlePrgActivate, dwordBytes_eq, dwordBytes_eq, ← wordsBytes_append, ← wordsBytes_append, bytesWords_wordsBytes]
  simp only [List.cons_append, List.nil_append, phaseRefusal_arm]
  rfl

theorem handleLockArm_stands {kind index : Byte} {s : State} (low : 1 ≤ kind.toNat) (high : kind.toNat ≤ 5)
    (stands : lockStands kind.toNat index.toNat s = true) (p : Port) (tag : Half) :
    handleLockArm p tag (wordsBytes [lockWord kind index]) s = armReply p 0x0901 [lockWord kind index] [] s := by
  obtain ⟨top, k, x⟩ := fld_lockWord kind index
  have good : firstBad [lockWord kind index] [rsvd 0 31 16, ⟨0, 15, 8, 1, 5⟩] = none := by
    simp [firstBad, FieldRule.holds, rsvd, nth, top, k, low, high]
  rw [handleLockArm, bytesWords_wordsBytes]
  dsimp only
  rw [checked_none good, show nth [lockWord kind index] 0 = lockWord kind index from rfl, k, x, if_pos stands]
  rfl

theorem handleTaskCfg_phase (p : Port) (tag : Half) (ph token : Word) (task : BitVec 3) (r : Word) (s : State)
    (fits : ((taskChecks s.floe.cfg [ph, token, at32 0 task.toNat, r]).all fun x => x.2.2) = true) :
    handleTaskCfg p tag (wordsBytes [ph, token, at32 0 task.toNat, r]) s =
      match fld ph 7 0 with
      | 0 => if s.inService then (.err .errState, s) else taskWrite task.toNat r s
      | 1 => if s.inService && clearsEn task.toNat r s then armReply p 0x0201 [ph, token, at32 0 task.toNat, r] [] s
             else (.err .errState, s)
      | _ => if s.inService && clearsEn task.toNat r s then (.done, taskClear task.toNat r (spendToken p 0x0201 s))
             else (.err .errState, s) := by
  have number : fld (at32 0 task.toNat) 2 0 = task.toNat := by
    have := task.isLt
    rw [fld_at32]
    omega
  rw [handleTaskCfg, bytesWords_wordsBytes, refuseAt_all fits, show nth [ph, token, at32 0 task.toNat, r] 2 = at32 0 task.toNat from rfl, number]
  rfl

theorem handleFloeCfg_phase (p : Port) (tag : Half) (ph token : Word) (record : List Word) (s : State)
    (fits : ((floeChecks (ph :: token :: record)).all fun x => x.2.2) = true) :
    handleFloeCfg p tag (wordsBytes (ph :: token :: record)) s =
      match fld ph 7 0 with
      | 0 => if s.inService then (.err .errState, s) else floeWrite record s
      | 1 => if s.inService && loadsOtherKey record s then armReply p 0x0B01 (ph :: token :: record) [] s
             else (.err .errState, s)
      | _ => if s.inService && loadsOtherKey record s then (.done, (spendToken p 0x0B01 s).updKeys (keyLoadService record))
             else (.err .errState, s) := by
  rw [handleFloeCfg, bytesWords_wordsBytes, refuseAt_all fits]
  rfl

/-- An arm whose payload is the two words of PHASE and TOKEN (R317). -/
theorem armed_twoWords {i : Instr} {p : Port} {op tag : Half} {s : State}
    {execute : Port → Half → List Word → State → Reply × State} (hc : hostCommand i = some ⟨p, op, tag, wordsBytes [1, 0]⟩)
    (hr : ready i s = true) (handler : rowHandler i op = armExecute op execute) (plain : isConfig op (wordsBytes [1, 0]) = false) :
    ∃ t, answers i (.words [armTokenOf p op s, 0]) s t ∧ (t.port p).prevToken = armTokenOf p op s ∧
      (t.port p).tokens = (s.port p).tokens.filter (fun x => x.opcode ≠ op) ++
        [{ opcode := op, bound := [0], value := armTokenOf p op s, ms := s.tb.ms }] ∧
      { t with hif := s.hif, ice := s.ice } = s ∧ t.ice = s.ice := by
  obtain ⟨t, answer, prev, tokens, frame, ice, -⟩ := armed hc hr (op := op) (ws := [1, 0]) (extra := [])
    (by rw [handler, armExecute_arm])
  exact ⟨t, answer, prev, tokens, frame, ice plain⟩

/-- Settles O17: every arm is the same reply of `armReply`. -/
theorem armAnswersToken : Obligations.ArmAnswersToken := by
  intro p tag s
  refine ⟨?plain, fun lit desc hr => ?activate, fun kind index hr low high stands => ?lock,
    fun task r hr service clears fits => ?task, fun record hr service loads fits => ?floe⟩
  case plain =>
    intro x hx hr
    simp only [List.mem_cons, List.not_mem_nil, or_false] at hx
    rcases hx with rfl | rfl | rfl | rfl | rfl | rfl | rfl | rfl | rfl
    all_goals
      obtain ⟨t, answer, prev, tokens, frame, ice⟩ := armed_twoWords rfl hr rfl rfl
      exact ⟨t, answer, prev, tokens, frame, fun _ _ => ice, fun e => by simp at e⟩
  case activate =>
    have hc : hostCommand (.prgActivateArm p tag lit desc) = some ⟨p, 0x0403, tag, _⟩ := rfl
    obtain ⟨t, answer, prev, tokens, frame, ice, -⟩ := armed hc hr (handlePrgActivate_arm ..)
    exact ⟨t, answer, prev, tokens, frame, fun _ _ => ice rfl, fun e => by simp at e⟩
  case lock =>
    have hc : hostCommand (.lockArm p tag kind index) = some ⟨p, 0x0901, tag, _⟩ := rfl
    obtain ⟨t, answer, prev, tokens, frame, ice, -⟩ := armed hc hr (handleLockArm_stands (s := takeCommand p s) low high stands p tag)
    exact ⟨t, answer, prev, tokens, frame, fun _ _ => ice rfl, fun e => by simp at e⟩
  case task =>
    have hc : hostCommand (.taskCfgArm p tag task r) = some ⟨p, 0x0201, tag, _⟩ := rfl
    have run := (handleTaskCfg_phase p tag 1 0 task r (takeCommand p s) fits).trans
      (if_pos ((Bool.and_eq_true ..).mpr ⟨service, clears⟩))
    obtain ⟨t, answer, prev, tokens, frame, -, recorded⟩ := armed hc hr run
    exact ⟨t, answer, prev, tokens, frame, fun e => absurd rfl e, fun _ => recorded⟩
  case floe =>
    have hc : hostCommand (.floeCfgArm p tag record) = some ⟨p, 0x0B01, tag, _⟩ := rfl
    have run := (handleFloeCfg_phase p tag 1 0 record (takeCommand p s) fits).trans
      (if_pos ((Bool.and_eq_true ..).mpr ⟨service, loads⟩))
    obtain ⟨t, answer, prev, tokens, frame, -, recorded⟩ := armed hc hr run
    exact ⟨t, answer, prev, tokens, frame, fun _ e => absurd rfl e, fun _ => recorded⟩

/-! ### Executes (R318) -/

/-- An execute that queues its action behind the response leaves the rest as it was. -/
theorem executed_later {i : Instr} {p : Port} {op tag : Half} {token : Word} {a : Action} {s : State}
    (hc : hostCommand i = some ⟨p, op, tag, wordsBytes [2, token]⟩) (hr : ready i s = true) (plain : isConfig op (wordsBytes [2, token]) = false)
    (run : rowHandler i op p tag (wordsBytes [2, token]) (takeCommand p s) = (.done, actAfter p a (spendToken p op (takeCommand p s)))) :
    ∃ t, answers i .done s t ∧ t.hif.actions = s.hif.actions ++ [(a, p, (t.port p).resps.length, s.tb.ms)] ∧
      (t.port p).tokens = (s.port p).tokens.filter (fun x => x.opcode ≠ op) ∧ { t with hif := s.hif } = s := by
  refine ⟨_, answers_responded hc hr run, ?_, ?_, ?_⟩
  · have port := responded_port ⟨p, op, tag, wordsBytes [2, token]⟩ .done (actAfter p a (spendToken p op (takeCommand p s)))
    rw [responded_actions, port]
    cases p <;> simp [actAfter, spendToken, takeCommand, State.port, State.updPort]
    all_goals rfl
  · rw [responded_port]
    cases p <;> simp [actAfter, spendToken, takeCommand, State.port, State.updPort, flushWaiting]
  · rw [responded_plain plain]
    simp only [queueResponse, actAfter, spendToken, takeCommand, State.updPort, State.updHif]

/-- The state in which an execute that acts at once has used its token up. -/
def tokenUsed (p : Port) (op : Half) (s : State) : State := spendToken p op (takeCommand p s)

theorem tokenUsed_tokens (p : Port) (op : Half) (s : State) :
    ((tokenUsed p op s).port p).tokens = (s.port p).tokens.filter fun x => x.opcode ≠ op := by
  simp only [tokenUsed, spendToken, updPort_port, takeCommand_port, flushWaiting_tokens]

theorem tokenUsed_frame (p : Port) (op : Half) (h : HostIf) (s : State) : { tokenUsed p op s with hif := h } = { s with hif := h } := by
  simp only [tokenUsed, spendToken, takeCommand, State.updPort, State.updHif]

theorem tokenUsed_mstate (p : Port) (op : Half) (s : State) :
    (tokenUsed p op s).mstate = s.mstate ∧ (tokenUsed p op s).holdFrom = s.holdFrom := ⟨rfl, rfl⟩

@[simp] theorem enterEff_hif (new : MState) (s : State) : (enterEff new s).hif = s.hif := by
  unfold enterEff
  split <;> rfl

theorem enterEff_outside {new : MState} {s : State} (h : s.mstate ≠ .hold) :
    (enterEff new s).mstate = new ∧ (enterEff new s).holdFrom = s.holdFrom := by
  rw [enterEff, if_neg h]
  exact ⟨rfl, rfl⟩

theorem enterEff_hold {new : MState} {s : State} (h : s.mstate = .hold) : (enterEff new s).mstate = .hold := by
  rw [enterEff, if_pos h]
  exact h

theorem queueResponse_eff (p : Port) (op tag : Half) (r : Reply) (s : State) : (queueResponse p op tag r s).eff = s.eff := rfl

/-- Settles O18. -/
theorem executesAct : Obligations.ExecutesAct := by
  refine ⟨fun p tag token s => ⟨fun hr => ?_, fun hr => ?_, fun hr => ?_, fun hr none => ?_, fun hr staged sched reint join split => ?_⟩,
    fun p tag token s => ⟨fun hr => ?test, fun hr strap => ?rime⟩⟩
  · exact executed_later rfl hr rfl (armExecute_execute ..)
  · exact executed_later rfl hr rfl (armExecute_execute ..)
  · exact executed_later rfl hr rfl (armExecute_execute ..)
  · have disabled : ¬ anyEnabled s = true := ne_true_of_eq_false none
    exact executed_later rfl hr rfl ((armExecute_execute ..).trans (if_neg disabled))
  · have free : ¬ (s.fw.snow ≠ .staged ∨ s.prog.sched.isSome ∨ s.reintegrating ∨ s.twin.join.isSome ∨ s.twin.split.isSome) := by
      simp [staged, sched, reint, join, split]
    exact executed_later rfl hr rfl ((armExecute_execute ..).trans (if_neg free))
  case test =>
    have hc : hostCommand (.testEnterExecute p tag token) = some ⟨p, 0x0104, tag, wordsBytes [2, token]⟩ := rfl
    have answer := answers_responded hc hr (armExecute_execute ..)
    rw [responded_plain rfl] at answer
    obtain ⟨mstate, holdFrom⟩ := tokenUsed_mstate p 0x0104 s
    refine ⟨_, answer, enterEff_eff .test _ (by decide), fun out => ?_, fun hold => ?_, ?_, ?_⟩
    · exact enterEff_outside (s := record 0x0205 2 (portSrc p) 0 0 0 0 (tokenUsed p 0x0104 s)) out
    · exact enterEff_hold (s := record 0x0205 2 (portSrc p) 0 0 0 0 (tokenUsed p 0x0104 s)) hold
    · rw [queueResponse_port, ← tokenUsed_tokens]
      cases p <;> simp only [State.port, enterEff_hif] <;> rfl
    · have frame := enterEff_frame .test (record 0x0205 2 (portSrc p) 0 0 0 0 (tokenUsed p 0x0104 s))
      exact congrArg (fun u : State => { u with hif := s.hif, ice := s.ice }) frame
  case rime =>
    have hc : hostCommand (.rimeArmExecute p tag token) = some ⟨p, 0x0E01, tag, wordsBytes [2, token]⟩ := rfl
    have fitted : ¬ (!s.maintEn) = true := by simp [strap]
    have answer := answers_responded hc hr ((armExecute_execute ..).trans (if_neg fitted))
    rw [responded_plain rfl] at answer
    refine ⟨_, answer, rfl, ?_, ?_⟩
    · rw [queueResponse_port, ← tokenUsed_tokens]
      cases p <;> rfl
    · exact congrArg (fun u : State => { u with ice := s.ice, rimeArmed := s.rimeArmed }) (tokenUsed_frame p 0x0E01 s.hif s)

/-! ### LOCK.RESET (R276, R335) -/

theorem findLock_some {kind index : Nat} {l : LockRec} {s : State} (h : findLock kind index s = some l) :
    l.kind.toNat = kind ∧ l.index.toNat = index := by
  have := List.find?_some h
  simpa using this

theorem handleLockReset_clears {p : Port} {tag : Half} {kind index : Byte} {token : Word} {l : LockRec} {g1 g2 : Bool} {s : State}
    (found : findLock kind.toNat index.toNat s = some l) (press : validPress (lockArmMs p s) s = some (g1, g2))
    (gone : causeGone l g1 g2 s = true) :
    handleLockReset p tag (wordsBytes [lockWord kind index, token]) s = (.done, clearLock p l s) := by
  obtain ⟨top, k, x⟩ := fld_lockWord kind index
  have good : firstBad [lockWord kind index, token] [rsvd 0 31 16] = none := by
    simp [firstBad, FieldRule.holds, rsvd, nth, top]
  rw [handleLockReset, bytesWords_wordsBytes, checked_none good, show nth [lockWord kind index, token] 0 = lockWord kind index from rfl,
    k, x, found]
  dsimp only
  rw [press]
  exact if_pos gone

/-- A state with the four parts that LOCK.RESET may change taken from another. -/
def withLockParts (s u : State) : State := { u with hif := s.hif, fram := s.fram, io := s.io, ice := s.ice }

theorem clearLock_unmarked (p : Port) (l : LockRec) (s u : State) :
    (withLockParts s (clearLock p l u)).unmarked = (withLockParts s u).unmarked := by
  have marked := congrArg (withLockParts s) (touchBlocks_unmarked [56] (spendToken p 0x0901 u))
  simp only [withLockParts, State.unmarked, clearLock, writeFramBlocks, actAfter, record, emit, spendToken, State.updPort,
    State.updHif, State.updFram, State.updIo, State.updIce] at marked ⊢
  exact marked

@[simp] theorem takeCommand_actions (p : Port) (s : State) : (takeCommand p s).hif.actions = s.hif.actions := by
  cases p <;> rfl

@[simp] theorem touchBlocks_io (bs : List Nat) (s : State) : (touchBlocks bs s).io = s.io := by
  unfold touchBlocks
  split <;> rfl

@[simp] theorem touchBlocks_tb (bs : List Nat) (s : State) : (touchBlocks bs s).tb = s.tb := by
  unfold touchBlocks
  split <;> rfl

section
variable (p : Port) (l : LockRec) (s : State)

theorem clearLock_fram : (clearLock p l s).fram = { s.fram with locks := s.fram.locks.erase l } := by
  simp [clearLock, actAfter, record, emit, spendToken, State.updPort]

theorem clearLock_io : (clearLock p l s).io = { s.io with ack := { s.io.ack with done := none } } := by
  simp [clearLock, actAfter, record, emit, writeFramBlocks, spendToken, State.updPort]

theorem clearLock_ice : (clearLock p l s).ice = (record 0x0204 3 (portSrc p) l.kind.toNat l.index.toNat l.cause.toNat 0 s).ice :=
  record_ice (by simp [writeFramBlocks, spendToken, State.updPort]) (by simp [writeFramBlocks, spendToken, State.updPort]) ..

theorem clearLock_actions : (clearLock p l s).hif.actions =
    s.hif.actions ++ [(.lockReset, p, (s.port p).resps.length + 1, s.tb.ms)] := by
  cases p <;> simp [clearLock, actAfter, record, emit, writeFramBlocks, spendToken, State.updPort, State.port, State.updHif] <;> rfl

theorem clearLock_port : (clearLock p l s).port p = { s.port p with tokens := (s.port p).tokens.filter fun x => x.opcode ≠ 0x0901 } := by
  cases p <;> simp [clearLock, actAfter, record, emit, writeFramBlocks, spendToken, State.updPort, State.port, State.updHif]

end

/-- Settles O19. -/
theorem lockResetClearsRecord : Obligations.LockResetClearsRecord := by
  intro p tag kind index token l g1 g2 s hr found press gone
  have hc : hostCommand (.lockReset p tag kind index token) = some ⟨p, 0x0902, tag, wordsBytes [lockWord kind index, token]⟩ := rfl
  have arm : lockArmMs p (takeCommand p s) = lockArmMs p s := by
    simp only [lockArmMs, takeCommand_port, flushWaiting_tokens]
  have run : rowHandler (.lockReset p tag kind index token) 0x0902 p tag (wordsBytes [lockWord kind index, token]) (takeCommand p s) =
      (.done, clearLock p l (takeCommand p s)) :=
    handleLockReset_clears (tag := tag) (s := takeCommand p s) found (by rw [arm]; exact press) gone
  obtain ⟨k, x⟩ := findLock_some found
  have answer := answers_responded hc hr run
  rw [responded_plain rfl] at answer
  refine ⟨_, answer, clearLock_fram p l (takeCommand p s), clearLock_io p l (takeCommand p s), ?_, ?_, ?_, ?_⟩
  · rw [queueResponse_port, clearLock_port, takeCommand_port]
    refine (responded_actions ⟨p, 0x0902, tag, []⟩ .done (clearLock p l (takeCommand p s))).trans ?_
    rw [clearLock_actions, takeCommand_port, takeCommand_actions, List.length_append]
    rfl
  · rw [queueResponse_port, clearLock_port, takeCommand_port]
    rfl
  · rw [← k, ← x]
    exact (clearLock_ice p l (takeCommand p s)).trans (record_ice rfl rfl ..)
  · exact clearLock_unmarked p l s (takeCommand p s)

end Sys2Proof.Proofs
end

section
/-! SUPPORT. Configuration commands (R77, R86, R96, R101, R154, R190, R247, R350, R367, R385): O20, O21, O22. -/
namespace Sys2Proof.Proofs
open Sys2Proof.Machine

/-- What sees neither the ports nor the Ice Core sees through the response. -/
theorem responded_view {α : Type} (view : State → α) (blind : ∀ (u : State) f g, view ((u.updIce f).updHif g) = view u)
    (c : HostCommand) (r : Reply) (u : State) : view (responded c r u) = view u := by
  obtain ⟨f, hf⟩ := recordConfig_updIce c.port c.op c.payload r u
  rw [responded, hf, queueResponse, State.updPort]
  exact blind u f _

/-! ### Elements of a vector -/

theorem vget_vmod_same {α : Type} {n : Nat} (v : Vector α n) (d : α) {i : Nat} (h : i < n) (f : α → α) :
    vget (vmod v i f) d i = f v[i] := by
  simp [vget, vmod, h]

theorem vget_vmod_other {α : Type} {n : Nat} (v : Vector α n) (d : α) {i j : Nat} (h : j ≠ i) (f : α → α) :
    vget (vmod v i f) d j = vget v d j := by
  unfold vget vmod
  split
  · rw [Vector.getElem?_set_ne _ (Ne.symm h)]
  · rfl

theorem task_updTask_same {s : State} {n : Nat} (h : n < 8) (f : TaskSt → TaskSt) : (s.updTask n f).task n = f (s.task n) := by
  refine (vget_vmod_same s.tasks.t .fresh h f).trans ?_
  simp [State.task, vget, h]

theorem task_updTask_other {s : State} {n m : Nat} (h : m ≠ n) (f : TaskSt → TaskSt) : (s.updTask n f).task m = s.task m :=
  vget_vmod_other s.tasks.t .fresh h f

/-! ### Records that are stored -/

theorem taskWrite_stores {n : Nat} {r : Word} {s : State} (locked : taskEn r = true → s.tasks.enLocked = false)
    (loads : ∀ b, s.prog.active = some b → loadRefused b (s.taskRecords.set n r) = false) :
    taskWrite n r s = (.done, setTaskRecord n r s) := by
  have free : ¬ (taskEn r && s.tasks.enLocked) = true := by
    rw [Bool.and_eq_true]
    exact fun h => absurd h.2 (ne_true_of_eq_false (locked h.1))
  rw [taskWrite, if_neg free]
  dsimp only
  split
  · next b active => exact if_neg (ne_true_of_eq_false (loads b active))
  · rfl

theorem handleTwinCfg_stores {record : List Word} (bits : fld (nth record 0) 31 30 ≤ 2) (zero : fld (nth record 0) 29 16 = 0)
    (low : 1 ≤ fld (nth record 0) 15 0) (high : fld (nth record 0) 15 0 ≤ 0xFFFE) (early : 200 ≤ fld (nth record 1) 31 16)
    (late : fld (nth record 1) 31 16 ≤ 20000) (rest : fld (nth record 1) 15 2 = 0) (p : Port) (tag : Half) (s : State) :
    handleTwinCfg p tag (wordsBytes record) s =
      (.done, if tst (nth record 1) 1 then
          (s.updTwin fun t => { t with w0 := nth record 0, w1 := nth record 1 &&& 0xFFFF0000 }).updKeys fun k =>
            { k with wrapT := some (keyAt record 2) }
        else s.updTwin fun t => { t with w0 := nth record 0, w1 := nth record 1 &&& 0xFFFF0000 }) := by
  rw [handleTwinCfg, bytesWords_wordsBytes]
  exact refuseAt_all (by simp [within, *]) _ _

theorem floeWrite_stores {record : List Word} {s : State} (fits : roundsFit (roundMs record) s.taskRecords = true) :
    floeWrite record s = (.done, (s.updFloe fun f => { f with cfg := record.take 4 }).updKeys (loadFloeKeys record)) :=
  if_neg (by rw [fits]; decide)

theorem fld_canNum (ch : CanCh) : canOf (fld (at32 0 (canNum ch)) 0 0) = ch := by cases ch <;> rfl

/-- A CAN record is loaded, or waits for the frame in progress (R385). -/
def canConfigured (ch : CanCh) (record : List Word) (s : State) : State :=
  if (s.can ch).wait.isSome then s.updCan ch fun c => { c with wait := some (.load record) }
  else afterFrame ch (.load record) (loadCan ch record) s

theorem handleCanCfg_configures {ch : CanCh} {record : List Word} {s : State}
    (fits : ((canChecks (at32 0 (canNum ch) :: record)).all fun x => x.2.2) = true)
    (loopback : fld (nth record 0) 28 27 = 2 → s.mstate = .test) (p : Port) (tag : Half) :
    handleCanCfg p tag (wordsBytes (at32 0 (canNum ch) :: record)) s = (.done, canConfigured ch record s) := by
  have allowed : ¬ (fld (nth (at32 0 (canNum ch) :: record) 1) 28 27 = 2 ∧ s.mstate ≠ .test) := fun h => h.2 (loopback h.1)
  rw [handleCanCfg, bytesWords_wordsBytes, if_neg allowed, refuseAt_all fits,
    show nth (at32 0 (canNum ch) :: record) 0 = at32 0 (canNum ch) from rfl, fld_canNum]
  rfl

/-- A CAN channel into which a record has been loaded (R367). -/
def canLoaded (record : List Word) (c : CanSt) : CanSt :=
  { c with cfg := record, st := .stopped, integrating := tst (nth record 0) 31, tec := 0, recv := 0, oneShot := 0, cur := none,
           wait := none }

/-- A CAN channel whose record waits for the frame in progress (R385). -/
def canWaits (record : List Word) (c : CanSt) : CanSt := { c with wait := some (.load record) }

/-- The state in which `k` free values have been drawn and a channel changed by `f`, its buffers by `g` (R385). -/
def canChanged (ch : CanCh) (f : CanSt → CanSt) (g : Mem → Mem) (k : Nat) (s : State) : State :=
  ((s.updFreeCtr fun n => n + k).updCan ch f).updXsram g

section
variable (ch : CanCh) (f : CanSt → CanSt) (g : Mem → Mem) (k : Nat) (s : State)

theorem canChanged_ice : (canChanged ch f g k s).ice = s.ice := by cases ch <;> rfl

theorem canChanged_tb : (canChanged ch f g k s).tb = s.tb := by cases ch <;> rfl

theorem canChanged_xsram : (canChanged ch f g k s).xsram = g s.xsram := by cases ch <;> rfl

theorem canChanged_can : (canChanged ch f g k s).can ch = f (s.can ch) := by cases ch <;> rfl

theorem canChanged_other {d : CanCh} (h : d ≠ ch) : (canChanged ch f g k s).can d = s.can d := by
  cases ch <;> cases d <;> first | rfl | exact absurd rfl h

theorem canChanged_frame (h : HostIf) (j : Ice) (c1 c2 : CanSt) (x : Mem) (n : Nat) :
    { canChanged ch f g k s with hif := h, ice := j, can1 := c1, can2 := c2, xsram := x, freeCtr := n } =
      { s with hif := h, ice := j, can1 := c1, can2 := c2, xsram := x, freeCtr := n } := by
  cases ch <;> simp only [canChanged, State.updCan, State.updCan1, State.updCan2, State.updFreeCtr, State.updXsram]

end

/-- What the configuration of a CAN channel does: it loads the record, or waits. -/
theorem canConfigured_ways (ch : CanCh) (record : List Word) (s : State) :
    (∃ k, canConfigured ch record s = canChanged ch (canLoaded record) (canBuffers (canBase ch) record) k s) ∧
        (s.can ch).wait.isSome = false ∨
      (∃ k, canConfigured ch record s = canChanged ch (canWaits record) id k s) ∧
        (onBus (s.can ch) = true ∨ (s.can ch).wait.isSome = true) := by
  unfold canConfigured
  split
  · next waits => exact .inr ⟨⟨0, rfl⟩, .inr waits⟩
  · next free =>
    rw [Bool.not_eq_true] at free
    unfold afterFrame
    split
    · exact .inl ⟨⟨0, rfl⟩, free⟩
    · next bus =>
      dsimp only [drawFree]
      split
      · exact .inr ⟨⟨1, rfl⟩, .inl (by simpa using bus)⟩
      · exact .inl ⟨⟨1, rfl⟩, free⟩

/-- A command that a configuration row's handler carries out by `f` on what it finds. -/
theorem configured {i : Instr} {c : HostCommand} {s u : State} (hc : hostCommand i = some c) (hr : ready i s = true)
    (run : rowHandler i c.op c.port c.tag c.payload (takeCommand c.port s) = (.done, u)) (ice : u.ice = s.ice)
    (time : u.tb.tb.ns = s.tb.tb.ns) : answers i .done s (responded c .done u) ∧ configRecorded i s (responded c .done u) :=
  ⟨answers_responded hc hr run, configRecorded_responded hc ice time rfl⟩

theorem canConfigured_answers {i : Instr} {c : HostCommand} {ch : CanCh} {f : CanSt → CanSt} {g : Mem → Mem} {k : Nat} {s : State}
    (hc : hostCommand i = some c) (hr : ready i s = true)
    (run : rowHandler i c.op c.port c.tag c.payload (takeCommand c.port s) = (.done, canChanged ch f g k (takeCommand c.port s))) :
    ∃ t, answers i .done s t ∧ configRecorded i s t ∧ t.can ch = f (s.can ch) ∧ (∀ d, d ≠ ch → t.can d = s.can d) ∧
      t.xsram = g s.xsram ∧
      { t with hif := s.hif, ice := s.ice, can1 := s.can1, can2 := s.can2, xsram := s.xsram, freeCtr := s.freeCtr } = s := by
  obtain ⟨answer, recorded⟩ := configured hc hr run (canChanged_ice ..) (congrArg (fun x : TimeBase => x.tb.ns) (canChanged_tb ..))
  have can : ∀ d, (takeCommand c.port s).can d = s.can d := fun d => by cases d <;> rfl
  refine ⟨_, answer, recorded, ?_, fun d hd => ?_, ?_, ?_⟩
  · refine (responded_view (fun t => t.can ch) (fun _ _ _ => rfl) ..).trans ?_
    rw [canChanged_can, can]
  · refine (responded_view (fun t => t.can d) (fun _ _ _ => rfl) ..).trans ?_
    rw [canChanged_other _ _ _ _ _ hd, can]
  · refine (responded_view State.xsram (fun _ _ _ => rfl) ..).trans ?_
    rw [canChanged_xsram]
    rfl
  · refine (responded_view (fun t =>
      { t with hif := s.hif, ice := s.ice, can1 := s.can1, can2 := s.can2, xsram := s.xsram, freeCtr := s.freeCtr })
      (fun _ _ _ => rfl) ..).trans ?_
    rw [canChanged_frame]
    simp only [takeCommand, State.updPort, State.updHif]

/-- Settles O20. -/
theorem configurationIsStored : Obligations.ConfigurationIsStored := by
  intro p tag s
  refine ⟨fun task r hr fits out locked loads => ?task, fun record hr fits => ?io,
    fun record hr bits zero low high early late rest => ?twin, fun record hr fits out rounds => ?floe, fun record hr fits => ?arb,
    fun ch record hr fits loopback => ?can⟩
  case task =>
    have hc : hostCommand (.taskCfg p tag task r) = some ⟨p, 0x0201, tag, _⟩ := rfl
    have run := (handleTaskCfg_phase p tag 0 0 task r (takeCommand p s) fits).trans
      ((if_neg (ne_true_of_eq_false out)).trans (taskWrite_stores locked loads))
    obtain ⟨answer, recorded⟩ := configured hc hr run rfl rfl
    refine ⟨_, answer, recorded, ?_, fun n hn => ?_, ?_⟩
    · refine (responded_view (fun t => (t.task task.toNat).cfg) (fun _ _ _ => rfl) ..).trans ?_
      rw [setTaskRecord, task_updTask_same task.isLt]
    · refine (responded_view (fun t => t.task n) (fun _ _ _ => rfl) ..).trans ?_
      rw [setTaskRecord, task_updTask_other hn]
      rfl
    · refine (responded_view (fun t => { t with hif := s.hif, ice := s.ice, tasks := s.tasks }) (fun _ _ _ => rfl) ..).trans ?_
      simp only [setTaskRecord, State.updTask, State.updTasks, takeCommand, State.updPort, State.updHif]
  case io =>
    have hc : hostCommand (.ioCfg p tag record) = some ⟨p, 0x0202, tag, _⟩ := rfl
    have run : handleIoCfg p tag (wordsBytes record) (takeCommand p s) =
        (.done, (takeCommand p s).updIo fun x => { x with cfg := record }) := by
      rw [handleIoCfg, bytesWords_wordsBytes]
      exact refuseAt_all fits ..
    obtain ⟨answer, recorded⟩ := configured hc hr run rfl rfl
    refine ⟨_, answer, recorded, ?_, ?_⟩
    · refine (responded_view State.io (fun _ _ _ => rfl) ..).trans ?_
      rfl
    · refine (responded_view (fun t => { t with hif := s.hif, ice := s.ice, io := s.io }) (fun _ _ _ => rfl) ..).trans ?_
      simp only [State.updIo, takeCommand, State.updPort, State.updHif]
  case twin =>
    have hc : hostCommand (.twinCfg p tag record) = some ⟨p, 0x0A01, tag, _⟩ := rfl
    have run := handleTwinCfg_stores bits zero low high early late rest p tag (takeCommand p s)
    obtain ⟨answer, recorded⟩ := configured hc hr run (by split <;> rfl) (by split <;> rfl)
    refine ⟨_, answer, recorded, ?_, ?_, ?_⟩
    · refine (responded_view State.twin (fun _ _ _ => rfl) ..).trans ?_
      split <;> rfl
    · refine (responded_view State.keys (fun _ _ _ => rfl) ..).trans ?_
      split <;> rfl
    · refine (responded_view (fun t => { t with hif := s.hif, ice := s.ice, twin := s.twin, keys := s.keys }) (fun _ _ _ => rfl) ..).trans ?_
      split <;> simp only [State.updTwin, State.updKeys, takeCommand, State.updPort, State.updHif]
  case floe =>
    have hc : hostCommand (.floeCfg p tag record) = some ⟨p, 0x0B01, tag, _⟩ := rfl
    have run := (handleFloeCfg_phase p tag 0 0 record (takeCommand p s) fits).trans
      ((if_neg (ne_true_of_eq_false out)).trans (floeWrite_stores rounds))
    obtain ⟨answer, recorded⟩ := configured hc hr run rfl rfl
    refine ⟨_, answer, recorded, ?_, ?_, ?_⟩
    · refine (responded_view State.floe (fun _ _ _ => rfl) ..).trans ?_
      rfl
    · refine (responded_view State.keys (fun _ _ _ => rfl) ..).trans ?_
      rfl
    · refine (responded_view (fun t => { t with hif := s.hif, ice := s.ice, floe := s.floe, keys := s.keys }) (fun _ _ _ => rfl) ..).trans ?_
      simp only [State.updFloe, State.updKeys, takeCommand, State.updPort, State.updHif]
  case arb =>
    have hc : hostCommand (.arbCfg p tag record) = some ⟨p, 0x0C01, tag, _⟩ := rfl
    have run : handleArbCfg p tag (wordsBytes record) (takeCommand p s) =
        (.done, (takeCommand p s).updFabric fun x => { x with arbRec := record, arbLive := record }) := by
      rw [handleArbCfg, bytesWords_wordsBytes]
      exact checked_none fits ..
    obtain ⟨answer, recorded⟩ := configured hc hr run rfl rfl
    refine ⟨_, answer, recorded, ?_, ?_⟩
    · refine (responded_view State.fabric (fun _ _ _ => rfl) ..).trans ?_
      rfl
    · refine (responded_view (fun t => { t with hif := s.hif, ice := s.ice, fabric := s.fabric }) (fun _ _ _ => rfl) ..).trans ?_
      simp only [State.updFabric, takeCommand, State.updPort, State.updHif]
  case can =>
    have hc : hostCommand (.canCfg p tag ch record) = some ⟨p, 0x0D01, tag, _⟩ := rfl
    have run := handleCanCfg_configures (s := takeCommand p s) fits loopback p tag
    have can : ∀ d, (takeCommand p s).can d = s.can d := fun d => by cases d <;> rfl
    rcases canConfigured_ways ch record (takeCommand p s) with ⟨⟨k, e⟩, free⟩ | ⟨⟨k, e⟩, busy⟩
    · obtain ⟨t, answer, recorded, same, other, xsram, frame⟩ := canConfigured_answers hc hr (run.trans (congrArg _ e))
      rw [can] at free
      exact ⟨t, answer, recorded, .inl ⟨same, xsram⟩, fun _ _ => same, fun waits => absurd waits (ne_true_of_eq_false free), other, frame⟩
    · obtain ⟨t, answer, recorded, same, other, xsram, frame⟩ := canConfigured_answers hc hr (run.trans (congrArg _ e))
      rw [can] at busy
      refine ⟨t, answer, recorded, .inr ⟨same, xsram⟩, fun idle none => ?_, fun _ => same, other, frame⟩
      rcases busy with bus | full
      · exact absurd bus (ne_true_of_eq_false idle)
      · rw [none] at full
        cases full

end Sys2Proof.Proofs
end

section
/-! SUPPORT. What SERVICE accepts of TASK.CFG and FLOE.CFG (R31, R77, R86, R190): O21; TIME.SET (R96, R101): O22. -/
namespace Sys2Proof.Proofs
open Sys2Proof.Machine

/-! ### TASK.CFG in SERVICE -/

/-- The state in which a task's record is written and the task stopped. -/
def taskStopped (n : Nat) (r : Word) (s : State) : State := (setTaskRecord n r s).updTask n fun t => { t with stopped := true }

theorem taskStopped_same {n : Nat} (h : n < 8) (r : Word) (s : State) :
    (taskStopped n r s).task n = { s.task n with cfg := r, stopped := true } := by
  rw [taskStopped, task_updTask_same h, setTaskRecord, task_updTask_same h]

theorem taskStopped_other {n m : Nat} (h : m ≠ n) (r : Word) (s : State) : (taskStopped n r s).task m = s.task m := by
  rw [taskStopped, task_updTask_other h, setTaskRecord, task_updTask_other h]

theorem taskStopped_mstate (n : Nat) (r : Word) (s : State) :
    (taskStopped n r s).mstate = s.mstate ∧ (taskStopped n r s).eff = s.eff := ⟨rfl, rfl⟩

theorem leaveService_tasks (new : MState) (s : State) : (leaveService new s).tasks = s.tasks := by
  have entered := enterEff_frame new (finishImages (fun _ => true) (fun _ => true) s)
  have copies := finishImages_copies (fun _ => true) (fun _ => true) s
  exact (congrArg State.tasks entered :).trans (congrArg State.tasks (show _ = s from copies) :)

theorem taskClear_last {n : Nat} {r : Word} {s : State} (last : ((List.range 8).any fun k => taskEn ((taskStopped n r s).task k).cfg) = false) :
    taskClear n r s = leaveService .startup ((taskStopped n r s).updTasks fun t => { t with enLocked := true }) :=
  if_neg (ne_true_of_eq_false last)

theorem taskClear_more {n : Nat} {r : Word} {s : State} (more : ((List.range 8).any fun k => taskEn ((taskStopped n r s).task k).cfg) = true) :
    taskClear n r s = taskStopped n r s := if_pos more

theorem taskClear_task (n : Nat) (r : Word) (s : State) (m : Nat) : (taskClear n r s).task m = (taskStopped n r s).task m := by
  cases any : (List.range 8).any fun k => taskEn ((taskStopped n r s).task k).cfg with
  | true => rw [taskClear_more any]
  | false =>
    rw [taskClear_last any, State.task, leaveService_tasks]
    rfl

/-- Settles O21. -/
theorem serviceConfigurationExecutes : Obligations.ServiceConfigurationExecutes := by
  intro p tag token s service
  refine ⟨fun task r hr clears fits => ?task, fun record hr loads fits => ?floe⟩
  case task =>
    have hc : hostCommand (.taskCfgExecute p tag token task r) = some ⟨p, 0x0201, tag, _⟩ := rfl
    have run := (handleTaskCfg_phase p tag 2 token task r (takeCommand p s) fits).trans
      (if_pos ((Bool.and_eq_true ..).mpr ⟨service, clears⟩))
    have answer := answers_responded hc hr run
    have off : taskEn r = false := by
      simp only [clearsEn, Bool.and_eq_true, Bool.not_eq_eq_eq_not, Bool.not_true] at clears
      exact clears.1.2
    generalize hv : spendToken p 0x0201 (takeCommand p s) = v at answer
    have stays : v.mstate = s.mstate ∧ v.eff = s.eff := by
      rw [← hv]
      exact ⟨rfl, rfl⟩
    have tasks : ∀ n, v.task n = s.task n := fun n => by rw [← hv]; rfl
    have view : ∀ n, ((responded ⟨p, 0x0201, tag, wordsBytes [2, token, at32 0 task.toNat, r]⟩ .done (taskClear task.toNat r v)).task n) =
        (taskStopped task.toNat r v).task n := fun n =>
      (responded_view (fun t => t.task n) (fun _ _ _ => rfl) ..).trans (taskClear_task ..)
    refine ⟨_, answer, ?_, ?_, fun n hn => ?_, fun last => ?_, fun n hn other en => ?_⟩
    · rw [view, taskStopped_same task.isLt]
    · rw [view, taskStopped_same task.isLt]
    · rw [view, taskStopped_other hn, tasks]
    · have none : ((List.range 8).any fun k => taskEn ((taskStopped task.toNat r v).task k).cfg) = false := by
        refine List.any_eq_false.mpr fun k hk => ?_
        by_cases same : k = task.toNat
        · rw [same, taskStopped_same task.isLt]
          simpa using off
        · rw [taskStopped_other same, tasks, last k (List.mem_range.mp hk) same]
          decide
      rw [taskClear_last none]
      refine ⟨(responded_view State.eff (fun _ _ _ => rfl) ..).trans (enterEff_eff .startup _ (by decide)), ?_⟩
      refine (responded_view (fun t => t.tasks.enLocked) (fun _ _ _ => rfl) ..).trans ?_
      rw [leaveService_tasks]
      rfl
    · have some : ((List.range 8).any fun k => taskEn ((taskStopped task.toNat r v).task k).cfg) = true := by
        refine List.any_eq_true.mpr ⟨n, List.mem_range.mpr hn, ?_⟩
        rw [taskStopped_other other, tasks, en]
      rw [taskClear_more some]
      obtain ⟨mstate, eff⟩ := taskStopped_mstate task.toNat r v
      refine ⟨(responded_view State.mstate (fun _ _ _ => rfl) ..).trans (mstate.trans stays.1),
        (responded_view State.eff (fun _ _ _ => rfl) ..).trans ((eff.trans stays.2).trans ?_)⟩
      simpa [State.inService] using service
  case floe =>
    have hc : hostCommand (.floeCfgExecute p tag token record) = some ⟨p, 0x0B01, tag, _⟩ := rfl
    have run := (handleFloeCfg_phase p tag 2 token record (takeCommand p s) fits).trans
      (if_pos ((Bool.and_eq_true ..).mpr ⟨service, loads⟩))
    refine ⟨_, answers_responded hc hr run, (responded_view State.keys (fun _ _ _ => rfl) ..).trans rfl, ?_⟩
    refine (responded_view (fun t => { t with hif := s.hif, ice := s.ice, keys := s.keys }) (fun _ _ _ => rfl) ..).trans ?_
    simp only [spendToken, takeCommand, State.updKeys, State.updPort, State.updHif]

/-! ### TIME.SET -/

theorem timeWord_bits (a b : Bool) : fld (flag 1 a ||| flag 0 b) 31 2 = 0 ∧ tst (flag 1 a ||| flag 0 b) 0 = b ∧
    tst (flag 1 a ||| flag 0 b) 1 = a := by
  cases a <;> cases b <;> decide

theorem dwordOf_words (x : Dword) : dwordOf (hiWord x) (loWord x) = x := dwordOf_hiWord_loWord x

theorem handleTimeSet_loads {setRate setTime : Bool} {time : Dword} {rate : Word} {s : State} (free : s.tb.sync ≠ 1) (free' : s.tb.sync ≠ 2)
    (fits : rate.toInt.natAbs ≤ s.tb.compLimit.toNat) (p : Port) (tag : Half) :
    handleTimeSet p tag (wordsBytes [flag 1 setRate ||| flag 0 setTime, hiWord time, loWord time, rate]) s =
      (.done, s.updTb fun t => { t with tb := loadClock setTime setRate time rate t.tb }) := by
  obtain ⟨top, b0, b1⟩ := timeWord_bits setRate setTime
  have len : (wordsBytes [flag 1 setRate ||| flag 0 setTime, hiWord time, loWord time, rate]).length = 16 := wordsBytes_length _
  have good : firstBad [flag 1 setRate ||| flag 0 setTime, hiWord time, loWord time, rate] [rsvd 0 31 2] = none := by
    simp [firstBad, FieldRule.holds, rsvd, nth, top]
  have within : ¬ (s.tb.compLimit.toNat : Int) < (rate.toInt.natAbs : Int) := by omega
  rw [handleTimeSet, if_pos len, bytesWords_wordsBytes, timeSetLoad, checked_none good, if_neg (fun h => h.elim free free')]
  simp only [nth, List.getD_cons_zero, List.getD_cons_succ, dwordOf_words, b0, b1]
  exact if_neg within

theorem syncRules_hold {sp0 sp1 sp2 sp3 : Word} {floe : List Word}
    (fits : ∀ w ∈ [sp0, sp1, sp2, sp3], fld w 30 24 = 0 ∧ fld w 15 0 < 1000 * roundMs floe) :
    firstBad [0, 0, 0, 0, sp0, sp1, sp2, sp3] (syncRules floe) = none := by
  have f0 := fits sp0 (by simp)
  have f1 := fits sp1 (by simp)
  have f2 := fits sp2 (by simp)
  have f3 := fits sp3 (by simp)
  refine List.find?_eq_none.mpr fun r hr => ?_
  simp only [syncRules, List.range, List.range.loop, List.map_cons, List.map_nil, List.flatMap_cons, List.flatMap_nil, List.cons_append,
    List.nil_append, List.append_nil, List.mem_cons, List.not_mem_nil, or_false] at hr
  have zero : fld (0#32) 31 0 = 0 := by decide
  rcases hr with rfl | rfl | rfl | rfl | rfl | rfl | rfl | rfl | rfl | rfl | rfl | rfl <;>
    simp [FieldRule.holds, rsvd, nth, zero] <;> omega

/-- Settles O22. -/
theorem timeSetLoads : Obligations.TimeSetLoads := by
  intro p tag s
  refine ⟨fun setRate setTime time rate hr free free' fits => ?load, fun sp0 sp1 sp2 sp3 hr fits => ?points⟩
  case load =>
    have hc : hostCommand (.timeSet p tag setRate setTime time rate) = some ⟨p, 0x0301, tag, _⟩ := rfl
    have run := handleTimeSet_loads (s := takeCommand p s) (setRate := setRate) (setTime := setTime) (time := time) free free' fits p tag
    have tb := fun c => responded_view State.tb (fun _ _ _ => rfl) c .done
      ((takeCommand p s).updTb fun t => { t with tb := loadClock setTime setRate time rate t.tb })
    refine ⟨_, answers_responded hc hr run, ?_, ?_, ?_, ?_, ?_, ?_⟩
    iterate 4
      rw [tb]
      cases setTime <;> cases setRate <;> rfl
    · rw [tb]
      rfl
    · refine (responded_view (fun t => { t with hif := s.hif, ice := s.ice, tb := s.tb }) (fun _ _ _ => rfl) ..).trans ?_
      simp only [takeCommand, State.updTb, State.updPort, State.updHif]
  case points =>
    have hc : hostCommand (.timeSetSyncPoints p tag sp0 sp1 sp2 sp3) = some ⟨p, 0x0301, tag, _⟩ := rfl
    have len : ¬ (wordsBytes [0, 0, 0, 0, sp0, sp1, sp2, sp3]).length = 16 := by simp [wordsBytes_length]
    have run : handleTimeSet p tag (wordsBytes [0, 0, 0, 0, sp0, sp1, sp2, sp3]) (takeCommand p s) =
        (.done, (takeCommand p s).updTb fun t =>
          { t with sp := Vector.ofFn fun k : Fin 4 => { t.sp[k] with cfg := nth [0, 0, 0, 0, sp0, sp1, sp2, sp3] (4 + k.val) } }) := by
      rw [handleTimeSet, if_neg len, bytesWords_wordsBytes]
      exact checked_none (syncRules_hold fits) ..
    refine ⟨_, answers_responded hc hr run, fun k => ?_, ?_, ?_⟩
    · refine (responded_view (fun t => t.tb.sp[k]) (fun _ _ _ => rfl) ..).trans ?_
      simp only [State.updTb, Fin.getElem_fin, Vector.getElem_ofFn]
      fin_cases k <;> rfl
    · exact (responded_view (fun t => { t.tb with sp := s.tb.sp }) (fun _ _ _ => rfl) ..).trans rfl
    · refine (responded_view (fun t => { t with hif := s.hif, ice := s.ice, tb := s.tb }) (fun _ _ _ => rfl) ..).trans ?_
      simp only [takeCommand, State.updTb, State.updPort, State.updHif]

end Sys2Proof.Proofs
end

section
/-!
SUPPORT. FLOE.SCHED refuses an empty chunk that is not both first and last, so that an empty last chunk does not end a load that has all
its entries (R205). O23.
-/
namespace Sys2Proof.Proofs
open Sys2Proof.Machine

/-- Two beacons, the STATUS slot of node 0 and a DATA slot of node 1. -/
def fourSlots : List Word :=
  [0, 0x01F41FFE, 0x40, 0xD0000000, 8000, 0x01F41FFF, 0x40, 0xD0000000,
   16000, 0x01F42000, 0x40, 0xC0000000, 24000, 0x01F43001, 0x00050040, 0xD0000000]

/-- The host port has loaded all four entries for mode 2, and its last chunk is still to come. -/
def fourSlotsLoaded : State :=
  { State.reset with mstate := .startup, floe := { State.reset.floe with loads := [(2, { owner := .host, entries := fourSlots })] } }

/-- The empty last chunk is refused with a wrong length. -/
theorem handleFloeSched_emptyLast : handleFloeSched .host 5 (wordsBytes [flag 9 true ||| flag 8 false ||| at32 0 2, 4]) (takeCommand .host fourSlotsLoaded) =
    (.len 0 8, takeCommand .host fourSlotsLoaded) := rfl

/-- Refutes O23: with all entries loaded, an empty last chunk at their end is answered with ERR_LEN and the load goes on. -/
theorem not_schedulesAndModes : ¬ Obligations.SchedulesAndModes := by
  intro h
  have hr : ready (.floeSched .host 5 2 false true 4 []) fourSlotsLoaded = true := by decide +kernel
  have valid : schedRefusal fourSlotsLoaded.floe.cfg (otherModes 2 fourSlotsLoaded.floe) fourSlots = none := by decide +kernel
  obtain ⟨t, answer, -, ended, -⟩ := (h.1 .host 5 2 fourSlotsLoaded).1 false true 4 [] fourSlots hr (.inl rfl)
    (.inr ⟨rfl, _, rfl, rfl, rfl, rfl⟩) (fun _ => valid)
  have hc : hostCommand (.floeSched .host 5 2 false true 4 []) = some ⟨.host, 0x0B02, 5, _⟩ := rfl
  have refused := answers_responded hc hr handleFloeSched_emptyLast
  have same : t = responded _ _ _ := Host.Outcome.next.inj (answer.1.symm.trans refused.1)
  have loads : t.floe.loads = fourSlotsLoaded.floe.loads := by
    rw [same]
    exact responded_view (fun u => u.floe.loads) (fun _ _ _ => rfl) ..
  have gone : Tbl.find t.floe.loads 2 = none := (ended rfl).1
  rw [loads] at gone
  cases gone

end Sys2Proof.Proofs
end

section
/-! SUPPORT. PRG.LOAD and PRG.VERIFY (R72, R104 to R107, R334). O24. -/
namespace Sys2Proof.Proofs
open Sys2Proof.Machine

/-! ### The standby bank -/

@[simp] theorem bank_updBank_same (b : Bool) (f : Bank → Bank) (p : Prog) : (p.updBank b f).bank b = f (p.bank b) := by cases b <;> rfl

theorem bank_updBank_other {b o : Bool} (h : o ≠ b) (f : Bank → Bank) (p : Prog) : (p.updBank b f).bank o = p.bank o := by
  cases b <;> cases o <;> first | rfl | exact absurd rfl h

@[simp] theorem updBank_actBank (b : Bool) (f : Bank → Bank) (p : Prog) : (p.updBank b f).actBank = p.actBank := by cases b <;> rfl

theorem standbyNo_updBank (b : Bool) (f : Bank → Bank) (p : Prog) : (p.updBank b f).standbyNo = p.standbyNo := by
  rw [Prog.standbyNo, updBank_actBank, Prog.standbyNo]

/-- The bank that stands by is not the active one. -/
theorem standbyNo_ne {p : Prog} {o : Bool} (h : p.actBank = some o) : o ≠ p.standbyNo := by
  rw [Prog.standbyNo, h]
  cases o <;> decide

theorem updStandby_prog (f : Bank → Bank) (s : State) : (updStandby f s).prog = s.prog.updBank s.prog.standbyNo f := rfl

theorem updStandby_standby (f : Bank → Bank) (s : State) : (updStandby f s).prog.standby = f s.prog.standby := by
  rw [Prog.standby, updStandby_prog, standbyNo_updBank, bank_updBank_same, Prog.standby]

theorem updStandby_actBank (f : Bank → Bank) (s : State) : (updStandby f s).prog.actBank = s.prog.actBank := updBank_actBank ..

theorem updStandby_active {o : Bool} {s : State} (h : s.prog.actBank = some o) (f : Bank → Bank) :
    (updStandby f s).prog.bank o = s.prog.bank o := bank_updBank_other (standbyNo_ne h) ..

@[simp] theorem port_updStandby (f : Bank → Bank) (s : State) (p : Port) : (updStandby f s).port p = s.port p := by cases p <;> rfl

/-! ### A completion -/

/-- The ports are those of the interface. -/
theorem port_of_hif {s t : State} (h : t.hif = s.hif) (p : Port) : t.port p = s.port p :=
  congrArg (fun i : HostIf => match p with | .host => i.host | .maint => i.maint) h

theorem complete_prog (p : Port) (op tag : Half) (r : Reply) (s : State) : (complete p op tag r s).prog = s.prog :=
  (congrArg State.prog (complete_frame p op tag r s) :)

/-- The completion of an operation that is pending waits for its place. -/
theorem completed_complete {p : Port} {op tag : Half} {r : Reply} {s u : State} (same : u.hif = s.hif) :
    completed p op tag r s (complete p op tag r u) := by
  intro pend
  rw [complete_waiting r (by rwa [port_of_hif same])]
  exact List.mem_append_right _ (List.mem_singleton.mpr rfl)

/-! ### Commands that are not of the configuration -/

/-- A command that is ready and writes no configuration is answered with its handler's reply. -/
theorem answers_queued {i : Instr} {p : Port} {op tag : Half} {payload : List Byte} {s u : State} {r : Reply}
    (hc : hostCommand i = some ⟨p, op, tag, payload⟩) (hr : ready i s = true)
    (run : rowHandler i op p tag payload (takeCommand p s) = (r, u)) (plain : isConfig op payload = false) :
    answers i r s (queueResponse p op tag r u) := by
  have answer := answers_responded hc hr run
  rwa [responded_plain plain] at answer

section
variable (p : Port) (op tag : Half) (r : Reply) (u : State)

/-- What does not see the ports sees through the response. -/
theorem queued_view {α : Type} (view : State → α) (blind : ∀ (u : State) f, view (u.updHif f) = view u) :
    view (queueResponse p op tag r u) = view u := by
  rw [queueResponse, State.updPort]
  exact blind u _

theorem queued_frame (h : HostIf) : { queueResponse p op tag r u with hif := h } = { u with hif := h } := rfl

theorem queued_pend : ((queueResponse p op tag r u).port p).pend = (u.port p).pend := by rw [queueResponse_port]

theorem queued_waiting : ((queueResponse p op tag r u).port p).waiting = (u.port p).waiting := by rw [queueResponse_port]

end

/-! ### PRG.LOAD -/

theorem chunkFlags (i : Nat) (b : Bool) (h : i = 0) : fld (flag i b) 31 1 = 0 ∧ tst (flag i b) 0 = b := by
  subst h
  cases b <;> decide

/-- The state of a bank that holds a file: LOADED once a later chunk has made it whole. -/
def chunkState (first : Bool) (file : List Byte) : BankSt := if first = false ∧ fileTotal file = some file.length then .loaded else .loading

theorem storeChunk_fits {first : Bool} {b : Bank} {data : List Byte} (fits : ∀ n, fileTotal (b.file ++ data) = some n → (b.file ++ data).length ≤ n)
    (s : State) : storeChunk first b data s = (.words [BitVec.ofNat 32 (b.file ++ data).length], updStandby (fun _ =>
      { b with st := chunkState first (b.file ++ data), file := b.file ++ data, loaded := (b.file ++ data).length }) s) := by
  rw [storeChunk, chunkState]
  cases total : fileTotal (b.file ++ data) with
  | none => simp
  | some n =>
    have le := fits n total
    dsimp only
    rw [if_neg (Nat.not_lt.mpr le)]
    cases first <;> simp [eq_comm]

theorem handlePrgLoad_chunk (p : Port) (tag : Half) (first : Bool) (offset : Word) (data : List Byte) (s : State) :
    handlePrgLoad p tag (chunkPayload (flag 0 first) offset data) s =
      if first then
        if s.prog.standby.st = .verifying ∨ s.prog.sched.isSome then (.err .errState, s)
        else if offset.toNat ≠ 0 then (.error .errSeq 0 offset.toNat, s)
        else storeChunk true { Bank.fresh with owner := p } data s
      else if s.prog.standby.st ≠ .loading ∨ s.prog.standby.owner ≠ p then (.err .errState, s)
      else if offset.toNat ≠ s.prog.standby.loaded then (.error .errSeq s.prog.standby.loaded offset.toNat, s)
      else storeChunk false s.prog.standby data s := by
  have w0 : nth (bytesWords (chunkPayload (flag 0 first) offset data)) 0 = flag 0 first := nth_bytesWords (ws := [flag 0 first, offset]) (by simp) data
  have w1 : nth (bytesWords (chunkPayload (flag 0 first) offset data)) 1 = offset := nth_bytesWords (ws := [flag 0 first, offset]) (by simp) data
  have rest : (chunkPayload (flag 0 first) offset data).drop 8 = data := drop_wordsBytes [flag 0 first, offset] data
  obtain ⟨zero, bit⟩ := chunkFlags 0 first rfl
  rw [handlePrgLoad, w0, w1, rest, bit]
  exact refuseAt_all (by simp [within, w0, zero]) ..

/-- What an accepted chunk makes of the standby bank. -/
def loadedBank (p : Port) (first : Bool) (file : List Byte) (b : Bank) : Bank :=
  { (if first then { Bank.fresh with owner := p } else b) with st := chunkState first file, file := file, loaded := file.length }

theorem handlePrgLoad_stores {p : Port} {first : Bool} {offset : Word} {data file : List Byte} {s : State}
    (way : first = true ∧ s.prog.standby.st ≠ .verifying ∧ s.prog.sched = none ∧ offset = 0 ∧ file = data ∨
      first = false ∧ s.prog.standby.st = .loading ∧ s.prog.standby.owner = p ∧
        offset.toNat = s.prog.standby.loaded ∧ file = s.prog.standby.file ++ data)
    (fits : ∀ n, fileTotal file = some n → file.length ≤ n) (tag : Half) :
    handlePrgLoad p tag (chunkPayload (flag 0 first) offset data) s =
      (.words [BitVec.ofNat 32 file.length], updStandby (fun _ => loadedBank p first file s.prog.standby) s) := by
  rw [handlePrgLoad_chunk]
  obtain ⟨rfl, st, sched, rfl, rfl⟩ | ⟨rfl, st, owner, off, rfl⟩ := way
  · rw [if_pos rfl, if_neg (by simp [st, sched]), if_neg (by simp)]
    exact storeChunk_fits (b := { Bank.fresh with owner := p }) fits s
  · rw [if_neg (by simp), if_neg (by simp [st, owner]), if_neg (by simp [off])]
    exact storeChunk_fits fits s

/-! ### The end of a verification -/

/-- The end of a verification: the standby bank as it then is, and the completion of the operation that waits. -/
def verdictGiven (f : Bank → Bank) (c : Option (Port × Half)) (r : Reply) (s : State) : State :=
  match c with
  | some (p, tag) => complete p 0x0402 tag r (updStandby f s)
  | none => updStandby f s

theorem verifyFails_eq (c : Option (Port × Half)) (code : Half) (inDesc : Bool) (off : Nat) (s : State) :
    verifyFails c code inDesc off s = verdictGiven (fun b =>
      { b with st := .invalid, failCode := code, verify := none, slots := List.replicate 8 0 }) c (.words (verdictWords code inDesc off [])) s := by
  cases c <;> rfl

theorem verifyPasses_eq (c : Option (Port × Half)) (slots : List Nat) (s : State) :
    verifyPasses c slots s = verdictGiven (fun b => { b with st := .valid, failCode := 0, verify := none, slots := slots }) c
      (.words (verdictWords 0 false 0 slots)) s := by
  cases c <;> rfl

section
variable (f : Bank → Bank) (c : Option (Port × Half)) (r : Reply) (s : State)

theorem verdictGiven_prog : (verdictGiven f c r s).prog = (updStandby f s).prog := by
  rcases c with _ | ⟨p, tag⟩
  · rfl
  · exact complete_prog ..

theorem verdictGiven_frame : { verdictGiven f c r s with hif := s.hif, prog := s.prog } = s := by
  rcases c with _ | ⟨p, tag⟩
  · rfl
  · exact congrArg (fun u : State => { u with prog := s.prog }) (complete_frame p 0x0402 tag r (updStandby f s))

theorem verdictGiven_standby : (verdictGiven f c r s).prog.standby = f s.prog.standby := by
  rw [verdictGiven_prog, updStandby_standby]

theorem verdictGiven_actBank : (verdictGiven f c r s).prog.actBank = s.prog.actBank := by
  rw [verdictGiven_prog, updStandby_actBank]

/-- The free values drawn aside, only the ports and the banks change. -/
theorem verdictGiven_drawn (n : Nat) : { verdictGiven f c r { s with freeCtr := n } with hif := s.hif, prog := s.prog, freeCtr := s.freeCtr } = s :=
  congrArg (fun u : State => { u with freeCtr := s.freeCtr }) (verdictGiven_frame f c r { s with freeCtr := n })

theorem verdictGiven_completed {p : Port} {tag : Half} (h : c = some (p, tag)) : completed p 0x0402 tag r s (verdictGiven f c r s) := by
  subst h
  exact completed_complete rfl

end

theorem openFailCode_ne (v : BitVec 64) : openFailCode v ≠ 0 := by
  intro h
  have := congrArg BitVec.toNat h
  simp [openFailCode] at this
  omega

theorem exec_verifyComplete {s : State} (hr : s.runs = true) (verifying : s.prog.standby.st = .verifying) (equal : Bool) :
    exec (.verifyComplete equal) s = .next (match s.prog.standby.verdict with
      | some v => verifyFails s.prog.standby.verify v.code v.inDesc v.offset s
      | none => if equal then verifyPasses s.prog.standby.verify s.prog.standby.slotCounts s else nandDiffers s.prog.standby.verify s) :=
  congrArg Host.Outcome.next (if_neg (by simp [hr, verifying]))

/-- Settles O24. -/
theorem programLoadAndVerify : Obligations.ProgramLoadAndVerify := by
  refine ⟨fun p tag first offset data file s hr way fits => ?load, fun p tag s hr st => ?verify, fun equal s hr verifying => ?ends⟩
  case load =>
    have hc : hostCommand (.prgLoad p tag first offset data) = some ⟨p, 0x0401, tag, chunkPayload (flag 0 first) offset data⟩ := rfl
    have run := handlePrgLoad_stores (s := takeCommand p s) way fits tag
    generalize hu : updStandby (fun _ => loadedBank p first file (takeCommand p s).prog.standby) (takeCommand p s) = u at run
    have bank : u.prog.standby = loadedBank p first file s.prog.standby := hu ▸ updStandby_standby _ _
    have prog : (queueResponse p 0x0401 tag (.words [BitVec.ofNat 32 file.length]) u).prog = u.prog := queued_view (view := State.prog) (blind := fun _ _ => rfl) ..
    refine ⟨_, answers_queued hc hr run rfl, ?_⟩
    rw [prog, bank]
    refine ⟨rfl, rfl, ?_, rfl, ?_, fun b hb => ?_, ?_⟩
    · rcases way with ⟨rfl, -⟩ | ⟨rfl, -, owner, -⟩
      · rfl
      · exact owner
    · rw [← hu]
      exact updStandby_actBank ..
    · rw [← hu]
      exact updStandby_active (s := takeCommand p s) hb _
    · rw [← hu]
      simp only [queueResponse, takeCommand, updStandby, State.updProg, State.updPort, State.updHif]
  case verify =>
    have hc : hostCommand (.prgVerify p tag) = some ⟨p, 0x0402, tag, []⟩ := rfl
    have run : handlePrgVerify p tag [] (takeCommand p s) = (.pend, pendStart p 0x0402 tag
        (updStandby (fun b => { b with st := .verifying, verify := some (p, tag) }) (takeCommand p s))) := by
      have way : (takeCommand p s).prog.standby.st = .loaded ∨ (takeCommand p s).prog.standby.st = .valid ∨
        (takeCommand p s).prog.standby.st = .invalid := st
      rw [handlePrgVerify]
      rcases way with h | h | h <;> rw [h]
    refine ⟨_, answers_queued hc hr run rfl, ?_, ?_, ?_⟩
    · exact (queued_view (view := fun t => t.prog.standby) (blind := fun _ _ => rfl) ..).trans (updStandby_standby ..)
    · rw [queued_pend, pendStart, updPort_port]
      rw [port_updStandby, takeCommand_port]
      rfl
    · simp only [queueResponse, takeCommand, pendStart, updStandby, State.updProg, State.updPort, State.updHif]
  case ends =>
    have out := exec_verifyComplete hr verifying equal
    cases verdict : s.prog.standby.verdict with
    | some v =>
      rw [verdict] at out
      refine ⟨_, out.trans (congrArg Host.Outcome.next (verifyFails_eq ..)), verdictGiven_drawn _ _ _ s s.freeCtr, verdictGiven_actBank .., ?_⟩
      rw [verdictGiven_standby]
      refine ⟨rfl, rfl, fun w hw => ?_, fun no => (by cases no), fun no => (by cases no)⟩
      cases hw
      exact ⟨rfl, rfl, fun _ _ h => verdictGiven_completed _ _ _ s h⟩
    | none =>
      rw [verdict] at out
      cases equal with
      | true =>
        refine ⟨_, out.trans (congrArg Host.Outcome.next (verifyPasses_eq ..)), verdictGiven_drawn _ _ _ s s.freeCtr, verdictGiven_actBank .., ?_⟩
        rw [verdictGiven_standby]
        exact ⟨rfl, rfl, fun w hw => (by cases hw), fun _ no => (by cases no),
          fun _ _ => ⟨rfl, rfl, rfl, fun _ _ h => verdictGiven_completed _ _ _ s h⟩⟩
      | false =>
        refine ⟨_, out.trans (congrArg Host.Outcome.next (verifyFails_eq ..)), verdictGiven_drawn .., verdictGiven_actBank .., ?_⟩
        rw [verdictGiven_standby]
        exact ⟨rfl, rfl, fun w hw => (by cases hw), fun _ _ => ⟨rfl, openFailCode_ne _, fun _ _ h pend =>
          ⟨_, verdictGiven_completed _ _ _ (drawFree s).2 h pend⟩⟩, fun _ no => (by cases no)⟩

end Sys2Proof.Proofs
end

section
/-! SUPPORT. The activation of a bank (R108 to R119). O25, O26. -/
namespace Sys2Proof.Proofs
open Sys2Proof.Machine

/-! ### The switch of the banks -/

/-- The banks after the switch to bank b. -/
def switched (b : Bool) (p : Prog) : Prog :=
  let q := match p.actBank with
    | some o => p.updBank o fun x => { x with st := .valid }
    | none => p
  { q.updBank b fun x => { x with st := .active } with actBank := some b, sched := none, remapFrom := some q.active }

/-- The tasks at their first end in a new bank. -/
def renewed (t : Tasks) : Tasks := { t with t := t.t.map fun x => { x with newprg := true } }

theorem takeBank_eq (src : Nat) (b : Bool) (s : State) : takeBank src b s = record 0x0402 2 src (bit b) (s.prog.bank b).programVersion
    s.floe.round 0 (touchBlocks [56] ((s.updProg (switched b)).updTasks renewed)) := rfl

theorem takeBank_parts (src : Nat) (b : Bool) (s : State) :
    (takeBank src b s).prog = switched b s.prog ∧ (takeBank src b s).tasks = renewed s.tasks ∧ 
    { takeBank src b s with prog := s.prog, tasks := s.tasks, ice := s.ice, lanes := s.lanes, twin := s.twin } = s := by
  have marks := touchBlocks_frame [56] ((s.updProg (switched b)).updTasks renewed)
  rw [takeBank_eq]
  refine ⟨(congrArg State.prog marks :), (congrArg State.tasks marks :), ?_⟩
  exact congrArg (fun u : State => { u with prog := s.prog, tasks := s.tasks, ice := s.ice }) marks

theorem switched_actBank (b : Bool) (p : Prog) : (switched b p).actBank = some b := rfl
theorem switched_sched (b : Bool) (p : Prog) : (switched b p).sched = none := rfl

theorem switched_st (b : Bool) (p : Prog) : ((switched b p).bank b).st = .active := by
  rw [switched]
  exact congrArg Bank.st (bank_updBank_same b ..)

/-- The bank that was ACTIVE is VALID, unless it is the new one. -/
theorem switched_old {b o : Bool} {p : Prog} (h : p.actBank = some o) (ne : o ≠ b) : ((switched b p).bank o).st = .valid := by
  rw [switched, h]
  refine congrArg Bank.st ((bank_updBank_other ne ..).trans (bank_updBank_same o ..))

theorem renewed_newprg {s t : State} (h : t.tasks.t = (renewed s.tasks).t) {n : Nat} (hn : n < 8) : (t.task n).newprg = true := by
  rw [State.task, h]
  simp [renewed, vget, hn]

/-! ### The remap -/

theorem sendMsg_frame (mtype prio : Nat) (body : List Byte) (s : State) : { sendMsg mtype prio body s with twin := s.twin } = s := by
  unfold sendMsg
  split <;> rfl

theorem sendMsg_usable {s : State} (h : linkUsable s = true) (mtype prio : Nat) (body : List Byte) :
    sendMsg mtype prio body s = s.updTwin fun t => { t with txQueue := insertMsg prio (twinMessage mtype body s) t.txQueue } :=
  if_neg (by simp [h])

theorem sendStsig_frame (kind id : Nat) (sig : Dword) (s : State) : { sendStsig kind id sig s with twin := s.twin } = s := by
  unfold sendStsig
  split
  · rfl
  · dsimp only
    split
    · exact congrArg (fun u : State => { u with twin := s.twin }) (sendMsg_frame ..)
    · rfl

theorem writeImage_frame (bs : List Nat) (m : Mem) (s : State) :
    { writeImage bs m s with mem := s.mem, lanes := s.lanes, twin := s.twin } = s :=
  congrArg (fun u : State => { u with mem := s.mem }) (touchBlocks_frame (if s.copying then bs ++ (memDiff s.mem m).map imageBlock else []) s)

/-- The state behind a remap's writes, before its signature. -/
def remapWritten (old : Option Bank) (new : Bank) (s : State) : State :=
  let e := remapImage old new s.mem (crc64Fold crc64Init (windowBytes 8 0 s.relRound))
  let s := s.updProg fun p => { p with remapFrom := none }
  let s := writeImage (remapBlocks ++ e.blocks) e.mem s
  let s := s.updXsram (remapSeqs old new)
  let s := s.updTasks fun t => { t with newEls := freshElements old new t.newEls, oc := remapStatus new t.oc }
  s.updFram fun f => reformatHome new (commitAll f)

/-- What a remap signs goes to the link alone, where it was voted. -/
def remapSigned (sig : Dword) (s : State) : State := if voteLost 8 s then takeLost 8 s else sendStsig 8 0 sig s

theorem remapSigned_frame (sig : Dword) (s : State) : { remapSigned sig s with twin := s.twin, voter := s.voter } = s := by
  unfold remapSigned
  split
  · rfl
  · exact congrArg (fun u : State => { u with voter := s.voter }) (sendStsig_frame ..)

theorem remapNow_some {old : Option Bank} {new : Bank} {s : State} (hold : s.prog.remapFrom = some old) (hnew : s.prog.active = some new) :
    remapNow s = remapSigned (finishSig (remapImage old new s.mem (crc64Fold crc64Init (windowBytes 8 0 s.relRound))).sig) (remapWritten old new s) := by
  rw [remapNow, hold, hnew]
  rfl

/-- What a remap leaves: the state beside what it writes into, the banks, and the marks of the tasks. -/
structure Remapped (s t : State) : Prop where
  frame : { t with mem := s.mem, xsram := s.xsram, prog := s.prog, tasks := s.tasks, fram := s.fram, lanes := s.lanes, twin := s.twin,
                   voter := s.voter } = s
  prog : { t.prog with remapFrom := s.prog.remapFrom } = s.prog
  tasks : t.tasks.t = s.tasks.t

theorem remapWritten_remapped (old : Option Bank) (new : Bank) (s : State) : Remapped s (remapWritten old new s) := by
  have image := writeImage_frame (remapBlocks ++ (remapImage old new s.mem (crc64Fold crc64Init (windowBytes 8 0 s.relRound))).blocks)
    (remapImage old new s.mem (crc64Fold crc64Init (windowBytes 8 0 s.relRound))).mem (s.updProg fun p => { p with remapFrom := none })
  constructor
  · exact congrArg (fun u : State => { u with xsram := s.xsram, prog := s.prog, tasks := s.tasks, fram := s.fram, voter := s.voter }) image
  · exact congrArg (fun u : State => { u.prog with remapFrom := s.prog.remapFrom }) image
  · exact (congrArg (fun u : State => u.tasks.t) image :)

theorem remapNow_remapped (s : State) : Remapped s (remapNow s) := by
  cases hold : s.prog.remapFrom with
  | none => 
    rw [remapNow, hold]
    exact ⟨rfl, rfl, rfl⟩
  | some old => 
    cases hnew : s.prog.active with
    | none => 
      rw [remapNow, hold, hnew]
      exact ⟨rfl, rfl, rfl⟩
    | some new =>
      rw [remapNow_some hold hnew]
      obtain ⟨frame, prog, tasks⟩ := remapWritten_remapped old new s
      have signed := fun sig => remapSigned_frame sig (remapWritten old new s)
      constructor
      · exact (congrArg (fun u : State => { u with mem := s.mem, xsram := s.xsram, prog := s.prog, tasks := s.tasks, fram := s.fram, lanes := s.lanes, twin := s.twin, voter := s.voter }) (signed _)).trans frame
      · exact (congrArg (fun u : State => { u.prog with remapFrom := s.prog.remapFrom }) (signed _)).trans prog
      · exact (congrArg (fun u : State => u.tasks.t) (signed _)).trans tasks

/-! ### An execute -/

/-- What a switch at once leaves. -/
theorem switchBank_parts (src : Nat) (b : Bool) (s : State) :
    (switchBank src b s).hif = s.hif ∧ (switchBank src b s).floe = s.floe ∧ (switchBank src b s).tb = s.tb ∧
      (switchBank src b s).prog.actBank = some b ∧ (∀ k, (switchBank src b s).prog.bank k = (switched b s.prog).bank k) ∧
      (switchBank src b s).tasks.t = (renewed s.tasks).t := by
  obtain ⟨prog, tasks, frame⟩ := takeBank_parts src b s
  have remap := remapNow_remapped (takeBank src b s)
  have frame' := remap.frame
  have banks := remap.prog
  have marks := remap.tasks
  rw [prog] at banks
  rw [tasks] at marks
  refine ⟨?_, ?_, ?_, (congrArg Prog.actBank banks :), fun k => (congrArg (fun q : Prog => q.bank k) banks :), marks⟩
  · exact (congrArg State.hif frame' :).trans (congrArg State.hif frame :)
  · exact (congrArg State.floe frame' :).trans (congrArg State.floe frame :)
  · exact (congrArg State.tb frame' :).trans (congrArg State.tb frame :)

/-- An execute that is accepted: its token used up, and its operation pending. -/
def activating (p : Port) (tag : Half) (s : State) : State := pendStart p 0x0403 tag (spendToken p 0x0403 (takeCommand p s))

theorem activating_frame (p : Port) (tag : Half) (h : HostIf) (s : State) : { activating p tag s with hif := h } = { s with hif := h } := by
  simp only [activating, pendStart, spendToken, takeCommand, State.updPort, State.updHif]

theorem activating_pend (p : Port) (tag : Half) (s : State) :
    ((activating p tag s).port p).pend = (s.port p).pend ++ [{ opcode := 0x0403, tag := tag }] := by
  rw [activating, pendStart, updPort_port, spendToken, updPort_port, takeCommand_port]
  rfl

/-- An execute accepted changes the ports alone. -/
theorem activating_hif (p : Port) (tag : Half) (s : State) : ∃ h, activating p tag s = s.updHif (fun _ => h) ∧
    ((s.updHif fun _ => h).port p).pend = (s.port p).pend ++ [{ opcode := 0x0403, tag := tag }] := by
  have same : activating p tag s = s.updHif fun _ => (activating p tag s).hif := activating_frame p tag _ s
  refine ⟨_, same, ?_⟩
  rw [← same, activating_pend]

theorem activatePayload_eq (phase : Nat) (token : Word) (lit desc : Dword) :
    activatePayload phase token lit desc = wordsBytes [at32 0 phase, token, hiWord lit, loWord lit, hiWord desc, loWord desc] := by
  rw [activatePayload, dwordBytes_eq, dwordBytes_eq, ← wordsBytes_append, ← wordsBytes_append]
  rfl

theorem handlePrgActivate_execute {p : Port} {lit desc : Dword} {s : State} (ok : activationRefusal lit desc s = none) (tag : Half) (token : Word) :
    handlePrgActivate p tag (activatePayload 2 token lit desc) (takeCommand p s) =
      if (activating p tag s).inService then (.pend, scheduleActivation p tag lit desc (activating p tag s))
      else (.pend, complete p 0x0403 tag (activationDone (switchBank (portSrc p) s.prog.standbyNo (activating p tag s)))
        (switchBank (portSrc p) s.prog.standbyNo (activating p tag s))) := by
  have phase : phaseRefusal [at32 0 2, token, hiWord lit, loWord lit, hiWord desc, loWord desc] = none := phaseRefusal_execute _
  have ok' : activationRefusal lit desc (takeCommand p s) = none := ok
  have execute : fld (at32 0 2) 7 0 ≠ 1 := by decide
  rw [handlePrgActivate, activatePayload_eq, bytesWords_wordsBytes]
  simp only [phase, nth, List.getD_cons_zero, if_neg execute, activateExecute, List.getD_cons_succ, dwordOf_hiWord_loWord, ok']
  rfl

/-- An activation as it is scheduled or proposed for a port. -/
def asked (p : Port) (tag : Half) (lit desc : Dword) (ok : Bool) (s : State) : Activation :=
  { bank := s.prog.standbyNo, roundA := s.floe.round, client := some (p, tag), confirmed := ok, sent := false, litCrc := lit, descCrc := desc }

theorem scheduleActivation_alone {s : State} (h : s.twin.ps ≠ .paired) (p : Port) (tag : Half) (lit desc : Dword) :
    scheduleActivation p tag lit desc s = setSchedule (asked p tag lit desc true s) s := if_pos h

theorem scheduleActivation_paired {s : State} (h : s.twin.ps = .paired) (usable : linkUsable s = true) (p : Port) (tag : Half) (lit desc : Dword) :
    scheduleActivation p tag lit desc s = (setSchedule (asked p tag lit desc false s) s).updTwin fun t => { t with
      txQueue := insertMsg 3 (twinMessage (if s.isLeader then 0x03 else 0x02) (actBody s.floe.round 0 lit desc) s) t.txQueue } :=
  (if_neg (not_not.mpr h)).trans (sendMsg_usable (s := setSchedule (asked p tag lit desc false s) s) usable ..)

/-! ### The end of an activation -/

/-- The schedule is dropped and its operation completes. -/
def dropped (a : Activation) (code : Code) (group : Nat) (s : State) : State :=
  answerClient a.client (.error code group 0) (s.updProg fun p => { p with sched := none })

theorem dropped_frame (a : Activation) (code : Code) (group : Nat) (s : State) :
    { dropped a code group s with hif := s.hif } = s.updProg fun p => { p with sched := none } := by
  unfold dropped answerClient
  split
  · exact complete_frame ..
  · rfl

theorem abandonActivation_some {s : State} {a : Activation} (h : s.prog.sched = some a) (code : Code) (group : Nat) :
    abandonActivation code group s = record 0x0403 1 (clientSrc a.client) code.value.toNat group 0 0 (dropped a code group s) := by
  rw [abandonActivation, h]
  rfl

/-- What an activation that is abandoned leaves. -/
theorem abandoned {s : State} {a : Activation} (h : s.prog.sched = some a) (code : Code) (group : Nat) :
    (abandonActivation code group s).prog = { s.prog with sched := none } ∧
      (∀ p tag, a.client = some (p, tag) → completed p 0x0403 tag (.error code group 0) s (abandonActivation code group s)) ∧
      { abandonActivation code group s with hif := s.hif, prog := s.prog, ice := s.ice } = s := by
  have frame := dropped_frame a code group s
  rw [abandonActivation_some h]
  refine ⟨(congrArg State.prog frame :), fun p tag hc => ?_, congrArg (fun u : State => { u with prog := s.prog, ice := s.ice }) frame⟩
  rw [dropped, hc]
  have done : completed p 0x0403 tag (.error code group 0) s
    (complete p 0x0403 tag (.error code group 0) (s.updProg fun p => { p with sched := none })) := completed_complete rfl
  intro pend
  have waits := done pend
  cases p <;> exact waits

/-! ### The boundary -/

theorem completeAll_idle {s : State} (idle : ∀ n, n < 8 → s.run n = none) (b : Bank) : completeAll b s = s := by
  have none := idle
  have fold : ∀ l : List Nat, (∀ n ∈ l, n < 8) → l.foldl (fun s t => match s.run t with
      | some c =>
        let s := if c.started then s else beginCycle b t c s
        match s.run t with
        | some c => finishCycle b t c s.now s
        | Option.none => s
      | Option.none => s) s = s := by
    intro l
    induction l with
    | nil => exact fun _ => rfl
    | cons n l ih =>
      intro hl
      rw [List.foldl_cons, none n (hl n (by simp))]
      exact ih fun m hm => hl m (by simp [hm])
  exact fold (List.range 8) fun n hn => List.mem_range.mp hn

theorem recordUnscheduled_frame (s : State) : { recordUnscheduled s with ice := s.ice } = s := by
  unfold recordUnscheduled
  split
  · next b _ =>
    exact foldl_keeps (f := fun u (x : Nat × Nat) => record 0x0703 1 0xFFF x.1 x.2 0 0 u) (P := fun u : State => { u with ice := s.ice } = s)
      (fun _ _ h => h) _ rfl
  · rfl

theorem boundarySwitch_idle {a : Activation} {old : Bank} {s : State} (active : s.prog.active = some old) (idle : ∀ n, n < 8 → s.run n = none)
    (service : s.inService = true) (held : heldDiffers old (s.prog.bank a.bank) s.mem = none) :
    boundarySwitch a s = recordUnscheduled (reportLater a.client (takeBank (clientSrc a.client) a.bank s)) := by
  rw [boundarySwitch, active]
  simp only [completeAll_idle idle, service, held]
  rfl

theorem exec_activationBoundary {a : Activation} {s : State} (hr : s.runs = true) (service : s.inService = true) (sched : s.prog.sched = some a)
    (conf : a.confirmed = true) (early : a.roundA + 5 ≤ s.floe.round) (late : s.floe.round ≤ a.roundA + 1000) (here : atBoundary s = true)
    (valid : (s.prog.bank a.bank).st = .valid) : exec .activationBoundary s = .next (boundarySwitch a s) := by
  have run : exec .activationBoundary s = .next (whileRunning (fun s => match s.prog.sched with
    | some a =>
      if !(a.confirmed && s.inService && decide (a.roundA + 5 ≤ s.floe.round ∧ s.floe.round ≤ a.roundA + 1000) && atBoundary s) then s
      else if (s.prog.bank a.bank).st = .valid then boundarySwitch a s
      else abandonActivation .errBank 0 s
    | none => s) s) := rfl
  rw [run, whileRunning, if_pos hr, sched]
  simp [conf, service, early, late, here, valid]

/-- The leader tells the follower that the confirmation is missing. -/
def toldFollower (a : Activation) (s : State) : State :=
  if s.twin.ps = .paired ∧ s.isLeader then sendMsg 0x03 3 (actBody a.roundA Code.errTwin.value a.litCrc a.descCrc) s else s

theorem toldFollower_frame (a : Activation) (s : State) : { toldFollower a s with twin := s.twin } = s := by
  unfold toldFollower
  split
  · exact sendMsg_frame ..
  · rfl

theorem exec_actConfirmTimeout {a : Activation} {s : State} (hr : s.runs = true) (sched : s.prog.sched = some a) (unconf : a.confirmed = false) :
    exec .actConfirmTimeout s = .next (abandonActivation .errTwin 0 (toldFollower a s)) := by
  have run : exec .actConfirmTimeout s = .next (whileRunning (fun s => match s.prog.sched with
    | some a => if a.confirmed then s else abandonActivation .errTwin 0 (toldFollower a s)
    | none => s) s) := rfl
  rw [run, whileRunning, if_pos hr, sched]
  exact congrArg Host.Outcome.next (if_neg (by simp [unconf]))

/-- Settles O25. -/
theorem activationSwitchesBanks : Obligations.ActivationSwitchesBanks := by
  refine ⟨fun p tag token lit desc s hr ok => ?execute, fun a old s hr service sched conf early late here valid active idle held => ?boundary,
    fun a s hr sched late => ?never, fun a s hr sched unconf => ?missing⟩
  case execute =>
    have hc : hostCommand (.prgActivateExecute p tag token lit desc) = some ⟨p, 0x0403, tag, activatePayload 2 token lit desc⟩ := rfl
    have run := handlePrgActivate_execute (p := p) ok tag token
    obtain ⟨h, same, pend⟩ := activating_hif p tag s
    rw [same] at run
    generalize hv : (s.updHif fun _ => h) = v at run pend
    cases service : s.inService with
    | true =>
      have on : v.inService = true := hv ▸ service
      rw [on, if_pos rfl] at run
      refine ⟨_, answers_queued hc hr run rfl, fun _ alone => ?_, fun _ paired usable => ?_, fun no => (by cases no)⟩
      · have alone' : v.twin.ps ≠ .paired := hv ▸ alone
        rw [scheduleActivation_alone alone', queued_pend]
        refine ⟨?_, ?_, ?_⟩
        · exact (queued_view (view := State.prog) (blind := fun _ _ => rfl) ..).trans (hv ▸ rfl)
        · rw [← pend, setSchedule]
          cases p <;> rfl
        · refine (queued_view (view := fun t => { t with hif := s.hif, prog := s.prog }) (blind := fun _ _ => rfl) ..).trans ?_
          rw [← hv]
          rfl
      · have paired' : v.twin.ps = .paired := hv ▸ paired
        have usable' : linkUsable v = true := hv ▸ usable
        rw [scheduleActivation_paired paired' usable', queued_pend]
        refine ⟨?_, ?_, ?_, ?_⟩
        · exact (queued_view (view := State.prog) (blind := fun _ _ => rfl) ..).trans (hv ▸ rfl)
        · exact (queued_view (view := State.twin) (blind := fun _ _ => rfl) ..).trans (hv ▸ rfl)
        · rw [← pend, setSchedule]
          cases p <;> rfl
        · refine (queued_view (view := fun t => { t with hif := s.hif, prog := s.prog, twin := s.twin }) (blind := fun _ _ => rfl) ..).trans ?_
          rw [← hv]
          rfl
    | false =>
      have off : v.inService ≠ true := hv ▸ ne_true_of_eq_false service
      rw [if_neg off] at run
      refine ⟨_, answers_queued hc hr run rfl, fun no => (by cases no), fun no => (by cases no), fun _ => ?_⟩
      obtain ⟨hif, floe, tb, act, banks, tasks⟩ := switchBank_parts (portSrc p) s.prog.standbyNo v
      have prog : v.prog = s.prog := hv ▸ rfl
      have marks : v.tasks = s.tasks := hv ▸ rfl
      rw [prog] at banks
      generalize switchBank (portSrc p) s.prog.standbyNo v = w at hif floe tb act banks tasks
      have progs : (queueResponse p 0x0403 tag .pend (complete p 0x0403 tag (activationDone w) w)).prog = w.prog :=
        (queued_view (view := State.prog) (blind := fun _ _ => rfl) ..).trans (complete_prog ..)
      rw [progs, queued_waiting]
      refine ⟨act, ?_, fun o ho => ?_, fun n hn => ?_, ?_⟩
      · rw [banks, switched_st]
      · rw [banks, switched_old ho (standbyNo_ne ho)]
      · refine renewed_newprg (s := v) ?_ hn
        refine Eq.trans ?_ tasks
        exact (queued_view (view := fun t => t.tasks.t) (blind := fun _ _ => rfl) ..).trans
          (congrArg (fun u : State => u.tasks.t) (complete_frame p 0x0403 tag (activationDone w) w) :)
      · have round : activationDone w = activationOk s.floe.round s.tb.tb.ns := by
          rw [activationDone, floe, tb, ← hv]
          rfl
        rw [complete_waiting _ (by rw [port_of_hif hif, pend]; simp), round]
        simp
  case boundary =>
    refine ⟨_, (exec_activationBoundary hr service sched conf early late here valid).trans
      (congrArg Host.Outcome.next (boundarySwitch_idle active idle service held)), ?_⟩
    obtain ⟨prog, tasks, frame⟩ := takeBank_parts (clientSrc a.client) a.bank s
    have floe : (takeBank (clientSrc a.client) a.bank s).floe = s.floe := (congrArg State.floe frame :)
    have tb : (takeBank (clientSrc a.client) a.bank s).tb = s.tb := (congrArg State.tb frame :)
    have mem : (takeBank (clientSrc a.client) a.bank s).mem = s.mem := (congrArg State.mem frame :)
    generalize takeBank (clientSrc a.client) a.bank s = w at prog tasks floe tb mem
    have noted := recordUnscheduled_frame (reportLater a.client w)
    have banks : (recordUnscheduled (reportLater a.client w)).prog = { switched a.bank s.prog with
        report := a.client.map fun c => (c, s.floe.round, s.tb.tb.ns) } := by
      refine (congrArg State.prog noted :).trans ?_
      rw [← prog, ← floe, ← tb]
      rfl
    rw [banks]
    refine ⟨rfl, switched_st .., rfl, rfl, ?_, fun n hn => ?_⟩
    · exact (congrArg State.mem noted :).trans mem
    · exact renewed_newprg (s := s) ((congrArg (fun u : State => u.tasks.t) noted :).trans (congrArg Tasks.t tasks)) hn
  case never =>
    obtain ⟨prog, done, frame⟩ := abandoned sched .errNoBoundary 0
    refine ⟨_, ?_, prog, done, frame⟩
    have run : exec .activationNoBoundary s = .next (whileRunning (fun s => match s.prog.sched with
      | some a => if a.roundA + 1000 < s.floe.round then abandonActivation .errNoBoundary 0 s else s
      | none => s) s) := rfl
    rw [run, whileRunning, if_pos hr, sched]
    exact congrArg Host.Outcome.next (if_pos late)
  case missing =>
    have told : exec .actConfirmTimeout s = .next (abandonActivation .errTwin 0 (toldFollower a s)) := exec_actConfirmTimeout hr sched unconf
    have frame := toldFollower_frame a s
    have hif : (toldFollower a s).hif = s.hif := (congrArg State.hif frame :)
    have prog : (toldFollower a s).prog = s.prog := (congrArg State.prog frame :)
    obtain ⟨banks, done, rest⟩ := abandoned (s := toldFollower a s) (by rw [prog]; exact sched) .errTwin 0
    have twin : (abandonActivation .errTwin 0 (toldFollower a s)).twin = (toldFollower a s).twin := (congrArg State.twin rest :)
    refine ⟨_, told, by rw [banks, prog], fun p tag hc pend => done p tag hc ?_, ?_, fun no => ?_, fun paired leader usable => ?_⟩
    · rwa [port_of_hif hif]
    · exact (congrArg (fun u : State => { u with hif := s.hif, prog := s.prog, ice := s.ice, twin := s.twin }) rest :).trans
        (congrArg (fun u : State => { u with hif := s.hif, prog := s.prog, ice := s.ice }) frame)
    · rw [twin, toldFollower, if_neg no]
    · rw [twin, toldFollower, if_pos ⟨paired, leader⟩, sendMsg_usable usable]
      rfl

/-! ### Over the link -/

/-- The state that has noted the MSEQ of an accepted message. -/
def noted (f : List Byte) (s : State) : State := s.updTwin fun x =>
  { x with rxSeq := some (msgWord (frameMessage f) 1),
           mseqGap := if 1 < mseqAhead s.twin (msgWord (frameMessage f) 1) then satInc 0xFFFF x.mseqGap else x.mseqGap }

theorem onMessage_noted {t : Nat} {f : List Byte} {act : List Byte → State → State} {s : State} (h : accepted t f s = true) :
    onMessage t f act s = act (msgBody (frameMessage f)) (noted f s) := onMessage_accepted h

/-- A schedule is taken and the partner told. -/
theorem scheduled_sent (mtype : Nat) (body : List Byte) (a : Activation) (f : List Byte) (s : State) :
    (sendMsg mtype 3 body (setSchedule a (noted f s))).prog = { s.prog with sched := some a } ∧
      (linkUsable s = true → (sendMsg mtype 3 body (setSchedule a (noted f s))).twin.txQueue =
        insertMsg 3 (twinMessage mtype body s) s.twin.txQueue) ∧
      { sendMsg mtype 3 body (setSchedule a (noted f s)) with twin := s.twin, prog := s.prog } = s := by
  have frame := sendMsg_frame mtype 3 body (setSchedule a (noted f s))
  refine ⟨(congrArg State.prog frame :), fun usable => ?_, congrArg (fun u : State => { u with twin := s.twin, prog := s.prog }) frame⟩
  rw [sendMsg_usable (s := setSchedule a (noted f s)) usable]
  rfl

/-- The state without an activation that waits for its confirmation. -/
def unscheduledOf (s : State) : State :=
  match s.prog.sched with
  | some a => if a.confirmed then s else s.updProg fun p => { p with sched := none }
  | none => s

theorem unscheduledOf_waits {s : State} (h : ∀ a, s.prog.sched = some a → a.confirmed = false) :
    unscheduledOf s = s.updProg fun p => { p with sched := none } := by
  unfold unscheduledOf
  cases sched : s.prog.sched with
  | none => exact congrArg (fun x => s.updProg fun p => { p with sched := x }) sched
  | some a => exact if_neg (by simp [h a sched])

theorem actProposed_eq {b : List Byte} {s : State} (follow : ¬(s.twin.ps ≠ .paired ∨ s.isLeader = true)) (good : wordAt b 1 = 0) :
    actProposed b s = match activationRefusal (bodyLit b) (bodyDesc b) (unscheduledOf s) with
      | some r => abandonActivation .errTwin 0 (sendMsg 0x04 3 (actBody (wordAt b 0).toNat r.code.value (bodyLit b) (bodyDesc b)) s)
      | none => sendMsg 0x04 3 (actBody (wordAt b 0).toNat 0 (bodyLit b) (bodyDesc b))
        (setSchedule { bank := s.prog.standbyNo, roundA := (wordAt b 0).toNat, client := waitingClient s, confirmed := false,
                       sent := true, litCrc := bodyLit b, descCrc := bodyDesc b } s) := by
  rw [actProposed, if_neg follow, if_neg (not_not.mpr good)]
  rfl

/-- Settles O26. -/
theorem activationOverTheLink : Obligations.ActivationOverTheLink := by
  refine ⟨fun f s acc paired leader => ?forward, fun f s acc paired follows => ?propose, fun f a s acc sched unconf => ?confirm⟩
  case forward =>
    intro b ok
    have run : exec (.actfwd f) s = .next (actForwarded b (noted f s)) := congrArg Host.Outcome.next (onMessage_noted acc)
    have ok' : activationRefusal (bodyLit b) (bodyDesc b) (noted f s) = none := ok
    have lead : ¬((noted f s).twin.ps ≠ .paired ∨ (!(noted f s).isLeader) = true) := fun h => h.elim (fun h => h paired) (fun h => by
      rw [show (noted f s).isLeader = s.isLeader from rfl, leader] at h
      cases h)
    rw [actForwarded, if_neg lead, ok'] at run
    exact ⟨_, run, scheduled_sent ..⟩
  case propose =>
    intro b good waits ok
    have run : exec (.actprop f) s = .next (actProposed b (noted f s)) := congrArg Host.Outcome.next (onMessage_noted acc)
    have follow : ¬((noted f s).twin.ps ≠ .paired ∨ (noted f s).isLeader = true) := fun h => h.elim (fun h => h paired) (fun h => by
      rw [show (noted f s).isLeader = s.isLeader from rfl, follows] at h
      cases h)
    have ok' : activationRefusal (bodyLit b) (bodyDesc b) (unscheduledOf (noted f s)) = none := by
      rw [unscheduledOf_waits (s := noted f s) waits]
      exact ok
    rw [actProposed_eq follow good, ok'] at run
    exact ⟨_, run, scheduled_sent ..⟩
  case confirm =>
    intro b round good
    have run : exec (.actconf f) s = .next (actConfirmed b (noted f s)) := congrArg Host.Outcome.next (onMessage_noted acc)
    have sched' : (noted f s).prog.sched = some a := sched
    rw [actConfirmed, sched'] at run
    dsimp only at run
    rw [if_neg (by simp [unconf, round]), if_neg (not_not.mpr good)] at run
    exact ⟨_, run, rfl, rfl⟩

end Sys2Proof.Proofs
end

section
/-! SUPPORT. FW.STAGE, IMG.READ and HIN.WRITE (R327 to R329, R333, R343). O27. -/
namespace Sys2Proof.Proofs
open Sys2Proof.Machine

/-! ### Words behind words -/

theorem wordAt_append_words (ws : List Word) (data : List Byte) (i : Nat) :
    wordAt (wordsBytes ws ++ data) (ws.length + i) = wordAt data i := by
  have drop : (wordsBytes ws ++ data).drop (4 * (ws.length + i)) = data.drop (4 * i) := by
    rw [Nat.mul_add, ← wordsBytes_length ws, ← List.drop_drop, List.drop_left]
  simp only [wordAt, beAt, slice, drop]

theorem bytesWords_drop (ws : List Word) (data : List Byte) : (bytesWords (wordsBytes ws ++ data)).drop ws.length = bytesWords data := by
  have len : (wordsBytes ws ++ data).length / 4 - ws.length = data.length / 4 := by
    rw [List.length_append, wordsBytes_length]
    omega
  apply List.ext_getElem
  · rw [List.length_drop]
    simp only [bytesWords, List.length_map, List.length_range, len]
  · intro i h1 h2
    simp only [bytesWords, List.getElem_drop, List.getElem_map, List.getElem_range, wordAt_append_words]

theorem getElem_bytesWords {data : List Byte} {k : Nat} (h : k < (bytesWords data).length) : (bytesWords data)[k] = wordAt data k := by
  simp [bytesWords]

/-- A command that is ready has the length of its row. -/
theorem ready_len {i : Instr} {c : HostCommand} {s : State} (hc : hostCommand i = some c) (hr : ready i s = true) :
    lenFault c.op c.payload = none := by
  simp only [ready, hc, Bool.and_eq_true, entryPasses] at hr
  simpa using hr.2.1

/-! ### FW.STAGE -/

theorem stageFlags (last first : Bool) : fld (flag 1 last ||| flag 0 first) 31 2 = 0 ∧ tst (flag 1 last ||| flag 0 first) 0 = first ∧
    tst (flag 1 last ||| flag 0 first) 1 = last := by
  cases last <;> cases first <;> decide

/-- The image after an accepted chunk. -/
def stagedImage (p : Port) (last : Bool) (image : List Byte) (s : State) : State :=
  s.updFw fun f => { f with snow := if last then .staged else .staging, image := image, owner := p }

theorem handleFwStage_stages {p : Port} {first last : Bool} {offset : Word} {data image : List Byte} {s : State}
    (way : first = true ∧ offset = 0 ∧ image = data ∨
      first = false ∧ s.fw.snow = .staging ∧ s.fw.owner = p ∧ offset.toNat = s.fw.image.length ∧ image = s.fw.image ++ data)
    (fits : image.length ≤ 33554432) (tag : Half) :
    handleFwStage p tag (chunkPayload (flag 1 last ||| flag 0 first) offset data) s =
      (.words [BitVec.ofNat 32 image.length], stagedImage p last image s) := by
  have w0 : nth (bytesWords (chunkPayload (flag 1 last ||| flag 0 first) offset data)) 0 = flag 1 last ||| flag 0 first :=
    nth_bytesWords (ws := [flag 1 last ||| flag 0 first, offset]) (by simp) data
  have w1 : nth (bytesWords (chunkPayload (flag 1 last ||| flag 0 first) offset data)) 1 = offset :=
    nth_bytesWords (ws := [flag 1 last ||| flag 0 first, offset]) (by simp) data
  have rest : (chunkPayload (flag 1 last ||| flag 0 first) offset data).drop 8 = data :=
    drop_wordsBytes [flag 1 last ||| flag 0 first, offset] data
  obtain ⟨zero, bit0, bit1⟩ := stageFlags last first
  rw [handleFwStage]
  refine (refuseAt_all (by simp [within, w0, zero]) ..).trans ?_
  rw [w0, w1, rest, bit0, bit1]
  obtain ⟨rfl, rfl, rfl⟩ | ⟨rfl, snow, owner, off, rfl⟩ := way
  · simp only [if_true, List.nil_append]
    rw [if_neg (by simp), if_neg (by simp), if_neg (Nat.not_lt.mpr fits)]
    rfl
  · simp only [Bool.false_eq_true, if_false]
    rw [if_neg (by simp [off]), if_neg (by simp [snow, owner]), if_neg (Nat.not_lt.mpr fits), stagedImage, ← owner]
    rfl

/-! ### IMG.READ -/

theorem imgFault_none {task : BitVec 3} {addr length : Word} (a4 : addr.toNat % 4 = 0) (l4 : length.toNat % 4 = 0) (low : 4 ≤ length.toNat)
    (high : length.toNat ≤ 4080) (inside : addr.toNat + length.toNat ≤ 0x780000) : imgFault [at32 0 task.toNat, addr, length] = none := by
  have full : ∀ w : Word, fld w 31 0 = w.toNat := fun w => by
    simp only [fld, Nat.shiftRight_zero]
    exact Nat.mod_eq_of_lt w.isLt
  have low2 : ∀ w : Word, fld w 1 0 = w.toNat % 4 := fun w => by simp [fld]
  have top : fld (at32 0 task.toNat) 31 3 = 0 := by
    rw [fld_at32]
    have := task.isLt
    omega
  have good : firstBad [at32 0 task.toNat, addr, length] [rsvd 0 31 3, rsvd 1 1 0, ⟨1, 31, 0, 0, imageEnd⟩, rsvd 2 1 0, ⟨2, 31, 0, 4, 4080⟩] =
      none := by
    have bound : addr.toNat ≤ imageEnd := by
      rw [imageEnd]
      omega
    simp [firstBad, FieldRule.holds, rsvd, nth, top, low2, full, a4, l4, low, high, bound]
  rw [imgFault, good]
  exact if_neg (Nat.not_lt.mpr inside)

/-- An image asked for: its operation is pending. -/
def imgAsked (p : Port) (tag : Half) (s : State) : State := pendStart p 0x0601 tag (takeCommand p s)

theorem imgAsked_hif (p : Port) (tag : Half) (s : State) : ∃ h, imgAsked p tag s = s.updHif (fun _ => h) ∧
    ((s.updHif fun _ => h).port p).pend = (s.port p).pend ++ [{ opcode := 0x0601, tag := tag }] ∧ h.imgs = s.hif.imgs := by
  have same : imgAsked p tag s = s.updHif fun _ => (imgAsked p tag s).hif := by
    simp only [imgAsked, pendStart, takeCommand, State.updPort, State.updHif]
  refine ⟨_, same, ?_, by cases p <;> rfl⟩
  rw [← same, imgAsked, pendStart, updPort_port, takeCommand_port]
  rfl

/-- A copy taken at once changes the ports, the SRAM and the marks alone. -/
theorem finishImage_unmarked (w : ImgWait) (h : HostIf) (s : State) :
    State.unmarked { finishImage true 0 w (s.updHif fun _ => h) with hif := s.hif, xsram := s.xsram } = s.unmarked := by
  have done := complete_frame w.port 0x0601 w.tag { code := .ok, payload := imageCopy w true (s.updHif fun _ => h) }
    ((touchBlocks [2128 + (0x44000 + 0x8000 * w.task + 0x1000 * (0 % 8) - 0x40000) / 4096] (s.updHif fun _ => h)).updXsram fun x =>
      memWriteBytes x (0x44000 + 0x8000 * w.task + 0x1000 * (0 % 8)) (imageCopy w true (s.updHif fun _ => h)))
  refine (congrArg (fun u : State => State.unmarked { u with hif := s.hif, xsram := s.xsram }) done).trans ?_
  exact congrArg (fun u : State => { u with hif := s.hif, xsram := s.xsram }) (touchBlocks_unmarked _ (s.updHif fun _ => h))

/-- The operation of a copy taken at once completes with it. -/
theorem finishImage_waiting {w : ImgWait} {s : State} (pend : { opcode := 0x0601, tag := w.tag } ∈ (s.port w.port).pend) :
    completionPacket 0x0601 w.tag { code := .ok, payload := imageCopy w true s } ∈ ((finishImage true 0 w s).port w.port).waiting := by
  have at' : ∀ bs f, ((touchBlocks bs s).updXsram f).port w.port = s.port w.port := fun bs f =>
    port_of_hif (touchBlocks_hif bs s) w.port
  rw [finishImage, complete_waiting _ (by rwa [at'])]
  simp

/-! ### HIN.WRITE -/

/-- Words stored one behind another, each made of what stands there and of its own. -/
def storeWords (f : Nat → Word → Word → Word) (base : Nat) : Nat → List Word → Mem → Mem
  | _, [], x => x
  | j, w :: ws, x => storeWords f base (j + 1) ws (memWriteWord x (base + 4 * j) (f j (memWord x (base + 4 * j)) w))

section
variable (f : Nat → Word → Word → Word) (base : Nat)

theorem foldl_storeWords (ws : List Word) (j : Nat) (x : Mem) :
    ((List.range' j ws.length).zip ws).foldl (fun x e => memWriteWord x (base + 4 * e.1) (f e.1 (memWord x (base + 4 * e.1)) e.2)) x =
      storeWords f base j ws x := by
  induction ws generalizing j x with
  | nil => rfl
  | cons w ws ih => exact ih (j + 1) _

theorem storeWords_outside {x : Mem} (wf : Memory.wf x = true) (ws : List Word) (j : Nat) {y : Nat}
    (out : y < base + 4 * j ∨ base + 4 * (j + ws.length) ≤ y) : memRead (storeWords f base j ws x) y = memRead x y := by
  induction ws generalizing j x with
  | nil => rfl
  | cons w ws ih =>
    simp only [List.length_cons] at out
    rw [storeWords, ih (memWriteWord_wf _ _ wf) (j + 1) (by omega), memWriteWord,
      memRead_memWriteBytes_outside wf _ _ _ (by rw [wordBytes_length]; omega)]

theorem memWord_congr {x y : Mem} {a b : Nat} (h : ∀ i, i < 4 → memRead x (a + i) = memRead y (b + i)) : memWord x a = memWord y b := by
  have h3 : ∀ c : Nat, c + 2 + 1 = c + 3 := fun _ => rfl
  simp [memWord, memHalf, h3, h 1, h 2, h 3, show memRead x a = memRead y b from h 0 (by omega)]

theorem storeWords_at {x : Mem} (wf : Memory.wf x = true) (ws : List Word) (j : Nat) {k : Nat} (hk : k < ws.length) :
    memWord (storeWords f base j ws x) (base + 4 * (j + k)) = f (j + k) (memWord x (base + 4 * (j + k))) ws[k] := by
  induction ws generalizing j x k with
  | nil => exact absurd hk (Nat.not_lt_zero k)
  | cons w ws ih =>
    have wf1 := memWriteWord_wf (base + 4 * j) (f j (memWord x (base + 4 * j)) w) wf
    cases k with
    | zero =>
      refine (memWord_congr fun i hi => storeWords_outside f base wf1 ws (j + 1) (.inl (by omega))).trans ?_
      exact memWord_memWriteWord wf _ _
    | succ k =>
      have later := ih wf1 (j + 1) (k := k) (by simpa using hk)
      rw [show j + 1 + k = j + (k + 1) by omega, memWord_memWriteWord_other wf _ _ _ (by omega)] at later
      exact later

end

/-- A bit below the count is the new one, another stays. -/
theorem hinWord_bit (count first : Nat) (old new : Word) {i : Nat} (hi : i < 32) :
    (hinWord count first old new).getLsbD i = if first + i < count then new.getLsbD i else old.getLsbD i := by
  unfold hinWord
  by_cases whole : 32 ≤ count - first
  · rw [if_pos whole, if_pos (by omega)]
  · have mask : ∀ n, (BitVec.ofNat 32 (2 ^ n - 1)).getLsbD i = decide (i < n) := fun n => by
      rw [BitVec.getLsbD_ofNat, Nat.testBit_two_pow_sub_one, decide_eq_true hi, Bool.true_and]
    rw [if_neg whole]
    simp only [BitVec.getLsbD_or, BitVec.getLsbD_and, BitVec.getLsbD_not, mask, hi]
    by_cases below : first + i < count
    · simp [below, show i < count - first by omega]
    · simp [below, show ¬ i < count - first by omega]

/-- The half not in force, as a copy of the half in force. -/
def hinCopied (s : State) : Mem := memWriteBytes s.xsram (hinBase (!s.hif.hinHalf)) (memBytes s.xsram (hinBase s.hif.hinHalf) 0x2000)

/-- The SRAM after the data. -/
def hinStored (count first : Nat) (ws : List Word) (s : State) : Mem :=
  storeWords (fun j => hinWord count (first + 32 * j)) (hinBase (!s.hif.hinHalf) + 4 * (first / 32)) 0 ws (hinCopied s)

theorem hinStore_eq (count first : Nat) (ws : List Word) (s : State) :
    hinStore count first ws s = (s.updXsram fun _ => hinStored count first ws s).updHif fun h => { h with hinHalf := !h.hinHalf } := by
  rw [hinStored, ← foldl_storeWords, ← List.range_eq_range']
  simp only [hinStore, hinCopied, Nat.mul_add, Nat.add_assoc]

section
variable {s : State} (wf : Memory.wf s.xsram = true)
include wf

theorem hinCopied_wf : Memory.wf (hinCopied s) = true := memWriteBytes_wf _ _ wf

theorem hinCopied_half {i : Nat} (hi : i < 0x2000) :
    memRead (hinCopied s) (hinBase (!s.hif.hinHalf) + i) = memRead s.xsram (hinBase s.hif.hinHalf + i) := by
  rw [hinCopied, memRead_memWriteBytes_inside wf _ _ i (by rw [memBytes, List.length_map, List.length_range]; exact hi)]
  simp [memBytes]

theorem hinCopied_outside {a : Nat} (h : a < hinBase (!s.hif.hinHalf) ∨ hinBase (!s.hif.hinHalf) + 0x2000 ≤ a) :
    memRead (hinCopied s) a = memRead s.xsram a :=
  memRead_memWriteBytes_outside wf _ _ _ (by rw [memBytes, List.length_map, List.length_range]; exact h)

variable {count first n : Nat} {ws : List Word}

theorem hinStored_word {k : Nat} (hk : k < ws.length) : memWord (hinStored count first ws s) (hinBase (!s.hif.hinHalf) + 4 * (first / 32 + k)) =
    hinWord count (first + 32 * k) (memWord (hinCopied s) (hinBase (!s.hif.hinHalf) + 4 * (first / 32 + k))) ws[k] := by
  have at' := storeWords_at (fun j => hinWord count (first + 32 * j)) (hinBase (!s.hif.hinHalf) + 4 * (first / 32)) (hinCopied_wf wf) ws 0 hk
  rwa [Nat.zero_add, Nat.add_assoc, ← Nat.mul_add] at at'

theorem hinStored_outside {a : Nat} (h : a < hinBase (!s.hif.hinHalf) + 4 * (first / 32) ∨
    hinBase (!s.hif.hinHalf) + 4 * (first / 32) + 4 * ws.length ≤ a) : memRead (hinStored count first ws s) a = memRead (hinCopied s) a :=
  storeWords_outside _ _ (hinCopied_wf wf) ws 0 (by omega)

end

theorem hinFault_none {first count : Word} {data : List Word} {s : State} (f32 : first.toNat % 32 = 0) (c32 : count.toNat % 32 = 0)
    (low : 32 ≤ count.toNat) (high : count.toNat ≤ 32704) (inside : first.toNat + count.toNat ≤ roundUp 32 (hinBits s)) :
    hinFault (first :: count :: data) s = none := by
  have full : ∀ w : Word, fld w 31 0 = w.toNat := fun w => by
    simp only [fld, Nat.shiftRight_zero]
    exact Nat.mod_eq_of_lt w.isLt
  have low5 : ∀ w : Word, fld w 4 0 = w.toNat % 32 := fun w => by simp [fld]
  have good : firstBad (first :: count :: data) [rsvd 0 4 0, rsvd 1 4 0, ⟨1, 31, 0, 32, 32704⟩] = none := by
    simp [firstBad, FieldRule.holds, rsvd, nth, low5, full, f32, c32, low, high]
  rw [hinFault, good]
  exact if_neg (Nat.not_lt.mpr inside)

theorem lenFault_hinWrite (payload : List Byte) : lenFault 0x0602 payload = if payload.length < 8 then some 0 else
    match wantedLen 0x0602 payload with
    | some k => if payload.length = k then none else some k
    | none => none := rfl

theorem hinWrite_length {first count : Word} {data : List Byte} (c32 : count.toNat % 32 = 0) (low : 32 ≤ count.toNat) (high : count.toNat ≤ 32704)
    (len : lenFault 0x0602 (wordsBytes [first, count] ++ data) = none) : data.length = count.toNat / 8 := by
  have w1 : wordAt (wordsBytes [first, count] ++ data) 1 = count := wordAt_wordsBytes (ws := [first, count]) (by simp) data
  have wanted : wantedLen 0x0602 (wordsBytes [first, count] ++ data) = some (8 + count.toNat / 8) := by
    simp only [wantedLen]
    rw [w1]
    exact if_pos ⟨c32, low, high⟩
  have eight : (wordsBytes [first, count] ++ data).length = 8 + data.length := by
    rw [List.length_append, wordsBytes_length]
    rfl
  have eq : (wordsBytes [first, count] ++ data).length = 8 + count.toNat / 8 := by
    by_contra ne
    rw [lenFault_hinWrite, if_neg (by omega), wanted] at len
    dsimp only at len
    rw [if_neg ne] at len
    cases len
  omega

/-- Settles O27. -/
theorem imagesAndHostInputs : Obligations.ImagesAndHostInputs := by
  refine ⟨fun p tag first last offset data image s hr way fits => ?stage, fun p tag task addr length s hr a4 l4 low high inside => ?read,
    fun p tag first count data s hr f32 c32 low high inside => ?write⟩
  case stage =>
    have hc : hostCommand (.fwStage p tag first last offset data) =
      some ⟨p, 0x0501, tag, chunkPayload (flag 1 last ||| flag 0 first) offset data⟩ := rfl
    have run := handleFwStage_stages (s := takeCommand p s) (last := last) way fits tag
    refine ⟨_, answers_queued hc hr run rfl, ?_, ?_⟩
    · exact queued_view (view := State.fw) (blind := fun _ _ => rfl) ..
    · refine (queued_view (view := fun t => { t with hif := s.hif, fw := s.fw }) (blind := fun _ _ => rfl) ..).trans ?_
      simp only [takeCommand, stagedImage, State.updFw, State.updPort, State.updHif]
  case read =>
    intro w
    have hc : hostCommand (.imgRead p tag task addr length) = some ⟨p, 0x0601, tag, wordsBytes [at32 0 task.toNat, addr, length]⟩ := rfl
    have number : fld (at32 0 task.toNat) 2 0 = task.toNat := by
      rw [fld_at32]
      have := task.isLt
      omega
    have run : handleImgRead p tag (wordsBytes [at32 0 task.toNat, addr, length]) (takeCommand p s) =
        (.pend, if (imgAsked p tag s).inService then (imgAsked p tag s).updHif fun h => { h with imgs := h.imgs ++ [w] }
          else finishImage true 0 w (imgAsked p tag s)) := by
      rw [handleImgRead, bytesWords_wordsBytes, imgFault_none a4 l4 low high inside]
      simp only [nth, List.getD_cons_zero, List.getD_cons_succ, number]
      rfl
    obtain ⟨h, same, pend, imgs⟩ := imgAsked_hif p tag s
    rw [same] at run
    have eff : (s.updHif fun _ => h).inService = s.inService := rfl
    cases service : s.inService with
    | true =>
      rw [eff, if_pos service] at run
      refine ⟨_, answers_queued hc hr run rfl, ?_, fun _ => ⟨?_, ?_, ?_⟩, fun no => (by cases no)⟩
      · exact congrArg State.unmarked (queued_view (view := fun t => { t with hif := s.hif, xsram := s.xsram }) (blind := fun _ _ => rfl) ..)
      · exact queued_view (view := State.xsram) (blind := fun _ _ => rfl) ..
      · rw [queued_pend, ← pend]
        cases p <;> rfl
      · rw [← imgs]
        cases p <;> rfl
    | false => 
      rw [eff, if_neg (ne_true_of_eq_false service)] at run
      refine ⟨_, answers_queued hc hr run rfl, ?_, fun no => (by cases no), fun _ => ?_⟩
      · refine (congrArg State.unmarked (queued_view (view := fun t => { t with hif := s.hif, xsram := s.xsram }) (blind := fun _ _ => rfl) ..)).trans ?_
        exact finishImage_unmarked w h s
      · rw [queued_waiting]
        exact finishImage_waiting (w := w) (pend ▸ List.mem_append_right _ (List.mem_singleton.mpr rfl))
  case write =>
    have hc : hostCommand (.hinWrite p tag first count data) = some ⟨p, 0x0602, tag, wordsBytes [first, count] ++ data⟩ := rfl
    have words : bytesWords (wordsBytes [first, count] ++ data) = first :: count :: bytesWords data := by
      refine (List.take_append_drop 2 _).symm.trans ?_
      rw [show (2 : Nat) = [first, count].length from rfl, bytesWords_append, bytesWords_drop]
      rfl
    have size : (bytesWords data).length = count.toNat / 32 := by
      have := hinWrite_length c32 low high (ready_len hc hr)
      simp only [bytesWords, List.length_map, List.length_range]
      omega
    have run : handleHinWrite p tag (wordsBytes [first, count] ++ data) (takeCommand p s) =
        (.done, hinStore (hinBits s) first.toNat (bytesWords data) (takeCommand p s)) := by
      rw [handleHinWrite, words, hinFault_none (s := takeCommand p s) f32 c32 low high inside]
      rfl
    have half : (takeCommand p s).hif.hinHalf = s.hif.hinHalf := by cases p <;> rfl
    have stored : hinStored (hinBits s) first.toNat (bytesWords data) (takeCommand p s) = hinStored (hinBits s) first.toNat (bytesWords data) s := by
      simp only [hinStored, hinCopied, half]
      rfl
    rw [hinStore_eq, stored] at run
    refine ⟨_, answers_queued hc hr run rfl, ?_, ?_, ?_⟩
    · refine Eq.trans ?_ (congrArg (! ·) half)
      cases p <;> rfl
    · refine (queued_view (view := fun t => { t with hif := s.hif, xsram := s.xsram }) (blind := fun _ _ => rfl) ..).trans ?_
      simp only [takeCommand, State.updXsram, State.updPort, State.updHif]
    · have sram : ∀ m, (queueResponse p 0x0602 tag .done
          (((takeCommand p s).updXsram fun _ => m).updHif fun h => { h with hinHalf := !h.hinHalf })).xsram = m := fun _ =>
        queued_view (view := State.xsram) (blind := fun _ _ => rfl) ..
      rw [sram]
      refine ⟨fun k hk below wf => ?_, fun k i hk hi bits wf => ?_, fun i hi out wf => ?_, fun a out unwritten wf => ?_⟩
      · have len : k < (bytesWords data).length := by omega
        rw [hinStored_word wf len, getElem_bytesWords, hinWord, if_pos (by omega)]
      · have len : k < (bytesWords data).length := by omega
        rw [hinStored_word wf len, hinWord_bit _ _ _ _ hi, getElem_bytesWords]
        have old : memWord (hinCopied s) (hinBase (!s.hif.hinHalf) + 4 * (first.toNat / 32 + k)) =
            memWord s.xsram (hinBase s.hif.hinHalf + 4 * (first.toNat / 32 + k)) := memWord_congr fun j hj => by
          rw [roundUp] at inside
          rw [Nat.add_assoc, hinCopied_half wf (by omega), Nat.add_assoc]
        rw [old]
      · rw [hinStored_outside wf (by omega), hinCopied_half wf hi]
      · rw [hinStored_outside wf (by omega), hinCopied_outside wf out]

end Sys2Proof.Proofs
end

section
/-!
SUPPORT. The commands of fault collection and of the Ice Core (R285 to R288, R296 to R298). What a fault does outside the ports does not
depend on the mailboxes. O28.
-/
namespace Sys2Proof.Proofs
open Sys2Proof.Machine

/-! ### States that differ in their mailboxes -/

/-- The same state, but for the ports and what the interface remembers; the same images are asked for. -/
def PortsAside (s t : State) : Prop := ∃ h : HostIf, t = s.updHif (fun _ => h) ∧ h.imgs = s.hif.imgs

/-- Such states stay so. -/
def Blind (f : State → State) : Prop := ∀ s t, PortsAside s t → PortsAside (f s) (f t)

theorem PortsAside.refl (s : State) : PortsAside s s := ⟨s.hif, rfl, rfl⟩

theorem PortsAside.frame {s t : State} (a : PortsAside s t) (h : HostIf) : { t with hif := h } = { s with hif := h } := by
  obtain ⟨h', rfl, -⟩ := a
  rfl

theorem Blind.comp {f g : State → State} (hf : Blind f) (hg : Blind g) : Blind fun s => f (g s) := fun s t a => hf _ _ (hg s t a)

/-- A step that leaves the interface alone and does not look at it. -/
theorem Blind.of_commutes {f : State → State} (commutes : ∀ s h, f (s.updHif fun _ => h) = (f s).updHif fun _ => h)
    (same : ∀ s, (f s).hif = s.hif) : Blind f := by
  rintro s t ⟨h, rfl, imgs⟩
  exact ⟨h, commutes s h, by rw [same, imgs]⟩

/-- A step that touches the interface alone, and not the images asked for. -/
theorem Blind.of_ports {f : State → State} (ports : ∀ s, ∃ g : HostIf, f s = s.updHif (fun _ => g) ∧ g.imgs = s.hif.imgs) : Blind f := by
  rintro s t ⟨h, rfl, imgs⟩
  obtain ⟨g, hg, gi⟩ := ports s
  obtain ⟨k, hk, ki⟩ := ports (s.updHif fun _ => h)
  refine ⟨k, by rw [hk, hg]; rfl, ?_⟩
  rw [hg, ki]
  exact imgs.trans gi.symm

theorem Blind.ite {c : State → Prop} [∀ s, Decidable (c s)] {f g : State → State} (same : ∀ s h, c (s.updHif fun _ => h) ↔ c s)
    (hf : Blind f) (hg : Blind g) : Blind fun s => if c s then f s else g s := by
  rintro s t a
  obtain ⟨h, rfl, imgs⟩ := a
  dsimp only
  by_cases hc : c s
  · rw [if_pos hc, if_pos ((same s h).mpr hc)]
    exact hf _ _ ⟨h, rfl, imgs⟩
  · rw [if_neg hc, if_neg (fun k => hc ((same s h).mp k))]
    exact hg _ _ ⟨h, rfl, imgs⟩

theorem complete_imgs (p : Port) (op tag : Half) (r : Reply) (s : State) : (complete p op tag r s).hif.imgs = s.hif.imgs := by
  unfold complete
  split
  · cases p <;> rfl
  · rfl

theorem complete_blind (p : Port) (op tag : Half) (r : Reply) : Blind (complete p op tag r) := .of_ports fun s =>
  ⟨(complete p op tag r s).hif, (congrArg (fun u : State => { u with hif := (complete p op tag r s).hif }) (complete_frame p op tag r s) :),
    complete_imgs ..⟩

/-- A fold of completions changes the ports alone. -/
theorem failPending_ports' (p : Port) (s : State) : failPending p s = s.updHif (fun _ => (failPending p s).hif) ∧
    (failPending p s).hif.imgs = s.hif.imgs :=
  foldl_keeps (f := fun u (o : PendOp) => complete p o.opcode o.tag (.err .errState) u)
    (P := fun u : State => u = s.updHif (fun _ => u.hif) ∧ u.hif.imgs = s.hif.imgs)
    (fun u o h => ⟨((congrArg (fun v : State => { v with hif := (complete p o.opcode o.tag (.err .errState) u).hif })
      (complete_frame p o.opcode o.tag (.err .errState) u) :)).trans
        (congrArg (fun v : State => { v with hif := (complete p o.opcode o.tag (.err .errState) u).hif }) h.1),
      (complete_imgs ..).trans h.2⟩) (s.port p).pend ⟨rfl, rfl⟩

theorem failPending_blind (p : Port) : Blind (failPending p) := .of_ports fun s => ⟨_, failPending_ports' p s⟩

theorem updPort_blind (p : Port) (f : PortSt → PortSt) : Blind (State.updPort p f) := .of_ports fun s => ⟨_, rfl, by cases p <;> rfl⟩

theorem touchBlocks_blind (bs : List Nat) : Blind (touchBlocks bs) :=
  .ite (c := fun s => s.copying = true) (fun _ _ => Iff.rfl) (.of_commutes (fun _ _ => rfl) fun _ => rfl) fun _ _ a => a

theorem updXsram_blind (f : Mem → Mem) : Blind (State.updXsram f) := .of_commutes (fun _ _ => rfl) fun _ => rfl

/-! ### Entry into SAFE -/

theorem finishImage_blind (unpub : Bool) (k : Nat) (w : ImgWait) : Blind (finishImage unpub k w) := by
  rintro s t ⟨h, rfl, imgs⟩
  exact complete_blind w.port 0x0601 w.tag { code := .ok, payload := imageCopy w unpub s } _ _
    (updXsram_blind _ _ _ (touchBlocks_blind _ _ _ ⟨h, rfl, imgs⟩))

theorem foldl_blind {α : Type} {f : State → α → State} (hf : ∀ a, Blind fun s => f s a) (l : List α) : Blind fun s => l.foldl f s := by
  induction l with
  | nil => exact fun _ _ a => a
  | cons x l ih => exact fun s t a => ih _ _ (hf x s t a)

theorem finishImages_blind (p u : ImgWait → Bool) : Blind (finishImages p u) := by
  rintro s t ⟨h, rfl, imgs⟩
  have fold := foldl_blind (fun e : Nat × ImgWait => finishImage_blind (u e.2) e.1 e.2) ((List.range (s.hif.imgs.filter p).length).zip (s.hif.imgs.filter p))
  have same : (finishImages p u (s.updHif fun _ => h)) = ((List.range (s.hif.imgs.filter p).length).zip (s.hif.imgs.filter p)).foldl
      (fun s e => finishImage (u e.2) e.1 e.2 s) ((s.updHif fun _ => h).updHif fun h => { h with imgs := h.imgs.filter fun w => !p w }) := by
    rw [← imgs]
    rfl
  rw [same]
  refine fold _ _ ⟨{ h with imgs := h.imgs.filter fun w => !p w }, rfl, ?_⟩
  exact congrArg (List.filter fun w => !p w) imgs

theorem updCan_blind (ch : CanCh) (f : CanSt → CanSt) : Blind (State.updCan ch f) := by
  cases ch <;> exact .of_commutes (fun _ _ => rfl) fun _ => rfl

theorem drawFree_blind : Blind fun s => (drawFree s).2 := .of_commutes (fun _ _ => rfl) fun _ => rfl

theorem quietCan_blind (ch : CanCh) : Blind (quietCan ch) := by
  have halt : Blind (haltCan ch) := (updXsram_blind (clearTxreq ch)).comp (updCan_blind ch stopCan)
  have later : Blind fun s => if (drawFree s).1.getLsbD 0 = true then (drawFree s).2.updCan ch fun c => { c with wait := some .stop }
      else haltCan ch (drawFree s).2 :=
    .ite (fun _ _ => Iff.rfl) ((updCan_blind ch _).comp drawFree_blind) (halt.comp drawFree_blind)
  exact .ite (c := fun s => (!onBus (s.can ch)) = true) (fun _ _ => by cases ch <;> exact Iff.rfl) halt later

theorem updIo_blind (f : Io → Io) : Blind (State.updIo f) := .of_commutes (fun _ _ => rfl) fun _ => rfl

theorem enterState_blind (new : MState) : Blind (enterState new) := .of_commutes (fun _ _ => rfl) fun _ => rfl

theorem abandonWork_blind : Blind abandonWork := by
  have prog : ∀ f, Blind (State.updProg f) := fun _ => .of_commutes (fun _ _ => rfl) fun _ => rfl
  have twin : ∀ f, Blind (State.updTwin f) := fun _ => .of_commutes (fun _ _ => rfl) fun _ => rfl
  have floe : ∀ f, Blind (State.updFloe f) := fun _ => .of_commutes (fun _ _ => rfl) fun _ => rfl
  have fabric : ∀ f, Blind (State.updFabric f) := fun _ => .of_commutes (fun _ _ => rfl) fun _ => rfl
  exact (fabric _).comp ((floe _).comp ((twin _).comp (prog _)))

theorem abandonAll_blind : Blind abandonAll := (quietCan_blind .can2).comp ((quietCan_blind .can1).comp abandonWork_blind)

theorem endOperations_blind : Blind endOperations := (updPort_blind .maint _).comp ((updPort_blind .host _).comp
  ((failPending_blind .maint).comp ((failPending_blind .host).comp (finishImages_blind (fun _ => true) (fun _ => true)))))

theorem enterSafe_blind : Blind enterSafe := by
  rintro s t ⟨h, rfl, imgs⟩
  by_cases idle : s.mstate = .off ∨ s.mstate = .safe ∨ s.mstate = .frozen
  · have idle' : (s.updHif fun _ => h).mstate = .off ∨ (s.updHif fun _ => h).mstate = .safe ∨ (s.updHif fun _ => h).mstate = .frozen := idle
    rw [enterSafe, enterSafe, if_pos idle, if_pos idle']
    exact ⟨h, rfl, imgs⟩
  · have busy : ¬((s.updHif fun _ => h).mstate = .off ∨ (s.updHif fun _ => h).mstate = .safe ∨ (s.updHif fun _ => h).mstate = .frozen) := idle
    rw [enterSafe_eq s idle, enterSafe_eq _ busy]
    exact enterState_blind .safe _ _ (updIo_blind _ _ _ (abandonAll_blind _ _ (endOperations_blind _ _ ⟨h, rfl, imgs⟩)))

/-! ### A fault of the recorder -/

theorem writeLock_blind (kind index : Nat) (cause : Half) (source : Nat) : Blind (writeLock kind index cause source) := by
  have note : ∀ l sev p0 p1 p2 p3, Blind fun s => record 0x0203 sev source p0 p1 p2 p3 ((touchBlocks [56] s).updFram fun f => { f with locks := f.locks ++ [l] }) :=
    fun l sev p0 p1 p2 p3 s t a => (Blind.of_commutes (f := fun u => record 0x0203 sev source p0 p1 p2 p3 (u.updFram fun f => { f with locks := f.locks ++ [l] }))
      (fun _ _ => rfl) fun _ => rfl) _ _ (touchBlocks_blind [56] s t a)
  rintro s t ⟨h, rfl, imgs⟩
  unfold writeLock
  cases stands : lockStands kind index s with
  | true => exact ⟨h, by rw [if_pos rfl, if_pos (show lockStands kind index (s.updHif fun _ => h) = true from stands)], by rw [if_pos rfl]; exact imgs⟩
  | false =>
    rw [if_neg (by simp), if_neg (show ¬ lockStands kind index (s.updHif fun _ => h) = true from ne_true_of_eq_false stands)]
    exact note _ _ _ _ _ _ _ _ ⟨h, rfl, imgs⟩

theorem updSource_blind (n : Nat) (f : FcuSource → FcuSource) : Blind (State.updSource n f) := .of_commutes (fun _ _ => rfl) fun _ => rfl

theorem record_blind (code : Half) (sev src p0 p1 p2 p3 : Nat) : Blind (record code sev src p0 p1 p2 p3) :=
  .of_commutes (fun _ _ => rfl) fun _ => rfl

/-- The decision on a fault of the recorder, whose target is the recorder itself. -/
theorem decideBase_blind (second : State → State) (code : Nat) (broken forced : Bool) (detail : Word) (specific : Option Half) :
    Blind (decideBase second 0x40 code broken forced detail specific) := by
  have note : ∀ d, Blind (noteFault d 0x40 code broken forced detail) := fun d => .of_commutes (fun _ _ => rfl) fun _ => rfl
  have lock : ∀ cls cause, Blind (lockDecided cls 0x40 cause) := by
    rintro cls cause s t ⟨h, rfl, imgs⟩
    unfold lockDecided
    cases lk : decisionRecord 0x40 cls s with
    | none =>
      rw [show decisionRecord 0x40 cls (s.updHif fun _ => h) = none from lk]
      exact ⟨h, rfl, imgs⟩
    | some k =>
      rw [show decisionRecord 0x40 cls (s.updHif fun _ => h) = some k from lk]
      exact writeLock_blind _ _ _ _ _ _ ⟨h, rfl, imgs⟩
  have effect : ∀ cls, Blind (decisionEffect second cls 0x40 detail) := by
    intro cls s t a
    unfold decisionEffect
    split
    · exact enterSafe_blind s t a
    · split
      · exact Blind.of_commutes (f := fun u => u.updIce fun i => { i with stopped := true }) (fun _ _ => rfl) (fun _ => rfl) s t a
      · exact a
  rintro s t ⟨h, rfl, imgs⟩
  rw [decideBase_eq, decideBase_eq]
  exact effect _ _ _ (lock _ _ _ _ (note _ _ _ ⟨h, rfl, imgs⟩))

theorem changeBase_blind (second : State → State) (code : Nat) (forced : Bool) (detail : Word) (specific : Option Half) (endMs : Nat) :
    Blind (changeBase second 0x40 code forced detail specific endMs) := by
  rintro s t ⟨h, rfl, imgs⟩
  have shown := updSource_blind 0x40 (fun x => { x with rail := usedPattern (s.fcuSource 0x40) }) s _ ⟨h, rfl, imgs⟩
  unfold changeBase
  dsimp only
  rw [show (s.updHif fun _ => h).fcuSource 0x40 = s.fcuSource 0x40 from rfl]
  split
  · exact decideBase_blind _ _ _ _ _ _ _ _ shown
  · split
    · exact record_blind _ _ _ _ _ _ _ _ _ shown
    · exact shown

theorem presentBase_blind (second : State → State) (rails : BitVec 2) (code : Nat) (detail : Word) (specific : Option Half) :
    Blind (presentBase second 0x40 rails code detail specific) := by
  rintro s t ⟨h, rfl, imgs⟩
  have ended := changeBase_blind second 0 false 0 none (activeMs 0x40 s) _ _
    (updSource_blind 0x40 (fun x => { x with real := 1 }) s _ ⟨h, rfl, imgs⟩)
  unfold presentBase
  dsimp only
  rw [show (s.updHif fun _ => h).fcuSource 0x40 = s.fcuSource 0x40 from rfl, show activeMs 0x40 (s.updHif fun _ => h) = activeMs 0x40 s from rfl]
  split
  · exact ⟨h, rfl, imgs⟩
  · refine changeBase_blind _ _ _ _ _ _ _ _ (updSource_blind _ _ _ _ ?_)
    split
    · exact ended
    · exact ⟨h, rfl, imgs⟩

/-- A fault of the recorder leaves states that differ in their mailboxes alone so. -/
theorem raiseOpen_blind (code : Nat) (specific : Option Half) : Blind (raiseOpen 0x40 code specific) := by
  rintro s t ⟨h, rfl, imgs⟩
  exact presentBase_blind raiseNoAgree 2 code _ specific _ _ (drawFree_blind s _ ⟨h, rfl, imgs⟩)

/-! ### The force of a source -/

theorem force_changeBase (src code : Nat) (forced : Bool) (detail : Word) (specific : Option Half) (endMs : Nat) (s : State) :
    ((changeBase raiseNoAgree src code forced detail specific endMs s).fcuSource src).force = (s.fcuSource src).force := by
  have shown : ((s.updSource src fun x => { x with rail := usedPattern (s.fcuSource src) }).fcuSource src).force = (s.fcuSource src).force := by
    rw [fcuSource_updSource_same]
  unfold changeBase
  dsimp only
  split
  · rw [fcuSource_decideBase_same, decidedSource]
    exact shown
  · split
    · exact shown
    · exact shown

theorem force_forceSource (src fclass pattern : Nat) (s : State) :
    ((forceSource src fclass pattern s).fcuSource src).force = (forcePattern pattern).map fun q => (q, BitVec.ofNat 3 fclass) := by
  rw [forceSource, patternChange, force_changeBase, fcuSource_updSource_same]

/-! ### The words of the commands -/

theorem iceOpenWord {minSev : BitVec 4} (nand : Bool) (origin : BitVec 2) :
    fld (at32 4 minSev.toNat ||| flag 2 nand ||| at32 0 origin.toNat) 31 8 = 0 ∧
      fld (at32 4 minSev.toNat ||| flag 2 nand ||| at32 0 origin.toNat) 7 4 = minSev.toNat ∧
      fld (at32 4 minSev.toNat ||| flag 2 nand ||| at32 0 origin.toNat) 3 3 = 0 ∧
      fld (at32 4 minSev.toNat ||| flag 2 nand ||| at32 0 origin.toNat) 1 0 = origin.toNat ∧
      tst (at32 4 minSev.toNat ||| flag 2 nand ||| at32 0 origin.toNat) 2 = nand := by
  revert minSev nand origin
  decide

/-- A number that ends below a field leaves it 0. -/
theorem fld_at32_above {l k n hi lo : Nat} (hn : n < 2 ^ k) (h : l + k ≤ lo) : fld (at32 l n) hi lo = 0 := by
  have lt : n * 2 ^ l < 2 ^ lo := by
    calc n * 2 ^ l < 2 ^ k * 2 ^ l := Nat.mul_lt_mul_of_pos_right hn (Nat.two_pow_pos l)
      _ = 2 ^ (l + k) := by rw [← Nat.pow_add, Nat.add_comm]
      _ ≤ 2 ^ lo := Nat.pow_le_pow_right (by decide) h
  rw [fld_at32, Nat.div_eq_of_lt (lt_of_le_of_lt (Nat.mod_le _ _) lt), Nat.zero_mod]

/-- A number that begins above a field leaves it 0. -/
theorem fld_at32_below {l n hi lo : Nat} (h : hi < l) (top : l ≤ 32) : fld (at32 l n) hi lo = 0 := by
  obtain ⟨d, rfl⟩ : ∃ d, l = hi + 1 + d := ⟨l - (hi + 1), by omega⟩
  by_cases le : lo ≤ hi + 1
  · obtain ⟨e, he⟩ : ∃ e, hi + 1 = lo + e := ⟨hi + 1 - lo, by omega⟩
    have whole : n * 2 ^ (hi + 1 + d) % 2 ^ 32 = 2 ^ lo * (2 ^ e * (n * 2 ^ d % 2 ^ (32 - (lo + e)))) := by
      rw [← Nat.mul_assoc, ← Nat.pow_add, ← he]
      obtain ⟨f, hf⟩ : ∃ f, 32 = hi + 1 + f := ⟨32 - (hi + 1), by omega⟩
      rw [hf, Nat.add_sub_cancel_left, Nat.pow_add, Nat.pow_add 2 (hi + 1) f, ← Nat.mul_mod_mul_left]
      ring_nf
    rw [fld_at32, whole, Nat.mul_div_cancel_left _ (Nat.two_pow_pos lo), he, Nat.add_sub_cancel_left, Nat.mul_mod_right]
  · rw [fld_at32, show hi + 1 - lo = 0 by omega]
    exact Nat.mod_one _

/-- A number that fills a field. -/
theorem fld_at32_field {l k n hi : Nat} (hn : n < 2 ^ k) (h : hi + 1 = l + k) (top : l + k ≤ 32) : fld (at32 l n) hi l = n := by
  have lt : n * 2 ^ l < 2 ^ 32 := by
    calc n * 2 ^ l < 2 ^ k * 2 ^ l := Nat.mul_lt_mul_of_pos_right hn (Nat.two_pow_pos l)
      _ = 2 ^ (l + k) := by rw [← Nat.pow_add, Nat.add_comm]
      _ ≤ 2 ^ 32 := Nat.pow_le_pow_right (by decide) top
  rw [fld_at32, Nat.mod_eq_of_lt lt, Nat.mul_div_cancel _ (Nat.two_pow_pos l), h, Nat.add_sub_cancel_left, Nat.mod_eq_of_lt hn]

theorem fcuReadWord (count : BitVec 9) (first : Byte) :
    fld (at32 16 count.toNat ||| at32 0 first.toNat) 31 25 = 0 ∧ fld (at32 16 count.toNat ||| at32 0 first.toNat) 24 16 = count.toNat ∧
      fld (at32 16 count.toNat ||| at32 0 first.toNat) 15 8 = 0 ∧ fld (at32 16 count.toNat ||| at32 0 first.toNat) 7 0 = first.toNat := by
  have hc := count.isLt
  have hf := first.isLt
  simp only [fld_or]
  refine ⟨?_, ?_, ?_, ?_⟩
  · rw [fld_at32_above hc (by decide), fld_at32_above hf (by decide)]
    rfl
  · rw [fld_at32_field hc (by decide) (by decide), fld_at32_above hf (by decide), Nat.or_zero]
  · rw [fld_at32_below (by decide) (by decide), fld_at32_above hf (by decide)]
    rfl
  · rw [fld_at32_below (by decide) (by decide), fld_at32_field hf (by decide) (by decide), Nat.zero_or]

theorem fcuAckWord (all : Bool) (src : Byte) : fld (flag 31 all ||| at32 0 src.toNat) 30 8 = 0 ∧
    fld (flag 31 all ||| at32 0 src.toNat) 7 0 = src.toNat ∧ tst (flag 31 all ||| at32 0 src.toNat) 31 = all := by
  revert all src
  decide

theorem fcuForceWord {cls : BitVec 3} {pattern : BitVec 2} {src : Byte} :
    fld (at32 12 cls.toNat ||| at32 8 pattern.toNat ||| at32 0 src.toNat) 31 15 = 0 ∧
      fld (at32 12 cls.toNat ||| at32 8 pattern.toNat ||| at32 0 src.toNat) 14 12 = cls.toNat ∧
      fld (at32 12 cls.toNat ||| at32 8 pattern.toNat ||| at32 0 src.toNat) 11 10 = 0 ∧
      fld (at32 12 cls.toNat ||| at32 8 pattern.toNat ||| at32 0 src.toNat) 9 8 = pattern.toNat ∧
      fld (at32 12 cls.toNat ||| at32 8 pattern.toNat ||| at32 0 src.toNat) 7 0 = src.toNat := by
  have hc := cls.isLt
  have hp := pattern.isLt
  have hs := src.isLt
  simp only [fld_or]
  refine ⟨?_, ?_, ?_, ?_, ?_⟩
  · rw [fld_at32_above hc (by decide), fld_at32_above hp (by decide), fld_at32_above hs (by decide)]
    rfl
  · rw [fld_at32_field hc (by decide) (by decide), fld_at32_above hp (by decide), fld_at32_above hs (by decide), Nat.or_zero, Nat.or_zero]
  · rw [fld_at32_below (by decide) (by decide), fld_at32_above hp (by decide), fld_at32_above hs (by decide)]
    rfl
  · rw [fld_at32_below (by decide) (by decide), fld_at32_field hp (by decide) (by decide), fld_at32_above hs (by decide), Nat.zero_or,
      Nat.or_zero]
  · rw [fld_at32_below (by decide) (by decide), fld_at32_below (by decide) (by decide), fld_at32_field hs (by decide) (by decide),
      Nat.zero_or, Nat.zero_or]

/-! ### Their effects -/

/-- The cursor that ICE.OPEN sets. -/
def openedCursor (minSev : Nat) (nand : Bool) (origin : Nat) (start : Word) (i : Ice) : Cursor :=
  { pos := if origin = 2 then start
      else if origin = 0 then (((i.storeOf nand).head?).map IceRec.seq).getD (i.frontier nand)
      else i.frontier nand,
    nand := nand, minSev := minSev }

theorem takeCommand_aside (p : Port) (s : State) : PortsAside s (takeCommand p s) :=
  ⟨(takeCommand p s).hif, by simp only [takeCommand, State.updPort, State.updHif], by cases p <;> rfl⟩

theorem updIce_blind (f : Ice → Ice) : Blind (State.updIce f) := .of_commutes (fun _ _ => rfl) fun _ => rfl

theorem windowEcc_blind (failed : List Word) (c : Cursor) : Blind (windowEcc failed c) :=
  .ite (c := fun s => (!c.nand && s.ice.store.any (fun r => failed.contains r.seq)) = true) (fun _ _ => Iff.rfl)
    (raiseOpen_blind 1 none) fun _ _ a => a

/-- A source that FCU.ACK names and that has unacknowledged classes. -/
def acked (all : Bool) (src : Nat) (e : Nat × FcuSource) : Bool := (all || e.1 == src) && e.2.unack != 0

def acknowledged (all : Bool) (src : Nat) (c : Fcu) : Fcu :=
  { c with sources := c.sources.map fun e => if acked all src e then (e.1, { e.2 with unack := 0 }) else e }

theorem acknowledged_clear {all : Bool} {src : Nat} {c : Fcu} {e : Nat × FcuSource} (h : e ∈ (acknowledged all src c).sources)
    (named : all = true ∨ e.1 = src) : e.2.unack = 0 := by
  obtain ⟨x, -, rfl⟩ := List.mem_map.mp h
  by_cases hit : acked all src x = true
  · rw [if_pos hit]
  · rw [if_neg hit] at named ⊢
    by_contra ne
    exact hit (by simpa [acked, ne] using And.intro named ne)

theorem acknowledged_keeps {all : Bool} {src : Nat} {c : Fcu} {e : Nat × FcuSource} (h : e ∈ c.sources) (one : all = false) (ne : e.1 ≠ src) :
    e ∈ (acknowledged all src c).sources :=
  List.mem_map.mpr ⟨e, h, if_neg (by simp [acked, one, ne])⟩

/-- Settles O28. -/
theorem recorderCommands : Obligations.RecorderCommands := by
  intro p tag s
  refine ⟨fun minSev nand origin start hr sev from' => ?opened, fun count failed c hr le cur => ?read, fun first count hr low high => ?summary,
    fun all src hr zero => ?ack, fun cls pattern src hr le listed => ?force⟩
  case opened =>
    have hc : hostCommand (.iceOpen p tag minSev nand origin start) = some ⟨p, 0x0701, tag, _⟩ := rfl
    obtain ⟨top, sevs, gap, froms, bit⟩ := iceOpenWord (minSev := minSev) nand origin
    have good : firstBad [at32 4 minSev.toNat ||| flag 2 nand ||| at32 0 origin.toNat, start]
        [rsvd 0 31 8, ⟨0, 7, 4, 0, 4⟩, rsvd 0 3 3, ⟨0, 1, 0, 0, 2⟩] = none := by
      simp [firstBad, FieldRule.holds, rsvd, nth, top, sevs, gap, froms, sev, from']
    have run : handleIceOpen p tag (wordsBytes [at32 4 minSev.toNat ||| flag 2 nand ||| at32 0 origin.toNat, start]) (takeCommand p s) =
        (.words (iceWindow s.ice (openedCursor minSev.toNat nand origin.toNat start s.ice) 0).1,
          (takeCommand p s).updIce fun i => i.setCursor p (openedCursor minSev.toNat nand origin.toNat start s.ice)) := by
      rw [handleIceOpen, bytesWords_wordsBytes]
      refine (checked_none good ..).trans ?_
      simp only [nth, List.getD_cons_zero, List.getD_cons_succ, sevs, froms, bit]
      rfl
    refine ⟨_, openedCursor minSev.toNat nand origin.toNat start s.ice, answers_queued hc hr run rfl, ?_, rfl, rfl, fun two => ?_, fun one => ?_,
      fun null => ?_, ?_⟩
    · exact queued_view (view := State.ice) (blind := fun _ _ => rfl) ..
    · rw [openedCursor, if_pos (by rw [two]; rfl)]
    · rw [openedCursor, if_neg (by rw [one]; decide), if_neg (by rw [one]; decide)]
    · rw [openedCursor, if_neg (by rw [null]; decide), if_pos (by rw [null]; rfl)]
    · refine (queued_view (view := fun t => { t with hif := s.hif, ice := s.ice }) (blind := fun _ _ => rfl) ..).trans ?_
      simp only [takeCommand, State.updIce, State.updPort, State.updHif]
  case read => 
    have hc : hostCommand (.iceRead p tag count failed) = some ⟨p, 0x0702, tag, _⟩ := rfl
    intro w
    have full : fld (at32 0 count.toNat) 31 8 = 0 ∧ fld (at32 0 count.toNat) 7 0 = count.toNat :=
      ⟨fld_at32_above count.isLt (by decide), fld_at32_field count.isLt (by decide) (by decide)⟩
    have good : firstBad [at32 0 count.toNat] [rsvd 0 31 8, ⟨0, 7, 0, 0, 120⟩] = none := by
      simp [firstBad, FieldRule.holds, rsvd, nth, full, le]
    have cur' : (takeCommand p s).ice.cursor p = some c := cur
    have run : readWindow failed p tag (wordsBytes [at32 0 count.toNat]) (takeCommand p s) =
        (.words w.1, windowEcc failed c ((takeCommand p s).updIce fun i => i.setCursor p { c with pos := w.2 })) := by
      rw [readWindow, bytesWords_wordsBytes]
      refine (checked_none good ..).trans ?_
      simp only [nth, List.getD_cons_zero, full, cur']
      rfl
    refine ⟨_, answers_queued hc hr run rfl, ?_⟩
    refine (queued_view (view := fun t => { t with hif := s.hif }) (blind := fun _ _ => rfl) ..).trans ?_
    have aside := windowEcc_blind failed c _ _ (updIce_blind (fun i => i.setCursor p { c with pos := w.2 }) _ _ (takeCommand_aside p s))
    have store : (s.updIce fun i => i.setCursor p { c with pos := w.2 }).ice.store = s.ice.store := by cases p <;> rfl
    refine (aside.frame s.hif).trans (congrArg (fun v : State => { v with hif := s.hif }) ?_)
    rw [windowEcc, store]
  case summary =>
    have hc : hostCommand (.fcuRead p tag first count) = some ⟨p, 0x0801, tag, _⟩ := rfl
    obtain ⟨top, counts, gap, firsts⟩ := fcuReadWord count first
    have good : firstBad [at32 16 count.toNat ||| at32 0 first.toNat] [rsvd 0 31 25, ⟨0, 24, 16, 1, 256⟩, rsvd 0 15 8] = none := by
      simp [firstBad, FieldRule.holds, rsvd, nth, top, counts, gap, low, show count.toNat ≤ 256 by omega]
    have run : handleFcuRead p tag (wordsBytes [at32 16 count.toNat ||| at32 0 first.toNat]) (takeCommand p s) =
        (.words (fcuSummary s.fcu ++ fcuEntries s first.toNat count.toNat), takeCommand p s) := by
      rw [handleFcuRead, bytesWords_wordsBytes]
      refine (checked_none good ..).trans ?_
      simp only [nth, List.getD_cons_zero, counts, firsts]
      exact if_neg (Nat.not_lt.mpr high)
    exact ⟨_, answers_queued hc hr run rfl, rfl⟩
  case ack =>
    have hc : hostCommand (.fcuAck p tag all src) = some ⟨p, 0x0802, tag, _⟩ := rfl
    obtain ⟨gap, srcs, bit⟩ := fcuAckWord all src
    have good : firstBad [flag 31 all ||| at32 0 src.toNat] [rsvd 0 30 8, ⟨0, 7, 0, 0, if all then 0 else 255⟩] = none := by
      have lt := src.isLt
      cases all with
      | true =>
        have none : fld (flag 31 true ||| at32 0 src.toNat) 7 0 = 0 := srcs.trans (congrArg BitVec.toNat (zero rfl))
        simp [firstBad, FieldRule.holds, rsvd, nth, gap, none]
      | false => simp [firstBad, FieldRule.holds, rsvd, nth, gap, srcs, show src.toNat ≤ 255 by omega]
    have run : handleFcuAck p tag (wordsBytes [flag 31 all ||| at32 0 src.toNat]) (takeCommand p s) =
        (.words [BitVec.ofNat 32 (s.fcu.sources.filter (acked all src.toNat)).length],
          record 0x0103 0 (portSrc p) (if all then 0x100 else src.toNat) (s.fcu.sources.filter (acked all src.toNat)).length 0 0
            ((takeCommand p s).updFcu (acknowledged all src.toNat))) := by
      rw [handleFcuAck, bytesWords_wordsBytes]
      simp only [nth, List.getD_cons_zero, srcs, bit]
      exact checked_none good ..
    refine ⟨_, _, answers_queued hc hr run rfl, rfl, ?_⟩
    rw [queued_view (view := State.fcu) (blind := fun _ _ => rfl)]
    refine ⟨fun e he hit => ?_, fun e he one ne => ?_, rfl, ?_⟩
    · exact acknowledged_clear he hit
    · exact acknowledged_keeps he one ne
    · refine (queued_view (view := fun t => { t with hif := s.hif, fcu := s.fcu, ice := s.ice }) (blind := fun _ _ => rfl) ..).trans ?_
      simp only [takeCommand, record, emit, State.updFcu, State.updIce, State.updPort, State.updHif]
  case force =>
    have hc : hostCommand (.fcuForce p tag cls pattern src) = some ⟨p, 0x0803, tag, _⟩ := rfl
    obtain ⟨top, clss, gap, patterns, srcs⟩ := fcuForceWord (cls := cls) (pattern := pattern) (src := src)
    have good : firstBad [at32 12 cls.toNat ||| at32 8 pattern.toNat ||| at32 0 src.toNat] [rsvd 0 31 15, ⟨0, 14, 12, 0, 4⟩, rsvd 0 11 10] = none := by
      simp [firstBad, FieldRule.holds, rsvd, nth, top, clss, gap, le]
    have run : handleFcuForce p tag (wordsBytes [at32 12 cls.toNat ||| at32 8 pattern.toNat ||| at32 0 src.toNat]) (takeCommand p s) =
        (.done, forceSource src.toNat cls.toNat pattern.toNat
          (record 0x0104 2 (portSrc p) src.toNat pattern.toNat cls.toNat 0 (takeCommand p s))) := by
      rw [handleFcuForce, bytesWords_wordsBytes]
      simp only [nth, List.getD_cons_zero, clss, patterns, srcs]
      exact (checked_none good ..).trans (if_neg (by simp [listed]))
    refine ⟨_, answers_queued hc hr run rfl, ?_⟩
    refine (congrArg FcuSource.force (queued_view (view := fun t => t.fcuSource src.toNat) (blind := fun _ _ => rfl) ..)).trans ?_
    rw [force_forceSource]
    simp

end Sys2Proof.Proofs
end

section
/-! SUPPORT. ARB.COUNTERS, CVU.RUN and the end of a chain (R340, R351, R360 to R362). O29. -/
namespace Sys2Proof.Proofs
open Sys2Proof.Machine

/-! ### ARB.COUNTERS -/

theorem flatMap_zeros {α : Type} (l : List α) : l.flatMap (fun _ => [(0 : Word), 0, 0]) = List.replicate (3 * l.length) 0 := by
  induction l with
  | nil => rfl
  | cons a l ih => rw [List.flatMap_cons, ih, List.length_cons, Nat.mul_add, Nat.add_comm, List.replicate_add]; rfl

theorem counterWords_clearCounters (f : Fabric) : counterWords (clearCounters f) = List.replicate 36 0 := by
  refine Eq.trans ?_ (flatMap_zeros f.reqs.toList |>.trans (by rw [Vector.length_toList]))
  rw [counterWords, clearCounters, Vector.toList_map, List.flatMap_map]
  rfl

/-! ### The sources of a chain -/

/-- The bytes of the sources of a chain, and the free values they took, from the SRAM and the count of those taken before. -/
def sourcesFrom (ds : List Word) (x : Mem) : Nat → Nat → List (List Byte) × Nat
  | 0, k => ([], k)
  | n + 1, k =>
    let (bs, k) := sourcesFrom ds x n k
    if areaOpen (areaOf (dAddr ds n)) then
      (bs ++ [(List.range (dLen ds n)).map fun i => (Config.freeValue (k + i)).setWidth 8], k + dLen ds n)
    else (bs ++ [memBytes x (dAddr ds n) (dLen ds n)], k)

theorem chainSources_eq (ds : List Word) (n : Nat) (s : State) :
    chainSources ds n s = ((sourcesFrom ds s.xsram n s.freeCtr).1, s.updFreeCtr fun _ => (sourcesFrom ds s.xsram n s.freeCtr).2) := by
  induction n with
  | zero => rfl
  | succ n ih =>
    rw [chainSources, ih, sourcesFrom]
    dsimp only
    unfold sourceBytes
    split <;> rfl

/-- A chain as it starts: its inline data staged, its sources taken. -/
def chainStarted (c : Chain) (rest : List Chain) (s : State) : State :=
  let x := memWriteBytes s.xsram 0x3F000 c.data
  let b := sourcesFrom c.descs x (c.descs.length / 10) s.freeCtr
  ((s.updXsram fun _ => x).updFreeCtr fun _ => b.2).updFabric fun f => { f with chains := { c with snap := some b.1 } :: rest }

theorem startChain_starts {c : Chain} {rest : List Chain} {s : State} (h : s.fabric.chains = c :: rest) (snap : c.snap = none) :
    startChain s = chainStarted c rest s := by
  rw [startChain, h]
  dsimp only
  rw [snap, chainSources_eq]
  rfl

theorem startChain_runs {c : Chain} {rest : List Chain} {s : State} (h : s.fabric.chains = c :: rest) (snap : c.snap ≠ none) :
    startChain s = s := by
  rw [startChain, h]
  exact if_pos (Option.isSome_iff_ne_none.mpr snap)

theorem startChain_empty {s : State} (h : s.fabric.chains = []) : startChain s = s := by
  rw [startChain, h]

/-- What a start leaves: the SRAM, the free values and the oldest chain's sources aside, everything. -/
theorem startChain_parts (s : State) : 
    { startChain s with xsram := s.xsram, freeCtr := s.freeCtr, fabric := s.fabric } = s ∧
      { (startChain s).fabric with chains := s.fabric.chains } = s.fabric ∧
      (startChain s).fabric.chains.drop 1 = s.fabric.chains.drop 1 ∧
      (s.fabric.chains = [] → (startChain s).fabric.chains = []) ∧
      ∀ d, s.fabric.chains.head? = some d → ∃ bs, (startChain s).fabric.chains.head? = some { d with snap := some bs } := by
  cases h : s.fabric.chains with
  | nil => 
    rw [startChain_empty h, h]
    exact ⟨rfl, by rw [← h], rfl, fun _ => rfl, fun d hd => by cases hd⟩
  | cons c rest =>
    cases snap : c.snap with
    | none =>
      rw [startChain_starts h snap, chainStarted]
      refine ⟨rfl, by rw [← h]; rfl, rfl, fun no => (by cases no), fun d hd => ?_⟩
      cases hd
      exact ⟨_, rfl⟩
    | some bs =>
      rw [startChain_runs h (by rw [snap]; simp), h]
      refine ⟨rfl, by rw [← h], rfl, fun no => (by cases no), fun d hd => ⟨bs, ?_⟩⟩
      cases hd
      rw [← snap]
      rfl

/-! ### CVU.RUN -/

theorem cvuRunWord {len n : Nat} (hl : len < 65536) (hn : n < 256) : fld (at32 16 len ||| at32 0 n) 15 8 = 0 ∧
    fld (at32 16 len ||| at32 0 n) 7 0 = n := by
  have l : len < 2 ^ 16 := hl
  have k : n < 2 ^ 8 := hn
  simp only [fld_or]
  refine ⟨?_, ?_⟩
  · rw [fld_at32_below (by decide) (by decide), fld_at32_above k (by decide)]
    rfl
  · rw [fld_at32_below (by decide) (by decide), fld_at32_field k (by decide) (by decide), Nat.zero_or]

/-- A chain as it is queued. -/
def queuedChain (p : Port) (tag : Half) (ds : List Word) (data : List Byte) : Chain :=
  { port := p, tag := tag, descs := ds, data := data, snap := none, stage := 0 }

/-- The state in which a chain is queued and its operation pending. -/
def chainQueued (p : Port) (tag : Half) (ds : List Word) (data : List Byte) (s : State) : State :=
  pendStart p 0x0C10 tag (s.updFabric fun f => { f with chains := f.chains ++ [queuedChain p tag ds data] })

theorem handleCvuRun_queues {ds : List Word} {data : List Byte} (ten : ds.length % 10 = 0) (low : 10 ≤ ds.length) (high : ds.length ≤ 160)
    (len : data.length < 65536) (chain : chainFault ds (ds.length / 10) 0 0 = none) (order : orderFault ds (ds.length / 10) = none)
    (p : Port) (tag : Half) (s : State) :
    handleCvuRun p tag (wordsThen ((at32 16 data.length ||| at32 0 (ds.length / 10)) :: ds) data) s =
      (.pend, startChain (chainQueued p tag ds data s)) := by
  obtain ⟨gap, number⟩ := cvuRunWord len (show ds.length / 10 < 256 by omega)
  have w0 : wordAt (wordsThen ((at32 16 data.length ||| at32 0 (ds.length / 10)) :: ds) data) 0 = at32 16 data.length ||| at32 0 (ds.length / 10) :=
    wordAt_wordsBytes (ws := (at32 16 data.length ||| at32 0 (ds.length / 10)) :: ds) (by simp) data
  have words : (List.range (10 * (ds.length / 10))).map (fun k =>
      wordAt (wordsThen ((at32 16 data.length ||| at32 0 (ds.length / 10)) :: ds) data) (k + 1)) = ds := by
    refine List.ext_getElem (by simp; omega) fun k h1 h2 => ?_
    rw [List.getElem_map, List.getElem_range]
    exact wordAt_wordsBytes (ws := (at32 16 data.length ||| at32 0 (ds.length / 10)) :: ds) (by simp; omega) data
  have rest : (wordsThen ((at32 16 data.length ||| at32 0 (ds.length / 10)) :: ds) data).drop (4 + 40 * (ds.length / 10)) = data := by
    rw [show 4 + 40 * (ds.length / 10) = 4 * ((at32 16 data.length ||| at32 0 (ds.length / 10)) :: ds).length by
      rw [List.length_cons]; omega]
    exact drop_wordsBytes _ data
  have good : firstBad [at32 16 data.length ||| at32 0 (ds.length / 10)] [rsvd 0 15 8, ⟨0, 7, 0, 1, 16⟩] = none := by
    simp [firstBad, FieldRule.holds, rsvd, nth, gap, number]
    omega
  rw [handleCvuRun]
  simp only [w0, number, words, rest]
  refine (checked_none good ..).trans ?_
  rw [chain]
  dsimp only
  rw [order]
  rfl

/-! ### The end of a chain -/

theorem matchFlags_state (ds : List Word) (rs : List (Nat × Option Dword)) (s : State) : { (matchFlags ds rs s).2 with freeCtr := s.freeCtr } = s := by
  induction rs generalizing s with
  | nil => rfl
  | cons r rs ih =>
    obtain ⟨i, r⟩ := r
    cases r with
    | some v => exact ih s
    | none => exact congrArg (fun u : State => { u with freeCtr := s.freeCtr }) (ih (drawFree s).2)

/-- The state in which the oldest chain has left the queue, counted, and the next one has started. -/
def chainLeft (c : Chain) (poisoned : List Nat) (corrected : Nat) (s : State) : State :=
  startChain (s.updFabric fun f =>
    { f with chains := f.chains.drop 1, cvuRuns := satInc 0xFFFFFFFF f.cvuRuns,
             cvuBytes := satAdd 0xFFFFFFFF f.cvuBytes ((List.range (c.descs.length / 10)).foldl (fun a i => a + dLen c.descs i) 0),
             eccUncorr := satAdd 0xFFFF f.eccUncorr poisoned.length, eccCorr := satAdd 0xFFFF f.eccCorr corrected })

/-- The flags of a compare, from the state in which the chain has left. -/
def chainFlags (c : Chain) (poisoned : List Nat) (s : State) : List Bool × State :=
  matchFlags c.descs ((List.range (c.descs.length / 10)).zip (chainResults c !poisoned.isEmpty)) s

theorem exec_cvuChainComplete {c : Chain} {rest : List Chain} {s : State} (hr : s.runs = true) (h : s.fabric.chains = c :: rest)
    (poisoned : List Nat) (corrected : Nat) :
    exec (.cvuChainComplete poisoned corrected) s = .next (endChain c poisoned corrected s) := by
  have run : exec (.cvuChainComplete poisoned corrected) s = .next (match s.fabric.chains with
    | [] => s
    | c :: _ => if fabricRuns s then endChain c poisoned corrected s else s) := rfl
  rw [run, h]
  exact congrArg Host.Outcome.next (if_pos hr)

/-- What the end of a chain leaves before its completion. -/
theorem chainLeft_parts {c : Chain} {rest : List Chain} {s : State} (h : s.fabric.chains = c :: rest) (poisoned : List Nat) (corrected : Nat) :
    { chainLeft c poisoned corrected s with fabric := s.fabric, freeCtr := s.freeCtr, xsram := s.xsram } = s ∧
      { (chainLeft c poisoned corrected s).fabric with chains := s.fabric.chains } =
        { s.fabric with
          cvuRuns := satInc 0xFFFFFFFF s.fabric.cvuRuns,
          cvuBytes := satAdd 0xFFFFFFFF s.fabric.cvuBytes (((List.range (c.descs.length / 10)).map (dLen c.descs)).foldl (· + ·) 0),
          eccUncorr := satAdd 0xFFFF s.fabric.eccUncorr poisoned.length, eccCorr := satAdd 0xFFFF s.fabric.eccCorr corrected } ∧
      (chainLeft c poisoned corrected s).fabric.chains.drop 1 = rest.drop 1 ∧
      (rest = [] → (chainLeft c poisoned corrected s).fabric.chains = []) ∧
      ∀ d, rest.head? = some d → ∃ bs, (chainLeft c poisoned corrected s).fabric.chains.head? = some { d with snap := some bs } := by
  have left : s.fabric.chains.drop 1 = rest := by rw [h]; rfl
  obtain ⟨frame, fabric, drop, empty, head⟩ := startChain_parts (s.updFabric fun f =>
    { f with chains := f.chains.drop 1, cvuRuns := satInc 0xFFFFFFFF f.cvuRuns,
             cvuBytes := satAdd 0xFFFFFFFF f.cvuBytes ((List.range (c.descs.length / 10)).foldl (fun a i => a + dLen c.descs i) 0),
             eccUncorr := satAdd 0xFFFF f.eccUncorr poisoned.length, eccCorr := satAdd 0xFFFF f.eccCorr corrected })
  rw [State.updFabric_fabric] at drop empty head
  simp only [left] at drop empty head
  refine ⟨(congrArg (fun u : State => { u with fabric := s.fabric }) frame :), ?_, drop, empty, head⟩
  rw [List.foldl_map]
  exact (congrArg (fun f : Fabric => { f with chains := s.fabric.chains }) fabric :)

/-- Settles O29. -/
theorem fabricCommands : Obligations.FabricCommands := by
  refine ⟨fun p tag clear s hr => ?counters, fun p tag ds data s hr ten low high len chain order => ?run, fun poisoned corrected c rest s hr h => ?ends⟩
  case counters =>
    have hc : hostCommand (.arbCounters p tag clear) = some ⟨p, 0x0C02, tag, wordsBytes [flag 0 clear]⟩ := rfl
    have bits : fld (flag 0 clear) 31 1 = 0 ∧ tst (flag 0 clear) 0 = clear := chunkFlags 0 clear rfl
    have good : firstBad [flag 0 clear] [rsvd 0 31 1] = none := by
      simp [firstBad, FieldRule.holds, rsvd, nth, bits]
    have run : handleArbCounters p tag (wordsBytes [flag 0 clear]) (takeCommand p s) =
        (.words ([hiWord s.tb.tb.ns, loWord s.tb.tb.ns] ++ counterWords s.fabric ++ [BitVec.ofNat 32 s.fabric.decisions]),
          if clear then (takeCommand p s).updFabric clearCounters else takeCommand p s) := by
      rw [handleArbCounters, bytesWords_wordsBytes]
      refine (checked_none good ..).trans ?_
      rw [show nth [flag 0 clear] 0 = flag 0 clear from rfl, bits.2]
      rfl
    refine ⟨_, answers_queued hc hr run rfl, fun no => ?_, fun yes => ?_, ?_⟩
    · rw [queued_view (view := State.fabric) (blind := fun _ _ => rfl), no]
      rfl
    · rw [queued_view (view := State.fabric) (blind := fun _ _ => rfl), yes, if_pos rfl]
      exact ⟨rfl, counterWords_clearCounters _, rfl⟩
    · refine (queued_view (view := fun t => { t with hif := s.hif, fabric := s.fabric }) (blind := fun _ _ => rfl) ..).trans ?_
      cases clear <;> simp [takeCommand, State.updFabric, State.updPort, State.updHif]
  case run =>
    have hc : hostCommand (.cvuRun p tag ds data) =
      some ⟨p, 0x0C10, tag, wordsThen ((at32 16 data.length ||| at32 0 (ds.length / 10)) :: ds) data⟩ := rfl
    have run := handleCvuRun_queues ten low high len chain order p tag (takeCommand p s)
    have queue : (chainQueued p tag ds data (takeCommand p s)).fabric = { s.fabric with chains := s.fabric.chains ++ [queuedChain p tag ds data] } := rfl
    obtain ⟨frame, -⟩ := startChain_parts (chainQueued p tag ds data (takeCommand p s))
    have hif : (startChain (chainQueued p tag ds data (takeCommand p s))).hif = (chainQueued p tag ds data (takeCommand p s)).hif :=
      (congrArg State.hif frame :)
    refine ⟨_, answers_queued hc hr run rfl, ?_, fun empty => ?_, fun c rest h snap => ?_, ?_⟩
    · rw [queued_pend, port_of_hif hif, chainQueued, pendStart, updPort_port]
      refine (congrArg (fun q : PortSt => q.pend ++ [{ opcode := 0x0C10, tag := tag }]) (show _ = (takeCommand p s).port p from ?_)).trans ?_
      · cases p <;> rfl
      · rw [takeCommand_port]
        rfl
    · have first : (chainQueued p tag ds data (takeCommand p s)).fabric.chains = queuedChain p tag ds data :: [] := by rw [queue, empty]; rfl
      have started := startChain_starts first rfl
      refine ⟨?_, ?_⟩
      · refine (queued_view (view := State.xsram) (blind := fun _ _ => rfl) ..).trans ?_
        rw [started]
        rfl
      · refine (queued_view (view := State.fabric) (blind := fun _ _ => rfl) ..).trans ?_
        rw [started, chainSources_eq]
        rfl
    · have behind : (chainQueued p tag ds data (takeCommand p s)).fabric.chains = c :: (rest ++ [queuedChain p tag ds data]) := by rw [queue, h]; rfl
      have waits := startChain_runs behind snap
      refine ⟨?_, ?_, ?_⟩
      · refine (queued_view (view := State.xsram) (blind := fun _ _ => rfl) ..).trans ?_
        rw [waits]
        rfl
      · refine (queued_view (view := State.freeCtr) (blind := fun _ _ => rfl) ..).trans ?_
        rw [waits]
        rfl
      · refine (queued_view (view := State.fabric) (blind := fun _ _ => rfl) ..).trans ?_
        rw [waits, queue]
        rfl
    · refine (queued_view (view := fun t => { t with hif := s.hif, fabric := s.fabric, xsram := s.xsram, freeCtr := s.freeCtr })
        (blind := fun _ _ => rfl) ..).trans ?_
      refine (congrArg (fun u : State => { u with hif := s.hif, fabric := s.fabric, xsram := s.xsram, freeCtr := s.freeCtr }) frame :).trans ?_
      simp only [chainQueued, pendStart, takeCommand, State.updFabric, State.updPort, State.updHif]
  case ends =>
    obtain ⟨frame, fabric, drop, empty, head⟩ := chainLeft_parts h poisoned corrected
    have run := exec_cvuChainComplete hr h poisoned corrected
    generalize hv : chainLeft c poisoned corrected s = v at frame fabric drop empty head
    have hif : v.hif = s.hif := (congrArg State.hif frame :)
    cases cmp : dCmp c.descs 0 with
    | false =>
      have ended : endChain c poisoned corrected s = complete c.port 0x0C10 c.tag (.words (readReply (chainResults c !poisoned.isEmpty))) v := by
        rw [← hv]
        exact if_neg (by simp [cmp])
      rw [ended] at run
      have done := complete_frame c.port 0x0C10 c.tag (.words (readReply (chainResults c !poisoned.isEmpty))) v
      have same : (complete c.port 0x0C10 c.tag (.words (readReply (chainResults c !poisoned.isEmpty))) v).fabric = v.fabric :=
        (congrArg State.fabric done :)
      refine ⟨_, .words (readReply (chainResults c !poisoned.isEmpty)), run, ?_⟩
      rw [same]
      exact ⟨drop, empty, head, (congrArg Fabric.cvuRuns fabric :), (congrArg Fabric.cvuBytes fabric :), (congrArg Fabric.eccUncorr fabric :),
        (congrArg Fabric.eccCorr fabric :), completed_complete hif, rfl, fun _ => ⟨rfl, (congrArg Fabric.cvuMism fabric :)⟩, fun no => (by cases no),
        (congrArg (fun u : State => { u with hif := s.hif, fabric := s.fabric, freeCtr := s.freeCtr, xsram := s.xsram }) done :).trans
          (congrArg (fun u : State => { u with hif := s.hif }) frame)⟩
    | true =>
      have ended : endChain c poisoned corrected s = complete c.port 0x0C10 c.tag (.words (compareReply (chainFlags c poisoned v).1))
          ((chainFlags c poisoned v).2.updFabric fun f =>
            { f with cvuMism := satAdd 0xFFFFFFFF f.cvuMism ((chainFlags c poisoned v).1.filter (· = false)).length }) := by
        rw [← hv]
        exact if_pos cmp
      rw [ended] at run
      have flags : { (chainFlags c poisoned v).2 with freeCtr := v.freeCtr } = v := matchFlags_state ..
      generalize hw : (chainFlags c poisoned v).2 = w at run flags
      have fab : w.fabric = v.fabric := (congrArg State.fabric flags :)
      have hif' : w.hif = s.hif := (congrArg State.hif flags :).trans hif
      generalize hf : (chainFlags c poisoned v).1 = fs at run
      have done := complete_frame c.port 0x0C10 c.tag (.words (compareReply fs)) (w.updFabric fun f =>
        { f with cvuMism := satAdd 0xFFFFFFFF f.cvuMism (fs.filter (· = false)).length })
      have same : (complete c.port 0x0C10 c.tag (.words (compareReply fs)) (w.updFabric fun f =>
        { f with cvuMism := satAdd 0xFFFFFFFF f.cvuMism (fs.filter (· = false)).length })).fabric =
          { v.fabric with cvuMism := satAdd 0xFFFFFFFF v.fabric.cvuMism (fs.filter (· = false)).length } :=
        (congrArg State.fabric done :).trans (by rw [← fab]; rfl)
      refine ⟨_, .words (compareReply fs), run, ?_⟩
      rw [same]
      refine ⟨drop, empty, head, (congrArg Fabric.cvuRuns fabric :), (congrArg Fabric.cvuBytes fabric :), (congrArg Fabric.eccUncorr fabric :),
        (congrArg Fabric.eccCorr fabric :), completed_complete hif', rfl, fun no => (by cases no), fun _ => ⟨v, ?_⟩, ?_⟩
      · have mism : v.fabric.cvuMism = s.fabric.cvuMism := (congrArg Fabric.cvuMism fabric :)
        rw [← mism, ← hf]
        exact ⟨rfl, rfl⟩
      · refine (congrArg (fun u : State => { u with hif := s.hif, fabric := s.fabric, freeCtr := s.freeCtr, xsram := s.xsram }) done :).trans ?_
        refine Eq.trans ?_ (congrArg (fun u : State => { u with hif := s.hif }) frame)
        exact (congrArg (fun u : State => { u with hif := s.hif, fabric := s.fabric, freeCtr := s.freeCtr, xsram := s.xsram }) flags :)

end Sys2Proof.Proofs
end

section
/-! SUPPORT. The buffers of a CAN channel (R374 to R385): what a write to one of them changes. -/
namespace Sys2Proof.Proofs
open Sys2Proof.Machine

/-! ### Flags of a word -/

theorem and_bit {w : Nat} (x : BitVec w) {i : Nat} (h : i < w) : ((x &&& BitVec.twoPow w i) != 0) = tst x i := by
  rw [BitVec.and_twoPow, tst]
  cases bit : x.getLsbD i
  · simp
  · have ne : BitVec.twoPow w i ≠ 0 := fun zero => by
      have := congrArg (BitVec.getLsbD · i) zero
      simp [BitVec.getLsbD_twoPow, h] at this
    simpa using ne

section
variable (ch : CanCh) (b : Nat) (s : State)

theorem has_new : bufHas ch b bNew s = tst (bufWord ch b 0 s) 31 := and_bit (i := 31) _ (by decide)
theorem has_ovr : bufHas ch b bOvr s = tst (bufWord ch b 0 s) 30 := and_bit (i := 30) _ (by decide)
theorem has_lock : bufHas ch b bLock s = tst (bufWord ch b 0 s) 29 := and_bit (i := 29) _ (by decide)
theorem has_susp : bufHas ch b bSusp s = tst (bufWord ch b 0 s) 28 := and_bit (i := 28) _ (by decide)
theorem has_txreq : bufHas ch b bTxreq s = tst (bufWord ch b 0 s) 27 := and_bit (i := 27) _ (by decide)
theorem has_txok : bufHas ch b bTxok s = tst (bufWord ch b 0 s) 26 := and_bit (i := 26) _ (by decide)

end

/-- A flag after bits were cleared and set. -/
theorem tst_marked (w clear set : Word) {i : Nat} (h : i < 32) : tst ((w &&& ~~~clear) ||| set) i = (tst w i && !tst clear i || tst set i) := by
  simp [tst, h]

/-! ### The channel's state -/

theorem can_updCan_same (ch : CanCh) (f : CanSt → CanSt) (s : State) : (s.updCan ch f).can ch = f (s.can ch) := by cases ch <;> rfl

theorem can_updCan_other {ch d : CanCh} (h : d ≠ ch) (f : CanSt → CanSt) (s : State) : (s.updCan ch f).can d = s.can d := by
  cases ch <;> cases d <;> first | rfl | exact absurd rfl h

theorem updCan_frame (ch : CanCh) (f : CanSt → CanSt) (s : State) : { s.updCan ch f with can1 := s.can1, can2 := s.can2 } = s := by
  cases ch <;> rfl

theorem bufWord_updCan (ch d : CanCh) (f : CanSt → CanSt) (b i : Nat) (s : State) : bufWord ch b i (s.updCan d f) = bufWord ch b i s := by
  rw [bufWord, updCan_xsram, bufWord]

/-! ### Words of a buffer -/

theorem setBufWord_wf {s : State} (wf : Memory.wf s.xsram = true) (ch : CanCh) (b i : Nat) (w : Word) :
    Memory.wf (setBufWord ch b i w s).xsram = true := memWriteWord_wf _ _ wf

section
variable {s : State} (wf : Memory.wf s.xsram = true) (ch : CanCh)
include wf

theorem bufWord_setBufWord (b i : Nat) (w : Word) : bufWord ch b i (setBufWord ch b i w s) = w := memWord_memWriteWord wf _ _

theorem bufWord_setBufWord_other {b i b' i' : Nat} (hi : i < 20) (hi' : i' < 20) (ne : b' ≠ b ∨ i' ≠ i) (w : Word) :
    bufWord ch b' i' (setBufWord ch b i w s) = bufWord ch b' i' s := by
  refine memWord_memWriteWord_other wf _ _ _ ?_
  simp only [bufAddr]
  omega

theorem bufWord_markBuf (b : Nat) (clear set : Word) :
    bufWord ch b 0 (markBuf ch b clear set s) = (bufWord ch b 0 s &&& ~~~clear) ||| set := bufWord_setBufWord wf ch b 0 _

theorem bufWord_markBuf_other {b b' i' : Nat} (hi' : i' < 20) (ne : b' ≠ b ∨ i' ≠ 0) (clear set : Word) :
    bufWord ch b' i' (markBuf ch b clear set s) = bufWord ch b' i' s := bufWord_setBufWord_other wf ch (by decide) hi' ne _

theorem tst_markBuf (b : Nat) (clear set : Word) {i : Nat} (h : i < 32) :
    tst (bufWord ch b 0 (markBuf ch b clear set s)) i = (tst (bufWord ch b 0 s) i && !tst clear i || tst set i) := by
  rw [bufWord_markBuf wf, tst_marked _ _ _ h]

end

theorem can_setBufWord (ch d : CanCh) (b i : Nat) (w : Word) (s : State) : (setBufWord ch b i w s).can d = s.can d := by cases d <;> rfl

theorem can_markBuf (ch d : CanCh) (b : Nat) (clear set : Word) (s : State) : (markBuf ch b clear set s).can d = s.can d := can_setBufWord ..

theorem can_fillBuf (ch d : CanCh) (b : Nat) (w1 w2 w3 : Word) (data : List Byte) (s : State) :
    (fillBuf ch b w1 w2 w3 data s).can d = s.can d := by cases d <;> rfl

/-! ### A buffer filled -/

theorem fillBytes_length (w1 w2 w3 : Word) (data : List Byte) : (wordsBytes [w1, w2, w3] ++ slice data 0 64).length = 76 := by
  rw [List.length_append, wordsBytes_length, slice_length]
  rfl

theorem memWord_memWriteBytes {m : Mem} (wf : Memory.wf m = true) (x : Nat) (ws : List Word) (rest : List Byte) {i : Nat} (h : i < ws.length) :
    memWord (memWriteBytes m x (wordsBytes ws ++ rest)) (x + 4 * i) = ws[i] := by
  have split : wordsBytes ws ++ rest = wordsBytes (ws.take i) ++ (wordBytes ws[i] ++ (wordsBytes (ws.drop (i + 1)) ++ rest)) := by
    conv => lhs; rw [← List.take_append_drop i ws, List.drop_eq_getElem_cons h, wordsBytes_append, wordsBytes_cons]
    simp only [List.append_assoc]
  have len : (ws.take i).length = i := by rw [List.length_take]; omega
  have wf1 := memWriteBytes_wf x (wordsBytes (ws.take i)) wf
  rw [split, memWriteBytes_append, memWriteBytes_append, wordsBytes_length, len, wordBytes_length]
  refine (memWord_congr fun k hk => ?_).trans (memWord_memWriteWord wf1 (x + 4 * i) ws[i])
  exact memRead_memWriteBytes_outside (memWriteWord_wf _ _ wf1) _ _ _ (.inl (by omega))

theorem memBytes_memWriteBytes {m : Mem} (wf : Memory.wf m = true) (x : Nat) (pre data : List Byte) :
    memBytes (memWriteBytes m x (pre ++ data)) (x + pre.length) data.length = data := by
  refine List.ext_getElem (by simp [memBytes]) fun i h1 h2 => ?_
  have inside := memRead_memWriteBytes_inside wf x (pre ++ data) (pre.length + i) (by simp; omega)
  simp only [memBytes, List.getElem_map, List.getElem_range, Nat.add_assoc, inside]
  simp

section
variable {s : State} (wf : Memory.wf s.xsram = true) (ch : CanCh) (b : Nat) (w1 w2 w3 : Word) (data : List Byte)
include wf

theorem bufWord_fillBuf {i : Nat} (h : i < 3) : bufWord ch b (i + 1) (fillBuf ch b w1 w2 w3 data s) = [w1, w2, w3][i] := by
  rw [bufWord, fillBuf, State.updXsram_xsram, show bufAddr ch b + 4 * (i + 1) = bufAddr ch b + 4 + 4 * i by omega]
  exact memWord_memWriteBytes wf (bufAddr ch b + 4) [w1, w2, w3] (slice data 0 64) h

theorem bufWord_fillBuf_zero : bufWord ch b 0 (fillBuf ch b w1 w2 w3 data s) = bufWord ch b 0 s := by
  rw [bufWord, fillBuf, State.updXsram_xsram, bufWord]
  exact memWord_congr fun k hk => memRead_memWriteBytes_outside wf _ _ _ (.inl (by omega))

theorem memBytes_fillBuf : memBytes (fillBuf ch b w1 w2 w3 data s).xsram (bufAddr ch b + 16) 64 = slice data 0 64 := by
  have at' := memBytes_memWriteBytes wf (bufAddr ch b + 4) (wordsBytes [w1, w2, w3]) (slice data 0 64)
  rw [slice_length, wordsBytes_length, Nat.add_assoc] at at'
  rw [fillBuf, State.updXsram_xsram]
  exact at'

theorem fillBuf_wf : Memory.wf (fillBuf ch b w1 w2 w3 data s).xsram = true := by
  rw [fillBuf, State.updXsram_xsram]
  exact memWriteBytes_wf _ _ wf

theorem fillBuf_outside {a : Nat} (h : a < bufAddr ch b + 4 ∨ bufAddr ch b + 80 ≤ a) :
    memRead (fillBuf ch b w1 w2 w3 data s).xsram a = memRead s.xsram a := by
  rw [fillBuf, State.updXsram_xsram]
  exact memRead_memWriteBytes_outside wf _ _ _ (by rw [fillBytes_length]; omega)

theorem setBufWord_outside {i a : Nat} (w : Word) (h : a < bufAddr ch b + 4 * i ∨ bufAddr ch b + 4 * i + 4 ≤ a) :
    memRead (setBufWord ch b i w s).xsram a = memRead s.xsram a :=
  memRead_memWriteBytes_outside wf _ _ _ (by rw [wordBytes_length]; omega)

end

/-- The data of a buffer lie behind its words. -/
theorem memBytes_setBufWord {s : State} (wf : Memory.wf s.xsram = true) (ch : CanCh) (b : Nat) {i : Nat} (hi : i < 4) (w : Word) :
    memBytes (setBufWord ch b i w s).xsram (bufAddr ch b + 16) 64 = memBytes s.xsram (bufAddr ch b + 16) 64 :=
  List.map_congr_left fun k _ => setBufWord_outside wf ch b w (.inr (by omega))

/-! ### What a channel's command leaves alone -/

/-- Memory, other channel and everything else, but for the channel, its buffers and the free values. -/
structure InBuffers (ch : CanCh) (s t : State) : Prop where
  wf : Memory.wf t.xsram = true
  outside : ∀ a, ¬(canBase ch ≤ a ∧ a < canBase ch + 5120) → memRead t.xsram a = memRead s.xsram a
  others : ∀ d, d ≠ ch → t.can d = s.can d
  frame : { t with xsram := s.xsram, can1 := s.can1, can2 := s.can2, freeCtr := s.freeCtr } = s

section
variable {ch : CanCh} {s t u : State}

theorem InBuffers.refl (wf : Memory.wf s.xsram = true) : InBuffers ch s s := ⟨wf, fun _ _ => rfl, fun _ _ => rfl, rfl⟩

theorem InBuffers.trans (a : InBuffers ch s t) (b : InBuffers ch t u) : InBuffers ch s u where
  wf := b.wf
  outside x h := (b.outside x h).trans (a.outside x h)
  others d h := (b.others d h).trans (a.others d h)
  frame := (congrArg (fun v : State => { v with xsram := s.xsram, can1 := s.can1, can2 := s.can2, freeCtr := s.freeCtr }) b.frame :).trans a.frame

/-- A write into the channel's buffers. -/
theorem InBuffers.write {f : Mem → Mem} (wf : Memory.wf (f s.xsram) = true)
    (outside : ∀ a, ¬(canBase ch ≤ a ∧ a < canBase ch + 5120) → memRead (f s.xsram) a = memRead s.xsram a) : InBuffers ch s (s.updXsram f) :=
  ⟨wf, outside, fun d _ => by cases d <;> rfl, rfl⟩

variable (wf : Memory.wf s.xsram = true)
include wf

theorem InBuffers.updCan (f : CanSt → CanSt) : InBuffers ch s (s.updCan ch f) := by
  refine ⟨by rwa [updCan_xsram], fun _ _ => by rw [updCan_xsram], fun d h => can_updCan_other h f s, ?_⟩
  cases ch <;> rfl

theorem InBuffers.setBufWord {b i : Nat} (hb : b < 64) (hi : i < 20) (w : Word) : InBuffers ch s (setBufWord ch b i w s) :=
  .write (memWriteWord_wf _ _ wf) fun a h => setBufWord_outside wf ch b w (by simp only [bufAddr]; omega)

theorem InBuffers.markBuf {b : Nat} (hb : b < 64) (clear set : Word) : InBuffers ch s (markBuf ch b clear set s) :=
  .setBufWord wf hb (by decide) _

theorem InBuffers.fillBuf {b : Nat} (hb : b < 64) (w1 w2 w3 : Word) (data : List Byte) : InBuffers ch s (fillBuf ch b w1 w2 w3 data s) :=
  ⟨fillBuf_wf wf .., fun a h => fillBuf_outside wf ch b w1 w2 w3 data (by simp only [bufAddr]; omega), fun d _ => can_fillBuf .., rfl⟩

theorem InBuffers.drawFree : InBuffers ch s (drawFree s).2 := ⟨wf, fun _ _ => rfl, fun d _ => by cases d <;> rfl, rfl⟩

end

/-! ### The buffer on the bus -/

/-- Taking a buffer to the bus changes the channel's state alone. -/
theorem loadBus_cases (ch : CanCh) (s : State) : loadBus ch s = s ∨ loadBus ch s = s.updCan ch fun c => { c with cur := nextBuf ch s } := by
  unfold loadBus
  split
  · exact .inl rfl
  · exact .inr rfl

theorem loadBus_xsram (ch : CanCh) (s : State) : (loadBus ch s).xsram = s.xsram := by
  rcases loadBus_cases ch s with h | h <;> rw [h]
  rw [updCan_xsram]

theorem bufWord_loadBus (ch d : CanCh) (b i : Nat) (s : State) : bufWord ch b i (loadBus d s) = bufWord ch b i s := by
  rw [bufWord, loadBus_xsram, bufWord]

theorem InBuffers.loadBus {ch : CanCh} {s : State} (wf : Memory.wf s.xsram = true) : InBuffers ch s (loadBus ch s) := by
  rcases loadBus_cases ch s with h | h <;> rw [h]
  · exact .refl wf
  · exact .updCan wf _

theorem endAttempt_xsram (ch : CanCh) (s : State) : (endAttempt ch s).xsram = s.xsram := by
  rw [endAttempt, loadBus_xsram, updCan_xsram]

theorem bufWord_endAttempt (ch d : CanCh) (b i : Nat) (s : State) : bufWord ch b i (endAttempt d s) = bufWord ch b i s := by
  rw [bufWord, endAttempt_xsram, bufWord]

theorem InBuffers.endAttempt {ch : CanCh} {s : State} (wf : Memory.wf s.xsram = true) : InBuffers ch s (endAttempt ch s) :=
  (InBuffers.updCan wf _).trans (.loadBus (by rwa [updCan_xsram]))

end Sys2Proof.Proofs
end

section
/-! SUPPORT. CAN.SEND and CAN.READ (R376, R379, R383, R385). O31. -/
namespace Sys2Proof.Proofs
open Sys2Proof.Machine

/-! ### CAN.SEND -/

/-- W0 of CAN.SEND. -/
def sendWord (ch : CanCh) (abort resume once : Bool) : Word := at32 8 (canNum ch) ||| flag 7 abort ||| flag 6 resume ||| flag 5 once

theorem sendWord_fields (ch : CanCh) (abort resume once : Bool) :
    canOf (fld (sendWord ch abort resume once) 8 8) = ch ∧ tst (sendWord ch abort resume once) 7 = abort ∧
      tst (sendWord ch abort resume once) 6 = resume ∧ tst (sendWord ch abort resume once) 5 = once ∧
      fld (sendWord ch abort resume once) 31 9 = 0 ∧ fld (sendWord ch abort resume once) 4 0 = 0 := by
  cases ch <;> cases abort <;> cases resume <;> cases once <;> decide

theorem sendPayload_words (ch : CanCh) (buf : BitVec 6) (abort resume once : Bool) (w2 w3 : Word) (data : List Byte) :
    (List.range 4).map (wordAt (sendPayload ch buf abort resume once w2 w3 data)) = [sendWord ch abort resume once, at32 0 buf.toNat, w2, w3] := by
  have word : ∀ (i : Nat) (h : i < 4), wordAt (sendPayload ch buf abort resume once w2 w3 data) i =
      [sendWord ch abort resume once, at32 0 buf.toNat, w2, w3][i] := fun i h =>
    wordAt_wordsBytes (ws := [sendWord ch abort resume once, at32 0 buf.toNat, w2, w3]) h data
  simp only [List.range, List.range.loop, List.map_cons, List.map_nil, word 0 (by decide), word 1 (by decide), word 2 (by decide), word 3 (by decide)]
  rfl

theorem fld_buf (buf : BitVec 6) : fld (at32 0 buf.toNat) 5 0 = buf.toNat ∧ fld (at32 0 buf.toNat) 31 6 = 0 :=
  ⟨fld_at32_field buf.isLt (by decide) (by decide), fld_at32_above buf.isLt (by decide)⟩

/-- The effect of an accepted CAN.SEND. -/
def sendEffect (ch : CanCh) (b : Nat) (abort sends resume once : Bool) (w2 w3 : Word) (data : List Byte) (s : State) : State :=
  let s := if resume then markBuf ch b (bSusp ||| bColl) 0 s else s
  if abort then abortBuf ch b s else if sends then requestBuf ch b once w2 w3 data s else s

/-- A CAN.SEND that its checks let pass. -/
theorem handleCanSend_passes {ch : CanCh} {buf : BitVec 6} {abort resume once sends : Bool} {w2 w3 : Word} {data : List Byte} {s : State}
    (kind : sends = (!abort && !(resume && w2 == 0 && w3 == 0 && data.isEmpty)))
    (good : ((sendChecks (s.can ch) abort sends [sendWord ch abort resume once, at32 0 buf.toNat, w2, w3] data).all fun x => x.2.2) = true)
    (takes : canRefuses ch s = false)
    (free : (sends && !resume && (bufHas ch buf.toNat bTxreq s || bufHas ch buf.toNat bSusp s)) = false) (p : Port) (tag : Half) :
    handleCanSend p tag (sendPayload ch buf abort resume once w2 w3 data) s =
      bufReply ch buf.toNat (sendEffect ch buf.toNat abort sends resume once w2 w3 data s) := by
  obtain ⟨channel, bit7, bit6, bit5, -, -⟩ := sendWord_fields ch abort resume once
  have rest : (sendPayload ch buf abort resume once w2 w3 data).drop 16 = data :=
    drop_wordsBytes [sendWord ch abort resume once, at32 0 buf.toNat, w2, w3] data
  rw [handleCanSend]
  simp only [sendPayload_words, rest, nth, List.getD_cons_zero, List.getD_cons_succ, channel, bit7, bit6, bit5, (fld_buf buf).1, ← kind]
  rw [refuseAt_all good, if_neg (by simp [takes]), if_neg (by simp [free])]
  rfl

/-- The sendChecks that do not look at the frame. -/
theorem sendChecks_mere {c : CanSt} {ch : CanCh} {buf : BitVec 6} {abort resume once : Bool} (zero : abort = true → buf = 0) :
    ((sendChecks c abort false [sendWord ch abort resume once, at32 0 buf.toNat, 0, 0] []).all fun x => x.2.2) = true := by
  obtain ⟨-, -, -, -, top, low⟩ := sendWord_fields ch abort resume once
  have buf0 : abort = true → at32 0 buf.toNat = 0 := fun h => by rw [zero h]; rfl
  have z : ∀ hi lo, fld (0#32) hi lo = 0 := fun hi lo => by simp [fld]
  simp [sendChecks, within, nth, top, low, (fld_buf buf).2, z]
  cases abort
  · exact .inl rfl
  · exact .inr (buf0 rfl)

theorem refuseAt_first {α : Type} {cs : List FieldCheck} {c : FieldCheck} (h : cs.find? (fun c => !c.2.2) = some c) (st : α) (k : Reply × α) :
    refuseAt cs st k = (.range c.1 c.2.1, st) := by
  rw [refuseAt, h]

/-- An ABORT that names a buffer other than 0. -/
theorem handleCanSend_abortOther (ch : CanCh) {buf : BitVec 6} (ne : buf ≠ 0) (p : Port) (tag : Half) (s : State) :
    handleCanSend p tag (sendPayload ch buf true false false 0 0 []) s = (.range 1 5, s) := by
  obtain ⟨channel, bit7, bit6, bit5, top, low⟩ := sendWord_fields ch true false false
  have other : at32 0 buf.toNat ≠ 0 := fun zero => ne (by
    have number := (fld_buf buf).1
    rw [zero, fld_zero] at number
    exact BitVec.eq_of_toNat_eq number.symm)
  have bad : (sendChecks (s.can ch) true false [sendWord ch true false false, at32 0 buf.toNat, 0, 0] []).find? (fun c => !c.2.2) =
      some (1, 5, false) := by
    have other' : ¬ at32 0 buf.toNat = 0#32 := other
    simp [sendChecks, within, nth, top, low, (fld_buf buf).2, other']
  rw [handleCanSend]
  simp only [sendPayload_words, show (sendPayload ch buf true false false 0 0 []).drop 16 = [] from
    drop_wordsBytes [sendWord ch true false false, at32 0 buf.toNat, 0, 0] [], nth, List.getD_cons_zero, List.getD_cons_succ, channel, bit7]
  exact refuseAt_first bad ..

/-- A request that is set up. -/
structure Requested (ch : CanCh) (b : Nat) (w2 w3 : Word) (data : List Byte) (t : State) : Prop where
  txreq : bufHas ch b bTxreq t = true
  txok : bufHas ch b bTxok t = false
  word1 : bufWord ch b 1 t = w2
  word2 : bufWord ch b 2 t = w3
  data : memBytes t.xsram (bufAddr ch b + 16) 64 = slice data 0 64

theorem requestBuf_requested {s : State} (wf : Memory.wf s.xsram = true) (ch : CanCh) (b : Nat) (once : Bool) (w2 w3 : Word) (data : List Byte) :
    Requested ch b w2 w3 data (requestBuf ch b once w2 w3 data s) := by
  have wf1 := fillBuf_wf wf ch b w2 w3 (bufWord ch b 3 s) data
  have same : ∀ i, bufWord ch b i (requestBuf ch b once w2 w3 data s) =
      bufWord ch b i (markBuf ch b bTxok bTxreq (fillBuf ch b w2 w3 (bufWord ch b 3 s) data s)) := fun i => by
    rw [requestBuf, bufWord_loadBus, bufWord_updCan]
  have sram : (requestBuf ch b once w2 w3 data s).xsram = (markBuf ch b bTxok bTxreq (fillBuf ch b w2 w3 (bufWord ch b 3 s) data s)).xsram := by
    rw [requestBuf, loadBus_xsram, updCan_xsram]
  constructor
  · rw [has_txreq, same, tst_markBuf wf1 _ _ _ _ (by decide)]
    simp [bTxreq, tst]
  · rw [has_txok, same, tst_markBuf wf1 _ _ _ _ (by decide)]
    simp [bTxreq, bTxok, tst]
  · rw [same, bufWord_markBuf_other wf1 _ (by decide) (.inr (by decide)), bufWord_fillBuf wf ch b w2 w3 _ data (i := 0) (by decide)]
    rfl
  · rw [same, bufWord_markBuf_other wf1 _ (by decide) (.inr (by decide)), bufWord_fillBuf wf ch b w2 w3 _ data (i := 1) (by decide)]
    rfl
  · rw [sram, markBuf, memBytes_setBufWord wf1 _ _ (by decide), memBytes_fillBuf wf]

theorem requestBuf_inBuffers {s : State} (wf : Memory.wf s.xsram = true) (ch : CanCh) {b : Nat} (hb : b < 64) (once : Bool) (w2 w3 : Word)
    (data : List Byte) : InBuffers ch s (requestBuf ch b once w2 w3 data s) := by
  have filled := InBuffers.fillBuf (ch := ch) wf hb w2 w3 (bufWord ch b 3 s) data
  have marked := InBuffers.markBuf (ch := ch) filled.wf hb bTxok bTxreq
  have noted := InBuffers.updCan (ch := ch) marked.wf fun c =>
    { c with oneShot := if once then c.oneShot ||| oneShotBit b else c.oneShot &&& ~~~oneShotBit b }
  exact ((filled.trans marked).trans noted).trans (.loadBus noted.wf)

/-! ### ABORT -/

theorem abortBuf_inBuffers {s : State} (wf : Memory.wf s.xsram = true) (ch : CanCh) {b : Nat} (hb : b < 64) : InBuffers ch s (abortBuf ch b s) := by
  have drawn := InBuffers.drawFree (ch := ch) wf
  have marked := InBuffers.markBuf (ch := ch) drawn.wf hb bTxreq 0
  unfold abortBuf
  split
  · exact .refl wf
  · dsimp only
    split
    · exact drawn.trans (.updCan drawn.wf _)
    · split
      · exact (drawn.trans marked).trans (.endAttempt marked.wf)
      · exact drawn.trans marked

theorem or_and_right_self {w : Nat} (x y : BitVec w) : (x ||| y) &&& y = y := by
  ext i hi
  simp only [BitVec.getElem_and, BitVec.getElem_or]
  cases x[i] <;> cases y[i] <;> rfl

/-- A request that is aborted is withdrawn, or is not tried again: the latter where it may be on the bus. -/
theorem abortBuf_ends {s : State} (wf : Memory.wf s.xsram = true) (ch : CanCh) {b : Nat} (hb : b < 64) :
    bufHas ch b bTxreq (abortBuf ch b s) = false ∨
      (s.can ch).cur = some b ∧ (((abortBuf ch b s).can ch).oneShot &&& oneShotBit b) ≠ 0 := by
  have cleared : ∀ {u : State}, Memory.wf u.xsram = true → bufHas ch b bTxreq (markBuf ch b bTxreq 0 u) = false := fun wfu => by
    rw [has_txreq, tst_markBuf wfu _ _ _ _ (by decide)]
    simp [bTxreq, tst]
  unfold abortBuf
  split
  · next h => exact .inl (by simpa using h)
  · dsimp only
    split
    · next h =>
      refine .inr ⟨(show ((drawFree s).2.can ch).cur = (s.can ch).cur by cases ch <;> rfl) ▸ h.1, ?_⟩
      rw [can_updCan_same]
      have bit : oneShotBit b ≠ 0 := fun zero => by
        have := congrArg (BitVec.getLsbD · b) zero
        simp [oneShotBit, hb] at this
      exact fun none => bit ((or_and_right_self _ _).symm.trans none)
    · split
      · exact .inl (by rw [bufHas, bufWord_endAttempt]; exact cleared wf)
      · exact .inl (cleared wf)

/-! ### CAN.READ -/

theorem releaseBuf_inBuffers {s : State} (wf : Memory.wf s.xsram = true) (ch : CanCh) {b : Nat} (hb : b < 64) : InBuffers ch s (releaseBuf ch s b) := by
  unfold releaseBuf
  split
  · exact .markBuf wf hb _ _
  · exact .refl wf

theorem can_releaseBuf (ch d : CanCh) (b : Nat) (s : State) : (releaseBuf ch s b).can d = s.can d := by
  unfold releaseBuf
  split
  · exact can_markBuf ..
  · rfl

theorem bufWord_releaseBuf_other {s : State} (wf : Memory.wf s.xsram = true) (ch : CanCh) {b k : Nat} (ne : k ≠ b) :
    bufWord ch k 0 (releaseBuf ch s b) = bufWord ch k 0 s := by
  unfold releaseBuf
  split
  · exact bufWord_markBuf_other wf ch (by decide) (.inl ne) _ _
  · rfl

/-- NEW, OVR and the lock of a buffer are clear. -/
def released (ch : CanCh) (b : Nat) (s : State) : Prop := bufHas ch b bNew s = false ∧ bufHas ch b bOvr s = false ∧ bufHas ch b bLock s = false

theorem released_releaseBuf {s : State} (wf : Memory.wf s.xsram = true) {ch : CanCh} {b : Nat} (rx : canDir (s.can ch) b = 1) :
    released ch b (releaseBuf ch s b) := by
  rw [releaseBuf, if_pos rx]
  refine ⟨?_, ?_, ?_⟩
  · rw [has_new, tst_markBuf wf _ _ _ _ (by decide)]
    simp [bNew, bOvr, bLock, tst]
  · rw [has_ovr, tst_markBuf wf _ _ _ _ (by decide)]
    simp [bNew, bOvr, bLock, tst]
  · rw [has_lock, tst_markBuf wf _ _ _ _ (by decide)]
    simp [bNew, bOvr, bLock, tst]

theorem released_congr {ch : CanCh} {b : Nat} {s t : State} (h : bufWord ch b 0 t = bufWord ch b 0 s) : released ch b t ↔ released ch b s := by
  simp only [released, bufHas, h]

/-- What the release of a list of buffers leaves: the others as they are, the receive buffers of it clear. -/
theorem releaseBufs_parts (ch : CanCh) (bs : List Nat) {s : State} (wf : Memory.wf s.xsram = true) (low : ∀ b ∈ bs, b < 64) (nodup : bs.Nodup) :
    InBuffers ch s (bs.foldl (releaseBuf ch) s) ∧ (bs.foldl (releaseBuf ch) s).can ch = s.can ch ∧
      (∀ k, k ∉ bs → bufWord ch k 0 (bs.foldl (releaseBuf ch) s) = bufWord ch k 0 s) ∧
      ∀ k ∈ bs, canDir (s.can ch) k = 1 → released ch k (bs.foldl (releaseBuf ch) s) := by
  induction bs generalizing s with
  | nil => exact ⟨.refl wf, rfl, fun _ _ => rfl, fun k hk => absurd hk (by simp)⟩
  | cons b bs ih =>
    have first := releaseBuf_inBuffers wf ch (low b (by simp))
    obtain ⟨mine, others⟩ := List.nodup_cons.mp nodup
    obtain ⟨frame, can, same, clear⟩ := ih first.wf (fun k hk => low k (by simp [hk])) others
    rw [List.foldl_cons]
    refine ⟨first.trans frame, can.trans (can_releaseBuf ..), fun k hk => ?_, fun k hk rx => ?_⟩
    · obtain ⟨ne, out⟩ : k ≠ b ∧ k ∉ bs := by simpa using hk
      exact (same k out).trans (bufWord_releaseBuf_other wf ch ne)
    · by_cases eq : k = b
      · subst eq
        exact (released_congr (same k mine)).mpr (released_releaseBuf wf rx)
      · exact clear k ((List.mem_cons.mp hk).resolve_left eq) (by rwa [can_releaseBuf])

theorem readBufs_nodup (ch : CanCh) (first count : Nat) (newOnly : Bool) (s : State) : (readBufs ch first count newOnly s).Nodup :=
  ((List.nodup_map_iff fun _ _ h => Nat.add_left_cancel h).mpr List.nodup_range).filter _

theorem readBufs_lt {ch : CanCh} {first count : Nat} (inside : first + count ≤ 64) (newOnly : Bool) (s : State) :
    ∀ b ∈ readBufs ch first count newOnly s, b < 64 := by
  intro b hb
  obtain ⟨k, hk, rfl⟩ := List.mem_map.mp (List.mem_of_mem_filter hb)
  have := List.mem_range.mp hk
  omega

theorem holdLock_inBuffers {s : State} (wf : Memory.wf s.xsram = true) (ch : CanCh) {bs : List Nat} (low : ∀ b ∈ bs, b < 64) :
    InBuffers ch s (holdLock ch bs s) := by
  unfold holdLock
  split
  · next b h => exact .markBuf wf (low b (List.mem_of_getLast? h)) _ _
  · exact .refl wf

theorem bufWord_holdLock_other {s : State} (wf : Memory.wf s.xsram = true) (ch : CanCh) {bs : List Nat} {k : Nat} (ne : bs.getLast? ≠ some k) :
    bufWord ch k 0 (holdLock ch bs s) = bufWord ch k 0 s := by
  unfold holdLock
  split
  · next b h => exact bufWord_markBuf_other wf ch (by decide) (.inl fun eq => ne (by rw [eq]; exact h)) _ _
  · rfl

theorem bufWord_holdLock_last {s : State} (wf : Memory.wf s.xsram = true) (ch : CanCh) {bs : List Nat} {k : Nat} (h : bs.getLast? = some k) :
    bufWord ch k 0 (holdLock ch bs s) = bufWord ch k 0 s ||| bLock := by
  rw [holdLock, h]
  dsimp only
  rw [bufWord_markBuf wf, show ~~~(0 : Word) = BitVec.allOnes 32 from rfl, BitVec.and_allOnes]

/-- What CAN.READ does to the buffers it returns. -/
def readEffect (ch : CanCh) (cutOff : Bool) (bs : List Nat) (s : State) : State :=
  if cutOff then holdLock ch bs (bs.dropLast.foldl (releaseBuf ch) s) else bs.foldl (releaseBuf ch) s

theorem getLast_not_mem_dropLast {bs : List Nat} (nodup : bs.Nodup) {k : Nat} (h : bs.getLast? = some k) : k ∉ bs.dropLast := by
  obtain ⟨l, rfl⟩ := List.getLast?_eq_some_iff.mp h
  rw [List.dropLast_concat]
  intro mem
  exact (List.nodup_append.mp nodup).2.2 k mem k (by simp) rfl

theorem readEffect_parts (ch : CanCh) (cutOff : Bool) (bs : List Nat) {s : State} (wf : Memory.wf s.xsram = true) (low : ∀ b ∈ bs, b < 64)
    (nodup : bs.Nodup) :
    InBuffers ch s (readEffect ch cutOff bs s) ∧
      (∀ b ∈ if cutOff then bs.dropLast else bs, canDir (s.can ch) b = 1 → released ch b (readEffect ch cutOff bs s)) ∧
      (∀ b, cutOff = true → bs.getLast? = some b → bufWord ch b 0 (readEffect ch cutOff bs s) = bufWord ch b 0 s ||| bLock) ∧
      ∀ b, b ∉ bs → bufWord ch b 0 (readEffect ch cutOff bs s) = bufWord ch b 0 s := by
  cases cutOff with
  | false =>
    obtain ⟨frame, -, same, clear⟩ := releaseBufs_parts ch bs wf low nodup
    exact ⟨frame, clear, fun b no => (by cases no), same⟩
  | true =>
    have low' : ∀ b ∈ bs.dropLast, b < 64 := fun b hb => low b (List.mem_of_mem_dropLast hb)
    obtain ⟨frame, -, same, clear⟩ := releaseBufs_parts ch bs.dropLast wf low' (nodup.sublist (List.dropLast_sublist bs))
    have held := holdLock_inBuffers frame.wf ch low
    refine ⟨frame.trans held, fun b hb rx => ?_, fun b _ last => ?_, fun b out => ?_⟩
    · exact (released_congr (bufWord_holdLock_other frame.wf ch fun last => getLast_not_mem_dropLast nodup last hb)).mpr (clear b hb rx)
    · refine (bufWord_holdLock_last frame.wf ch last).trans ?_
      rw [same b (getLast_not_mem_dropLast nodup last)]
    · refine (bufWord_holdLock_other frame.wf ch fun last => out (List.mem_of_getLast? last)).trans ?_
      exact same b fun mem => out (List.mem_of_mem_dropLast mem)

theorem handleCanRead_reads {ch : CanCh} {first count : Byte} {newOnly : Bool} {s : State} (takes : canRefuses ch s = false)
    (low : 1 ≤ count.toNat) (high : count.toNat ≤ 50) (start : first.toNat ≤ 63) (inside : first.toNat + count.toNat ≤ 64)
    (cutOff : Bool) (p : Port) (tag : Half) :
    handleCanRead cutOff p tag (wordsBytes [at32 0 (canNum ch), at32 8 first.toNat ||| at32 0 count.toNat, flag 0 newOnly]) s =
      ({ code := .ok,
         payload := wordsBytes [s.tb.canTs, BitVec.ofNat 32 (readBufs ch first.toNat count.toNat newOnly s).length] ++
          (readBufs ch first.toNat count.toNat newOnly s).flatMap fun b => bufBytes ch b s },
       readEffect ch cutOff (readBufs ch first.toNat count.toNat newOnly s) s) := by
  have firsts : fld (at32 8 first.toNat ||| at32 0 count.toNat) 15 8 = first.toNat := by
    rw [fld_or, fld_at32_field first.isLt (by decide) (by decide), fld_at32_above count.isLt (by decide), Nat.or_zero]
  have counts : fld (at32 8 first.toNat ||| at32 0 count.toNat) 7 0 = count.toNat := by
    rw [fld_or, fld_at32_below (by decide) (by decide), fld_at32_field count.isLt (by decide) (by decide), Nat.zero_or]
  have top : fld (at32 8 first.toNat ||| at32 0 count.toNat) 31 16 = 0 := by
    rw [fld_or, fld_at32_above first.isLt (by decide), fld_at32_above count.isLt (by decide)]
    rfl
  have number : fld (at32 0 (canNum ch)) 31 1 = 0 := by cases ch <;> decide
  have only : fld (flag 0 newOnly) 31 1 = 0 ∧ tst (flag 0 newOnly) 0 = newOnly := chunkFlags 0 newOnly rfl
  rw [handleCanRead, bytesWords_wordsBytes]
  simp only [nth, List.getD_cons_zero, List.getD_cons_succ, fld_canNum, firsts, counts, only.2]
  rw [refuseAt_all (by simp [within, nth, number, top, counts, only.1, low, high, start, inside]), if_neg (by simp [takes])]
  rfl

/-- Settles O31. -/
theorem canCommands : Obligations.CanCommands := by
  intro p tag ch s takes wf inBuffers framed
  have takes' : canRefuses ch (takeCommand p s) = false := by
    rw [← takes]
    cases ch <;> rfl
  have wf' : Memory.wf (takeCommand p s).xsram = true := wf
  have leaves : ∀ {op : Half} {r : Reply} {u : State}, InBuffers ch (takeCommand p s) u → framed (queueResponse p op tag r u) := by
    intro op r u a
    refine ⟨fun x h => ?_, fun d h => ?_, ?_⟩
    · exact (congrArg (memRead · x) (queued_view (view := State.xsram) (blind := fun _ _ => rfl) ..)).trans (a.outside x h)
    · refine (queued_view (view := fun t => t.can d) (blind := fun _ _ => by cases d <;> rfl) ..).trans ((a.others d h).trans ?_)
      cases d <;> rfl
    · refine (queued_view (view := fun t => { t with hif := s.hif, xsram := s.xsram, can1 := s.can1, can2 := s.can2, freeCtr := s.freeCtr })
        (blind := fun _ _ => rfl) ..).trans ?_
      exact (congrArg (fun u : State => { u with hif := s.hif }) a.frame :)
  have word : ∀ (op : Half) (r : Reply) (u : State) (b i : Nat), bufWord ch b i (queueResponse p op tag r u) = bufWord ch b i u := fun op r u b i =>
    queued_view (view := fun t => bufWord ch b i t) (blind := fun _ _ => rfl) ..
  refine ⟨fun buf resume once w2 w3 data hr something good free => ?send, fun hr => ?abort, fun buf ne hr => ?refused, fun buf hr => ?resumed,
    fun first count newOnly cutOff hr low high start inside => ?read⟩
  case send => 
    have hc : hostCommand (.canSend p tag ch buf resume once w2 w3 data) =
      some ⟨p, 0x0D02, tag, sendPayload ch buf false resume once w2 w3 data⟩ := rfl
    have kind : true = (!false && !(resume && w2 == 0 && w3 == 0 && data.isEmpty)) := by
      cases resume with
      | false => rfl
      | true =>
        have some := something rfl
        rcases some with h | h | h
        · rw [beq_eq_false_iff_ne.mpr h]
          simp
        · rw [beq_eq_false_iff_ne.mpr h]
          simp
        · rw [List.isEmpty_eq_false_iff.mpr h]
          simp
    have word0 : at32 8 (canNum ch) ||| flag 6 resume ||| flag 5 once = sendWord ch false resume once := by
      rw [sendWord, show flag 7 false = 0#32 from rfl, BitVec.or_zero]
    have good' : ((sendChecks ((takeCommand p s).can ch) false true [sendWord ch false resume once, at32 0 buf.toNat, w2, w3] data).all
        fun x => x.2.2) = true := by
      rw [← word0, show (takeCommand p s).can ch = s.can ch by cases ch <;> rfl]
      exact good
    have free' : (true && !resume && (bufHas ch buf.toNat bTxreq (takeCommand p s) || bufHas ch buf.toNat bSusp (takeCommand p s))) = false := by
      cases resume with
      | true => rfl
      | false =>
        obtain ⟨txreq, susp⟩ := free rfl
        exact (congrArg₂ (· || ·) txreq susp :)
    have run := handleCanSend_passes (s := takeCommand p s) (buf := buf) (once := once) kind good' takes' free' p tag
    have cleaned : InBuffers ch (takeCommand p s)
        (if resume then markBuf ch buf.toNat (bSusp ||| bColl) 0 (takeCommand p s) else takeCommand p s) := by
      split
      · exact .markBuf wf' buf.isLt _ _
      · exact .refl wf'
    have effect : sendEffect ch buf.toNat false true resume once w2 w3 data (takeCommand p s) = requestBuf ch buf.toNat once w2 w3 data
      (if resume then markBuf ch buf.toNat (bSusp ||| bColl) 0 (takeCommand p s) else takeCommand p s) := rfl
    have frame := cleaned.trans (requestBuf_inBuffers cleaned.wf ch buf.isLt once w2 w3 data)
    obtain ⟨txreq, txok, word1, word2, bytes⟩ := requestBuf_requested cleaned.wf ch buf.toNat once w2 w3 data
    rw [effect] at run
    generalize requestBuf ch buf.toNat once w2 w3 data
      (if resume then markBuf ch buf.toNat (bSusp ||| bColl) 0 (takeCommand p s) else takeCommand p s) = u at run frame txreq txok word1 word2 bytes
    refine ⟨_, by rw [word]; exact answers_queued hc hr run rfl, ?_, ?_, ?_, ?_, ?_, leaves frame⟩
    · rw [bufHas, word]
      exact txreq
    · rw [bufHas, word]
      exact txok
    · rw [word, word1]
    · rw [word, word2]
    · rw [← bytes]
      exact queued_view (view := fun t => memBytes t.xsram (bufAddr ch buf.toNat + 16) 64) (blind := fun _ _ => rfl) ..
  case abort =>
    have hc : hostCommand (.canSendAbort p tag ch 0) = some ⟨p, 0x0D02, tag, sendPayload ch 0 true false false 0 0 []⟩ := rfl
    have run := handleCanSend_passes (s := takeCommand p s) (abort := true) (sends := false) rfl
      (sendChecks_mere (buf := 0) (once := false) (resume := false) fun _ => rfl) takes' rfl p tag
    have answer := answers_queued hc hr run rfl
    have ends := abortBuf_ends wf' ch (b := 0) (by decide)
    have cur : ((takeCommand p s).can ch).cur = (s.can ch).cur := by cases ch <;> rfl
    generalize hu : sendEffect ch (0 : BitVec 6).toNat true false false false 0 0 [] (takeCommand p s) = u at answer
    have effect : u = abortBuf ch 0 (takeCommand p s) := hu.symm
    rw [← effect, cur] at ends
    have can : ∀ op r, (queueResponse p op tag r u).can ch = u.can ch := fun op r =>
      queued_view (view := fun t => t.can ch) (blind := fun _ _ => by cases ch <;> rfl) ..
    have has : ∀ op r, bufHas ch 0 bTxreq (queueResponse p op tag r u) = bufHas ch 0 bTxreq u := fun op r => by rw [bufHas, word, bufHas]
    refine ⟨_, by rw [word]; exact answer, fun other => ?_, ?_, leaves (effect ▸ abortBuf_inBuffers wf' ch (by decide))⟩
    · rw [has]
      exact ends.resolve_right fun h => other h.1
    · rw [has, can]
      exact ends.imp_right And.right
  case refused => 
    have hc : hostCommand (.canSendAbort p tag ch buf) = some ⟨p, 0x0D02, tag, sendPayload ch buf true false false 0 0 []⟩ := rfl
    have run := handleCanSend_abortOther ch ne p tag (takeCommand p s)
    exact ⟨_, answers_queued hc hr run rfl, queued_frame ..⟩
  case resumed =>
    have hc : hostCommand (.canSendResume p tag ch buf) = some ⟨p, 0x0D02, tag, sendPayload ch buf false true false 0 0 []⟩ := rfl
    have run := handleCanSend_passes (s := takeCommand p s) (sends := false) rfl
      (sendChecks_mere (abort := false) (buf := buf) (once := false) (resume := true) fun no => (by cases no)) takes' rfl p tag
    refine ⟨_, by rw [word]; exact answers_queued hc hr run rfl, ?_, leaves (.markBuf wf' buf.isLt _ _)⟩
    rw [word]
    refine (bufWord_markBuf wf' ch buf.toNat _ _).trans ?_
    exact BitVec.or_zero
  case read =>
    intro bs
    have hc : hostCommand (.canRead p tag ch first count newOnly cutOff) =
      some ⟨p, 0x0D03, tag, wordsBytes [at32 0 (canNum ch), at32 8 first.toNat ||| at32 0 count.toNat, flag 0 newOnly]⟩ := rfl
    have run := handleCanRead_reads (s := takeCommand p s) (newOnly := newOnly) takes' low high start inside cutOff p tag
    have same : readBufs ch first.toNat count.toNat newOnly (takeCommand p s) = bs := by cases ch <;> rfl
    rw [same] at run
    obtain ⟨frame, clear, last, others⟩ := readEffect_parts ch cutOff bs wf' (readBufs_lt inside newOnly s) (readBufs_nodup ch _ _ newOnly s)
    generalize readEffect ch cutOff bs (takeCommand p s) = u at run frame clear last others
    refine ⟨_, _, answers_queued hc hr run rfl, rfl, rfl, fun b hb rx => ?_, fun b yes h => ?_, fun b _ out => ?_, leaves frame⟩
    · refine (released_congr (word ..)).mpr (clear b hb ?_)
      rw [← rx]
      cases ch <;> rfl
    · rw [word]
      exact last b yes h
    · rw [word]
      exact others b out

end Sys2Proof.Proofs
end

section
/-!
SUPPORT. Frames on the CAN bus (R375, R377, R379): O32. What a fault of a channel leaves of its buffers: entry into SAFE withdraws the
requests and nothing else.
-/
namespace Sys2Proof.Proofs
open Sys2Proof.Machine

/-! ### Fields cleared and set -/

theorem fld_and {n : Nat} (x y : BitVec n) (hi lo : Nat) : fld (x &&& y) hi lo = fld x hi lo &&& fld y hi lo := by
  simp only [fld, BitVec.toNat_and, Nat.shiftRight_and_distrib, Nat.and_mod_two_pow]

/-- A field cleared and set anew. -/
theorem fld_cleared {w clear set : Word} {hi lo : Nat} (h : fld (~~~clear) hi lo = 0) : fld ((w &&& ~~~clear) ||| set) hi lo = fld set hi lo := by
  rw [fld_or, fld_and, h, Nat.and_zero, Nat.zero_or]

/-- A field outside the bits that are cleared and set. -/
theorem fld_kept {w clear set : Word} {hi lo : Nat} (h : fld (~~~clear) hi lo = 2 ^ (hi + 1 - lo) - 1) (hs : fld set hi lo = 0) :
    fld ((w &&& ~~~clear) ||| set) hi lo = fld w hi lo := by
  rw [fld_or, fld_and, h, hs, Nat.or_zero, Nat.and_two_pow_sub_one_eq_mod, fld, Nat.mod_mod]

/-! ### Requests withdrawn -/

/-- A word, or the same with its request withdrawn. -/
def Withdrawn (w v : Word) : Prop := v = w ∨ v = w &&& ~~~bTxreq

theorem Withdrawn.trans {w v u : Word} (a : Withdrawn w v) (b : Withdrawn v u) : Withdrawn w u := by
  rcases a with rfl | rfl
  · exact b
  · rcases b with rfl | rfl
    · exact .inr rfl
    · refine .inr ?_
      rw [BitVec.and_assoc, BitVec.and_self]

theorem Withdrawn.bit {w v : Word} (a : Withdrawn w v) {i : Nat} (hi : i < 32) (ne : i ≠ 27) : tst v i = tst w i := by
  rcases a with rfl | rfl
  · rfl
  · have kept : ∀ i, i < 32 → i ≠ 27 → (~~~bTxreq).getLsbD i = true := by decide
    simp only [tst, BitVec.getLsbD_and, kept i hi ne, Bool.and_true]

theorem Withdrawn.noRequest {w v : Word} (a : Withdrawn w v) (h : tst w 27 = false) : tst v 27 = false := by
  rcases a with rfl | rfl
  · exact h
  · simp only [tst, BitVec.getLsbD_and] at h ⊢
    rw [h, Bool.false_and]

theorem Withdrawn.fld {w v : Word} (a : Withdrawn w v) {hi lo : Nat} (h : Machine.fld (~~~bTxreq) hi lo = 2 ^ (hi + 1 - lo) - 1) :
    Machine.fld v hi lo = Machine.fld w hi lo := by
  rcases a with rfl | rfl
  · rfl
  · have kept := fld_kept (w := w) (set := 0) h (fld_zero ..)
    rwa [show w &&& ~~~bTxreq ||| 0 = w &&& ~~~bTxreq from BitVec.or_zero ..] at kept

/-- What happens to the buffers of both channels: at most, requests are withdrawn. -/
structure BuffersKept (s t : State) : Prop where
  wf : Memory.wf t.xsram = true
  words : ∀ ch b, b < 64 → Withdrawn (bufWord ch b 0 s) (bufWord ch b 0 t)

theorem BuffersKept.of_xsram {s t : State} (wf : Memory.wf s.xsram = true) (h : t.xsram = s.xsram) : BuffersKept s t :=
  ⟨by rwa [h], fun ch b _ => .inl (by rw [bufWord, h, bufWord])⟩

theorem BuffersKept.trans {s t u : State} (a : BuffersKept s t) (b : BuffersKept t u) : BuffersKept s u :=
  ⟨b.wf, fun ch k hk => (a.words ch k hk).trans (b.words ch k hk)⟩

theorem word_and_top (b0 b1 b2 b3 : Byte) : (((b0 &&& 0xF7) ++ b1 : BitVec 16) ++ (b2 ++ b3 : BitVec 16) : Word) =
    ((b0 ++ b1 : BitVec 16) ++ (b2 ++ b3 : BitVec 16) : Word) &&& ~~~bTxreq := by
  have bit : ∀ i, i < 32 → (~~~bTxreq).getLsbD i = if i < 24 then true else (0xF7#8).getLsbD (i - 24) := by decide
  apply BitVec.eq_of_getLsbD_eq
  intro i hi
  rw [BitVec.getLsbD_and, bit i hi]
  rw [BitVec.getLsbD_append, BitVec.getLsbD_append, BitVec.getLsbD_append, BitVec.getLsbD_append, BitVec.getLsbD_append, BitVec.getLsbD_append]
  by_cases h2 : i < 16
  · simp [h2, show i < 24 by omega]
  · by_cases h1 : i < 24
    · simp [h2, h1, show i - 16 < 8 by omega]
    · simp [h2, h1, show ¬ i - 16 < 8 by omega, show i - 16 - 8 = i - 24 by omega]

/-- Clearing one request bit. -/
theorem memWord_withdraw {x : Mem} (wf : Memory.wf x = true) {a a' : Nat} (apart : a' = a ∨ a' + 4 ≤ a ∨ a < a') :
    Withdrawn (memWord x a') (memWord (memWrite x a (memRead x a &&& 0xF7)) a') := by
  have read := fun y => memRead_memWrite wf a y (memRead x a &&& 0xF7)
  rcases apart with rfl | apart
  · refine .inr ?_
    simp only [memWord, memHalf]
    rw [read, read, read, read, if_pos rfl, if_neg (by omega), if_neg (by omega), if_neg (by omega)]
    exact word_and_top ..
  · refine .inl (memWord_congr fun i hi => ?_)
    rw [read, if_neg (by omega)]

theorem clearTxreq_withdrawn {x : Mem} (wf : Memory.wf x = true) (ch d : CanCh) {b : Nat} (hb : b < 64) :
    Withdrawn (memWord x (bufAddr d b)) (memWord (clearTxreq ch x) (bufAddr d b)) := by
  have fold : ∀ (l : List Nat) (x : Mem), Memory.wf x = true → (∀ k ∈ l, k < 64) → Withdrawn (memWord x (bufAddr d b))
      (memWord (l.foldl (fun x b => memWrite x (canBase ch + 80 * b) (memRead x (canBase ch + 80 * b) &&& 0xF7)) x) (bufAddr d b)) := by
    intro l
    induction l with
    | nil => exact fun _ _ _ => .inl rfl
    | cons k l ih =>
      intro x wf hl
      have hk := hl k (by simp)
      refine Withdrawn.trans (memWord_withdraw wf (a := canBase ch + 80 * k) ?_) (ih _ (memWrite_wf _ _ wf) fun j hj => hl j (by simp [hj]))
      simp only [bufAddr]
      cases ch <;> cases d <;> simp only [canBase] <;> omega
  exact fold (List.range 64) x wf fun k hk => List.mem_range.mp hk

theorem haltCan_kept {s : State} (wf : Memory.wf s.xsram = true) (ch : CanCh) : BuffersKept s (haltCan ch s) := by
  refine ⟨?_, fun d b hb => ?_⟩
  · rw [haltCan, State.updXsram_xsram, updCan_xsram]
    exact clearTxreq_wf ch wf
  · rw [bufWord, bufWord, haltCan, State.updXsram_xsram, updCan_xsram]
    exact clearTxreq_withdrawn wf ch d hb

theorem quietCan_kept {s : State} (wf : Memory.wf s.xsram = true) (ch : CanCh) : BuffersKept s (quietCan ch s) := by
  rcases quietCan_cases ch s with h | h | h <;> rw [h]
  · exact haltCan_kept wf ch
  · exact (BuffersKept.of_xsram (t := (drawFree s).2) wf rfl).trans (haltCan_kept (s := (drawFree s).2) wf ch)
  · exact .of_xsram wf (updCan_xsram ..)

/-- Images copied into place lie above the buffers. -/
theorem finishImages_kept {s : State} (wf : Memory.wf s.xsram = true) (p u : ImgWait → Bool) : BuffersKept s (finishImages p u s) := by
  have copy : ∀ t k w, BuffersKept s t → BuffersKept s (finishImage (u w) k w t) := fun t k w a => by
    refine a.trans ⟨finishImage_wf _ _ _ _ a.wf, fun d b hb => .inl ?_⟩
    refine memWord_congr fun i hi => ?_
    rw [finishImage, complete_xsram, State.updXsram_xsram, touchBlocks_xsram]
    refine memRead_memWriteBytes_outside a.wf _ _ _ (.inl ?_)
    simp only [bufAddr]
    cases d <;> simp only [canBase] <;> omega
  exact foldl_keeps (f := fun t (e : Nat × ImgWait) => finishImage (u e.2) e.1 e.2 t) (P := BuffersKept s)
    (fun t e a => copy t e.1 e.2 a) _ (BuffersKept.of_xsram wf rfl)

theorem abandonWork_xsram (s : State) : (abandonWork s).xsram = s.xsram := by
  rw [abandonWork, State.updFabric_xsram, State.updFloe_xsram, State.updTwin_xsram, State.updProg_xsram]

theorem enterSafe_kept {s : State} (wf : Memory.wf s.xsram = true) : BuffersKept s (enterSafe s) := by
  by_cases idle : s.mstate = .off ∨ s.mstate = .safe ∨ s.mstate = .frozen
  · rw [enterSafe, if_pos idle]
    exact .of_xsram wf rfl
  · rw [enterSafe_eq s idle]
    have images := finishImages_kept wf (fun _ => true) (fun _ => true)
    have ended : BuffersKept s (abandonWork (endOperations s)) := images.trans (.of_xsram images.wf ((abandonWork_xsram _).trans (endOperations_xsram s)))
    have first := ended.trans (quietCan_kept ended.wf .can1)
    have both := first.trans (quietCan_kept first.wf .can2)
    exact both.trans (.of_xsram both.wf rfl)

/-! ### The channel as SAFE is entered -/

theorem can_of_sameButCopies {s t : State} (h : sameButCopies s t) (ch : CanCh) : t.can ch = s.can ch := by
  cases ch
  · exact (congrArg State.can1 h :)
  · exact (congrArg State.can2 h :)

theorem can_updXsram (ch : CanCh) (f : Mem → Mem) (s : State) : (s.updXsram f).can ch = s.can ch := by cases ch <;> rfl

section
variable {P : CanSt → Prop} (stop : ∀ c, P c → P (stopCan c)) (wait : ∀ c, P c → P { c with wait := some .stop })
include stop wait

theorem can_quietCan {ch : CanCh} (d : CanCh) {s : State} (h : P (s.can ch)) : P ((quietCan d s).can ch) := by
  have drawn : (drawFree s).2.can ch = s.can ch := by cases ch <;> rfl
  have halted : ∀ u : State, P (u.can ch) → P ((haltCan d u).can ch) := fun u hu => by
    rw [haltCan, can_updXsram]
    by_cases e : ch = d
    · subst e
      rw [can_updCan_same]
      exact stop _ hu
    · rwa [can_updCan_other e]
  rcases quietCan_cases d s with e | e | e <;> rw [e]
  · exact halted s h
  · exact halted _ (drawn ▸ h)
  · by_cases e : ch = d
    · subst e
      rw [can_updCan_same, drawn]
      exact wait _ h
    · rwa [can_updCan_other e, drawn]

/-- Entry into SAFE stops a channel or lets it end its frame. -/
theorem can_enterSafe {ch : CanCh} {s : State} (h : P (s.can ch)) : P ((enterSafe s).can ch) := by
  by_cases idle : s.mstate = .off ∨ s.mstate = .safe ∨ s.mstate = .frozen
  · rwa [enterSafe, if_pos idle]
  · rw [enterSafe_eq s idle]
    have copies : sameButCopies s (endOperations s) :=
      ((finishImages_copies (fun _ => true) (fun _ => true) s).trans (failPending_ports .host _).copies).trans
        ((failPending_ports .maint _).trans ((sameButPorts_updHif _ _).trans (sameButPorts_updHif _ _))).copies
    have kept : (endOperations s).can ch = s.can ch := can_of_sameButCopies copies ch
    have aside : (abandonWork (endOperations s)).can ch = (endOperations s).can ch := by
      cases ch
      · simp only [State.can, abandonWork, State.updFabric_can1, State.updFloe_can1, State.updTwin_can1, State.updProg_can1]
      · simp only [State.can, abandonWork, State.updFabric_can2, State.updFloe_can2, State.updTwin_can2, State.updProg_can2]
    have entered : ∀ u : State, (enterState .safe u).can ch = u.can ch := fun u => by cases ch <;> rfl
    have lines : ∀ (f : Io → Io) (u : State), (u.updIo f).can ch = u.can ch := fun f u => by cases ch <;> rfl
    have quiet := can_quietCan stop wait .can2 (can_quietCan stop wait .can1 (aside.trans kept ▸ h))
    rwa [entered, lines, abandonAll_eq]

end

/-! ### A fault of a channel -/

section
variable {ch : CanCh} {P : State → Prop} (same : ∀ s t : State, t.xsram = s.xsram → t.can1 = s.can1 → t.can2 = s.can2 → P s → P t)
  (safe : ∀ s, P s → P (enterSafe s)) (halt : ∀ s, P s → P (s.updCan ch fun x => { stopCan x with halted := true }))
include same safe halt

/-- What holds whatever else changes holds after the decision on a fault of a channel, if entry into SAFE and the channel's halt keep it. -/
theorem decideBase_can (second : State → State) (code : Nat) (broken forced : Bool) (detail : Word) (specific : Option Half) {s : State}
    (h : P s) : P (decideBase second (canSource ch) code broken forced detail specific s) := by
  have target : classThreeTarget (canSource ch) = some (.can ch) := by cases ch <;> rfl
  have noted : ∀ d, P (noteFault d (canSource ch) code broken forced detail s) := fun d => same s _ rfl rfl rfl h
  have locked : ∀ cls cause u, P u → P (lockDecided cls (canSource ch) cause u) := fun cls cause u hu => by
    have frame := lockDecided_frame cls (canSource ch) cause u
    exact same u _ (congrArg State.xsram frame :) (congrArg State.can1 frame :) (congrArg State.can2 frame :) hu
  rw [decideBase_eq]
  dsimp only
  rw [decisionEffect]
  split
  · exact safe _ (locked _ _ _ (noted _))
  · split
    · rw [target]
      exact halt _ (locked _ _ _ (noted _))
    · exact locked _ _ _ (noted _)

theorem changeBase_can (second : State → State) (code : Nat) (forced : Bool) (detail : Word) (specific : Option Half) (endMs : Nat) {s : State}
    (h : P s) : P (changeBase second (canSource ch) code forced detail specific endMs s) := by
  unfold changeBase
  dsimp only
  split
  · exact decideBase_can same safe halt _ _ _ _ _ _ (same s _ rfl rfl rfl h)
  · split <;> exact same s _ rfl rfl rfl h

theorem raiseOpen_can (code : Nat) (specific : Option Half) {s : State} (h : P s) : P (raiseOpen (canSource ch) code specific s) := by
  have listed : sourceListed (canSource ch) = true := by cases ch <;> rfl
  have drawn : P (drawFree s).2 := same s _ rfl rfl rfl h
  have upd : ∀ (f : FcuSource → FcuSource) (u : State), P u → P (u.updSource (canSource ch) f) := fun f u hu => same u _ rfl rfl rfl hu
  change P (presentPattern (canSource ch) 2 code _ specific (drawFree s).2)
  rw [presentPattern, if_pos listed, presentBase]
  dsimp only
  split
  · exact drawn
  · refine changeBase_can same safe halt _ _ _ _ _ _ (upd _ _ ?_)
    split
    · exact changeBase_can same safe halt _ _ _ _ _ _ (upd _ _ drawn)
    · exact drawn

end

theorem raiseOpen_can_kept {s : State} (wf : Memory.wf s.xsram = true) (ch : CanCh) (code : Nat) (specific : Option Half) :
    BuffersKept s (raiseOpen (canSource ch) code specific s) :=
  raiseOpen_can (P := BuffersKept s) (fun u t x _ _ a => a.trans (.of_xsram a.wf x)) (fun u a => a.trans (enterSafe_kept a.wf))
    (fun u a => a.trans (.of_xsram a.wf (updCan_xsram ..))) code specific (.of_xsram wf rfl)

/-! ### A frame received -/

theorem filterMatches_congr {c d : CanSt} (h : c.cfg = d.cfg) (w : Word) (b : Nat) : filterMatches c w b = filterMatches d w b := by
  simp only [filterMatches, canDir, canFilterIde, canMask, canFilterId, canW, h]


theorem confine_fields (c : CanSt) : (confine c).cfg = c.cfg ∧ (confine c).wait = c.wait ∧ (confine c).rxOk = c.rxOk := by
  unfold confine
  split <;> exact ⟨rfl, rfl, rfl⟩

/-- The channel's own state after a frame well received: its counters and its confinement. -/
theorem receivedWell_parts (ch : CanCh) (s : State) :
    (receivedWell ch s).xsram = s.xsram ∧ (∀ d, d ≠ ch → (receivedWell ch s).can d = s.can d) ∧
      ((receivedWell ch s).can ch).cfg = (s.can ch).cfg ∧ ((receivedWell ch s).can ch).wait = (s.can ch).wait ∧
      ((receivedWell ch s).can ch).rxOk = (s.can ch).rxOk ∧
      { receivedWell ch s with can1 := s.can1, can2 := s.can2, freeCtr := s.freeCtr } = s := by
  have drawn : ∀ d, (drawFree s).2.can d = s.can d := fun d => by cases d <;> rfl
  have kept : ∀ (c : CanSt) n, (confine { c with recv := n }).cfg = c.cfg ∧ (confine { c with recv := n }).wait = c.wait ∧
      (confine { c with recv := n }).rxOk = c.rxOk := fun c n => confine_fields { c with recv := n }
  have stepped : ∀ (n : CanSt → Nat) (u : State), u.xsram = s.xsram → (∀ d, u.can d = s.can d) → { u with freeCtr := s.freeCtr } = s →
      (u.updCan ch fun c => confine { c with recv := n c }).xsram = s.xsram ∧
      (∀ d, d ≠ ch → (u.updCan ch fun c => confine { c with recv := n c }).can d = s.can d) ∧
      ((u.updCan ch fun c => confine { c with recv := n c }).can ch).cfg = (s.can ch).cfg ∧
      ((u.updCan ch fun c => confine { c with recv := n c }).can ch).wait = (s.can ch).wait ∧
      ((u.updCan ch fun c => confine { c with recv := n c }).can ch).rxOk = (s.can ch).rxOk ∧
      { (u.updCan ch fun c => confine { c with recv := n c }) with can1 := s.can1, can2 := s.can2, freeCtr := s.freeCtr } = s := by
    intro n u hx hc hf
    obtain ⟨cfg, wait, rxOk⟩ := kept (s.can ch) (n (s.can ch))
    refine ⟨(updCan_xsram ..).trans hx, fun d h => (can_updCan_other h _ u).trans (hc d), ?_, ?_, ?_, ?_⟩
    · rw [can_updCan_same, hc, cfg]
    · rw [can_updCan_same, hc, wait]
    · rw [can_updCan_same, hc, rxOk]
    · have c1 : u.can1 = s.can1 := hc .can1
      have c2 : u.can2 = s.can2 := hc .can2
      refine Eq.trans ?_ hf
      rw [← c1, ← c2]
      exact congrArg (fun v : State => { v with freeCtr := s.freeCtr }) (updCan_frame ch _ u)
  unfold receivedWell
  split
  · exact stepped _ (drawFree s).2 rfl drawn rfl
  · exact stepped _ s rfl (fun _ => rfl) rfl

/-- The first of the numbers below n with both properties, found among those with the one. -/
theorem find_lowest {n b : Nat} {p q r : Nat → Bool} (hb : b < n) (hp : p b = true) (hq : q b = true) (hr : r b = true)
    (first : ∀ k, k < b → p k = true → q k = true → r k = false) : (((List.range n).filter p).filter q).find? r = some b := by
  rw [List.filter_filter, List.find?_filter, List.find?_range_eq_some]
  refine ⟨?_, by simpa using hb, fun k hk => ?_⟩
  · simp [hp, hq, hr]
  · by_cases hpk : p k = true
    · by_cases hqk : q k = true
      · simp [first k hk hpk hqk]
      · simp [hqk]
    · simp [hpk]

/-- A frame goes to the lowest buffer that matches it and is free. -/
theorem storeFrame_stores {ch : CanCh} {w1 : Word} {b : Nat} {s : State} (hb : b < 64) (hit : filterMatches (s.can ch) w1 b = true)
    (unlocked : bufHas ch b bLock s = false) (old : bufHas ch b bNew s = false)
    (first : ∀ k, k < b → filterMatches (s.can ch) w1 k = true → bufHas ch k bLock s = true ∨ bufHas ch k bNew s = true)
    (w2 sof : Word) (data : List Byte) : storeFrame ch w1 w2 sof data s = storeIn ch b false w1 w2 sof data s := by
  have find : ((((List.range 64).filter (filterMatches (s.can ch) w1)).filter fun b => !bufHas ch b bLock s).find? fun b => !bufHas ch b bNew s) = some b := by
    refine find_lowest hb hit (by simp [unlocked]) (by simp [old]) fun k hk hit free => ?_
    rcases first k hk hit with h | h
    · simp [h] at free
    · simp [h]
  rw [storeFrame, find]

theorem storeIn_parts {s : State} (wf : Memory.wf s.xsram = true) (ch : CanCh) (b : Nat) (w1 w2 sof : Word) (data : List Byte) :
    bufHas ch b bNew (storeIn ch b false w1 w2 sof data s) = true ∧ bufWord ch b 1 (storeIn ch b false w1 w2 sof data s) = w1 ∧
      bufWord ch b 2 (storeIn ch b false w1 w2 sof data s) = w2 ∧ bufWord ch b 3 (storeIn ch b false w1 w2 sof data s) = sof ∧
      memBytes (storeIn ch b false w1 w2 sof data s).xsram (bufAddr ch b + 16) 64 = slice data 0 64 ∧
      (∀ a, a < bufAddr ch b ∨ bufAddr ch b + 80 ≤ a → memRead (storeIn ch b false w1 w2 sof data s).xsram a = memRead s.xsram a) := by
  have wf1 := fillBuf_wf wf ch b w1 w2 sof data
  refine ⟨?_, ?_, ?_, ?_, ?_, fun a h => ?_⟩
  · rw [has_new, storeIn, bufWord_updCan, tst_markBuf wf1 _ _ _ _ (by decide)]
    simp [bNew, tst]
  · rw [storeIn, bufWord_updCan, bufWord_markBuf_other wf1 _ (by decide) (.inr (by decide)), bufWord_fillBuf wf ch b w1 w2 sof data (i := 0) (by decide)]
    rfl
  · rw [storeIn, bufWord_updCan, bufWord_markBuf_other wf1 _ (by decide) (.inr (by decide)), bufWord_fillBuf wf ch b w1 w2 sof data (i := 1) (by decide)]
    rfl
  · rw [storeIn, bufWord_updCan, bufWord_markBuf_other wf1 _ (by decide) (.inr (by decide)), bufWord_fillBuf wf ch b w1 w2 sof data (i := 2) (by decide)]
    rfl
  · rw [storeIn, updCan_xsram, markBuf, memBytes_setBufWord wf1 _ _ (by decide), memBytes_fillBuf wf]
  · rw [storeIn, updCan_xsram, markBuf, setBufWord_outside wf1 _ _ _ (by omega), fillBuf_outside wf _ _ _ _ _ _ (by omega)]

theorem can_storeIn (ch : CanCh) (b : Nat) (ovr : Bool) (w1 w2 sof : Word) (data : List Byte) (s : State) :
    (storeIn ch b ovr w1 w2 sof data s).can ch = { s.can ch with rxOk := satInc 0xFFFFFFFF (s.can ch).rxOk } := by
  rw [storeIn, can_updCan_same, can_markBuf, can_fillBuf]

theorem storeIn_frame (ch : CanCh) (b : Nat) (ovr : Bool) (w1 w2 sof : Word) (data : List Byte) (s : State) :
    (∀ d, d ≠ ch → (storeIn ch b ovr w1 w2 sof data s).can d = s.can d) ∧
      { storeIn ch b ovr w1 w2 sof data s with xsram := s.xsram, can1 := s.can1, can2 := s.can2 } = s := by
  refine ⟨fun d h => ?_, ?_⟩
  · rw [storeIn, can_updCan_other h, can_markBuf, can_fillBuf]
  · have aside := congrArg (fun v : State => { v with xsram := s.xsram, can1 := s.can1, can2 := s.can2 })
      (updCan_frame ch (fun c => { c with rxOk := satInc 0xFFFFFFFF c.rxOk }) (markBuf ch b 0 (bNew ||| if ovr then bOvr else 0) (fillBuf ch b w1 w2 sof data s)))
    have written : ∀ (f : Mem → Mem) (u : State), { u.updXsram f with xsram := s.xsram, can1 := s.can1, can2 := s.can2 } =
        { u with xsram := s.xsram, can1 := s.can1, can2 := s.can2 } := fun _ _ => rfl
    rw [storeIn, aside, markBuf, setBufWord, written, fillBuf, written]

theorem frameDone_idle {ch : CanCh} {s : State} (h : (s.can ch).wait = none) : frameDone ch s = s := by
  rw [frameDone, h]

/-- What a received frame leaves of the channel. -/
theorem storeFrame_can (ch : CanCh) (w1 w2 sof : Word) (data : List Byte) (s : State) :
    ((storeFrame ch w1 w2 sof data s).can ch).txOk = (s.can ch).txOk ∧ ((storeFrame ch w1 w2 sof data s).can ch).wait = (s.can ch).wait := by
  unfold storeFrame
  dsimp only
  split
  · rw [can_storeIn]
    exact ⟨rfl, rfl⟩
  · split
    · rw [can_storeIn]
      exact ⟨rfl, rfl⟩
    · split
      · rw [can_markBuf, can_updCan_same]
        exact ⟨rfl, rfl⟩
      · exact ⟨rfl, rfl⟩

/-! ### A frame sent -/

/-- A transmission entered in its buffer and counted (R377, R379). -/
def sentEntered (ch : CanCh) (b : Nat) (sof delay : Word) (s : State) : State :=
  (setBufWord ch b 3 sof (markBuf ch b (bTxreq ||| bColl) bTxok s)).updCan ch fun c =>
    confine { c with txOk := satInc 0xFFFFFFFF c.txOk, tec := c.tec - 1, oneShot := c.oneShot &&& ~~~oneShotBit b,
                     tdcMeas := if canTdc c && tst (bufWord ch b 2 s) 31 then delay else c.tdcMeas }

theorem sentBuf_eq (ch : CanCh) (b : Nat) (sof delay : Word) (s : State) :
    sentBuf ch b sof delay s = endAttempt ch (if canMode (s.can ch) = 2 then
      storeFrame ch (bufWord ch b 1 s) (bufWord ch b 2 s) sof
        ((memBytes (sentEntered ch b sof delay s).xsram (bufAddr ch b + 16) 64).take
          (frameBytes (tst (bufWord ch b 1 s) 30) (tst (bufWord ch b 2 s) 31) (fld (bufWord ch b 2 s) 3 0))) (sentEntered ch b sof delay s)
      else sentEntered ch b sof delay s) := by
  rw [sentBuf, sentEntered]
  trace_state

theorem can_sentEntered (ch : CanCh) (b : Nat) (sof delay : Word) (s : State) :
    ((sentEntered ch b sof delay s).can ch).txOk = satInc 0xFFFFFFFF (s.can ch).txOk ∧
      ((sentEntered ch b sof delay s).can ch).tec = (s.can ch).tec - 1 ∧ ((sentEntered ch b sof delay s).can ch).wait = (s.can ch).wait ∧
      ∀ d, d ≠ ch → (sentEntered ch b sof delay s).can d = s.can d := by
  have confined : ∀ c, (confine c).txOk = c.txOk ∧ (confine c).tec = c.tec ∧ (confine c).wait = c.wait := fun c => by
    unfold confine
    split <;> exact ⟨rfl, rfl, rfl⟩
  refine ⟨?_, ?_, ?_, fun d h => ?_⟩
  · rw [sentEntered, can_updCan_same, (confined _).1, can_setBufWord, can_markBuf]
  · rw [sentEntered, can_updCan_same, (confined _).2.1, can_setBufWord, can_markBuf]
  · rw [sentEntered, can_updCan_same, (confined _).2.2, can_setBufWord, can_markBuf]
  · rw [sentEntered, can_updCan_other h, can_setBufWord, can_markBuf]

/-- The end of an attempt changes the buffer on the bus alone. -/
theorem endAttempt_eq (ch : CanCh) (s : State) : ∃ o, endAttempt ch s = s.updCan ch fun c => { c with cur := o } := by
  rw [endAttempt]
  rcases loadBus_cases ch (s.updCan ch fun c => { c with cur := none }) with h | h <;> rw [h]
  · exact ⟨none, rfl⟩
  · exact ⟨nextBuf ch (s.updCan ch fun c => { c with cur := none }), by cases ch <;> rfl⟩

theorem sentEntered_words {s : State} (wf : Memory.wf s.xsram = true) (ch : CanCh) (b : Nat) (sof delay : Word) :
    bufWord ch b 0 (sentEntered ch b sof delay s) = (bufWord ch b 0 s &&& ~~~(bTxreq ||| bColl)) ||| bTxok ∧
      bufWord ch b 3 (sentEntered ch b sof delay s) = sof := by
  have wf1 : Memory.wf (markBuf ch b (bTxreq ||| bColl) bTxok s).xsram = true := setBufWord_wf wf ..
  refine ⟨?_, ?_⟩
  · rw [sentEntered, bufWord_updCan, bufWord_setBufWord_other wf1 _ (by decide) (by decide) (.inr (by decide)), bufWord_markBuf wf]
  · rw [sentEntered, bufWord_updCan, bufWord_setBufWord wf1]

theorem sentEntered_outside {s : State} (wf : Memory.wf s.xsram = true) (ch : CanCh) (b : Nat) (sof delay : Word) {a : Nat}
    (h : a < bufAddr ch b ∨ bufAddr ch b + 80 ≤ a) : memRead (sentEntered ch b sof delay s).xsram a = memRead s.xsram a := by
  have wf1 : Memory.wf (markBuf ch b (bTxreq ||| bColl) bTxok s).xsram = true := setBufWord_wf wf ..
  rw [sentEntered, updCan_xsram, setBufWord_outside wf1 _ _ _ (by omega), markBuf, setBufWord_outside wf _ _ _ (by omega)]

theorem exec_canTxComplete {ch : CanCh} {b : Fin 64} {s : State} (up : canUp ch s = true) (mode : canMode (s.can ch) ≠ 1)
    (sendable : mayBeSent ch b.val s = true) (sof delay : Word) :
    exec (.canTxComplete ch b sof delay) s = .next (frameDone ch (sentBuf ch b.val sof delay s)) :=
  congrArg Host.Outcome.next (if_pos (by simp [up, sendable, mode]))

theorem sentClause {ch : CanCh} {s : State} (up : canUp ch s = true) (idle : (s.can ch).wait = none) (wf : Memory.wf s.xsram = true)
    (b : Fin 64) (sof delay : Word) (mode : canMode (s.can ch) = 0) (sendable : mayBeSent ch b.val s = true) :
    ∃ t, exec (.canTxComplete ch b sof delay) s = .next t ∧ bufHas ch b.val bTxreq t = false ∧
        bufHas ch b.val bTxok t = true ∧ bufWord ch b.val 3 t = sof ∧ bufColl ch b.val t = 0 ∧
        (t.can ch).txOk = satInc 0xFFFFFFFF (s.can ch).txOk ∧ (t.can ch).tec = (s.can ch).tec - 1 ∧
        (∀ d, d ≠ ch → t.can d = s.can d) ∧
        (∀ a, a < bufAddr ch b.val ∨ bufAddr ch b.val + 80 ≤ a → memRead t.xsram a = memRead s.xsram a) ∧
        { t with xsram := s.xsram, can1 := s.can1, can2 := s.can2 } = s := by
  have run := exec_canTxComplete up (by omega) sendable sof delay
  obtain ⟨o, ended⟩ := endAttempt_eq ch (sentEntered ch b.val sof delay s)
  obtain ⟨txOk, tec, wait, others⟩ := can_sentEntered ch b.val sof delay s
  obtain ⟨w0, w3⟩ := sentEntered_words wf ch b.val sof delay
  refine ⟨(sentEntered ch b.val sof delay s).updCan ch fun c => { c with cur := o }, ?_, ?_, ?_, ?_, ?_, ?_, ?_, fun d h => ?_, fun a h => ?_, ?_⟩
  · rw [run, sentBuf_eq, if_neg (by omega), ended, frameDone_idle ((congrArg CanSt.wait (can_updCan_same ..)).trans (wait.trans idle))]
  · rw [has_txreq, bufWord_updCan, w0, tst_marked _ _ _ (by decide)]
    simp [bTxreq, bTxok, bColl, tst]
  · rw [has_txok, bufWord_updCan, w0, tst_marked _ _ _ (by decide)]
    simp [bTxreq, bTxok, bColl, tst]
  · rw [bufWord_updCan, w3]
  · rw [bufColl, bufWord_updCan, w0, fld_cleared (by decide)]
    decide
  · rw [can_updCan_same, txOk]
  · rw [can_updCan_same, tec]
  · rw [can_updCan_other h, others d h]
  · rw [updCan_xsram, sentEntered_outside wf ch b.val sof delay h]
  · have aside := fun f u => congrArg (fun v : State => { v with xsram := s.xsram, can1 := s.can1, can2 := s.can2 }) (updCan_frame ch f u)
    exact (aside _ (sentEntered ch b.val sof delay s)).trans (aside _ (setBufWord ch b.val 3 sof (markBuf ch b.val (bTxreq ||| bColl) bTxok s)))

theorem sentLoopback {ch : CanCh} {s : State} (up : canUp ch s = true) (idle : (s.can ch).wait = none)
    (b : Fin 64) (sof delay : Word) (mode : canMode (s.can ch) = 2) (sendable : mayBeSent ch b.val s = true) :
    ∃ t, exec (.canTxComplete ch b sof delay) s = .next t ∧ (t.can ch).txOk = satInc 0xFFFFFFFF (s.can ch).txOk := by
  obtain ⟨txOk, -, wait, -⟩ := can_sentEntered ch b.val sof delay s
  have stored := fun data => storeFrame_can ch (bufWord ch b.val 1 s) (bufWord ch b.val 2 s) sof data (sentEntered ch b.val sof delay s)
  refine ⟨_, exec_canTxComplete up (by omega) sendable sof delay, ?_⟩
  rw [sentBuf_eq, if_pos mode]
  obtain ⟨o, ended⟩ := endAttempt_eq ch (storeFrame ch (bufWord ch b.val 1 s) (bufWord ch b.val 2 s) sof
      ((memBytes (sentEntered ch b.val sof delay s).xsram (bufAddr ch b.val + 16) 64).take
        (frameBytes (tst (bufWord ch b.val 1 s) 30) (tst (bufWord ch b.val 2 s) 31) (fld (bufWord ch b.val 2 s) 3 0)))
      (sentEntered ch b.val sof delay s))
  rw [ended, frameDone_idle ((congrArg CanSt.wait (can_updCan_same ..)).trans ((stored _).2.trans (wait.trans idle))), can_updCan_same]
  exact (stored _).1.trans txOk

/-! ### A collision -/

/-- No record waits at the channel: at most its stop does. -/
def NoLoadWaits (c : CanSt) : Prop := c.wait = none ∨ c.wait = some .stop

theorem raiseOpen_noLoadWaits {ch : CanCh} {s : State} (h : NoLoadWaits (s.can ch)) (code : Nat) (specific : Option Half) :
    NoLoadWaits ((raiseOpen (canSource ch) code specific s).can ch) := by
  refine raiseOpen_can (P := fun s => NoLoadWaits (s.can ch)) (fun u t _ h1 h2 hu => ?_)
    (fun u hu => can_enterSafe (fun _ _ => .inl rfl) (fun _ _ => .inr rfl) hu) (fun u _ => ?_) code specific h
  · have same : t.can ch = u.can ch := by
      cases ch
      · exact h1
      · exact h2
    rwa [same]
  · rw [can_updCan_same]
    exact .inl rfl

theorem frameDone_kept {ch : CanCh} {s : State} (wf : Memory.wf s.xsram = true) (h : NoLoadWaits (s.can ch)) : BuffersKept s (frameDone ch s) := by
  rcases h with h | h <;> rw [frameDone, h]
  · exact .of_xsram wf rfl
  · exact haltCan_kept wf ch

theorem endAttempt_noLoadWaits {ch : CanCh} {s : State} (h : NoLoadWaits (s.can ch)) : NoLoadWaits ((endAttempt ch s).can ch) := by
  obtain ⟨o, e⟩ := endAttempt_eq ch s
  rw [e, can_updCan_same]
  exact h

/-- A collision entered in its buffer and counted. -/
def collided (ch : CanCh) (b : Nat) (s : State) : State :=
  addTec ch (markBuf ch b bColl (at32 19 (min 16 (bufColl ch b s + 1))) (s.updCan ch fun c => { c with lec := 4 }))

theorem collide_again {ch : CanCh} {b : Nat} {s : State} (h : bufColl ch b s < 15) : collide ch b s = retry ch b (collided ch b s) :=
  if_pos (by omega)

theorem collide_last {ch : CanCh} {b : Nat} {s : State} (h : 15 ≤ bufColl ch b s) : collide ch b s =
    endAttempt ch (suspendBuf ch b (if 256 ≤ ((collided ch b s).can ch).tec then enterBusOff ch (collided ch b s) else collided ch b s)) :=
  if_neg (by omega)

theorem can_collided (ch : CanCh) (b : Nat) (s : State) :
    ((collided ch b s).can ch).tec = min 256 ((s.can ch).tec + 8) ∧ ((collided ch b s).can ch).wait = (s.can ch).wait := by
  have confined : ∀ c, (confine c).tec = c.tec ∧ (confine c).wait = c.wait := fun c => by
    unfold confine
    split <;> exact ⟨rfl, rfl⟩
  rw [collided, addTec, can_updCan_same, (confined _).1, (confined _).2, can_markBuf, can_updCan_same]
  exact ⟨rfl, rfl⟩

section
variable {s : State} (wf : Memory.wf s.xsram = true) (ch : CanCh) (b : Nat)
include wf

theorem markBuf_wf (clear set : Word) : Memory.wf (markBuf ch b clear set s).xsram = true := setBufWord_wf wf ..

theorem collided_wf : Memory.wf (collided ch b s).xsram = true := by
  rw [collided, addTec, updCan_xsram]
  exact markBuf_wf (by rwa [updCan_xsram]) ..

theorem bufColl_collided : bufColl ch b (collided ch b s) = min 16 (bufColl ch b s + 1) := by
  rw [bufColl, collided, addTec, bufWord_updCan, bufWord_markBuf (by rwa [updCan_xsram]), fld_cleared (by decide)]
  exact fld_at32_field (k := 5) (by omega) (by decide) (by decide)

/-- The buffer of the sixteenth collision is suspended. -/
theorem suspendBuf_parts (hb : b < 64) (idle : NoLoadWaits (s.can ch)) :
    tst (bufWord ch b 0 (suspendBuf ch b s)) 28 = true ∧ tst (bufWord ch b 0 (suspendBuf ch b s)) 27 = false ∧
      bufColl ch b (suspendBuf ch b s) = bufColl ch b s ∧ Memory.wf (suspendBuf ch b s).xsram = true ∧ NoLoadWaits ((suspendBuf ch b s).can ch) := by
  have wf1 : Memory.wf ((markBuf ch b bTxreq bSusp s).updCan ch fun c => { c with collSusp := satInc 0xFFFF c.collSusp }).xsram = true := by
    rw [updCan_xsram]
    exact markBuf_wf wf ..
  have idle1 : NoLoadWaits (((markBuf ch b bTxreq bSusp s).updCan ch fun c => { c with collSusp := satInc 0xFFFF c.collSusp }).can ch) := by
    rw [can_updCan_same, can_markBuf]
    exact idle
  have noted : ∀ (n : Nat) (u : State), (record 0x0B02 1 (canSource ch) n b 0 0 u).xsram = u.xsram ∧ (record 0x0B02 1 (canSource ch) n b 0 0 u).can ch = u.can ch :=
    fun n u => ⟨rfl, by cases ch <;> rfl⟩
  obtain ⟨nx, nc⟩ := noted (idOf (bufWord ch b 1 ((markBuf ch b bTxreq bSusp s).updCan ch fun c => { c with collSusp := satInc 0xFFFF c.collSusp })))
    ((markBuf ch b bTxreq bSusp s).updCan ch fun c => { c with collSusp := satInc 0xFFFF c.collSusp })
  have kept := (BuffersKept.of_xsram wf1 nx).trans (raiseOpen_can_kept (nx ▸ wf1) ch 1 none)
  have first := kept.words ch b hb
  rw [bufWord_updCan] at first
  have coll : bufColl ch b (suspendBuf ch b s) = fld (bufWord ch b 0 (markBuf ch b bTxreq bSusp s)) 23 19 := first.fld (by decide) 
  refine ⟨(first.bit (by decide) (by decide)).trans ?_, first.noRequest ?_, coll.trans ?_, kept.wf, raiseOpen_noLoadWaits (nc ▸ idle1) 1 none⟩
  · rw [tst_markBuf wf _ _ _ _ (by decide)]
    simp [bSusp, tst]
  · rw [tst_markBuf wf _ _ _ _ (by decide)]
    simp [bTxreq, bSusp, tst]
  · rw [bufWord_markBuf wf, fld_kept (by decide) (by decide), bufColl]

end

theorem enterBusOff_kept {ch : CanCh} {s : State} (wf : Memory.wf s.xsram = true) (idle : NoLoadWaits (s.can ch)) :
    BuffersKept s (enterBusOff ch s) ∧ NoLoadWaits ((enterBusOff ch s).can ch) := by
  have stopped : ∀ f : CanSt → CanSt, (∀ c, NoLoadWaits c → NoLoadWaits (f c)) → ∀ m n k u v,
      BuffersKept s (record m n (canSource ch) k u 0 v (s.updCan ch f)) ∧ NoLoadWaits ((record m n (canSource ch) k u 0 v (s.updCan ch f)).can ch) := by
    intro f hf m n k u v
    refine ⟨.of_xsram wf (updCan_xsram ..), ?_⟩
    have same : (record m n (canSource ch) k u 0 v (s.updCan ch f)).can ch = (s.updCan ch f).can ch := by cases ch <;> rfl
    rw [same, can_updCan_same]
    exact hf _ idle
  obtain ⟨kept, waits⟩ := stopped (fun c => { c with st := if canHoldMs c = 0 then .busOff else .busOffHold, busOffCnt := satInc 0xFFFF c.busOffCnt, cur := none })
    (fun _ h => h) 0x0B01 1 (s.can ch).tec (s.can ch).recv 0
  exact ⟨kept.trans (raiseOpen_can_kept kept.wf ch 1 none), raiseOpen_noLoadWaits waits 1 none⟩

theorem exec_canCollision {ch : CanCh} {b : Fin 64} {s : State} (up : canUp ch s = true) (mode : canMode (s.can ch) ≠ 1)
    (sendable : mayBeSent ch b.val s = true) : exec (.canCollision ch b) s = .next (frameDone ch (collide ch b.val s)) :=
  congrArg Host.Outcome.next (if_pos (by simp [up, sendable, mode]))

/-- An attempt to be repeated: the request may be withdrawn, nothing else of the buffer changes. -/
theorem retry_eq (ch : CanCh) (b : Nat) (s : State) : ∃ o, retry ch b s = s.updCan ch (fun c => { c with cur := o }) ∨
    retry ch b s = (markBuf ch b bTxreq 0 s).updCan ch (fun c => { c with cur := o }) := by
  unfold retry
  split
  · obtain ⟨o, e⟩ := endAttempt_eq ch (markBuf ch b bTxreq 0 s)
    exact ⟨o, .inr e⟩
  · obtain ⟨o, e⟩ := endAttempt_eq ch s
    exact ⟨o, .inl e⟩

theorem retry_parts {s : State} (wf : Memory.wf s.xsram = true) (ch : CanCh) (b : Nat) : bufColl ch b (retry ch b s) = bufColl ch b s ∧
    ((retry ch b s).can ch).tec = (s.can ch).tec ∧ ((retry ch b s).can ch).wait = (s.can ch).wait := by
  obtain ⟨o, e | e⟩ := retry_eq ch b s <;> rw [e, bufColl, bufWord_updCan, can_updCan_same]
  · exact ⟨rfl, rfl, rfl⟩
  · rw [bufWord_markBuf wf, fld_kept (by decide) (fld_zero ..), can_markBuf]
    exact ⟨rfl, rfl, rfl⟩

theorem collisionClause {ch : CanCh} {s : State} (up : canUp ch s = true) (idle : (s.can ch).wait = none) (wf : Memory.wf s.xsram = true)
    (b : Fin 64) (mode : canMode (s.can ch) ≠ 1) (sendable : mayBeSent ch b.val s = true) :
    ∃ t, exec (.canCollision ch b) s = .next t ∧ bufColl ch b.val t = min 16 (bufColl ch b.val s + 1) ∧
        (15 ≤ bufColl ch b.val s → bufHas ch b.val bSusp t = true ∧ bufHas ch b.val bTxreq t = false) ∧
        (bufColl ch b.val s < 15 → (t.can ch).tec = min 256 ((s.can ch).tec + 8)) := by
  refine ⟨_, exec_canCollision up mode sendable, ?_⟩
  obtain ⟨tec, wait⟩ := can_collided ch b.val s
  have wf1 := collided_wf wf ch b.val
  by_cases h : bufColl ch b.val s < 15
  · obtain ⟨coll, tec', wait'⟩ := retry_parts wf1 ch b.val
    rw [collide_again h, frameDone_idle (wait'.trans (wait.trans idle)), coll, bufColl_collided wf, tec', tec]
    exact ⟨rfl, fun h' => absurd h (by omega), fun _ => rfl⟩
  · have waits1 : NoLoadWaits ((collided ch b.val s).can ch) := .inl (wait.trans idle)
    have reached : ∃ v, BuffersKept (collided ch b.val s) v ∧ NoLoadWaits (v.can ch) ∧ collide ch b.val s = endAttempt ch (suspendBuf ch b.val v) := by
      rw [collide_last (by omega)]
      split
      · exact ⟨_, (enterBusOff_kept wf1 waits1).1, (enterBusOff_kept wf1 waits1).2, rfl⟩
      · exact ⟨_, .of_xsram wf1 rfl, waits1, rfl⟩
    obtain ⟨v, kept, waits, e⟩ := reached
    obtain ⟨susp, txreq, coll, wf2, waits2⟩ := suspendBuf_parts kept.wf ch b.val b.isLt waits
    have ended : BuffersKept (suspendBuf ch b.val v) (frameDone ch (endAttempt ch (suspendBuf ch b.val v))) :=
      (BuffersKept.of_xsram wf2 (endAttempt_xsram ..)).trans (frameDone_kept (by rwa [endAttempt_xsram]) (endAttempt_noLoadWaits waits2))
    have word := ended.words ch b.val b.isLt
    rw [e]
    refine ⟨?_, fun _ => ⟨?_, ?_⟩, fun h' => absurd h' h⟩
    · calc bufColl ch b.val (frameDone ch (endAttempt ch (suspendBuf ch b.val v)))
          = bufColl ch b.val (suspendBuf ch b.val v) := word.fld (by decide)
        _ = bufColl ch b.val (collided ch b.val s) := coll.trans ((kept.words ch b.val b.isLt).fld (by decide))
        _ = _ := bufColl_collided wf ch b.val
    · rw [has_susp, word.bit (by decide) (by decide), susp]
    · rw [has_txreq, word.noRequest txreq]

theorem receiveClause {ch : CanCh} {s : State} (up : canUp ch s = true) (idle : (s.can ch).wait = none) (wf : Memory.wf s.xsram = true)
    (f : CanFrame) (sof : Word) (b : Nat) (fd : f.fdf = true → canFd (s.can ch) = true) (hb : b < 64)
    (hit : filterMatches (s.can ch) (frameW1 f) b = true) (unlocked : bufHas ch b bLock s = false) (old : bufHas ch b bNew s = false)
    (first : ∀ k, k < b → filterMatches (s.can ch) (frameW1 f) k = true → bufHas ch k bLock s = true ∨ bufHas ch k bNew s = true) :
    ∃ t, exec (.canFrameReceive ch f sof) s = .next t ∧ bufHas ch b bNew t = true ∧ bufWord ch b 1 t = frameW1 f ∧
        bufWord ch b 2 t = frameW2 f ∧ bufWord ch b 3 t = sof ∧ memBytes t.xsram (bufAddr ch b + 16) 64 = slice f.data 0 64 ∧
        (t.can ch).rxOk = satInc 0xFFFFFFFF (s.can ch).rxOk ∧ (∀ d, d ≠ ch → t.can d = s.can d) ∧
        (∀ a, a < bufAddr ch b ∨ bufAddr ch b + 80 ≤ a → memRead t.xsram a = memRead s.xsram a) ∧
        { t with xsram := s.xsram, can1 := s.can1, can2 := s.can2, freeCtr := s.freeCtr } = s := by
  obtain ⟨mem, others, cfg, wait, rxOk, frame⟩ := receivedWell_parts ch s
  have has : ∀ k m, bufHas ch k m (receivedWell ch s) = bufHas ch k m s := fun k m => by rw [bufHas, bufHas, bufWord, bufWord, mem]
  have matches' : ∀ k, filterMatches ((receivedWell ch s).can ch) (frameW1 f) k = filterMatches (s.can ch) (frameW1 f) k :=
    fun k => filterMatches_congr cfg _ _
  have stored := storeFrame_stores hb ((matches' b).trans hit) ((has b _).trans unlocked) ((has b _).trans old)
    (fun k hk hm => by rw [has, has]; exact first k hk ((matches' k).symm.trans hm)) (frameW2 f) sof f.data
  obtain ⟨new, w1, w2, w3, data, outside⟩ := storeIn_parts (s := receivedWell ch s) (by rwa [mem]) ch b (frameW1 f) (frameW2 f) sof f.data
  obtain ⟨others', frame'⟩ := storeIn_frame ch b false (frameW1 f) (frameW2 f) sof f.data (receivedWell ch s)
  have channel := can_storeIn ch b false (frameW1 f) (frameW2 f) sof f.data (receivedWell ch s)
  refine ⟨storeIn ch b false (frameW1 f) (frameW2 f) sof f.data (receivedWell ch s), ?_, new, w1, w2, w3, data, ?_, fun d h => ?_, fun a h => ?_, ?_⟩
  · have taken : (!canUp ch s || (f.fdf && !canFd (s.can ch))) = false := by
      rw [up]
      cases hf : f.fdf
      · rfl
      · rw [fd hf]
        rfl
    refine congrArg Host.Outcome.next ((if_neg (by rw [taken]; decide)).trans ?_)
    rw [stored, frameDone_idle]
    rw [channel]
    exact wait.trans idle
  · rw [channel, rxOk]
  · rw [others' d h, others d h]
  · rw [outside a h, mem]
  · exact (congrArg (fun v : State => { v with xsram := s.xsram, can1 := s.can1, can2 := s.can2, freeCtr := s.freeCtr }) frame' :).trans
      ((congrArg (fun v : State => { v with xsram := s.xsram }) frame :))

/-- Settles O32: reception, transmission and collision each change the buffer by its rules; where a fault of the channel leads to SAFE, requests are
withdrawn and nothing else of the buffers changes. -/
theorem canFrames : Obligations.CanFrames := by
  unfold Obligations.CanFrames
  intro ch s up idle wf
  refine ⟨fun f sof b fd _ hb hit unlocked old first => receiveClause up idle wf f sof b fd hb hit unlocked old first,
    fun b sof delay mode sendable => sentClause up idle wf b sof delay mode sendable,
    fun b sof delay mode sendable => sentLoopback up idle b sof delay mode sendable,
    fun b mode sendable => collisionClause up idle wf b mode sendable⟩

end Sys2Proof.Proofs
end

section
/-!
SUPPORT. Conditions of a CAN channel (R373, R376, R379, R381, R384): O33.
-/
namespace Sys2Proof.Proofs
open Sys2Proof.Machine

section
variable {ch : CanCh} {s : State}

/-- Taking a buffer to the bus changes which buffer that is, and nothing else. -/
theorem loadBus_eq (ch : CanCh) (s : State) : ∃ o : CanSt → Option Nat, loadBus ch s = s.updCan ch fun c => { c with cur := o c } := by
  rcases loadBus_cases ch s with h | h
  · refine ⟨CanSt.cur, h.trans ?_⟩
    cases ch <;> rfl
  · exact ⟨fun _ => nextBuf ch s, h⟩

theorem updCan_updCan (ch : CanCh) (f g : CanSt → CanSt) (s : State) : (s.updCan ch f).updCan ch g = s.updCan ch (g ∘ f) := by
  cases ch <;> rfl

theorem confine_st {c : CanSt} (h : c.st ≠ .stopped) : (confine c).st ≠ .stopped := by
  unfold confine
  split
  · dsimp only
    split <;> decide
  · exact h

theorem confine_counts (c : CanSt) : (confine c).lec = c.lec ∧ (confine c).tec = c.tec ∧ (confine c).recv = c.recv ∧ (confine c).wait = c.wait := by
  unfold confine
  split <;> exact ⟨rfl, rfl, rfl, rfl⟩

/-! ### Bus-off -/

/-- A channel in bus-off, or stopped after it. -/
def LeftBus (n : Nat) (c : CanSt) : Prop := c.busOffCnt = n ∧ c.st ≠ .active ∧ c.st ≠ .passive ∧ c.cur = none

theorem LeftBus.notUp {n : Nat} (h : LeftBus n (s.can ch)) : canUp ch s = false := by
  obtain ⟨-, active, passive, -⟩ := h
  simp [canUp, onBus, active, passive]

theorem LeftBus.stopped {n : Nat} {c : CanSt} (h : LeftBus n c) : LeftBus n (stopCan c) := ⟨h.1, by simp [stopCan], by simp [stopCan], rfl⟩

theorem raiseOpen_leftBus {n : Nat} (h : LeftBus n (s.can ch)) (code : Nat) (specific : Option Half) :
    LeftBus n ((raiseOpen (canSource ch) code specific s).can ch) := by
  refine raiseOpen_can (P := fun s => LeftBus n (s.can ch)) (fun u t _ h1 h2 hu => ?_)
    (fun u hu => can_enterSafe (fun _ hc => hc.stopped) (fun _ hc => hc) hu) (fun u hu => ?_) code specific h
  · have same : t.can ch = u.can ch := by
      cases ch
      · exact h1
      · exact h2
    rwa [same]
  · rw [can_updCan_same]
    have h := LeftBus.stopped hu
    exact h

theorem busOffClause (up : canUp ch s = true) (tec : 256 ≤ (s.can ch).tec) :
    ∃ t, exec (.canBusOff ch) s = .next t ∧ (t.can ch).busOffCnt = satInc 0xFFFF (s.can ch).busOffCnt ∧
        (t.can ch).st ≠ .active ∧ (t.can ch).st ≠ .passive ∧ (t.can ch).cur = none ∧ canUp ch t = false := by
  have left : LeftBus (satInc 0xFFFF (s.can ch).busOffCnt) ((enterBusOff ch s).can ch) := by
    have noted : ∀ (k m : Nat) (f : CanSt → CanSt), (record 0x0B01 1 (canSource ch) k m 0 0 (s.updCan ch f)).can ch = f (s.can ch) :=
      fun k m f => by cases ch <;> rfl
    refine raiseOpen_leftBus ?_ 1 none
    rw [noted]
    refine ⟨rfl, ?_, ?_, rfl⟩ <;> dsimp only <;> split <;> decide
  refine ⟨enterBusOff ch s, congrArg Host.Outcome.next (if_pos (by simp [up, tec])), left.1, left.2.1, left.2.2.1, left.2.2.2, left.notUp⟩

theorem holdClause (runs : canState s = true) (st : (s.can ch).st = .busOffHold) :
    ∃ t, exec (.canBoHoldExpiry ch) s = .next t ∧ t.can ch = { s.can ch with st := .busOff } ∧ { t with can1 := s.can1, can2 := s.can2 } = s :=
  ⟨s.updCan ch fun c => { c with st := .busOff }, congrArg Host.Outcome.next (if_pos (by simp [runs, st])), can_updCan_same .., updCan_frame ..⟩

theorem recoveryClause (runs : canState s = true) (st : (s.can ch).st = .busOff) :
    ∃ t, exec (.canBusOffRecovery ch) s = .next t ∧ (t.can ch).st = .active ∧ (t.can ch).tec = 0 ∧ (t.can ch).recv = 0 ∧
        { t with can1 := s.can1, can2 := s.can2 } = s := by
  obtain ⟨o, loaded⟩ := loadBus_eq ch (s.updCan ch fun c => { c with st := .active, tec := 0, recv := 0 })
  rw [updCan_updCan] at loaded
  refine ⟨_, congrArg Host.Outcome.next (if_pos (by simp [runs, st])), ?_⟩
  rw [loaded, can_updCan_same]
  exact ⟨rfl, rfl, rfl, updCan_frame ..⟩

theorem integrationClause (runs : canState s = true) (en : canEn (s.can ch) = true) (waits : (s.can ch).integrating = true)
    (free : (s.can ch).halted = false) (loop : canMode (s.can ch) = 2 → s.eff = .test) :
    ∃ t, exec (.canIntegration ch) s = .next t ∧ (t.can ch).integrating = false ∧ (t.can ch).st ≠ .stopped ∧
        { t with can1 := s.can1, can2 := s.can2 } = s := by
  obtain ⟨o, loaded⟩ := loadBus_eq ch (s.updCan ch fun c =>
    confine { c with integrating := false, st := if c.st = .stopped then .active else c.st })
  rw [updCan_updCan] at loaded
  have taken : (canState s && canEn (s.can ch) && (s.can ch).integrating && !(s.can ch).halted &&
      !(decide (canMode (s.can ch) = 2) && decide (s.eff ≠ .test))) = true := by
    rw [runs, en, waits, free]
    by_cases mode : canMode (s.can ch) = 2
    · simp [loop mode]
    · simp [mode]
  refine ⟨_, congrArg Host.Outcome.next (if_pos taken), ?_⟩
  rw [loaded, can_updCan_same]
  refine ⟨?_, confine_st ?_, updCan_frame ..⟩
  · have kept : ∀ c, (confine c).integrating = c.integrating := fun c => by
      unfold confine
      split <;> rfl
    exact kept _
  · dsimp only
    split
    · decide
    · assumption

/-! ### Errors -/

theorem exceptionClause (up : canUp ch s = true) (idle : (s.can ch).wait = none) (fd : canFd (s.can ch) = false) :
    ∃ t, exec (.canProtocolException ch) s = .next t ∧
        t.can ch = { s.can ch with protExc := satInc 0xFFFF (s.can ch).protExc, integrating := true, cur := none } ∧
        { t with can1 := s.can1, can2 := s.can2 } = s := by
  refine ⟨_, (congrArg Host.Outcome.next (if_pos (by simp [up, fd]))).trans (congrArg Host.Outcome.next (frameDone_idle ?_)), can_updCan_same .., updCan_frame ..⟩
  rw [can_updCan_same]
  exact idle

theorem receiveErrorClause (err : CanError) (phase : CanPhase) (b : Fin 64) (up : canUp ch s = true) (idle : (s.can ch).wait = none)
    (lost : err ≠ .arbitration) :
    ∃ t, exec (.canBusError ch err false b phase) s = .next t ∧ (t.can ch).lec = errorCode err ∧
        (t.can ch).recv = min 128 ((s.can ch).recv + recStep phase) ∧ (t.can ch).tec = (s.can ch).tec ∧
        { t with can1 := s.can1, can2 := s.can2 } = s := by
  have counted := can_updCan_same ch (fun c => confine { c with lec := errorCode err, recv := min 128 (c.recv + recStep phase) }) s
  obtain ⟨lec, tec, recv, wait⟩ := confine_counts { s.can ch with lec := errorCode err, recv := min 128 ((s.can ch).recv + recStep phase) }
  have met : receiveError ch err phase s = s.updCan ch fun c => confine { c with lec := errorCode err, recv := min 128 (c.recv + recStep phase) } := by
    rw [receiveError, if_neg lost]
    dsimp only
    split
    · rfl
    · refine frameDone_idle ?_
      rw [counted]
      exact wait.trans idle
  refine ⟨_, congrArg Host.Outcome.next ((if_neg (by simp [up])).trans ((if_pos rfl).trans met)), ?_⟩
  rw [counted]
  exact ⟨lec, recv, tec, updCan_frame ..⟩

/-- An error met in the frame or its flag as the channel sends. -/
def errorCounted (ch : CanCh) (err : CanError) (phase : CanPhase) (s : State) : State :=
  if tecCounts err phase (s.can ch) then addTec ch (s.updCan ch fun c => { c with lec := errorCode err }) else s.updCan ch fun c => { c with lec := errorCode err }

theorem errorCounted_eq (ch : CanCh) (err : CanError) (phase : CanPhase) (s : State) : ∃ f, errorCounted ch err phase s = s.updCan ch f ∧
    (f (s.can ch)).lec = errorCode err ∧
    (f (s.can ch)).tec = (if tecCounts err phase (s.can ch) then min 256 ((s.can ch).tec + 8) else (s.can ch).tec) ∧
    (f (s.can ch)).recv = (s.can ch).recv ∧ (f (s.can ch)).wait = (s.can ch).wait := by
  unfold errorCounted
  split
  · rw [addTec, updCan_updCan]
    exact ⟨_, rfl, confine_counts { s.can ch with lec := errorCode err, tec := min 256 ((s.can ch).tec + 8) }⟩
  · exact ⟨_, rfl, rfl, rfl, rfl, rfl⟩

theorem transmitErrorClause (err : CanError) (phase : CanPhase) (b : Fin 64) (up : canUp ch s = true) (idle : (s.can ch).wait = none)
    (lost : err ≠ .arbitration) (mode : canMode (s.can ch) ≠ 1) (sends : phase = .inFlag ∨ phase = .afterFlag ∨ mayBeSent ch b.val s = true) :
    ∃ t, exec (.canBusError ch err true b phase) s = .next t ∧ (t.can ch).lec = errorCode err ∧
        (t.can ch).tec = (if tecCounts err phase (s.can ch) then min 256 ((s.can ch).tec + 8) else (s.can ch).tec) ∧
        (t.can ch).recv = (s.can ch).recv ∧ { t with can1 := s.can1, can2 := s.can2, xsram := s.xsram } = s := by
  have taken : exec (.canBusError ch err true b phase) s = .next (transmitError ch err phase b.val s) := by
    refine congrArg Host.Outcome.next ((if_neg (by simp [up])).trans ((if_neg (by decide)).trans (if_pos ?_)))
    rcases sends with h | h | h <;> simp [mode, h]
  have same : tecCounts err phase ((s.updCan ch fun c => { c with lec := errorCode err }).can ch) = tecCounts err phase (s.can ch) := by
    rw [can_updCan_same]
    rfl
  have met : transmitError ch err phase b.val s =
      if phase = .inFlag ∨ phase = .afterFlag ∨ phase = .passiveFlag then errorCounted ch err phase s
      else frameDone ch (retry ch b.val (errorCounted ch err phase s)) := by
    rw [transmitError, if_neg lost]
    dsimp only
    rw [same, errorCounted]
  obtain ⟨f, counted, lec, tec, recv, wait⟩ := errorCounted_eq ch err phase s
  have aside := fun g u => congrArg (fun v : State => { v with xsram := s.xsram, can1 := s.can1, can2 := s.can2 }) (updCan_frame ch g u)
  refine ⟨_, taken, ?_⟩
  rw [met, counted]
  split
  · rw [can_updCan_same]
    exact ⟨lec, tec, recv, aside f s⟩
  · obtain ⟨o, e | e⟩ := retry_eq ch b.val (s.updCan ch f)
    · rw [e, updCan_updCan, frameDone_idle (by rw [can_updCan_same]; exact wait.trans idle), can_updCan_same]
      exact ⟨lec, tec, recv, aside _ s⟩
    · rw [e, frameDone_idle (by rw [can_updCan_same, can_markBuf, can_updCan_same]; exact wait.trans idle), can_updCan_same, can_markBuf,
        can_updCan_same]
      exact ⟨lec, tec, recv, (aside _ (markBuf ch b.val bTxreq 0 (s.updCan ch f))).trans (aside f s)⟩

/-! ### Locks and wake -/

theorem lockClause (b : Fin 64) (runs : canState s = true) (locked : bufHas ch b.val bLock s = true) (wf : Memory.wf s.xsram = true) :
    ∃ t, exec (.canLockTimeout ch b) s = .next t ∧ bufHas ch b.val bLock t = false ∧
        t.can ch = { s.can ch with lockTo := satInc 0xFFFF (s.can ch).lockTo } ∧
        (∀ a, a < bufAddr ch b.val ∨ bufAddr ch b.val + 4 ≤ a → memRead t.xsram a = memRead s.xsram a) ∧
        { t with can1 := s.can1, can2 := s.can2, xsram := s.xsram } = s := by
  have wf1 : Memory.wf (s.updCan ch fun c => { c with lockTo := satInc 0xFFFF c.lockTo }).xsram = true := by rwa [updCan_xsram]
  refine ⟨_, congrArg Host.Outcome.next (if_neg (by simp [runs, locked])), ?_, ?_, fun a h => ?_, ?_⟩
  · rw [has_lock, tst_markBuf wf1 _ _ _ _ (by decide)]
    simp [bLock, tst]
  · rw [can_markBuf, can_updCan_same]
  · rw [markBuf, setBufWord_outside wf1 _ _ _ (by simpa using h), updCan_xsram]
  · exact (congrArg (fun v : State => { v with xsram := s.xsram }) (updCan_frame ch _ s) :)

theorem wakeClause (frame : Option CanFrame) (dormant : s.mstate = .dormant) (sleeps : (s.can ch).st = .sleep) (hit : wakesOn (s.can ch) frame = true) :
    ∃ t, exec (.canWake ch frame) s = .next t ∧ t.power = { s.power with wakeReq := true } ∧ { t with power := s.power } = s :=
  ⟨s.updPower fun p => { p with wakeReq := true }, congrArg Host.Outcome.next (if_pos ⟨dormant, sleeps, hit⟩), rfl, rfl⟩

end

/-- Settles O33: each condition is one change of the channel; only the fault of a bus-off reaches further, and it leaves the channel off the bus. -/
theorem canConditions : Obligations.CanConditions := by
  unfold Obligations.CanConditions
  intro ch s
  exact ⟨busOffClause, holdClause, recoveryClause, integrationClause, exceptionClause,
    fun err phase b up idle lost => receiveErrorClause err phase b up idle lost,
    fun err phase b up idle lost mode sends => transmitErrorClause err phase b up idle lost mode sends,
    fun b runs locked wf => lockClause b runs locked wf, fun frame dormant sleeps hit => wakeClause frame dormant sleeps hit⟩

end Sys2Proof.Proofs
end

section
/-!
SUPPORT. What a fault leaves alone (R278 to R283), whatever else it does, and events of the fabric (R348, R354, R355, R391): O30.
-/
namespace Sys2Proof.Proofs
open Sys2Proof.Machine

/-! ### Entry into SAFE -/

theorem haltCan_frame (ch : CanCh) (s : State) : { haltCan ch s with xsram := s.xsram, can1 := s.can1, can2 := s.can2 } = s := by
  have written : ∀ (f : Mem → Mem) (u : State), { u.updXsram f with xsram := s.xsram, can1 := s.can1, can2 := s.can2 } =
      { u with xsram := s.xsram, can1 := s.can1, can2 := s.can2 } := fun _ _ => rfl
  rw [haltCan, written]
  exact (congrArg (fun v : State => { v with xsram := s.xsram }) (updCan_frame ch stopCan s) :)

theorem quietCan_frame (ch : CanCh) (s : State) :
    { quietCan ch s with xsram := s.xsram, can1 := s.can1, can2 := s.can2, freeCtr := s.freeCtr } = s := by
  have from_ : ∀ (f : State → State), (∀ u, { f u with xsram := u.xsram, can1 := u.can1, can2 := u.can2 } = u) → ∀ u : State, { u with freeCtr := s.freeCtr } = s →
      { f u with xsram := s.xsram, can1 := s.can1, can2 := s.can2, freeCtr := s.freeCtr } = s := fun f hf u hu => by
    have x : u.xsram = s.xsram := (congrArg State.xsram hu :)
    have c1 : u.can1 = s.can1 := (congrArg State.can1 hu :)
    have c2 : u.can2 = s.can2 := (congrArg State.can2 hu :)
    rw [← x, ← c1, ← c2]
    exact (congrArg (fun v : State => { v with freeCtr := s.freeCtr }) (hf u) :).trans hu
  have waiting := fun u => congrArg (fun v : State => { v with xsram := u.xsram }) (updCan_frame ch (fun c => { c with wait := some .stop }) u)
  rcases quietCan_cases ch s with e | e | e <;> rw [e]
  · exact from_ _ (haltCan_frame ch) s rfl
  · exact from_ _ (haltCan_frame ch) (drawFree s).2 rfl
  · exact from_ _ waiting (drawFree s).2 rfl

/-- What holds through each part of the entry into SAFE holds after it. -/
theorem enterSafe_keeps {P : State → Prop}
    (aside : ∀ s t : State, { t with mstate := s.mstate, holdFrom := s.holdFrom, hif := s.hif, xsram := s.xsram, lanes := s.lanes, twin := s.twin, can1 := s.can1, can2 := s.can2, freeCtr := s.freeCtr, io := s.io, ice := s.ice } = s → P s → P t)
    (work : ∀ s, P s → P (abandonWork s)) {s : State} (h : P s) : P (enterSafe s) := by
  by_cases idle : s.mstate = .off ∨ s.mstate = .safe ∨ s.mstate = .frozen
  · rwa [enterSafe, if_pos idle]
  · rw [enterSafe_eq s idle]
    have copies : sameButCopies s (endOperations s) :=
      ((finishImages_copies (fun _ => true) (fun _ => true) s).trans (failPending_ports .host _).copies).trans
        ((failPending_ports .maint _).trans ((sameButPorts_updHif _ _).trans (sameButPorts_updHif _ _))).copies
    have copied : ∀ t, sameButCopies s t → P t := fun t ht => aside s t
      (congrArg (fun v : State => { v with mstate := s.mstate, holdFrom := s.holdFrom, can1 := s.can1, can2 := s.can2, freeCtr := s.freeCtr, io := s.io, ice := s.ice }) ht :) h
    have quiet : ∀ ch u, P u → P (quietCan ch u) := fun ch u hu => aside u _
      (congrArg (fun x : State => { x with mstate := u.mstate, holdFrom := u.holdFrom, hif := u.hif, lanes := u.lanes, twin := u.twin, io := u.io, ice := u.ice }) (quietCan_frame ch u) :) hu
    have ended := quiet .can2 _ (quiet .can1 _ (work _ (copied _ copies)))
    rw [abandonAll_eq]
    exact aside _ _ rfl ended

/-! ### A fault of a source -/

section
variable {P : State → Prop} {second : State → State} {src : Nat}
  (aside : ∀ s t : State, { t with fcu := s.fcu, ice := s.ice, freeCtr := s.freeCtr } = s → P s → P t)
  (lock : ∀ cls cause s, P s → P (lockDecided cls src cause s)) (safe : ∀ s, P s → P (enterSafe s))
  (third : ∀ t, classThreeTarget src = some t → ∀ n s, P s → P (targetEffect second t n s))
include aside lock safe third

theorem decideBase_through (code : Nat) (broken forced : Bool) (detail : Word) (specific : Option Half) {s : State} (h : P s) :
    P (decideBase second src code broken forced detail specific s) := by
  have noted : ∀ cause d, P (lockDecided (finalClass s.fcu src code broken).cls src cause (noteFault d src code broken forced detail s)) :=
    fun cause d => lock _ _ _ (aside s _ rfl h)
  rw [decideBase_eq]
  dsimp only
  unfold decisionEffect
  split
  · exact safe _ (noted _ _)
  · split
    · split
      · next t target => exact third t target _ _ (noted _ _)
      · exact noted _ _
    · exact noted _ _

theorem changeBase_through (code : Nat) (forced : Bool) (detail : Word) (specific : Option Half) (endMs : Nat) {s : State} (h : P s) :
    P (changeBase second src code forced detail specific endMs s) := by
  have shown : ∀ f, P (s.updSource src f) := fun f => aside s _ rfl h
  unfold changeBase
  dsimp only
  split
  · exact decideBase_through aside lock safe third _ _ _ _ _ (shown _)
  · split
    · exact aside s _ rfl h
    · exact shown _

theorem presentBase_through (rails : BitVec 2) (code : Nat) (detail : Word) (specific : Option Half) {s : State} (h : P s) :
    P (presentBase second src rails code detail specific s) := by
  have shown : ∀ f u, P u → P (State.updSource src f u) := fun f u hu => aside u _ rfl hu
  unfold presentBase
  dsimp only
  split
  · exact h
  · refine changeBase_through aside lock safe third _ _ _ _ _ (shown _ _ ?_)
    split
    · exact changeBase_through aside lock safe third _ _ _ _ _ (shown _ _ h)
    · exact h

end

section
variable {P : State → Prop} {src : Nat}
  (aside : ∀ s t : State, { t with fcu := s.fcu, ice := s.ice, freeCtr := s.freeCtr } = s → P s → P t)
  (lock : ∀ src cls cause s, P s → P (lockDecided cls src cause s)) (safe : ∀ s, P s → P (enterSafe s))
include aside lock safe

/-- What holds through each part of a fault's decision holds after it. -/
theorem raiseNoAgree_through {s : State} (h : P s) : P (raiseNoAgree s) :=
  presentBase_through (src := 0x04) (second := id) aside (lock _) safe (fun t e => absurd e (by simp [classThreeTarget])) _ _ _ _
    (aside s (drawFree s).2 rfl h)

variable (third : ∀ t, classThreeTarget src = some t → ∀ n s, P s → P (targetEffect raiseNoAgree t n s)) (listed : sourceListed src = true)
include third listed

theorem raise_through (code detail : Nat) (specific : Option Half) {s : State} (h : P s) : P (raise src code detail specific s) := by
  rw [raise, presentPattern, if_pos listed]
  exact presentBase_through aside (lock src) safe third _ _ _ _ h

theorem raiseOpen_through (code : Nat) (specific : Option Half) {s : State} (h : P s) : P (raiseOpen src code specific s) :=
  raise_through aside lock safe third listed code _ specific (aside s (drawFree s).2 rfl h)

end

section
variable {P : State → Prop} {src : Nat}
  (aside : ∀ s t : State, { t with fcu := s.fcu, ice := s.ice, fram := s.fram, lanes := s.lanes, twin := s.twin, freeCtr := s.freeCtr } = s → P s → P t)
include aside

theorem aside_fault (s t : State) (e : { t with fcu := s.fcu, ice := s.ice, freeCtr := s.freeCtr } = s) : P s → P t :=
  aside s t (congrArg (fun v : State => { v with fram := s.fram, lanes := s.lanes, twin := s.twin }) e :)

theorem aside_lock (src cls : Nat) (cause : Half) (s : State) : P s → P (lockDecided cls src cause s) :=
  aside s _ (congrArg (fun v : State => { v with fcu := s.fcu, freeCtr := s.freeCtr }) (lockDecided_frame cls src cause s) :)

variable (safe : ∀ s, P s → P (enterSafe s))
include safe

theorem raiseNoAgree_keeps {s : State} (h : P s) : P (raiseNoAgree s) := raiseNoAgree_through (aside_fault aside) (aside_lock aside) safe h

variable (third : ∀ t, classThreeTarget src = some t → ∀ n s, P s → P (targetEffect raiseNoAgree t n s)) (listed : sourceListed src = true)
include third listed

theorem raise_keeps (code detail : Nat) (specific : Option Half) {s : State} (h : P s) : P (raise src code detail specific s) :=
  raise_through (aside_fault aside) (aside_lock aside) safe third listed code detail specific h

theorem raiseOpen_keeps (code : Nat) (specific : Option Half) {s : State} (h : P s) : P (raiseOpen src code specific s) :=
  raiseOpen_through (aside_fault aside) (aside_lock aside) safe third listed code specific h

end

/-- A vote without agreement, its source quiet, leads to SAFE. -/
theorem raiseNoAgree_safe {s : State} (hr : s.runs = true) (quiet : quietSource 0x04 s = true) : (raiseNoAgree s).mstate = .safe := by
  have quiet' : quietSource 0x04 (drawFree s).2 = true := quiet
  have hr' : (drawFree s).2.runs = true := hr
  simp only [quietSource, Bool.and_eq_true, beq_iff_eq] at quiet'
  obtain ⟨⟨real, rail⟩, -⟩ := quiet'
  change (presentBase id 0x04 2 4 _ none (drawFree s).2).mstate = .safe
  rw [presentBase_healthy real, changeBase_leaves (rails := 2) (by rw [fcuSource_updSource_same]; exact rail) (by rw [fcuSource_updSource_same]; rfl)
    (by decide)]
  exact decideBase_mstate _ hr' (by simp [finalClass])

/-- A quiet source of class 4 leads to SAFE. -/
theorem raise_safe {src : Nat} {s : State} (hr : s.runs = true) (listed : sourceListed src = true) (quiet : quietSource src s = true)
    {code : Nat} (four : 4 ≤ code ∨ src < 8) (detail : Nat) (specific : Option Half) : (raise src code detail specific s).mstate = .safe := by
  have cls : ∀ c, (finalClass c src code (patternBroken 2)).cls = 4 := fun c => by
    rcases four with h | h
    · simp [finalClass, Nat.min_eq_right h, patternBroken]
    · simp [finalClass, h]
  rw [raise, presentPattern_quiet listed quiet (by decide)]
  exact decideBase_mstate _ hr (cls _)

theorem raiseOpen_safe {src : Nat} {s : State} (hr : s.runs = true) (listed : sourceListed src = true) (quiet : quietSource src s = true)
    {code : Nat} (four : 4 ≤ code ∨ src < 8) (specific : Option Half) : (raiseOpen src code specific s).mstate = .safe :=
  raise_safe (s := (drawFree s).2) hr listed quiet four _ specific

/-! ### The arbiter's choice -/

section
variable (f : Fabric) (r : Bool)

/-- The lower rank first, unless the grant is reserved; then the longer wait, then the lower number (R348). -/
theorem servedBefore_iff (a b : Nat × Nat) : servedBefore f r a b = true ↔
    (r = false ∧ effectiveRank f a.1 a.2 < effectiveRank f b.1 b.2) ∨
      ((r = true ∨ effectiveRank f a.1 a.2 = effectiveRank f b.1 b.2) ∧ (b.2 < a.2 ∨ a.2 = b.2 ∧ a.1 < b.1)) := by
  have later : (if a.2 = b.2 then decide (a.1 < b.1) else decide (b.2 < a.2)) = true ↔ b.2 < a.2 ∨ a.2 = b.2 ∧ a.1 < b.1 := by
    split <;> simp only [decide_eq_true_eq] <;> omega
  unfold servedBefore
  dsimp only
  cases r
  · by_cases e : effectiveRank f a.1 a.2 = effectiveRank f b.1 b.2
    · simp only [e, ne_eq, not_true_eq_false, decide_false, Bool.and_false, Bool.false_eq_true, if_false, later, lt_irrefl, and_false, false_or,
        or_true, true_and]
    · simp [e]
  · simp only [Bool.not_true, Bool.false_and, Bool.false_eq_true, if_false, later, true_or, true_and, Bool.true_eq_false, false_and, false_or]

theorem servedBefore_total {a b : Nat × Nat} (ne : a.1 ≠ b.1) (h : servedBefore f r a b ≠ true) : servedBefore f r b a = true := by
  rw [ne_eq, servedBefore_iff] at h
  rw [servedBefore_iff]
  cases r <;> simp only [true_and, false_or, true_or, Bool.true_eq_false, Bool.false_eq_true, false_and] at h ⊢ <;> omega

theorem servedBefore_trans {a b c : Nat × Nat} (h : servedBefore f r a b = true) (h' : servedBefore f r b c = true) :
    servedBefore f r a c = true := by
  rw [servedBefore_iff] at h h' ⊢
  cases r <;> simp only [true_and, false_or, true_or, Bool.true_eq_false, Bool.false_eq_true, false_and] at h h' ⊢ <;> omega

/-- The winner is one of those present and is served before every other. -/
theorem arbWinner_first (xs : List (Nat × Nat)) (ne : xs ≠ []) (distinct : xs.Pairwise fun a b => a.1 ≠ b.1) :
    ∃ y, arbWinner f r xs = some y ∧ y ∈ xs ∧ ∀ z ∈ xs, z ≠ y → servedBefore f r y z = true := by
  induction xs with
  | nil => exact absurd rfl ne
  | cons x xs ih =>
    obtain ⟨apart, distinct⟩ := List.pairwise_cons.mp distinct
    by_cases empty : xs = []
    · subst empty
      exact ⟨x, rfl, by simp, by simp⟩
    · obtain ⟨y, won, mem, first⟩ := ih empty distinct
      rw [arbWinner, won]
      by_cases h : servedBefore f r y x = true
      · refine ⟨y, congrArg some (if_pos h), List.mem_cons_of_mem _ mem, fun z hz ne => ?_⟩
        rcases List.mem_cons.mp hz with rfl | hz
        · exact h
        · exact first z hz ne
      · have before := servedBefore_total f r (Ne.symm (apart y mem)) h
        refine ⟨x, congrArg some (if_neg h), by simp, fun z hz ne => ?_⟩
        rcases List.mem_cons.mp hz with rfl | hz
        · exact absurd rfl ne
        · by_cases e : z = y
          · rwa [e]
          · exact servedBefore_trans f r before (first z hz e)

theorem servedBefore_congr {f g : Fabric} (h : f.arbLive = g.arbLive) (a b : Nat × Nat) : servedBefore f r a b = servedBefore g r a b := by
  have rank : ∀ i w, effectiveRank f i w = effectiveRank g i w := fun i w => by simp only [effectiveRank, arbAgeTop, agedRank, arbRank, h]
  simp only [servedBefore, rank]

end

theorem presentReqs_distinct (waits : List (Option Nat)) : (presentReqs waits).Pairwise fun a b => a.1 ≠ b.1 := by
  refine List.Pairwise.filterMap _ (fun i j ne a ha b hb => ?_) (List.nodup_range (n := 12))
  obtain ⟨w, -, rfl⟩ := Option.map_eq_some_iff.mp ha
  obtain ⟨v, -, rfl⟩ := Option.map_eq_some_iff.mp hb
  exact ne

theorem mem_presentReqs {waits : List (Option Nat)} {i w : Nat} : (i, w) ∈ presentReqs waits ↔ i < 12 ∧ waits.getD i none = some w := by
  simp only [presentReqs, List.mem_filterMap, List.mem_range, Option.map_eq_some_iff]
  constructor
  · rintro ⟨j, hj, v, hv, e⟩
    obtain ⟨rfl, rfl⟩ := Prod.mk.inj e
    exact ⟨hj, hv⟩
  · exact fun ⟨hi, hw⟩ => ⟨i, hi, w, hw, rfl⟩

/-! ### The arbiter's state -/

/-- Since state s nothing but the requesters' waits changed, and no grant was counted. -/
structure WaitsNoted (s t : State) : Prop where
  fabric : { t.fabric with reqs := s.fabric.reqs } = s.fabric
  grants : ∀ j, (vget t.fabric.reqs .fresh j).grants = (vget s.fabric.reqs .fresh j).grants
  frame : { t with fabric := s.fabric, ice := s.ice } = s

theorem WaitsNoted.updReqs {s t : State} (h : WaitsNoted s t) (i : Nat) {g : ArbReq → ArbReq} (hg : ∀ q, (g q).grants = q.grants) :
    WaitsNoted s (t.updFabric fun f => { f with reqs := vmod f.reqs i g }) where
  fabric := h.fabric
  grants j := by
    refine Eq.trans ?_ (h.grants j)
    by_cases e : j = i
    · subst e
      by_cases hj : j < 12
      · exact (congrArg ArbReq.grants (vget_vmod_same t.fabric.reqs .fresh hj g)).trans ((hg _).trans (by simp [vget, hj]))
      · simp [vget, vmod, hj]
    · exact congrArg ArbReq.grants (vget_vmod_other t.fabric.reqs .fresh e g)
  frame := h.frame

theorem WaitsNoted.frame_from {r s t : State} (h : WaitsNoted s t) (e : { s with fabric := r.fabric } = r) :
    { t with fabric := r.fabric, ice := r.ice } = r := by
  have ice : s.ice = r.ice := (congrArg State.ice e :)
  rw [← ice]
  exact (congrArg (fun v : State => { v with fabric := r.fabric }) h.frame :).trans e

theorem pinRequester_noted {s t : State} (h : WaitsNoted s t) (i w : Nat) : WaitsNoted s (pinRequester i w t) := by
  have noted := h.updReqs i (g := noteWait w (decide (agedRank t.fabric i w < (arbAgeTop t.fabric i : Int)))) fun _ => rfl
  unfold pinRequester
  dsimp only
  split
  · have pinned := noted.updReqs i (g := fun r => { r with pinMs := some t.tb.ms }) fun _ => rfl
    exact ⟨pinned.fabric, pinned.grants, (congrArg (fun v : State => { v with ice := s.ice }) pinned.frame :)⟩
  · exact noted

/-- A decision counted, with the waits of those that are not present forgotten. -/
def decisionBegun (waits : List (Option Nat)) (s : State) : State :=
  s.updFabric fun f =>
    { f with decisions := f.decisions + 1,
             reqs := Vector.ofFn fun i : Fin 12 =>
               if (waits.getD i.val none).isNone then { f.reqs[i] with waitNow := none, aged := false } else f.reqs[i] }

theorem updFabric_frame (f : Fabric → Fabric) (s : State) : { s.updFabric f with fabric := s.fabric } = s := rfl

theorem decisionBegun_frame (waits : List (Option Nat)) (s : State) : { decisionBegun waits s with fabric := s.fabric } = s := by
  unfold decisionBegun
  exact updFabric_frame _ s

theorem decisionBegun_grants (waits : List (Option Nat)) (s : State) (j : Nat) :
    (vget (decisionBegun waits s).fabric.reqs .fresh j).grants = (vget s.fabric.reqs .fresh j).grants := by
  by_cases hj : j < 12
  · have forgot : (decisionBegun waits s).fabric.reqs[j] =
        if (waits.getD j none).isNone then { s.fabric.reqs[j] with waitNow := none, aged := false } else s.fabric.reqs[j] := Vector.getElem_ofFn ..
    simp only [vget, hj, Vector.getElem?_eq_getElem, Option.getD_some, forgot]
    split <;> rfl
  · simp [decisionBegun, State.updFabric, vget, hj]

/-- A decision with the waits of those present noted. -/
def decisionPinned (waits : List (Option Nat)) (s : State) : State :=
  (presentReqs waits).foldl (fun s e => pinRequester e.1 e.2 s) (decisionBegun waits s)

theorem decisionPinned_noted (waits : List (Option Nat)) (s : State) : WaitsNoted (decisionBegun waits s) (decisionPinned waits s) :=
  foldl_keeps (f := fun s (e : Nat × Nat) => pinRequester e.1 e.2 s) (P := WaitsNoted (decisionBegun waits s))
    (fun t e h => pinRequester_noted h e.1 e.2) _ ⟨rfl, fun _ => rfl, rfl⟩

theorem arbDecide_eq (waits : List (Option Nat)) (s : State) : arbDecide waits s =
    match arbWinner (decisionPinned waits s).fabric
      (decide ((decisionPinned waits s).fabric.decisions % arbN (decisionPinned waits s).fabric = 0)) (presentReqs waits) with
    | some (i, w) => grantTo i w (decisionPinned waits s)
    | none => decisionPinned waits s := by
  rw [arbDecide, decisionPinned, decisionBegun] <;> rfl

theorem decisionClause (waits : List (Option Nat)) (s : State) (hr : s.runs = true) (some' : presentReqs waits ≠ []) :
    ∃ t i w, exec (.arbiterDecision waits) s = .next t ∧ i < 12 ∧ waits.getD i none = some w ∧
      t.fabric.decisions = s.fabric.decisions + 1 ∧ t.fabric.winner = some i ∧
      (vget t.fabric.reqs .fresh i).grants = satInc 0xFFFFFFFF (vget s.fabric.reqs .fresh i).grants ∧
      (∀ j, j ≠ i → (vget t.fabric.reqs .fresh j).grants = (vget s.fabric.reqs .fresh j).grants) ∧
      (∀ j v, j < 12 → j ≠ i → waits.getD j none = some v →
        servedBefore s.fabric (decide ((s.fabric.decisions + 1) % arbN s.fabric = 0)) (i, w) (j, v) = true) ∧
      { t with fabric := s.fabric, ice := s.ice } = s := by
  have ran : exec (.arbiterDecision waits) s = .next (arbDecide waits s) :=
    congrArg Host.Outcome.next (if_neg (by simp [fabricRuns, hr, some']))
  rw [ran, arbDecide_eq]
  obtain ⟨u, hu⟩ : ∃ u, u = decisionPinned waits s := ⟨_, rfl⟩
  have pinned : WaitsNoted (decisionBegun waits s) u := hu ▸ decisionPinned_noted waits s
  rw [← hu]
  have live : u.fabric.arbLive = s.fabric.arbLive := (congrArg Fabric.arbLive pinned.fabric :)
  have count : u.fabric.decisions = s.fabric.decisions + 1 := (congrArg Fabric.decisions pinned.fabric :)
  have every : arbN u.fabric = arbN s.fabric := by rw [arbN, live, arbN]
  rw [count, every]
  obtain ⟨⟨i, w⟩, won, mem, first⟩ := arbWinner_first u.fabric (decide ((s.fabric.decisions + 1) % arbN s.fabric = 0)) _ some' (presentReqs_distinct waits)
  obtain ⟨hi, hw⟩ := mem_presentReqs.mp mem
  have grants := fun j => (pinned.grants j).trans (decisionBegun_grants waits s j)
  rw [won]
  refine ⟨grantTo i w u, i, w, rfl, hi, hw, count, rfl, ?_, fun j ne => ?_, fun j v hj ne hv => ?_, ?_⟩
  · rw [← grants i]
    have here := congrArg ArbReq.grants (vget_vmod_same u.fabric.reqs .fresh hi fun r =>
      { r with waitNow := none, aged := false, grants := satInc 0xFFFFFFFF r.grants, waitTotal := satAdd 0xFFFFFFFF r.waitTotal w, waitMax := max r.waitMax (min w 0xFFFFFFFF) })
    refine here.trans ?_
    simp [vget, hi]
  · rw [← grants j]
    exact congrArg ArbReq.grants (vget_vmod_other u.fabric.reqs .fresh ne _)
  · rw [← servedBefore_congr _ live]
    exact first (j, v) (mem_presentReqs.mpr ⟨hj, hv⟩) fun e => ne (congrArg Prod.fst e)
  · have granted : { grantTo i w u with fabric := s.fabric, ice := s.ice } = { u with fabric := s.fabric, ice := s.ice } :=
      rfl
    exact granted.trans (pinned.frame_from (decisionBegun_frame waits s))

/-! ### Crossings and online test -/

/-- Entry into SAFE leaves the crossings and the place in the online test. -/
theorem enterSafe_fabric {Q : Fabric → Prop} (chains : ∀ f, Q f → Q { f with chains := [] }) {s : State} (h : Q s.fabric) : Q (enterSafe s).fabric :=
  enterSafe_keeps (P := fun s => Q s.fabric)
    (fun u t e hu => (congrArg Q (congrArg State.fabric e :)).mpr hu) (fun u hu => by
      have cleared : (abandonWork u).fabric = { u.fabric with chains := [] } := by
        simp only [abandonWork, State.updFabric_fabric, State.updFloe_fabric, State.updTwin_fabric, State.updProg_fabric]
      rw [cleared]
      exact chains _ hu) h

/-- A fault of a source without a target of class 3 leaves the crossings and the place in the online test. -/
theorem raiseOpen_fabric {Q : Fabric → Prop} (chains : ∀ f, Q f → Q { f with chains := [] }) {src : Nat} (listed : sourceListed src = true)
    (target : classThreeTarget src = none) (code : Nat) (specific : Option Half) {s : State} (h : Q s.fabric) :
    Q (raiseOpen src code specific s).fabric :=
  raiseOpen_keeps (P := fun s => Q s.fabric) (fun u t e hu => (congrArg Q (congrArg State.fabric e :)).mpr hu)
    (fun u hu => enterSafe_fabric chains hu) (fun t e => absurd (target.symm.trans e) (by simp)) listed code specific h

theorem resyncClause (x : Fin 17) (n : Nat) (s : State) (hr : s.runs = true) (fifo : isFifo x.val = true) :
    ∃ t, exec (.crossingResync x n) s = .next t ∧
      vget t.fabric.xs .fresh x.val = { vget s.fabric.xs .fresh x.val with
        notReady := (vget s.fabric.xs .fresh x.val).notReady && !sidesReady x.val s,
        xdrop := satAdd 0xFFFF (vget s.fabric.xs .fresh x.val).xdrop n } ∧
      (∀ k, k ≠ x.val → vget t.fabric.xs .fresh k = vget s.fabric.xs .fresh k) ∧ { t with fabric := s.fabric } = s := by
  refine ⟨_, congrArg Host.Outcome.next (if_neg (by simp [fabricRuns, hr, fifo])), ?_, fun k ne => vget_vmod_other _ _ ne _, rfl⟩
  have old : vget s.fabric.xs .fresh x.val = s.fabric.xs[x.val] := by simp [vget]
  rw [old]
  exact vget_vmod_same s.fabric.xs .fresh x.isLt _

theorem pulseClause (x : Fin 17) (n : Nat) (s : State) (hr : s.runs = true) (pulse : isPulse x.val = true) :
    (n ≤ 16 → exec (.pulseTransfer x n) s = .next s) ∧
    (16 < n → ∃ t, exec (.pulseTransfer x n) s = .next t ∧ (vget t.fabric.xs .fresh x.val).ovf = true ∧
      ∀ k, k ≠ x.val → vget t.fabric.xs .fresh k = vget s.fabric.xs .fresh k) := by
  refine ⟨fun h => congrArg Host.Outcome.next (if_pos (by simp [h])), fun h => ⟨_, congrArg Host.Outcome.next (if_neg (by simp [fabricRuns, hr, pulse, h])), ?_⟩⟩
  have marked : ∀ m : Crossing → Option Nat, (vget (vmod s.fabric.xs x.val fun c => { c with ovf := true, ovfMs := m c }) .fresh x.val).ovf = true ∧
      ∀ k, k ≠ x.val → vget (vmod s.fabric.xs x.val fun c => { c with ovf := true, ovfMs := m c }) .fresh k = vget s.fabric.xs .fresh k :=
    fun m => ⟨congrArg Crossing.ovf (vget_vmod_same s.fabric.xs .fresh x.isLt _), fun k ne => vget_vmod_other _ _ ne _⟩
  split
  · exact marked _
  · exact raiseOpen_fabric (Q := fun f => (vget f.xs .fresh x.val).ovf = true ∧ ∀ k, k ≠ x.val → vget f.xs .fresh k = vget s.fabric.xs .fresh k)
      (fun _ h => h) (by decide) (by decide) 1 none (marked _)

theorem onlineTestClause (ok : Bool) (s : State) (hr : s.runs = true)
    (states : s.mstate = .startup ∨ s.mstate = .service ∨ s.mstate = .test ∨ s.mstate = .recovery) :
    ∃ t, exec (.onlineTestStep ok) s = .next t ∧
      (ok = true → t.fabric.bistPos = (s.fabric.bistPos + 1) % 6189 ∧ { t with fabric := s.fabric } = s) ∧
      (ok = false → t.fabric.bistPos = 0 ∧ (quietSource 0x0B s = true → t.mstate = .safe)) := by
  have ran : exec (.onlineTestStep ok) s = .next (if ok then s.updFabric fun f => { f with bistPos := (f.bistPos + 1) % 6189 }
      else raiseOpen 0x0B 4 none (s.updFabric fun f => { f with bistPos := 0 })) :=
    congrArg Host.Outcome.next ((if_pos hr).trans (if_neg (by rw [decide_eq_true states]; decide)))
  refine ⟨_, ran, ?_⟩
  cases ok
  · exact ⟨nofun, fun _ => ⟨raiseOpen_fabric (Q := fun f => f.bistPos = 0) (fun _ h => h) (by decide) (by decide) 4 none rfl,
      fun quiet => raiseOpen_safe (s := s.updFabric fun f => { f with bistPos := 0 }) hr (by decide) quiet (.inl (by decide)) none⟩⟩
  · exact ⟨fun _ => ⟨rfl, rfl⟩, nofun⟩

/-- Settles O30: the winner is the first of the order of R348, and a fault leaves crossings and test as they are. -/
theorem fabricEvents : Obligations.FabricEvents := by
  unfold Obligations.FabricEvents
  exact ⟨decisionClause, resyncClause, pulseClause, onlineTestClause⟩

end Sys2Proof.Proofs
end

section
/-!
SUPPORT. Starts and restarts (R387, R394, R395, R406): O34.
-/
namespace Sys2Proof.Proofs
open Sys2Proof.Machine

/-! ### What a start makes of each part (R10, R394) -/

section
variable (kind : StartKind) (cause : Nat) (s : State)

@[simp] theorem startAs_mstate : (startAs kind cause s).mstate = .boot := rfl
@[simp] theorem startAs_mem : (startAs kind cause s).mem = if decide (kind = .warm) then warmImage s.mem else [] := rfl
@[simp] theorem startAs_hif : (startAs kind cause s).hif = .fresh := rfl
@[simp] theorem startAs_keys : (startAs kind cause s).keys = s.keys.zeroed := rfl
@[simp] theorem startAs_tb : (startAs kind cause s).tb = s.tb.restart (decide (kind = .warm)) := rfl
@[simp] theorem startAs_fram : (startAs kind cause s).fram = s.fram.restart kind cause (resumeSeq s.ice.ring s.fram.iceMark) := rfl
@[simp] theorem startAs_prog : (startAs kind cause s).prog = s.prog.restart := rfl
@[simp] theorem startAs_lanes : (startAs kind cause s).lanes = s.lanes.map (LaneSt.restart (decide (kind = .warm))) := rfl
@[simp] theorem startAs_tasks : (startAs kind cause s).tasks = { Tasks.fresh with t := s.tasks.t.map (TaskSt.restart (decide (kind = .warm))) } := rfl

theorem vget_map {α β : Type} {n : Nat} (v : Vector α n) (f : α → β) (d : α) (e : β) {i : Nat} (h : i < n) : vget (v.map f) e i = f (vget v d i) := by
  simp [vget, h]

/-- Task records are kept by every start (R77). -/
theorem startAs_task_cfg {n : Nat} (h : n < 8) : ((startAs kind cause s).task n).cfg = (s.task n).cfg := by
  rw [State.task, startAs_tasks]
  have kept := vget_map s.tasks.t (TaskSt.restart (decide (kind = .warm))) .fresh .fresh h
  have cfg := congrArg TaskSt.cfg kept
  exact cfg

/-- A start that is not warm begins with three serving lanes. -/
theorem startAs_servingLanes (h : kind ≠ .warm) : (startAs kind cause s).servingLanes = [0, 1, 2] := by
  have serving : ∀ i ∈ List.range 3, (startAs kind cause s).serving i = true := fun i hi => by
    have fresh := vget_map s.lanes (LaneSt.restart (decide (kind = .warm))) .fresh .fresh (List.mem_range.mp hi)
    rw [State.serving, State.lane, startAs_lanes, fresh, decide_eq_false h]
    rfl
  rw [State.servingLanes, List.filter_eq_self.mpr serving]
  rfl

/-- What every start that is not warm leaves. -/
theorem startAs_cold (h : kind ≠ .warm) : (startAs kind cause s).mstate = .boot ∧ (startAs kind cause s).mem = [] ∧
    (startAs kind cause s).servingLanes = [0, 1, 2] ∧ (startAs kind cause s).hif = .fresh ∧ (startAs kind cause s).keys.reg0 = none ∧
    (startAs kind cause s).keys.reg1 = none ∧ (startAs kind cause s).keys.regT = none ∧ (startAs kind cause s).tb.tb.ns = 0 ∧
    (startAs kind cause s).fram.locks = s.fram.locks ∧ (∀ n, n < 8 → ((startAs kind cause s).task n).cfg = (s.task n).cfg) ∧
    (startAs kind cause s).prog.actBank = s.prog.actBank := by
  have cold : decide (kind = .warm) = false := decide_eq_false h
  refine ⟨rfl, ?_, startAs_servingLanes kind cause s h, rfl, rfl, rfl, rfl, ?_, rfl, fun n => startAs_task_cfg kind cause s, rfl⟩
  · rw [startAs_mem, cold]
    rfl
  · rw [startAs_tb, cold]
    rfl

/-- The note of the start, and what it keeps of the keys. -/
theorem startAs_noted : (startAs kind cause s).fram.startKind = BitVec.ofNat 8 kind.code ∧ (startAs kind cause s).fram.startCause = BitVec.ofNat 8 cause ∧
    (startAs kind cause s).fram.rimeMark = s.fram.rimeMark ∧ (startAs kind cause s).keys.wrap0 = s.keys.wrap0 ∧
    (startAs kind cause s).keys.wrap1 = s.keys.wrap1 ∧ (startAs kind cause s).keys.wrapT = s.keys.wrapT := ⟨rfl, rfl, rfl, rfl, rfl, rfl⟩

end

/-! ### A power-on start -/

/-- What a power-on start acts on: the bookkeeping checked, the JTAG port fresh. -/
def poweredOn (iceAgrees logAgrees : Bool) (s : State) : State := (bookkeeping iceAgrees logAgrees s).updJtag fun _ => .fresh

theorem exec_powerOnStart {s : State} (off : s.mstate = .off) (closed : s.power.swClosed = true) (rime ice log : Bool) :
    exec (.powerOnStart rime ice log) s = .next (if rimeFound rime (poweredOn ice log s) then
      startAs .cold 3 (((poweredOn ice log s).updKeys Keys.unwrapped).updFram fun f => { f with rimeMark := none })
      else startAs .powerOn 0 (poweredOn ice log s)) :=
  congrArg Host.Outcome.next (if_neg (by simp [off, closed]))

theorem task_of_tasks {s t : State} (h : t.tasks = s.tasks) (n : Nat) : t.task n = s.task n := by rw [State.task, h, State.task]

/-- Settles O34: either start is `startAs` of a kind that is not warm; which one it is, the Rime mark decides. -/
theorem powerOnStart : Obligations.PowerOnStart := by
  unfold Obligations.PowerOnStart
  intro rime ice log s off closed
  refine ⟨_, exec_powerOnStart off closed rime ice log, ?_⟩
  have mark : (poweredOn ice log s).fram.rimeMark = s.fram.rimeMark := rfl
  by_cases found : rimeFound rime (poweredOn ice log s) = true
  · rw [if_pos found]
    have held : ¬(rime = true ∧ s.fram.rimeMark = none) := fun h => by simp [rimeFound, mark, h.1, h.2] at found
    obtain ⟨boot, mem, lanes, hif, reg0, reg1, regT, ns, locks, cfg, bank⟩ := startAs_cold .cold 3
      (((poweredOn ice log s).updKeys Keys.unwrapped).updFram fun f => { f with rimeMark := none }) (by decide)
    exact ⟨boot, mem, lanes, hif, reg0, reg1, regT, ns, locks,
      fun n h => (cfg n h).trans (congrArg TaskSt.cfg (task_of_tasks rfl n)), bank, fun h h' => absurd ⟨h, h'⟩ held,
      fun _ => startAs_noted .cold 3 (((poweredOn ice log s).updKeys Keys.unwrapped).updFram fun f => { f with rimeMark := none })⟩
  · rw [if_neg found]
    have free : ¬(rime = false ∨ s.fram.rimeMark.isSome = true) := fun h => by
      rcases h with h | h <;> simp [rimeFound, mark, h] at found
    obtain ⟨boot, mem, lanes, hif, reg0, reg1, regT, ns, locks, cfg, bank⟩ := startAs_cold .powerOn 0 (poweredOn ice log s) (by decide)
    obtain ⟨noted, by_, -, wrap0, -⟩ := startAs_noted .powerOn 0 (poweredOn ice log s)
    exact ⟨boot, mem, lanes, hif, reg0, reg1, regT, ns, locks,
      fun n h => (cfg n h).trans (congrArg TaskSt.cfg (task_of_tasks rfl n)), bank, fun _ _ => ⟨noted, by_, wrap0⟩, fun h => absurd h free⟩

end Sys2Proof.Proofs
end

section
/-!
SUPPORT. What neither faults nor exclusions reach (R10, R130, R283), and BOOT and SELFTEST (R388 to R390, R399, R400): O35.
-/
namespace Sys2Proof.Proofs
open Sys2Proof.Machine

/-! ### What faults and exclusions never reach -/

/-- The parts of a state that no fault, exclusion or entry into SAFE changes. -/
def core (s : State) :=
  ((s.pending, s.resetHold, s.testsDone, s.fromDormant, s.power, s.mem), (s.fw, s.keys, s.jtag, s.rimeArmed, s.maintEn))

theorem core_aside {s t : State} (h : { t with mstate := s.mstate, holdFrom := s.holdFrom, xsram := s.xsram, tb := s.tb, lanes := s.lanes, voter := s.voter, fcu := s.fcu, ice := s.ice, prog := s.prog, tasks := s.tasks, fram := s.fram, twin := s.twin, floe := s.floe, io := s.io, hif := s.hif, fabric := s.fabric, can1 := s.can1, can2 := s.can2, freeCtr := s.freeCtr } = s) :
    core t = core s := (congrArg core h :)

theorem core_enterSafe (s : State) : core (enterSafe s) = core s := by
  have view := enterSafe_frame s
  simp only [sameButSafe, safeView, Prod.mk.injEq] at view
  obtain ⟨⟨pending, -, resetHold, testsDone, fromDormant, power, mem, -⟩, -, -, -, fw, keys, jtag, rimeArmed, maintEn⟩ := view
  simp only [core, pending, resetHold, testsDone, fromDormant, power, mem, fw, keys, jtag, rimeArmed, maintEn]

theorem core_lockLane (i cause : Nat) (s : State) : core (lockLane i cause s) = core s := by
  unfold lockLane
  split <;> rfl

theorem core_failVerify (v : Option (Port × Half)) (code : Half) (s : State) : core (failVerify v code s) = core s := by
  unfold failVerify
  split
  · exact (congrArg core (complete_frame ..) :)
  · rfl

theorem core_interruptLoads (code : Half) (s : State) : core (interruptLoads code s) = core s := by
  unfold interruptLoads
  dsimp only
  rw [core_failVerify, core_failVerify]
  rfl

theorem core_afterExclusion (i cause : Nat) (fp : Fingerprint) (lockNow was3 : Bool) (s : State) :
    core (afterExclusion i cause fp lockNow was3 s) = core s := by
  have part : ∀ (c : Prop) [Decidable c] (f : State → State) (u : State), core (f u) = core u → core (if c then f u else u) = core u := by
    intro c _ f u h
    split
    · exact h
    · rfl
  have part' : ∀ (c : Prop) [Decidable c] (f : State → State) (u : State), core (f u) = core u → core (if c then u else f u) = core u := by
    intro c _ f u h
    split
    · rfl
    · exact h
  unfold afterExclusion
  extract_lets s1 s2 s3 s4
  calc core (if _ then recordState .service .service s4 else s4) = core s4 := part _ _ _ rfl
    _ = core s3 := core_interruptLoads ..
    _ = core s2 := part' _ (fun u => u.updLane i fun l => { l with reintMs := l.reintMs.filter (withinHour s2.tb.ms) ++ [s2.tb.ms] }) _ rfl
    _ = core s1 := part _ (lockLane i cause) _ (core_lockLane ..)
    _ = core s := rfl

theorem core_setPState (new : PState) (s : State) : core (setPState new s) = core s := by
  have frame := setPState_frame new s
  exact core_aside (congrArg (fun v : State => { v with mstate := s.mstate, holdFrom := s.holdFrom, xsram := s.xsram, tb := s.tb, lanes := s.lanes, voter := s.voter, fcu := s.fcu, prog := s.prog, fram := s.fram, floe := s.floe, io := s.io, hif := s.hif, fabric := s.fabric, can1 := s.can1, can2 := s.can2, freeCtr := s.freeCtr }) frame :)

theorem core_targetEffect {second : State → State} (h : ∀ s, core (second s) = core s) (t : Target) (cause : Nat) (s : State) :
    core (targetEffect second t cause s) = core s := by
  cases t with
  | group g =>
    rw [targetEffect, stopGroup]
    rfl
  | task i => rfl
  | twin => exact core_setPState ..
  | channel c => rfl
  | can c => cases c <;> rfl
  | ice => rfl
  | lane i =>
    rw [targetEffect, lockTarget]
    split
    · exact core_lockLane ..
    · split
      · exact h s
      · exact (core_afterExclusion ..).trans rfl

theorem core_raiseNoAgree (s : State) : core (raiseNoAgree s) = core s :=
  raiseNoAgree_keeps (P := fun t => core t = core s) (fun u t e hu => (core_aside (by
    exact (congrArg (fun v : State => { v with mstate := u.mstate, holdFrom := u.holdFrom, xsram := u.xsram, tb := u.tb, voter := u.voter, prog := u.prog, tasks := u.tasks, floe := u.floe, io := u.io, hif := u.hif, fabric := u.fabric, can1 := u.can1, can2 := u.can2 }) e :))).trans hu)
    (fun u hu => (core_enterSafe u).trans hu) rfl

theorem core_raise {src : Nat} (listed : sourceListed src = true) (code detail : Nat) (specific : Option Half) (s : State) :
    core (raise src code detail specific s) = core s :=
  raise_keeps (P := fun t => core t = core s) (fun u t e hu => (core_aside (by
    exact (congrArg (fun v : State => { v with mstate := u.mstate, holdFrom := u.holdFrom, xsram := u.xsram, tb := u.tb, voter := u.voter, prog := u.prog, tasks := u.tasks, floe := u.floe, io := u.io, hif := u.hif, fabric := u.fabric, can1 := u.can1, can2 := u.can2 }) e :))).trans hu)
    (fun u hu => (core_enterSafe u).trans hu) (fun t _ n u hu => (core_targetEffect core_raiseNoAgree t n u).trans hu) listed code detail specific rfl

theorem core_raiseOpen {src : Nat} (listed : sourceListed src = true) (code : Nat) (specific : Option Half) (s : State) :
    core (raiseOpen src code specific s) = core s := (core_raise listed code _ specific (drawFree s).2).trans rfl

theorem core_exclusionSteps {i : Nat} (hi : i < 3) (cause : Nat) (fp : Fingerprint) (lockNow : Bool) (s : State) :
    core (exclusionSteps i cause fp lockNow s) = core s := by
  have listed : sourceListed (0x10 + i) = true := by
    simp only [sourceListed, decide_eq_true_eq]
    omega
  rw [exclusionSteps, core_afterExclusion, core_raise listed]
  rfl

/-! ### BOOT (R388) -/

theorem eff_enterEff {new : MState} (h : new ≠ .hold) (s : State) : (enterEff new s).eff = new := by
  unfold enterEff
  split
  · next hold => exact if_pos hold
  · exact if_neg h

theorem core_enterEff (new : MState) (s : State) : core (enterEff new s) = core s := by
  unfold enterEff
  split <;> rfl

theorem resetHold_none {s : State} (hr : s.runs = true) : s.resetHold = none := by
  simp only [State.runs, Bool.and_eq_true, Option.isNone_iff_eq_none] at hr
  exact hr.1

/-- The slots that pass the checks of R388. -/
def passedSlots (g0 g1 g2 : Bool) (s : State) : List Nat := (bootLanes s).filter fun i => slotPasses s.fw (laneFlag g0 g1 g2 i) i

/-- What an update marked without agreement leaves: no image, no mark. -/
def markDropped (agree : Bool) (s : State) : State := if agree then s else dropImage s

theorem exec_firmwareSlotCheck {s : State} (hr : s.runs = true) (boot : s.eff = .boot) (none' : s.fram.fwMark = none) (g0 g1 g2 agree : Bool) :
    exec (.firmwareSlotCheck g0 g1 g2 agree) s = .next (if 2 ≤ (passedSlots g0 g1 g2 s).length then
      enterEff .selftest ((markDropped agree s).updFw (repairSlots (passedSlots g0 g1 g2 s))) else (markDropped agree s).updResetHold fun _ => some 1) := by
  have mark : (markDropped agree s).fram.fwMark.isSome = false := by
    cases agree <;> simp [markDropped, dropImage, none']
  have passed : ((bootLanes (markDropped agree s)).filter fun i => slotPasses (markDropped agree s).fw (laneFlag g0 g1 g2 i) i) = passedSlots g0 g1 g2 s := by
    cases agree <;> rfl
  refine congrArg Host.Outcome.next ((if_pos hr).trans ((if_neg (by simp [boot])).trans ?_))
  change (if (markDropped agree s).fram.fwMark.isSome = true then _ else
    if 2 ≤ ((bootLanes (markDropped agree s)).filter fun i => slotPasses (markDropped agree s).fw (laneFlag g0 g1 g2 i) i).length then _ else _) = _
  rw [mark, if_neg (by decide), passed]
  cases agree <;> rfl

theorem slotCheckClause (g0 g1 g2 agree : Bool) (s : State) (hr : s.runs = true) (boot : s.eff = .boot) (none' : s.fram.fwMark = none) :
    ∃ t, exec (.firmwareSlotCheck g0 g1 g2 agree) s = .next t ∧
      (2 ≤ (passedSlots g0 g1 g2 s).length → t.eff = .selftest ∧ t.resetHold = none ∧
        ∀ i k, i < 3 → (passedSlots g0 g1 g2 s).head? = some k →
          vget t.fw.slots none i = if i ∈ passedSlots g0 g1 g2 s then vget s.fw.slots none i else vget s.fw.slots none k) ∧
      ((passedSlots g0 g1 g2 s).length < 2 → t.resetHold = some 1 ∧ t.mstate = s.mstate ∧ t.fw.slots = s.fw.slots) := by
  refine ⟨_, exec_firmwareSlotCheck hr boot none' g0 g1 g2 agree, fun two => ?_, fun few => ?_⟩
  · rw [if_pos two]
    have kept := core_enterEff .selftest ((markDropped agree s).updFw (repairSlots (passedSlots g0 g1 g2 s)))
    simp only [core, Prod.mk.injEq] at kept
    obtain ⟨⟨-, hold, -⟩, fw, -⟩ := kept
    refine ⟨eff_enterEff (by decide) _, hold.trans ?_, fun i k hi head => ?_⟩
    · cases agree <;> exact resetHold_none hr
    · have slots : (markDropped agree s).fw.slots = s.fw.slots := by cases agree <;> rfl
      have mended : (repairSlots (passedSlots g0 g1 g2 s) (markDropped agree s).fw).slots =
          Vector.ofFn fun i : Fin 3 => if (passedSlots g0 g1 g2 s).contains i.val then s.fw.slots[i] else vget s.fw.slots none k := by
        rw [repairSlots, head, ← slots]
      rw [fw, State.updFw_fw, mended]
      simp [vget, hi]
  · rw [if_neg (by omega)]
    cases agree <;> exact ⟨rfl, rfl, rfl⟩

/-! ### The update (R399, R400) -/

theorem servingLanes_of_lanes {s t : State} (h : t.lanes = s.lanes) : t.servingLanes = s.servingLanes := by
  have serving : t.serving = s.serving := funext fun i => by rw [State.serving, State.lane, h, State.serving, State.lane]
  rw [State.servingLanes, serving, State.servingLanes]

theorem mem_servingLanes {s : State} {i : Nat} (h : i ∈ s.servingLanes) : i < 3 := List.mem_range.mp (List.mem_filter.mp h).1

/-- Lanes that agree give their flag, with no minority. -/
theorem voteFlags_agreed {lanes : List Nat} (h : 2 ≤ lanes.length) (b : Bool) : voteFlags lanes (laneFlag b b b) = some (b, none) := by
  have flag : ∀ i, laneFlag b b b i = b := fun i => by simp [laneFlag]
  cases b
  · have none' : lanes.filter (laneFlag false false false) = [] := List.filter_eq_nil_iff.mpr fun i _ => by simp [flag]
    have all : (lanes.filter fun i => !laneFlag false false false i) = lanes := List.filter_eq_self.mpr fun i _ => by simp [flag]
    simp only [voteFlags, none', all, List.length_nil, List.head?_nil]
    rw [if_neg (by omega), if_neg (by omega)]
  · have none' : (lanes.filter fun i => !laneFlag true true true i) = [] := List.filter_eq_nil_iff.mpr fun i _ => by simp [flag]
    have all : lanes.filter (laneFlag true true true) = lanes := List.filter_eq_self.mpr fun i _ => by simp [flag]
    simp only [voteFlags, none', all, List.length_nil, List.head?_nil]
    rw [if_neg (by omega), if_pos (by omega)]

theorem exec_fwUpdateBoot {s : State} (hr : s.runs = true) (boot : s.eff = .boot) (mark : s.fram.fwMark.isSome = true)
    (two : 2 ≤ s.servingLanes.length) (sig : Bool) :
    exec (.fwUpdateBoot sig sig sig false false false) s = .next (match updateRefusal sig s.fw with
      | some c => refuseUpdate c s
      | none => acceptUpdate s) := by
  have unmarked : s.fram.fwMark.isNone = false := by
    cases h : s.fram.fwMark with
    | none => simp [h] at mark
    | some _ => rfl
  refine congrArg Host.Outcome.next ((if_pos hr).trans ((if_neg (by simp [boot, unmarked])).trans ?_))
  rw [voteFlags_agreed two]
  have nobody : (if formatOk s.fw.image then (none : Option Nat).toList.foldl lockOutLane s else s) = s := by
    split <;> rfl
  have sound : s.servingLanes.filter (laneFlag false false false) = [] := List.filter_eq_nil_iff.mpr fun i _ => by simp [laneFlag]
  dsimp only
  rw [nobody]
  cases updateRefusal sig s.fw with
  | some c => rfl
  | none =>
    dsimp only
    rw [sound]
    exact if_pos boot

theorem lanes_record (code : Half) (sev src p0 p1 p2 p3 : Nat) (s : State) : (record code sev src p0 p1 p2 p3 s).lanes = s.lanes := rfl

theorem acceptUpdate_lanes (s : State) : (acceptUpdate s).lanes = s.lanes := by
  rw [acceptUpdate, lanes_record, dropImage, State.updFram_lanes, State.updFw_lanes, State.updFw_lanes]

theorem refuseUpdate_lanes (c : Nat) (s : State) : (refuseUpdate c s).lanes = s.lanes := by
  rw [refuseUpdate, lanes_record, dropImage, State.updFram_lanes, State.updFw_lanes]

theorem updateClause (sig : Bool) (s : State) (hr : s.runs = true) (boot : s.eff = .boot) (mark : s.fram.fwMark.isSome = true)
    (two : 2 ≤ s.servingLanes.length) :
    ∃ t, exec (.fwUpdateBoot sig sig sig false false false) s = .next t ∧ t.fram.fwMark = none ∧ t.fw.snow = .empty ∧
      t.fw.image = [] ∧ t.servingLanes = s.servingLanes ∧
      (updateRefusal sig s.fw = none → t.fw.version = imageWord s.fw.image 2 ∧
        t.fw.fuses = max s.fw.fuses (imageRollback s.fw.image) ∧
        ∀ i ∈ s.servingLanes, vget t.fw.slots none i = some s.fw.image) ∧
      (updateRefusal sig s.fw ≠ none → t.fw.version = s.fw.version ∧ t.fw.fuses = s.fw.fuses ∧ t.fw.slots = s.fw.slots) := by
  refine ⟨_, exec_fwUpdateBoot hr boot mark two sig, ?_⟩
  cases h : updateRefusal sig s.fw with
  | some c => exact ⟨rfl, rfl, rfl, servingLanes_of_lanes (refuseUpdate_lanes c s), nofun, fun _ => ⟨rfl, rfl, rfl⟩⟩
  | none =>
    refine ⟨rfl, rfl, rfl, servingLanes_of_lanes (acceptUpdate_lanes s), fun _ => ⟨rfl, rfl, fun i hi => ?_⟩, fun h => absurd rfl h⟩
    have written : (acceptUpdate s).fw.slots = Vector.ofFn fun i : Fin 3 => if s.servingLanes.contains i.val then some s.fw.image else s.fw.slots[i] := rfl
    dsimp only
    rw [written]
    simp [vget, mem_servingLanes hi, hi]

/-! ### SELFTEST (R389, R390) -/

theorem core_tryListen (s : State) : core (tryListen s) = core s := by
  have listed : ∀ c, sourceListed (chanSource c) = true := fun c => by cases c <;> rfl
  have mode : ∀ u, core (setFState .listen u) = core u := fun u => by
    unfold setFState
    split <;> rfl
  unfold tryListen
  split
  · unfold leaveDown
    extract_lets s1 s2
    have first : core s1 = core s := (mode _).trans rfl
    have second : core s2 = core s1 := by
      simp only [s2]
      split
      · rfl
      · exact core_raiseOpen (listed .a) 2 _ s1
    split
    · exact second.trans first
    · exact (core_raiseOpen (listed .b) 2 _ s2).trans (second.trans first)
  · rfl

theorem core_testLane (ok : Bool) (s : State) {i : Nat} (hi : i < 3) : core (testLane ok s i) = core s := by
  unfold testLane
  split
  · rfl
  · split
    · rfl
    · exact core_exclusionSteps hi ..

theorem core_testLanes (ok : Bool) (s : State) : core ((List.range 3).foldl (testLane ok) s) = core s := by
  have fold : ∀ (l : List Nat), (∀ i ∈ l, i < 3) → ∀ u, core (l.foldl (testLane ok) u) = core u := by
    intro l
    induction l with
    | nil => exact fun _ _ => rfl
    | cons i l ih => exact fun h u => (ih (fun j hj => h j (by simp [hj])) _).trans (core_testLane ok u (h i (by simp)))
  exact fold _ (fun i hi => List.mem_range.mp hi) s

/-- A state of the tests' end, with the inputs to be filtered anew. -/
def filtersReset (s : State) : State := if fullTest s then s.updIo fun i => { i with inputs := i.inputs.map InSt.again } else s

theorem exec_selftestComplete {s : State} (hr : s.runs = true) (tests : s.eff = .selftest) (due : s.testsDone = false)
    (logic memory guard w0 w1 wT reint : Bool) :
    exec (.selftestComplete logic memory guard w0 w1 wT reint) s = .next (match testFailure logic memory guard s with
      | some n => s.updResetHold fun _ => some n
      | none => tryListen (((List.range 3).foldl (testLane reint) ((filtersReset s).updKeys (Keys.load w0 w1 wT))).updTestsDone fun _ => true)) :=
  congrArg Host.Outcome.next ((if_pos hr).trans (if_neg (by simp [tests, due])))

theorem selftestClause (logic memory guard w0 w1 wT reint : Bool) (s : State) (hr : s.runs = true) (tests : s.eff = .selftest)
    (due : s.testsDone = false) :
    ∃ t, exec (.selftestComplete logic memory guard w0 w1 wT reint) s = .next t ∧
      (∀ n, testFailure logic memory guard s = some n → t.resetHold = some n ∧ t.testsDone = false ∧ t.keys = s.keys) ∧
      (testFailure logic memory guard s = none → t.testsDone = true ∧ t.resetHold = none ∧
        t.keys.reg0 = (if w0 then s.keys.wrap0 else none) ∧ t.keys.reg1 = (if w1 then s.keys.wrap1 else none) ∧
        t.keys.regT = (if wT then s.keys.wrapT else none)) := by
  refine ⟨_, exec_selftestComplete hr tests due logic memory guard w0 w1 wT reint, ?_⟩
  cases testFailure logic memory guard s with
  | some n => exact ⟨fun m h => ⟨h, due, rfl⟩, nofun⟩
  | none =>
    refine ⟨nofun, fun _ => ?_⟩
    dsimp only
    have listened := core_tryListen (((List.range 3).foldl (testLane reint) ((filtersReset s).updKeys (Keys.load w0 w1 wT))).updTestsDone fun _ => true)
    have tested := core_testLanes reint ((filtersReset s).updKeys (Keys.load w0 w1 wT))
    have filtered : core (filtersReset s) = core s := by
      unfold filtersReset
      split <;> rfl
    simp only [core, Prod.mk.injEq, State.updTestsDone_resetHold, State.updTestsDone_testsDone, State.updTestsDone_keys, State.updKeys_resetHold,
      State.updKeys_keys] at listened tested filtered
    obtain ⟨⟨-, hold, done, -⟩, -, keys, -⟩ := listened
    obtain ⟨⟨-, hold1, -⟩, -, keys1, -⟩ := tested
    obtain ⟨⟨-, hold2, -⟩, -, keys2, -⟩ := filtered
    rw [done, hold, hold1, hold2, keys, keys1, keys2]
    exact ⟨rfl, resetHold_none hr, rfl, rfl, rfl⟩

/-- Settles O35: what the slot check, the update and the tests leave; the lanes and the channels that fail a test reach neither keys nor reset. -/
theorem bootAndSelftest : Obligations.BootAndSelftest := by
  unfold Obligations.BootAndSelftest
  exact ⟨slotCheckClause, updateClause, selftestClause⟩

end Sys2Proof.Proofs
end

section
/-!
SUPPORT. STARTUP and SERVICE are entered (R22, R30, R31, R133, R135, R255, R266, R275, R386): O36.
-/
namespace Sys2Proof.Proofs
open Sys2Proof.Machine

/-! ### LISTEN is tried -/

theorem setFState_listen_frame (new : FState) (s : State) : { setFState new s with floe := s.floe, tb := s.tb, ice := s.ice } = s := by
  unfold setFState
  split <;> rfl

/-- A start of listening takes the state and reports each link that is down. -/
theorem tryListen_keeps {P : State → Prop}
    (aside : ∀ s t : State, { t with fcu := s.fcu, ice := s.ice, fram := s.fram, lanes := s.lanes, twin := s.twin, freeCtr := s.freeCtr, floe := s.floe, tb := s.tb } = s → P s → P t)
    (safe : ∀ s, P s → P (enterSafe s)) {s : State} (h : P s) : P (tryListen s) := by
  have fault : ∀ c u, P u → P (channelFault c u) := fun c u hu =>
    raiseOpen_keeps (P := P) (fun v t e => aside v t (congrArg (fun x : State => { x with floe := v.floe, tb := v.tb }) e :)) safe
      (fun t e n v hv => by
        obtain ⟨k, target⟩ : ∃ k, classThreeTarget (chanSource c) = some (.channel k) := by cases c <;> exact ⟨_, rfl⟩
        obtain rfl : Target.channel k = t := Option.some.inj (target.symm.trans e)
        exact hv) (by cases c <;> rfl) 2 _ hu
  unfold tryListen
  split
  · unfold leaveDown
    extract_lets s1 s2
    have first : P s1 := by
      have frame := setFState_listen_frame .listen (s.updFloe fun f => { f with mode := BitVec.ofNat 2 (floeInitMode f.live) })
      exact aside s s1 (congrArg (fun x : State => { x with fcu := s.fcu, fram := s.fram, lanes := s.lanes, twin := s.twin, freeCtr := s.freeCtr, floe := s.floe }) frame :) h
    have second : P s2 := by
      simp only [s2]
      split
      · exact first
      · exact fault .a _ first
    split
    · exact second
    · exact fault .b _ second
  · exact h

theorem leaveDown_linked {s : State} (a : s.floe.chA.linkUp = true) (b : s.floe.chB.linkUp = true) :
    leaveDown s = setFState .listen (s.updFloe fun f => { f with mode := BitVec.ofNat 2 (floeInitMode f.live) }) := by
  have links : ∀ u : State, u.floe.chA.linkUp = true → u.floe.chB.linkUp = true →
      (setFState .listen u).floe.chA.linkUp = true ∧ (setFState .listen u).floe.chB.linkUp = true := fun u ha hb => by
    unfold setFState
    split <;> exact ⟨ha, hb⟩
  obtain ⟨ha, hb⟩ := links (s.updFloe fun f => { f with mode := BitVec.ofNat 2 (floeInitMode f.live) }) a b
  rw [leaveDown, if_pos ha, if_pos hb]

/-- With both links up, or both down, no channel is reported. -/
theorem tryListen_frame {s : State} (h : s.floe.chA.linkUp = s.floe.chB.linkUp) : { tryListen s with floe := s.floe, tb := s.tb, ice := s.ice } = s := by
  unfold tryListen
  split
  · next hl =>
    obtain ⟨-, -, up⟩ := hl
    rw [← h, or_self] at up
    have upB := h.symm.trans up
    rw [leaveDown_linked up upB]
    exact (congrArg (fun x : State => { x with floe := s.floe })
      (setFState_listen_frame .listen (s.updFloe fun f => { f with mode := BitVec.ofNat 2 (floeInitMode f.live) })) :)
  · rfl

theorem fields_of_listening {s t : State} (h : { t with floe := s.floe, tb := s.tb, ice := s.ice } = s) :
    t.mstate = s.mstate ∧ t.holdFrom = s.holdFrom ∧ t.io = s.io := ⟨(congrArg State.mstate h :), (congrArg State.holdFrom h :), (congrArg State.io h :)⟩

/-! ### The states of a start -/

/-- STARTUP, also from within HOLD. -/
def StartupOrSafe (s : State) : Prop := s.mstate = .startup ∨ (s.mstate = .hold ∧ s.holdFrom = .startup) ∨ s.mstate = .safe

theorem StartupOrSafe.says {s : State} (h : StartupOrSafe s) : s.eff = .startup ∨ s.mstate = .safe := by
  rcases h with h | ⟨h, h'⟩ | h
  · exact .inl ((if_neg (by rw [h]; decide)).trans h)
  · exact .inl ((if_pos h).trans h')
  · exact .inr h

theorem StartupOrSafe.safe {s : State} (h : StartupOrSafe s) : (enterSafe s).mstate = .safe := by
  refine enterSafe_mstate s ?_ ?_ <;> rcases h with h | ⟨h, -⟩ | h <;> rw [h] <;> decide

theorem startup_enterEff (s : State) : StartupOrSafe (enterEff .startup s) := by
  unfold enterEff
  split
  · next hold => exact .inr (.inl ⟨hold, rfl⟩)
  · exact .inl rfl

theorem enterEff_frame (new : MState) (s : State) : { enterEff new s with mstate := s.mstate, holdFrom := s.holdFrom, ice := s.ice } = s := by
  unfold enterEff
  split <;> rfl

theorem safe_enterSafe {s : State} (h : s.mstate = .safe) : (enterSafe s).mstate = .safe :=
  enterSafe_mstate s (by rw [h]; decide) (by rw [h]; decide)

/-! ### What is restored -/

/-- The elements restored and the tasks of lock-out records stopped. -/
def restored (s : State) : State := reimpose (restoreElements s)

theorem restoreElements_locks (s : State) : (restoreElements s).fram.locks = s.fram.locks := by
  unfold restoreElements
  split
  · rfl
  · rfl

theorem reimpose_keeps {P : State → Prop} (stop : ∀ n s, P s → P (s.updTask n fun x => { x with stopped := true })) {s : State} (h : P s) :
    P (reimpose s) :=
  foldl_keeps (f := stopLocked) (fun u n hu => by
    unfold stopLocked
    split
    · exact stop n u hu
    · exact hu) _ h

theorem lockStands_of_locks {s t : State} (h : t.fram.locks = s.fram.locks) (kind index : Nat) : lockStands kind index t = lockStands kind index s := by
  rw [lockStands, h, lockStands]

theorem reimpose_stops {s : State} {n : Nat} (hn : n < 8) (h : lockStands 3 n s = true) : ((reimpose s).task n).stopped = true := by
  have stop : ∀ (k : Nat) (u : State), ((u.updTask k fun x => { x with stopped := true }).task n).stopped = true ∨
      ((u.updTask k fun x => { x with stopped := true }).task n) = u.task n := fun k u => by
    by_cases e : n = k
    · subst e
      exact .inl (congrArg TaskSt.stopped (task_updTask_same hn _))
    · exact .inr (task_updTask_other e _)
  have fold : ∀ (l : List Nat) (u : State), u.fram.locks = s.fram.locks → (n ∈ l ∨ (u.task n).stopped = true) →
      ((l.foldl stopLocked u).task n).stopped = true := by
    intro l
    induction l with
    | nil => exact fun u _ h => h.resolve_left (by simp)
    | cons k l ih =>
      intro u hu hmem
      have locks : (stopLocked u k).fram.locks = s.fram.locks := by
        unfold stopLocked
        split
        · exact hu
        · exact hu
      refine ih _ locks ?_
      by_cases e : k = n
      · subst e
        refine .inr ?_
        rw [stopLocked, if_pos ((lockStands_of_locks hu 3 k).trans h)]
        exact congrArg TaskSt.stopped (task_updTask_same hn _)
      · rcases hmem with hmem | hmem
        · exact .inl ((List.mem_cons.mp hmem).resolve_left (Ne.symm e))
        · refine .inr ?_
          unfold stopLocked
          split
          · exact (stop k u).elim id fun same => by rw [same, hmem]
          · exact hmem
  exact fold (List.range 8) s rfl (.inl (List.mem_range.mpr hn))

/-! ### The last steps of a start -/

/-- What the start acts on once STARTUP is entered: a module lock-out leads on to SAFE, a brownout leaves the groups off. -/
def startedUp (s : State) : State :=
  if lockStands 1 0 (enterEff .startup (restored s)) then enterSafe (enterEff .startup (restored s))
  else if (enterEff .startup (restored s)).power.brownout then enterEff .startup (restored s) else startGroups (enterEff .startup (restored s))

theorem restored_locks (s : State) : (restored s).fram.locks = s.fram.locks := by
  have kept := reimpose_keeps (P := fun t => t.fram.locks = s.fram.locks) (fun _ _ h => h) (restoreElements_locks s)
  unfold restored
  exact kept

theorem reimpose_frame (s : State) : { reimpose s with tasks := s.tasks } = s := by
  have kept := reimpose_keeps (P := fun t => { t with tasks := s.tasks } = s) (fun _ _ h => h) (s := s) rfl
  exact kept

/-- What the tasks' stops leave, for whatever state they end in. -/
theorem fields_of_tasks {s t : State} (h : { t with tasks := s.tasks } = s) : t.mstate = s.mstate ∧ t.holdFrom = s.holdFrom ∧ t.voter = s.voter ∧
    t.prog = s.prog ∧ t.floe = s.floe ∧ t.power = s.power :=
  ⟨(congrArg State.mstate h :), (congrArg State.holdFrom h :), (congrArg State.voter h :), (congrArg State.prog h :), (congrArg State.floe h :), (congrArg State.power h :)⟩

theorem restored_fields (s : State) : (restored s).mstate = s.mstate ∧ (restored s).holdFrom = s.holdFrom ∧
    (restored s).voter = (restoreElements s).voter ∧ (restored s).prog = s.prog ∧ (restored s).floe = s.floe ∧ (restored s).power = s.power := by
  obtain ⟨mstate, holdFrom, voter, prog, floe, power⟩ := fields_of_tasks (reimpose_frame (restoreElements s))
  have first : (restoreElements s).mstate = s.mstate ∧ (restoreElements s).holdFrom = s.holdFrom ∧ (restoreElements s).prog = s.prog ∧
      (restoreElements s).floe = s.floe ∧ (restoreElements s).power = s.power := by
    unfold restoreElements
    split <;> exact ⟨rfl, rfl, rfl, rfl, rfl⟩
  obtain ⟨mstate1, holdFrom1, prog1, floe1, power1⟩ := first
  unfold restored
  exact ⟨mstate.trans mstate1, holdFrom.trans holdFrom1, voter, prog.trans prog1, floe.trans floe1, power.trans power1⟩

theorem enterEff_fields (new : MState) (s : State) : (enterEff new s).voter = s.voter ∧ (enterEff new s).prog = s.prog ∧
    (enterEff new s).tasks = s.tasks ∧ (enterEff new s).fram = s.fram ∧ (enterEff new s).floe = s.floe ∧ (enterEff new s).power = s.power := by
  unfold enterEff
  split <;> exact ⟨rfl, rfl, rfl, rfl, rfl, rfl⟩

theorem exec_startupReached {s : State} (hr : s.runs = true) (tests : s.eff = .selftest) (done : s.testsDone = true) :
    exec (.startupReached .pass .pass .all true true true) s = .next (tryListen (startedUp s)) := by
  have eff : (restored s).eff = .selftest := by
    obtain ⟨mstate, holdFrom, -⟩ := restored_fields s
    rw [State.eff, mstate, holdFrom]
    exact tests
  have passed : ∀ n, checkBank n .pass s = s := fun n => by
    rw [checkBank, if_pos (.inl rfl)]
  have run : exec (.startupReached .pass .pass .all true true true) s = execStartupReached .pass .pass .all true true true s := rfl
  unfold restored at eff
  rw [run, execStartupReached, whileRunning, if_pos hr, if_neg (by simp [tests, done]), passed, passed]
  simp only [if_true, voteAgreement]
  rw [if_neg (by rw [eff]; decide), startedUp, restored]

/-- What no fault of a channel undoes at the end of a start. -/
structure StartKept (s t : State) : Prop where
  voter : t.voter = (restored s).voter
  bank  : t.prog.actBank = s.prog.actBank
  tasks : t.tasks = (restored s).tasks

theorem StartKept.aside {s t u : State} (h : StartKept s t)
    (e : { u with fcu := t.fcu, ice := t.ice, fram := t.fram, lanes := t.lanes, twin := t.twin, freeCtr := t.freeCtr, floe := t.floe, tb := t.tb } = t) :
    StartKept s u :=
  ⟨(congrArg State.voter e :).trans h.voter, (congrArg (fun v : State => v.prog.actBank) e :).trans h.bank, (congrArg State.tasks e :).trans h.tasks⟩

theorem StartKept.safe {s t : State} (h : StartKept s t) : StartKept s (enterSafe t) := by
  have view := enterSafe_frame t
  simp only [sameButSafe, safeView, Prod.mk.injEq] at view
  obtain ⟨⟨-, -, -, -, -, -, -, -, voter⟩, -, tasks, -⟩ := view
  have bank : (enterSafe t).prog.actBank = t.prog.actBank :=
    enterSafe_keeps (P := fun u => u.prog.actBank = t.prog.actBank) (fun u v e hu => (congrArg (fun x : State => x.prog.actBank) e :).trans hu)
      (fun u hu => by
        refine Eq.trans ?_ hu
        simp only [abandonWork, State.updFabric_prog, State.updFloe_prog, State.updTwin_prog, State.updProg_prog]) rfl
  exact ⟨voter.trans h.voter, bank.trans h.bank, tasks.trans h.tasks⟩

theorem StartKept.groups {s t : State} (h : StartKept s t) : StartKept s (startGroups t) := ⟨h.voter, h.bank, h.tasks⟩

theorem StartupOrSafe.groups {s : State} (h : StartupOrSafe s) : StartupOrSafe (startGroups s) := h

theorem startGroups_fields (s : State) : (startGroups s).floe = s.floe ∧ (startGroups s).eff = s.eff := ⟨rfl, rfl⟩

theorem startGroups_lines (s : State) : (startGroups s).io.gen1 = !lockStands 2 1 s ∧ (startGroups s).io.gen2 = !lockStands 2 2 s := ⟨rfl, rfl⟩

theorem startKept_entered (s : State) : StartKept s (enterEff .startup (restored s)) := by
  obtain ⟨voter, prog, tasks, -⟩ := enterEff_fields .startup (restored s)
  obtain ⟨-, -, -, prog1, -⟩ := restored_fields s
  exact ⟨voter, congrArg Prog.actBank (prog.trans prog1), tasks⟩

theorem lockStands_entered (s : State) (kind index : Nat) : lockStands kind index (enterEff .startup (restored s)) = lockStands kind index s := by
  obtain ⟨-, -, -, fram, -⟩ := enterEff_fields .startup (restored s)
  exact lockStands_of_locks (by rw [fram, restored_locks]) kind index

theorem startedUp_kept (s : State) : StartKept s (startedUp s) ∧ StartupOrSafe (startedUp s) := by
  have entered := startKept_entered s
  have state := startup_enterEff (restored s)
  unfold startedUp
  split
  · exact ⟨entered.safe, .inr (.inr state.safe)⟩
  · split
    · exact ⟨entered, state⟩
    · exact ⟨entered.groups, state.groups⟩

theorem startupClause (s : State) (hr : s.runs = true) (tests : s.eff = .selftest) (done : s.testsDone = true) :
    ∃ t, exec (.startupReached .pass .pass .all true true true) s = .next t ∧ (t.eff = .startup ∨ t.mstate = .safe) ∧
      (lockStands 1 0 s = true → t.mstate = .safe) ∧
      (lockStands 1 0 s = false → s.floe.chA.linkUp = s.floe.chB.linkUp → t.eff = .startup ∧
        (s.power.brownout = false → t.io.gen1 = !lockStands 2 1 s ∧ t.io.gen2 = !lockStands 2 2 s)) ∧
      (∀ b, s.prog.active = some b → t.voter.restoreSig = restoreSignature b s.fram) ∧
      t.prog.actBank = s.prog.actBank ∧ (∀ n, n < 8 → lockStands 3 n s = true → (t.task n).stopped = true) := by
  obtain ⟨kept, state⟩ := startedUp_kept s
  have listened : StartKept s (tryListen (startedUp s)) := tryListen_keeps (P := StartKept s) (fun _ _ e h => h.aside e) (fun _ h => h.safe) kept
  refine ⟨_, exec_startupReached hr tests done, ?_, fun lock => ?_, fun free links => ?_, fun b hb => ?_, listened.bank, fun n hn lock => ?_⟩
  · refine (tryListen_keeps (P := StartupOrSafe) (fun u v e h => ?_) (fun _ h => .inr (.inr h.safe)) state).says
    have mstate : v.mstate = u.mstate := (congrArg State.mstate e :)
    have holdFrom : v.holdFrom = u.holdFrom := (congrArg State.holdFrom e :)
    rwa [StartupOrSafe, mstate, holdFrom]
  · refine tryListen_keeps (P := fun u => u.mstate = .safe) (fun u v e h => (congrArg State.mstate e :).trans h) (fun _ h => safe_enterSafe h) ?_
    rw [startedUp, if_pos ((lockStands_entered s 1 0).trans lock)]
    exact (startup_enterEff (restored s)).safe
  · obtain ⟨-, -, -, -, floe, power⟩ := enterEff_fields .startup (restored s)
    obtain ⟨-, -, -, -, floe1, power1⟩ := restored_fields s
    have started : startedUp s = if s.power.brownout then enterEff .startup (restored s) else startGroups (enterEff .startup (restored s)) := by
      rw [startedUp, if_neg (by rw [lockStands_entered, free]; decide), power, power1]
    have sameFloe : (startedUp s).floe = s.floe := by
      rw [started]
      split
      · exact floe.trans floe1
      · exact (startGroups_fields _).1.trans (floe.trans floe1)
    have linked := tryListen_frame (s := startedUp s) (by rw [sameFloe]; exact links)
    refine ⟨?_, fun up => ?_⟩
    · obtain ⟨mstate, holdFrom, -⟩ := fields_of_listening linked
      have eff : (enterEff .startup (restored s)).eff = .startup := eff_enterEff (by decide) _
      have same : (tryListen (startedUp s)).eff = (startedUp s).eff := by rw [State.eff, mstate, holdFrom, State.eff]
      rw [same, started]
      split
      · exact eff
      · exact (startGroups_fields _).2.trans eff
    · obtain ⟨-, -, io⟩ := fields_of_listening linked
      rw [io, started, up, if_neg (by decide), ← lockStands_entered s 2 1, ← lockStands_entered s 2 2]
      exact startGroups_lines _
  · have taken : (restored s).voter.restoreSig = restoreSignature b s.fram := by
      obtain ⟨-, -, voter, -⟩ := restored_fields s
      rw [voter, restoreElements, hb]
      rfl
    rw [listened.voter, taken]
  · rw [task_of_tasks listened.tasks]
    unfold restored
    exact reimpose_stops hn ((lockStands_of_locks (restoreElements_locks s) 3 n).trans lock)

/-! ### SERVICE -/

theorem settleOutputs_keeps {P : State → Prop} (out : ∀ k f s, P s → P (s.updOut k f)) {s : State} (h : P s) : P (settleOutputs s) :=
  foldl_keeps (f := fun t k => if commandOf k s = (s.io.out k).command then t else t.updOut k fun o => { o with command := commandOf k s, cmdCyc := s.cyc })
    (fun u k hu => by
      split
      · exact hu
      · exact out _ _ _ hu) _ h

theorem serviceClause (s : State) (hr : s.runs = true) (startup : s.eff = .startup) (ready : s.serviceReady = true)
    (agreed : agreementHolds s = true) (up : s.power.brownout = false) :
    ∃ t, exec .serviceEntry s = .next t ∧ t.eff = .service ∧ t.tasks.origin = s.floe.round + 1 ∧ t.io.cos = [] ∧
      (∀ n, n < 8 → (t.task n).refReady = false ∧ (t.task n).run = (s.task n).run) ∧
      { t with mstate := s.mstate, holdFrom := s.holdFrom, tasks := s.tasks, io := s.io, ice := s.ice } = s := by
  obtain ⟨v, hv⟩ : ∃ v : State, v = (startSchedule (s.floe.round + 1) s).updIo fun i => { i with cos := [] } := ⟨_, rfl⟩
  have run : exec .serviceEntry s = .next (recordUnscheduled (settleOutputs (enterEff .service v))) := by
    rw [hv]
    exact congrArg Host.Outcome.next ((if_pos hr).trans (if_pos (by simp [startup, ready, agreed, up])))
  have first : { v with tasks := s.tasks, io := s.io } = s := by
    rw [hv]
    rfl
  have tasks : v.tasks = (startSchedule (s.floe.round + 1) s).tasks := by rw [hv]; rfl
  have cos : v.io.cos = [] := by rw [hv]; rfl
  have entered := enterEff_frame .service v
  have eff : (enterEff .service v).eff = .service := eff_enterEff (by decide) v
  generalize enterEff .service v = e at run entered eff
  have settled : { settleOutputs e with io := e.io } = e := settleOutputs_keeps (P := fun t => { t with io := e.io } = e) (fun _ _ _ h => h) rfl
  have empty : (settleOutputs e).io.cos = [] :=
    settleOutputs_keeps (P := fun t => t.io.cos = []) (fun _ _ _ h => h) ((congrArg (fun x : State => x.io.cos) entered :).trans cos)
  generalize settleOutputs e = o at run settled empty
  have noted := recordUnscheduled_frame o
  generalize recordUnscheduled o = t at run noted
  have same : { t with io := e.io, ice := e.ice } = e := by
    have ice : o.ice = e.ice := (congrArg State.ice settled :)
    rw [← ice]
    exact (congrArg (fun x : State => { x with io := e.io }) noted :).trans settled
  have sameTasks : t.tasks = (startSchedule (s.floe.round + 1) s).tasks :=
    (congrArg State.tasks same :).trans ((congrArg State.tasks entered :).trans tasks)
  refine ⟨t, run, ?_, ?_, (congrArg (fun x : State => x.io.cos) noted :).trans empty, fun n hn => ?_, ?_⟩
  · have mstate : t.mstate = e.mstate := (congrArg State.mstate same :)
    have holdFrom : t.holdFrom = e.holdFrom := (congrArg State.holdFrom same :)
    rw [State.eff, mstate, holdFrom]
    exact eff
  · rw [sameTasks]
    rfl
  · rw [State.task, sameTasks]
    have reset := vget_map s.tasks.t (fun x => { x with refReady := false, refPos := 0, gone := x.stopped }) .fresh .fresh hn
    have ready := congrArg TaskSt.refReady reset
    have run := congrArg TaskSt.run reset
    exact ⟨ready, run⟩
  · have inner : { e with mstate := s.mstate, holdFrom := s.holdFrom, tasks := s.tasks, io := s.io, ice := s.ice } = s := by
      have ice : v.ice = s.ice := (congrArg State.ice first :)
      rw [← ice]
      exact (congrArg (fun x : State => { x with mstate := s.mstate, holdFrom := s.holdFrom, tasks := s.tasks, io := s.io }) entered :).trans
        (congrArg (fun x : State => { x with mstate := s.mstate, holdFrom := s.holdFrom }) first :)
    exact (congrArg (fun x : State => { x with mstate := s.mstate, holdFrom := s.holdFrom, tasks := s.tasks, io := s.io, ice := s.ice }) same :).trans inner

/-- Settles O36: the last steps of a start, of which only a link that is down can lead further, and the entry into SERVICE. -/
theorem startupAndServiceAreEntered : Obligations.StartupAndServiceAreEntered := by
  unfold Obligations.StartupAndServiceAreEntered
  exact ⟨startupClause, serviceClause⟩

end Sys2Proof.Proofs
end

section
/-!
SUPPORT. Supply events (R30, R31, R149, R382, R416 to R419): O37.
-/
namespace Sys2Proof.Proofs
open Sys2Proof.Machine

/-! ### A fault of class 1 -/

theorem record_stopped (code : Half) (sev src p0 p1 p2 p3 : Nat) (s : State) : (record code sev src p0 p1 p2 p3 s).ice.stopped = s.ice.stopped := by
  have kept := emit_ice { seq := 0, time := s.tb.tb.ns, code := code, sev := sev, src := src, p0 := BitVec.ofNat 32 p0, p1 := BitVec.ofNat 32 p1, p2 := BitVec.ofNat 32 p2, p3 := BitVec.ofNat 32 p3 } s
  exact (congrArg Ice.stopped kept :)

section
variable {P : State → Prop} {src : Nat} (high : 8 ≤ src)
  (aside : ∀ s t : State, { t with fcu := s.fcu, ice := s.ice, freeCtr := s.freeCtr } = s → t.ice.stopped = s.ice.stopped → P s → P t)
include high aside

/-- A fault of class 0 or 1 is decided at class 2 at most, and class 2 does no more than class 1. -/
theorem decideBase_low (second : State → State) {code : Nat} {broken : Bool} (low : code = 0 ∨ (code = 1 ∧ broken = false)) (forced : Bool)
    (detail : Word) (specific : Option Half) {s : State} (h : P s) : P (decideBase second src code broken forced detail specific s) := by
  have le : (finalClass s.fcu src code broken).cls ≤ 2 := by
    have below : decide (src < 8) = false := decide_eq_false (by omega)
    simp only [finalClass, below]
    rcases low with rfl | ⟨rfl, rfl⟩
    · cases broken <;> simp <;> split <;> simp_all
    · simp
      split <;> simp_all
  have noted : decideBase second src code broken forced detail specific s =
      noteFault (finalClass s.fcu src code broken) src code broken forced detail s := by
    rw [decideBase_eq]
    dsimp only
    rw [lockDecided_of_le le, decisionEffect, if_neg (by omega), if_neg (by omega)]
  rw [noted]
  exact aside s _ rfl (record_stopped ..) h

theorem changeBase_low (second : State → State) {code : Nat} (low : code ≤ 1) (forced : Bool) (detail : Word) (specific : Option Half) (endMs : Nat)
    {s : State} (plain : code = 1 → (s.fcuSource src).real = 2) (h : P s) : P (changeBase second src code forced detail specific endMs s) := by
  have shown : ∀ f, P (s.updSource src f) := fun f => aside s _ rfl rfl h
  unfold changeBase
  dsimp only
  split
  · refine decideBase_low high aside second ?_ forced detail specific (shown _)
    rcases (by omega : code = 0 ∨ code = 1) with zero | one
    · exact .inl zero
    · refine .inr ⟨one, ?_⟩
      rw [usedPattern, plain one]
      rfl
  · split
    · exact aside s _ rfl (record_stopped ..) h
    · exact shown _

theorem raiseOpen_low (listed : sourceListed src = true) (specific : Option Half) {s : State} (h : P s) : P (raiseOpen src 1 specific s) := by
  have drawn : P (drawFree s).2 := aside s _ rfl rfl h
  have shown : ∀ (f : FcuSource → FcuSource) u, P u → P (State.updSource src f u) := fun f u hu => aside u _ rfl rfl hu
  change P (presentPattern src 2 1 _ specific (drawFree s).2)
  rw [presentPattern, if_pos listed, presentBase]
  dsimp only
  split
  · exact drawn
  · refine changeBase_low high aside _ (by decide) _ _ _ _ (fun _ => by rw [fcuSource_updSource_same]) (shown _ _ ?_)
    split
    · exact changeBase_low high aside _ (by decide) _ _ _ _ nofun (shown _ _ drawn)
    · exact drawn

end

/-! ### Before a restart (R120, R295) -/

theorem commitN_waiting (n : Nat) (f : Fram) : (commitN n f).waiting = f.waiting.drop n := by
  induction n generalizing f with
  | zero => rfl
  | succ n ih =>
    rw [commitN, ih, commitOne]
    cases hw : f.waiting with
    | nil => simp [hw]
    | cons j rest =>
      dsimp only
      split <;> rfl

theorem commitAll_waiting (f : Fram) : (commitAll f).waiting = [] := by
  rw [commitAll, commitN_waiting, List.drop_length]

theorem commitAll_fwMark (f : Fram) : (commitAll f).fwMark = f.fwMark := by
  have all : ∀ n g, (commitN n g).fwMark = g.fwMark := fun n => by
    induction n with
    | zero => exact fun _ => rfl
    | succ n ih =>
      intro g
      rw [commitN, ih, commitOne]
      split
      · rfl
      · split <;> rfl
  exact all _ f

/-- What the Ice Core's storing leaves alone. -/
structure Stored (s t : State) : Prop where
  frame : { t with ice := s.ice, fcu := s.fcu, fram := s.fram, freeCtr := s.freeCtr } = s
  waiting : t.fram.waiting = s.fram.waiting
  mark : t.fram.fwMark = s.fram.fwMark
  stopped : t.ice.stopped = s.ice.stopped

theorem Stored.trans {s t u : State} (a : Stored s t) (b : Stored t u) : Stored s u where
  frame := (congrArg (fun v : State => { v with ice := s.ice, fcu := s.fcu, fram := s.fram, freeCtr := s.freeCtr }) b.frame :).trans a.frame
  waiting := b.waiting.trans a.waiting
  mark := b.mark.trans a.mark
  stopped := b.stopped.trans a.stopped

theorem Stored.raised {s t : State} (h : Stored s t) {src : Nat} (high : 8 ≤ src) (listed : sourceListed src = true) (specific : Option Half) :
    Stored s (raiseOpen src 1 specific t) :=
  raiseOpen_low (P := Stored s) high (fun u v e st hu => hu.trans
    ⟨(congrArg (fun x : State => { x with fram := u.fram }) e :), (congrArg (fun x : State => x.fram.waiting) e :), (congrArg (fun x : State => x.fram.fwMark) e :), st⟩) listed specific h

theorem persist_stored (r : IceRec) (s : State) : Stored s (persist r s) := by
  unfold persist
  split
  · exact ⟨rfl, rfl, rfl, rfl⟩
  · split
    · exact ⟨rfl, rfl, rfl, rfl⟩
    · have counted : Stored s (s.updIce fun i => { i with ndrops := satInc 0xFFFFFFFF i.ndrops }) := ⟨rfl, rfl, rfl, rfl⟩
      exact counted.raised (by decide) (by decide) none

theorem moveMark_stored (seq : Word) (s : State) : Stored s (moveMark seq s) := by
  refine ⟨rfl, ?_, ?_, rfl⟩ <;> rw [moveMark, State.updFram_fram] <;> split <;> rfl

theorem noteSeq_stored (r : IceRec) (s : State) : Stored s (noteSeq r s) := by
  unfold noteSeq
  split
  · exact ⟨rfl, rfl, rfl, rfl⟩
  · split <;> exact ⟨rfl, rfl, rfl, rfl⟩

theorem iceTake_stored (s : State) : Stored s (iceTake s) := by
  unfold iceTake
  split
  · exact ⟨rfl, rfl, rfl, rfl⟩
  · next r rest _ =>
    dsimp only
    split
    · exact ⟨rfl, rfl, rfl, rfl⟩
    · next st _ =>
      have taken : Stored s (s.updIce fun i => { i with inbound := rest, store := st, nextSeq := i.nextSeq + 1 }) := ⟨rfl, rfl, rfl, rfl⟩
      exact taken.trans ((noteSeq_stored _ _).trans ((moveMark_stored _ _).trans (persist_stored _ _)))

theorem iceDrain_stored (n : Nat) (s : State) : Stored s (iceDrain n s) := by
  induction n generalizing s with
  | zero => exact ⟨rfl, rfl, rfl, rfl⟩
  | succ n ih => exact (iceTake_stored s).trans (ih _)

/-- Every commit made and every page written, nothing else changes. -/
structure MadeDurable (s t : State) : Prop where
  frame : { t with ice := s.ice, fcu := s.fcu, fram := s.fram, freeCtr := s.freeCtr } = s
  waiting : t.fram.waiting = []
  mark : t.fram.fwMark = s.fram.fwMark
  pages : s.ice.stopped = false → t.ice.nandQueue = []

theorem beforeRestart_durable (s : State) : MadeDurable s (beforeRestart s) := by
  obtain ⟨frame, waiting, mark, stopped⟩ := iceDrain_stored 80 (s.updFram commitAll)
  unfold beforeRestart
  generalize iceDrain 80 (s.updFram commitAll) = u at frame waiting mark stopped
  refine ⟨?_, ?_, ?_, fun running => ?_⟩
  · exact (congrArg (fun v : State => { v with fram := s.fram }) frame :)
  · exact waiting.trans (commitAll_waiting _)
  · exact mark.trans (commitAll_fwMark _)
  · have running' : u.ice.stopped = false := stopped.trans running
    rw [writeAllPages, State.updIce_ice, running']
    rfl

/-! ### HOLD and back -/

theorem undervoltageClause (mv : Word) (s : State) (hr : s.runs = true) (hold : s.mstate ≠ .hold) :
    (belowUndervoltage mv = false → exec (.undervoltage mv) s = .next s) ∧
    (belowUndervoltage mv = true → ∃ t, exec (.undervoltage mv) s = .next t ∧ t.mstate = .hold ∧ t.holdFrom = s.mstate ∧
      t.lanes = s.lanes.map (syncCopy s) ∧
      t.ice = (recordState s.mstate .hold (record 0x0206 1 0x042 1 mv.toNat 0 0 s)).ice ∧
      { t with mstate := s.mstate, holdFrom := s.holdFrom, ice := s.ice, lanes := s.lanes } = s) := by
  refine ⟨fun h => congrArg Host.Outcome.next (if_neg (by simp [h])), fun h => ⟨enterHold mv s, ?_, rfl, rfl, rfl, rfl, rfl⟩⟩
  exact congrArg Host.Outcome.next ((if_pos h).trans (if_pos (by simp [canHold, hr, hold])))

theorem disconnectClause (mv : Word) (s : State) (above : aboveOvervoltage mv = true) :
    ∃ t, exec (.overvoltageDisconnect mv) s = .next t ∧ t.power = { s.power with swClosed := false, overvolt := true } ∧
      (s.runs = true → t.mstate = .hold) ∧ (s.runs = false → { t with power := s.power } = s) := by
  have opened : canHold (s.updPower fun p => { p with swClosed := false, overvolt := true }) = (s.runs && !decide (s.mstate = .hold)) := rfl
  refine ⟨_, congrArg Host.Outcome.next (if_pos above), ?_⟩
  rw [holdIf, opened]
  cases hr : s.runs with
  | false => exact ⟨rfl, nofun, fun _ => rfl⟩
  | true =>
    by_cases hold : s.mstate = .hold
    · rw [decide_eq_true hold]
      exact ⟨rfl, fun _ => hold, nofun⟩
    · rw [decide_eq_false hold]
      exact ⟨rfl, fun _ => rfl, nofun⟩

theorem reconnectClause (mv : Word) (s : State) (below : belowReconnect mv = true) :
    exec (.overvoltageReconnect mv) s = .next (s.updPower fun p => { p with swClosed := true }) :=
  congrArg Host.Outcome.next (if_pos below)

/-- The state the module comes back to, with the copy of a lane resumed. -/
def heldBack (mv : Word) (s : State) : State :=
  (resumeCopy (enterState s.holdFrom (record 0x0206 1 0x042 0 mv.toNat 0 0 s))).updHoldFrom fun _ => .off

theorem heldBack_unmarked (mv : Word) (s : State) :
    State.unmarked { heldBack mv s with mstate := s.mstate, holdFrom := s.holdFrom, ice := s.ice } = s.unmarked := by
  have lanes : (heldBack mv s).lanes.map LaneSt.unmarked = s.lanes.map LaneSt.unmarked := by
    have resumed : (heldBack mv s).lanes = s.lanes.map fun l => if l.st = .copy then { l with copyFrom := s.cyc } else l := rfl
    rw [resumed, Vector.map_map]
    refine Vector.map_congr_left fun l _ => ?_
    simp only [Function.comp]
    split <;> rfl
  rw [State.unmarked, lanes]
  rfl

theorem restoredClause (mv : Word) (s : State) (hr : s.runs = true) (hold : s.mstate = .hold) :
    (s.power.swClosed = false ∨ aboveStart mv = false → exec (.supplyRestored mv) s = .next s) ∧
    (s.power.swClosed = true → aboveStart mv = true → (s.power.overvolt = true → inRange mv = true) →
      ∃ t, exec (.supplyRestored mv) s = .next t ∧ t.power.overvolt = false ∧
      (s.power.brownout = true → t.mstate = .boot ∧ t.fram.startKind = 3 ∧ t.fram.startCause = 4) ∧
      (s.power.brownout = false → ¬(s.holdFrom = .recovery ∧ s.floe.fstate = .sync) → t.mstate = s.holdFrom ∧
        t.power = { s.power with overvolt := false } ∧
        State.unmarked { t with mstate := s.mstate, holdFrom := s.holdFrom, ice := s.ice, power := s.power } = s.unmarked)) := by
  have run : ∀ u, exec (.supplyRestored mv) s = .next u ↔ (if s.mstate ≠ .hold ∨ !s.power.swClosed ∨ !aboveStart mv ∨ s.power.overvolt ∧ !inRange mv then s
      else if s.power.brownout then restart .warm 4 (s.updPower fun p => { p with overvolt := false })
      else leaveHold mv (s.updPower fun p => { p with overvolt := false })) = u := fun u => by
    have e : exec (.supplyRestored mv) s = .next (if s.mstate ≠ .hold ∨ !s.power.swClosed ∨ !aboveStart mv ∨ s.power.overvolt ∧ !inRange mv then s
      else if s.power.brownout then restart .warm 4 (s.updPower fun p => { p with overvolt := false })
      else leaveHold mv (s.updPower fun p => { p with overvolt := false })) := congrArg Host.Outcome.next (if_pos hr)
    rw [e, Host.Outcome.next.injEq]
  refine ⟨fun h => (run s).mpr (if_pos ?_), fun closed above range => ⟨_, (run _).mpr (if_neg ?_), ?_⟩⟩
  · rcases h with h | h <;> simp [h]
  · simp only [hold, closed, above, ne_eq, not_true_eq_false, Bool.not_true, Bool.false_eq_true, false_or, not_and, Bool.not_eq_true']
    intro open'
    simp [range open']
  · cases brown : s.power.brownout with
    | true =>
      rw [if_pos rfl, restart]
      exact ⟨rfl, fun _ => ⟨rfl, rfl, rfl⟩, nofun⟩
    | false =>
      rw [if_neg (by decide)]
      refine ⟨?_, nofun, fun _ stays => ?_⟩
      · unfold leaveHold
        dsimp only
        split
        · rfl
        · rfl
      · have back : leaveHold mv (s.updPower fun p => { p with overvolt := false }) = heldBack mv (s.updPower fun p => { p with overvolt := false }) :=
          if_neg stays
        rw [back]
        refine ⟨rfl, rfl, ?_⟩
        have unmarked := heldBack_unmarked mv (s.updPower fun p => { p with overvolt := false })
        exact (congrArg (fun v : State => { v with power := s.power }) unmarked :)

/-! ### The brownout path and the loss of the rails -/

theorem brownoutClause (mv : Word) (s : State) (hr : s.runs = true) (hold : s.mstate = .hold) (up : s.power.brownout = false) :
    (belowBrownout mv = false → exec (.brownout mv) s = .next s) ∧
    (belowBrownout mv = true → ∃ t, exec (.brownout mv) s = .next t ∧ t.power.brownout = true ∧ t.io.gen1 = false ∧
      t.io.gen2 = false ∧ t.fram.waiting = [] ∧ (s.ice.stopped = false → t.ice.nandQueue = []) ∧ t.mem = s.mem) := by
  refine ⟨fun h => congrArg Host.Outcome.next ((if_pos hr).trans (if_pos (by simp [h]))), fun h => ?_⟩
  have raised : Stored (s.updPower fun p => { p with brownout := true }) (raiseOpen 0x42 1 none (s.updPower fun p => { p with brownout := true })) :=
    Stored.raised (s := s.updPower fun p => { p with brownout := true }) ⟨rfl, rfl, rfl, rfl⟩ (by decide) (by decide) none
  refine ⟨_, congrArg Host.Outcome.next ((if_pos hr).trans (if_neg (by simp [hold, up, h]))), ?_⟩
  dsimp only
  generalize raiseOpen 0x42 1 none (s.updPower fun p => { p with brownout := true }) = u at raised ⊢
  obtain ⟨frame, waiting, -, pages⟩ := beforeRestart_durable (stopGroup 1 (stopGroup 2 u))
  generalize beforeRestart (stopGroup 1 (stopGroup 2 u)) = t at frame waiting pages ⊢
  have power : t.power = u.power := (congrArg State.power frame :)
  have mem : t.mem = u.mem := (congrArg State.mem frame :)
  have io : t.io = (stopGroup 1 (stopGroup 2 u)).io := (congrArg State.io frame :)
  have power1 : u.power.brownout = true := (congrArg (fun v : State => v.power.brownout) raised.frame :)
  have mem1 : u.mem = s.mem := (congrArg State.mem raised.frame :)
  refine ⟨power ▸ power1, ?_, ?_, waiting, fun running => pages (raised.stopped.trans running), mem.trans mem1⟩
  · rw [io]
    rfl
  · rw [io]
    rfl

theorem haltCan_can (ch : CanCh) (s : State) : (haltCan ch s).can ch = stopCan (s.can ch) := by
  rw [haltCan, can_updXsram, can_updCan_same]

theorem haltCan_can_other {ch d : CanCh} (h : d ≠ ch) (s : State) : (haltCan ch s).can d = s.can d := by
  rw [haltCan, can_updXsram, can_updCan_other h]

theorem railsClause (s : State) (on : s.mstate ≠ .off) :
    ∃ t, exec .laneRailsLost s = .next t ∧ t.mstate = .off ∧ t.io.gen1 = false ∧ t.io.gen2 = false ∧
      (∀ ch, (t.can ch).st = .stopped ∧ (t.can ch).cur = none) ∧
      { t with mstate := s.mstate, io := s.io, can1 := s.can1, can2 := s.can2, xsram := s.xsram } = s := by
  obtain ⟨u, hu⟩ : ∃ u : State, u = (s.updMstate fun _ => .off).updIo fun i => { i with gen1 := false, gen2 := false, disc1 := none, disc2 := none } :=
    ⟨_, rfl⟩
  have first : u.mstate = .off ∧ u.io.gen1 = false ∧ u.io.gen2 = false ∧ { u with mstate := s.mstate, io := s.io } = s := by
    rw [hu]
    exact ⟨rfl, rfl, rfl, rfl⟩
  have run : exec .laneRailsLost s = .next (haltCan .can2 (haltCan .can1 u)) := by
    rw [hu]
    exact congrArg Host.Outcome.next (if_neg on)
  obtain ⟨off, gen1, gen2, rest⟩ := first
  have halt1 := haltCan_frame .can1 u
  have can1 := haltCan_can .can1 u
  generalize haltCan .can1 u = v at run halt1 can1
  have halt2 := haltCan_frame .can2 v
  have can2 := haltCan_can .can2 v
  have still := haltCan_can_other (ch := .can2) (d := .can1) (by decide) v
  generalize haltCan .can2 v = t at run halt2 can2 still
  have same : { t with xsram := u.xsram, can1 := u.can1, can2 := u.can2 } = u :=
    (congrArg (fun x : State => { x with xsram := u.xsram, can1 := u.can1, can2 := u.can2 }) halt2 :).trans halt1
  have io : t.io = u.io := (congrArg State.io same :)
  refine ⟨t, run, (congrArg State.mstate same :).trans off, ?_, ?_, fun ch => ?_, ?_⟩
  · rw [io, gen1]
  · rw [io, gen2]
  · cases ch
    · rw [still, can1]
      exact ⟨rfl, rfl⟩
    · rw [can2]
      exact ⟨rfl, rfl⟩
  · have back : { u with mstate := s.mstate, io := s.io, can1 := s.can1, can2 := s.can2, xsram := s.xsram } = s :=
      (congrArg (fun x : State => { x with can1 := s.can1, can2 := s.can2, xsram := s.xsram }) rest :)
    exact (congrArg (fun x : State => { x with mstate := s.mstate, io := s.io, can1 := s.can1, can2 := s.can2, xsram := s.xsram }) same :).trans back

/-- Settles O37: HOLD and the ways out of it, the brownout path, whose own fault is of class 2 at most, and the loss of the rails. -/
theorem supplyEvents : Obligations.SupplyEvents := by
  unfold Obligations.SupplyEvents
  exact ⟨undervoltageClause, disconnectClause, reconnectClause, restoredClause, brownoutClause, railsClause⟩

end Sys2Proof.Proofs
end

section
/-!
SUPPORT. The queued action, the wake from DORMANT and FREEZE (R10, R31, R253, R318, R390, R397, R405): O38.
-/
namespace Sys2Proof.Proofs
open Sys2Proof.Machine

/-! ### Restarts -/

theorem restart_noted (kind : StartKind) (cause : Nat) (s : State) : (restart kind cause s).mstate = .boot ∧
    (restart kind cause s).fram.startKind = BitVec.ofNat 8 kind.code ∧ (restart kind cause s).fram.startCause = BitVec.ofNat 8 cause ∧
    (restart kind cause s).fram.fwMark = s.fram.fwMark := by
  have mark := (beforeRestart_durable s).mark
  unfold restart
  generalize beforeRestart s = u at mark
  exact ⟨rfl, rfl, rfl, mark⟩

theorem enterDormant_parts (s : State) : (enterDormant s).mstate = .dormant ∧ (enterDormant s).io.gen1 = false ∧ (enterDormant s).io.gen2 = false ∧
    (enterDormant s).twin.txQueue = [] := by
  unfold enterDormant
  generalize setFState .down s = u
  exact ⟨rfl, rfl, rfl, rfl⟩

/-! ### The queued action (R318) -/

/-- The state on which an action runs: it has left the queue. -/
def actionTaken (a : Action × Port × Nat × Nat) (s : State) : State := s.updHif fun h => { h with actions := h.actions.erase a }

theorem exec_action {s : State} (hr : s.runs = true) (hold : s.mstate ≠ .hold) {a : Action × Port × Nat × Nat}
    (due : s.hif.actions.find? (actionDue s.tb.ms) = some a) : exec .restartCommandAction s = .next (runAction a.1 (actionTaken a s)) := by
  refine congrArg Host.Outcome.next ((if_pos hr).trans ((if_neg hold).trans ?_))
  rw [due, actionTaken]

theorem actIn_of {states : List MState} {s : State} (h : states.contains s.mstate = true) (f : State → State) : actIn states f s = f s := if_pos h

theorem actionClause (s : State) (hr : s.runs = true) :
    (s.mstate = .hold ∨ s.hif.actions.find? (actionDue s.tb.ms) = none → exec .restartCommandAction s = .next s) ∧
    (∀ a p n ms, s.mstate ≠ .hold → s.hif.actions.find? (actionDue s.tb.ms) = some (a, p, n, ms) →
      ∃ t, exec .restartCommandAction s = .next t ∧
        (s.mstate = .startup ∨ s.mstate = .service ∨ s.mstate = .test ∨ s.mstate = .recovery →
          (a = .rstWarm → t.mstate = .boot ∧ t.fram.startKind = 3 ∧ t.fram.startCause = 1) ∧
          (a = .fwActivate → t.mstate = .boot ∧ t.fram.startKind = 3 ∧ t.fram.startCause = 5 ∧
            t.fram.fwMark = some (imageWord s.fw.image 2, imageRollback s.fw.image))) ∧
        (s.mstate = .startup ∨ s.mstate = .service ∨ s.mstate = .test ∨ s.mstate = .recovery ∨ s.mstate = .safe →
          (a = .rstCold → t.mstate = .boot ∧ t.fram.startKind = 2 ∧ t.fram.startCause = 1) ∧
          (a = .lockReset → t.mstate = .boot ∧ t.fram.startKind = 2 ∧ t.fram.startCause = 2)) ∧
        (s.mstate = .test → a = .testExit → t.mstate = .boot ∧ t.fram.startKind = 2 ∧ t.fram.startCause = 6) ∧
        (s.mstate = .startup → a = .dormant → anyEnabled s = false →
          t.mstate = .dormant ∧ t.io.gen1 = false ∧ t.io.gen2 = false ∧ t.twin.txQueue = []) ∧
        (s.mstate = .boot ∨ s.mstate = .selftest →
          t.hif = { s.hif with actions := s.hif.actions.erase (a, p, n, ms) } ∧ { t with hif := s.hif } = s)) := by
  refine ⟨fun h => congrArg Host.Outcome.next ((if_pos hr).trans ?_), fun a p n ms hold due => ⟨_, exec_action hr hold due, fun up => ⟨?_, ?_⟩, fun up => ⟨?_, ?_⟩, ?_, ?_, ?_⟩⟩
  · by_cases hold : s.mstate = .hold
    · exact if_pos hold
    · refine (if_neg hold).trans ?_
      rw [h.resolve_left hold]
  · rintro rfl
    have listed : [MState.startup, .service, .test, .recovery].contains (actionTaken (.rstWarm, p, n, ms) s).mstate = true := by
      rcases up with up | up | up | up <;> simp [actionTaken, up]
    rw [runAction, actIn_of listed]
    obtain ⟨boot, kind, cause, -⟩ := restart_noted .warm 1 (actionTaken (.rstWarm, p, n, ms) s)
    exact ⟨boot, kind, cause⟩
  · rintro rfl
    have listed : [MState.startup, .service, .test, .recovery].contains (actionTaken (.fwActivate, p, n, ms) s).mstate = true := by
      rcases up with up | up | up | up <;> simp [actionTaken, up]
    rw [runAction, actIn_of listed]
    exact restart_noted .warm 5 _
  · rintro rfl
    have listed : [MState.startup, .service, .test, .recovery, .safe].contains (actionTaken (.rstCold, p, n, ms) s).mstate = true := by
      rcases up with up | up | up | up | up <;> simp [actionTaken, up]
    rw [runAction, actIn_of listed]
    obtain ⟨boot, kind, cause, -⟩ := restart_noted .cold 1 (actionTaken (.rstCold, p, n, ms) s)
    exact ⟨boot, kind, cause⟩
  · rintro rfl
    have listed : [MState.startup, .service, .test, .recovery, .safe].contains (actionTaken (.lockReset, p, n, ms) s).mstate = true := by
      rcases up with up | up | up | up | up <;> simp [actionTaken, up]
    rw [runAction, actIn_of listed]
    obtain ⟨boot, kind, cause, -⟩ := restart_noted .cold 2 (actionTaken (.lockReset, p, n, ms) s)
    exact ⟨boot, kind, cause⟩
  · rintro test rfl
    have listed : [MState.test].contains (actionTaken (.testExit, p, n, ms) s).mstate = true := by simp [actionTaken, test]
    rw [runAction, actIn_of listed]
    obtain ⟨boot, kind, cause, -⟩ := restart_noted .cold 6 (actionTaken (.testExit, p, n, ms) s)
    exact ⟨boot, kind, cause⟩
  · rintro startup rfl disabled
    have listed : [MState.startup].contains (actionTaken (.dormant, p, n, ms) s).mstate = true := by simp [actionTaken, startup]
    have idle : anyEnabled (actionTaken (.dormant, p, n, ms) s) = false := disabled
    rw [runAction, actIn_of listed, idle, if_neg (by decide)]
    exact enterDormant_parts _
  · intro early
    have kept : runAction a (actionTaken (a, p, n, ms) s) = actionTaken (a, p, n, ms) s := by
      rcases early with early | early <;> cases a <;> exact if_neg (by simp [actionTaken, early])
    rw [kept]
    exact ⟨rfl, rfl⟩

/-! ### The wake from DORMANT (R397) -/

theorem releaseHeld_frame (s : State) : { releaseHeld s with ice := s.ice } = s :=
  foldl_keeps (f := fun s r => emit r s) (P := fun t => { t with ice := s.ice } = s) (fun _ _ h => h) _ rfl

/-- Entry into a state after the release of records, for whatever state they were held in. -/
theorem fields_of_release {u v : State} (h : { v with ice := u.ice } = u) (new : MState) :
    (enterState new v).fram = u.fram ∧ (enterState new v).keys = u.keys ∧ (enterState new v).prog = u.prog ∧ (enterState new v).io = u.io ∧
      (enterState new v).floe = u.floe ∧ (enterState new v).twin = u.twin ∧ (enterState new v).tasks = u.tasks :=
  ⟨(congrArg State.fram h :), (congrArg State.keys h :), (congrArg State.prog h :), (congrArg State.io h :), (congrArg State.floe h :),
    (congrArg State.twin h :), (congrArg State.tasks h :)⟩

theorem task_wakeItems {s : State} {n : Nat} (hn : n < 8) : ((wakeItems s).task n).cfg = (s.task n).cfg := by
  have woken := vget_map s.tasks.t TaskSt.wake .fresh .fresh hn
  have cfg := congrArg TaskSt.cfg woken
  exact cfg

theorem input_wakeItems {s : State} {n : Nat} (hn : n < 32) : ((wakeItems s).io.input n).n = (s.io.input n).n := by
  have inputs : (wakeItems s).io.inputs = Vector.ofFn fun n : Fin 32 =>
      { (Io.restart s.io.live).inputs[n] with n := s.io.inputs[n].n, target := s.io.inputs[n].n } := rfl
  rw [Io.input, inputs, Io.input]
  simp [vget, hn]

theorem wakeItems_parts (s : State) : (wakeItems s).fram = s.fram ∧ (wakeItems s).keys = s.keys ∧ (wakeItems s).prog = s.prog.wake ∧
    (wakeItems s).io = s.io.wake ∧ (wakeItems s).floe = s.floe.wake ∧ (wakeItems s).twin = s.twin.wake (lockStands 4 0 s) :=
  ⟨rfl, rfl, rfl, rfl, rfl, rfl⟩

theorem wake_live (i : Io) : i.wake.live = i.live := by
  simp only [Io.wake, Io.restart]

theorem wakeClause' (src : WakeSource) (s : State) (dormant : s.mstate = .dormant) (woken : wakes src s = true) :
    ∃ t, exec (.dormantWake src) s = .next t ∧ t.mstate = .selftest ∧ t.fram = s.fram ∧ t.keys = s.keys ∧
      t.prog.actBank = s.prog.actBank ∧ t.prog.bank0.st = s.prog.bank0.st ∧ t.prog.bank1.st = s.prog.bank1.st ∧
      t.io.live = s.io.live ∧ t.floe.live = s.floe.live ∧ t.twin.liveW0 = s.twin.liveW0 ∧ t.twin.liveW1 = s.twin.liveW1 ∧
      (∀ n, n < 8 → (t.task n).cfg = (s.task n).cfg) ∧ (∀ n, n < 32 → (t.io.input n).n = (s.io.input n).n) := by
  refine ⟨enterState .selftest (releaseHeld (wakeItems s)), congrArg Host.Outcome.next (if_neg (by simp [dormant, woken])), rfl, ?_⟩
  obtain ⟨fram, keys, prog, io, floe, twin, tasks⟩ := fields_of_release (releaseHeld_frame (wakeItems s)) .selftest
  have cfg : ∀ n, n < 8 → ((enterState .selftest (releaseHeld (wakeItems s))).task n).cfg = (s.task n).cfg := fun n hn => by
    rw [task_of_tasks tasks, task_wakeItems hn]
  have learned : ∀ n, n < 32 → ((enterState .selftest (releaseHeld (wakeItems s))).io.input n).n = (s.io.input n).n := fun n hn => by
    rw [io, input_wakeItems hn]
  generalize enterState .selftest (releaseHeld (wakeItems s)) = t at fram keys prog io floe twin cfg learned
  obtain ⟨fram', keys', prog', io', floe', twin'⟩ := wakeItems_parts s
  rw [prog'] at prog
  rw [io'] at io
  rw [floe'] at floe
  rw [twin'] at twin
  refine ⟨fram.trans fram', keys.trans keys', ?_, ?_, ?_, ?_, ?_, ?_, ?_, cfg, learned⟩
  · rw [prog, Prog.wake]
  · rw [prog, Prog.wake]
  · rw [prog, Prog.wake]
  · rw [io, wake_live]
  · rw [floe, Floe.wake]
  · rw [twin, Twin.wake]
  · rw [twin, Twin.wake]

/-! ### FREEZE (R405) -/

/-- The module frozen, from a state in which keys and channels have been cleared. -/
def frozenAs (stat : Dword) (mark : Dword × BitVec 4) (at_ : Nat) (s : State) : State :=
  (((s.updFram fun f => { f with rimeMark := some mark }).updJtag fun _ => { Jtag.fresh with stat := stat, frozenAt := at_ }).updMstate
    fun _ => .frozen).updHoldFrom fun _ => .off

/-- Keys zeroed, groups off. -/
def quenched (s : State) : State := stopGroup 1 (stopGroup 2 ((drawFree s).2.updKeys Keys.zeroed))

theorem stopGroups_zeroed (s : State) :
    (stopGroup 1 (stopGroup 2 (s.updKeys Keys.zeroed))).keys = s.keys.zeroed ∧ (stopGroup 1 (stopGroup 2 (s.updKeys Keys.zeroed))).io.gen1 = false ∧
      (stopGroup 1 (stopGroup 2 (s.updKeys Keys.zeroed))).io.gen2 = false ∧ (stopGroup 1 (stopGroup 2 (s.updKeys Keys.zeroed))).mem = s.mem ∧
      (stopGroup 1 (stopGroup 2 (s.updKeys Keys.zeroed))).tb = s.tb ∧ (stopGroup 1 (stopGroup 2 (s.updKeys Keys.zeroed))).ice = s.ice := by
  simp [stopGroup]

theorem freezeClause (stop : BitVec 4) (s : State) (fitted : s.maintEn = true) (armed : s.rimeArmed = true) (on : s.mstate ≠ .off)
    (free : s.mstate ≠ .frozen) :
    ∃ t, exec (.freeze stop) s = .next t ∧ t.mstate = .frozen ∧ t.keys.reg0 = none ∧ t.keys.reg1 = none ∧
      t.keys.regT = none ∧ t.keys.wrap0 = s.keys.wrap0 ∧ t.io.gen1 = false ∧ t.io.gen2 = false ∧
      (∀ ch, (t.can ch).st = .stopped ∧ (t.can ch).cur = none) ∧ t.jtag.stat = freezeStat stop s ∧
      t.fram.rimeMark = some (s.tb.tb.ns, BitVec.ofNat 4 s.mstate.code) ∧ t.mem = s.mem ∧ t.tb = s.tb ∧ t.ice = s.ice := by
  have run : exec (.freeze stop) s = .next (frozenAs (freezeStat stop s) (s.tb.tb.ns, BitVec.ofNat 4 s.mstate.code) s.freeCtr
      (haltCan .can2 (haltCan .can1 (quenched s)))) := congrArg Host.Outcome.next (if_neg (by simp [fitted, armed, on, free]))
  have off : (quenched s).keys = s.keys.zeroed ∧ (quenched s).io.gen1 = false ∧ (quenched s).io.gen2 = false ∧ (quenched s).mem = s.mem ∧
      (quenched s).tb = s.tb ∧ (quenched s).ice = s.ice := by
    have drawn : (drawFree s).2.keys = s.keys ∧ (drawFree s).2.mem = s.mem ∧ (drawFree s).2.tb = s.tb ∧ (drawFree s).2.ice = s.ice := ⟨rfl, rfl, rfl, rfl⟩
    unfold quenched
    generalize (drawFree s).2 = d at drawn
    obtain ⟨keys, mem, tb, ice⟩ := drawn
    rw [← keys, ← mem, ← tb, ← ice]
    exact stopGroups_zeroed d
  generalize quenched s = u at run off
  obtain ⟨keys, gen1, gen2, mem, tb, ice⟩ := off
  have halt1 := haltCan_frame .can1 u
  have can1 := haltCan_can .can1 u
  generalize haltCan .can1 u = v at run halt1 can1
  have halt2 := haltCan_frame .can2 v
  have can2 := haltCan_can .can2 v
  have still := haltCan_can_other (ch := .can2) (d := .can1) (by decide) v
  generalize haltCan .can2 v = w at run halt2 can2 still
  have same : { w with xsram := u.xsram, can1 := u.can1, can2 := u.can2 } = u :=
    (congrArg (fun x : State => { x with xsram := u.xsram, can1 := u.can1, can2 := u.can2 }) halt2 :).trans halt1
  have keys' : w.keys = u.keys := (congrArg State.keys same :)
  have io : w.io = u.io := (congrArg State.io same :)
  refine ⟨_, run, rfl, ?_, ?_, ?_, ?_, ?_, ?_, fun ch => ?_, rfl, rfl, (congrArg State.mem same :).trans mem, (congrArg State.tb same :).trans tb,
    (congrArg State.ice same :).trans ice⟩
  · exact (congrArg Keys.reg0 (keys'.trans keys)).trans rfl
  · exact (congrArg Keys.reg1 (keys'.trans keys)).trans rfl
  · exact (congrArg Keys.regT (keys'.trans keys)).trans rfl
  · exact (congrArg Keys.wrap0 (keys'.trans keys)).trans rfl
  · exact (congrArg Io.gen1 io).trans gen1
  · exact (congrArg Io.gen2 io).trans gen2
  · cases ch
    · have stopped : w.can .can1 = stopCan (u.can .can1) := still.trans can1
      exact ⟨congrArg CanSt.st stopped, congrArg CanSt.cur stopped⟩
    · exact ⟨congrArg CanSt.st can2, congrArg CanSt.cur can2⟩

/-- Settles O38: an action is a restart, the entry into DORMANT or nothing; the wake keeps what Dormant keeps; FREEZE clears keys, groups and channels. -/
theorem actionsWakeAndFreeze : Obligations.ActionsWakeAndFreeze := by
  unfold Obligations.ActionsWakeAndFreeze
  refine ⟨actionClause, wakeClause', freezeClause, fun stop s h => congrArg Host.Outcome.next (if_pos ?_)⟩
  rcases h with h | h <;> simp [h]

end Sys2Proof.Proofs
end

section
/-!
SUPPORT. The JTAG port (R403, R407, R408): O39.
-/
namespace Sys2Proof.Proofs
open Sys2Proof.Machine

/-- One scan: the instruction, its capture value, and what the data register shifted out; nothing but the port changes. -/
def Scanned (i : Instr) (ir : Byte) (n : Nat) (v : BitVec 384) (s : State) : Prop :=
  ∃ t, exec i s = .next t ∧ t.jtag.ir = ir ∧ t.jtag.irOut = 1 ∧ t.jtag.tdoLen = n ∧ t.jtag.tdo = v ∧ { t with jtag := s.jtag } = s

theorem Scanned.of_scanOut {i : Instr} {ir : Byte} {n : Nat} {v : BitVec 384} {s : State} (h : exec i s = .next (scanOut ir n v s)) :
    Scanned i ir n v s := ⟨_, h, rfl, rfl, rfl, rfl, rfl⟩

theorem boundaryScan_parts (code : Byte) (x : Dword) (s : State) : (boundaryScan code x s).jtag.ir = code ∧ (boundaryScan code x s).jtag.boundary = x ∧
    (boundaryScan code x s).mstate = s.mstate ∧ { boundaryScan code x s with jtag := s.jtag, freeCtr := s.freeCtr } = s := by
  unfold boundaryScan
  dsimp only
  generalize (Config.boundary s.freeCtr).setWidth 384 = v
  have drawn : { (drawFree s).2 with jtag := s.jtag, freeCtr := s.freeCtr } = s := rfl
  generalize (drawFree s).2 = d at drawn
  exact ⟨rfl, rfl, (congrArg State.mstate drawn :), drawn⟩

section
variable {s : State} (on : s.mstate ≠ .off)
include on

theorem powered_of (f : State → State) : powered f s = f s := if_neg on

theorem frozenOnly_frozen (frozen : s.mstate = .frozen) (code : Byte) (f : State → State) : frozenOnly code f s = f s := by
  rw [frozenOnly, powered_of on, if_pos frozen]

theorem frozenOnly_else (free : s.mstate ≠ .frozen) (code : Byte) (f : State → State) : frozenOnly code f s = scanOut code 1 0 s := by
  rw [frozenOnly, powered_of on, if_neg free, bypassScan]

/-- Outside FROZEN the instructions of the freeze act as BYPASS. -/
theorem scanned_asBypass (free : s.mstate ≠ .frozen) {i : Instr} {code : Byte} {f : State → State} (h : exec i s = .next (frozenOnly code f s)) :
    Scanned i code 1 0 s := .of_scanOut (h.trans (congrArg Host.Outcome.next (frozenOnly_else on free code f)))

theorem bypassClause (code : Byte) (b : Bool) (acts : notBypass code s = false) : Scanned (.bypass b code) code 1 0 s := by
  refine .of_scanOut (congrArg Host.Outcome.next ((powered_of on _).trans (if_neg ?_)))
  rw [acts]
  decide

theorem preloadClause (x : Dword) : ∃ t, exec (.samplePreload x) s = .next t ∧ t.jtag.ir = 0x01 ∧ t.jtag.boundary = x ∧
    { t with jtag := s.jtag, freeCtr := s.freeCtr } = s := by
  obtain ⟨ir, boundary, -, frame⟩ := boundaryScan_parts 0x01 x s
  exact ⟨boundaryScan 0x01 x s, congrArg Host.Outcome.next (powered_of on _), ir, boundary, frame⟩

section
variable (frozen : s.mstate = .frozen)
include frozen

theorem extestClause (x : Dword) : ∃ t, exec (.extest x) s = .next t ∧ t.jtag.ir = 0x00 ∧ t.jtag.boundary = x ∧ pinDrive t = .boundary x ∧
    { t with jtag := s.jtag, freeCtr := s.freeCtr } = s := by
  obtain ⟨ir, boundary, mstate, frame⟩ := boundaryScan_parts 0x00 x s
  refine ⟨boundaryScan 0x00 x s, congrArg Host.Outcome.next (frozenOnly_frozen on frozen _ _), ir, boundary, ?_, frame⟩
  rw [pinDrive, mstate, frozen, if_neg (by decide), if_pos (.inl ir), boundary]

theorem highzClause : ∃ t, exec .highz s = .next t ∧ pinDrive t = .highZ ∧ { t with jtag := s.jtag } = s := by
  refine ⟨scanOut 0x04 1 0 s, congrArg Host.Outcome.next (frozenOnly_frozen on frozen _ _), ?_, rfl⟩
  have still : (scanOut 0x04 1 0 s).mstate = .frozen := frozen
  have selected : (scanOut 0x04 1 0 s).jtag.ir = 0x04 := rfl
  rw [pinDrive, if_neg (by rw [still]; decide), selected, if_neg (by decide)]
  rfl

theorem rimeSelClause (w : Word) : ∃ t, exec (.rimeSel w) s = .next t ∧ t.jtag.chain.toNat = fld w 31 24 ∧
    (chainOnce (fld w 31 24) = false → t.jtag.ptr = fld w 23 0) ∧ { t with jtag := s.jtag } = s := by
  refine ⟨selectChain w (scanOut 0x21 32 0 s), congrArg Host.Outcome.next (frozenOnly_frozen on frozen _ _), ?_, fun many => ?_, rfl⟩
  · have chain : (selectChain w (scanOut 0x21 32 0 s)).jtag.chain = BitVec.ofNat 8 (fld w 31 24) := rfl
    have lt : fld w 31 24 < 2 ^ 8 := Nat.mod_lt _ (by decide)
    rw [chain, BitVec.toNat_ofNat, Nat.mod_eq_of_lt lt]
  · exact if_neg (by rw [many]; decide)

theorem rimeReadClause : ∃ t, exec .rimeRead s = .next t ∧ t.jtag.tdoLen = 72 ∧ t.jtag.tdo = rimeData s ∧ t.jtag.ptr = s.jtag.ptr + 1 ∧
    { t with jtag := s.jtag } = s :=
  ⟨(scanOut 0x22 72 (rimeData s) s).updJtag nextRimeWord, congrArg Host.Outcome.next (frozenOnly_frozen on frozen _ _), rfl, rfl, rfl, rfl⟩

end
end

/-- Settles O39: every instruction is one scan of the port, in FROZEN with the meaning of the freeze, elsewhere as BYPASS. -/
theorem jtagScans : Obligations.JtagScans := by
  unfold Obligations.JtagScans
  intro s on
  refine ⟨⟨_, congrArg Host.Outcome.next (powered_of on _), rfl, rfl⟩, Scanned.of_scanOut (congrArg Host.Outcome.next (powered_of on _)),
    Scanned.of_scanOut (congrArg Host.Outcome.next (powered_of on _)), fun code b acts => bypassClause on code b acts, preloadClause on,
    fun free => ?_, fun frozen => ?_⟩
  · exact ⟨fun x => scanned_asBypass (i := .extest x) on free rfl, scanned_asBypass (i := .clamp) on free rfl, scanned_asBypass (i := .highz) on free rfl,
      scanned_asBypass (i := .rimeStat) on free rfl, fun w => scanned_asBypass (i := .rimeSel w) on free rfl,
      scanned_asBypass (i := .rimeRead) on free rfl⟩
  · exact ⟨extestClause on frozen, Scanned.of_scanOut (congrArg Host.Outcome.next (frozenOnly_frozen on frozen _ _)), highzClause on frozen,
      Scanned.of_scanOut (congrArg Host.Outcome.next (frozenOnly_frozen on frozen _ _)), rimeSelClause on frozen, rimeReadClause on frozen⟩

end Sys2Proof.Proofs
end

section
/-!
SUPPORT. A lane leaves (R130, R131, R138, R145), and votes of three lanes (R127 to R143): O40.
-/
namespace Sys2Proof.Proofs
open Sys2Proof.Machine

/-! ### Lanes -/

section
variable {s t : State} {i j : Nat}

theorem lane_updLane_same (h : i < 3) (f : LaneSt → LaneSt) : (s.updLane i f).lane i = f (s.lane i) := by
  refine (vget_vmod_same s.lanes .fresh h f).trans ?_
  simp [State.lane, vget, h]

theorem lane_updLane_other (h : j ≠ i) (f : LaneSt → LaneSt) : (s.updLane i f).lane j = s.lane j := vget_vmod_other s.lanes .fresh h f

theorem lane_of_lanes (h : t.lanes = s.lanes) : t.lane i = s.lane i := by rw [State.lane, h, State.lane]

/-- With all three lanes serving, those that are as they were serve on. -/
theorem servingLanes_without (all : s.servingLanes = [0, 1, 2]) (others : ∀ j, j < 3 → j ≠ i → (t.lane j).st = (s.lane j).st)
    (gone : (t.lane i).st ≠ .serving) : t.servingLanes = [0, 1, 2].filter fun j => j != i := by
  have serving : ∀ j, j < 3 → (s.lane j).st = .serving := fun j hj => by
    have mem : j ∈ s.servingLanes := by
      rw [all]
      simp
      omega
    exact of_decide_eq_true (List.mem_filter.mp mem).2
  refine List.filter_congr fun j hj => ?_
  have hj := List.mem_range.mp hj
  by_cases e : j = i
  · subst e
    simp [State.serving, gone]
  · simp [State.serving, others j hj e, serving j hj, e]

theorem servingLanes_kept (h : ∀ j, j < 3 → (t.lane j).st = (s.lane j).st) : t.servingLanes = s.servingLanes :=
  List.filter_congr fun j hj => by rw [State.serving, State.serving, h j (List.mem_range.mp hj)]

end

/-! ### A fault whose class 3 leaves no record -/

theorem lockDecided_unrecorded {src : Nat} {x : Target} (target : classThreeTarget src = some x) (unrecorded : targetRecord x = none) {cls : Nat}
    (le : cls ≤ 3) (cause : Half) (s : State) : lockDecided cls src cause s = s := by
  have none' : lockedFunction src cls = none := by
    rw [lockedFunction, if_neg (by omega), target]
    split
    · exact unrecorded
    · rfl
  simp [lockDecided, decisionRecord_eq, none']

section
variable {P : State → Prop} {src detail : Nat} {x : Target} (high : 8 ≤ src) (target : classThreeTarget src = some x)
  (lock : ∀ cls, cls ≤ 3 → ∀ cause s, P s → P (lockDecided cls src cause s))
  (aside : ∀ s t : State, { t with fcu := s.fcu, ice := s.ice, freeCtr := s.freeCtr } = s → t.ice.stopped = s.ice.stopped → P s → P t)
  (third : ∀ s, P s → P (targetEffect raiseNoAgree x ((BitVec.ofNat 32 detail).toNat % 256) s))
include high target lock aside third

theorem decideBase_mid {code : Nat} (le : code ≤ 2) (forced : Bool) (specific : Option Half) {s : State} (h : P s) :
    P (decideBase raiseNoAgree src code false forced (BitVec.ofNat 32 detail) specific s) := by
  have cls : (finalClass s.fcu src code false).cls ≤ 3 := by
    have below : decide (src < 8) = false := decide_eq_false (by omega)
    simp only [finalClass, below, target]
    rcases (by omega : code = 0 ∨ code = 1 ∨ code = 2) with rfl | rfl | rfl
    · simp
    · simp
      split <;> simp
    · simp
      split <;> simp
  have noted : P (noteFault (finalClass s.fcu src code false) src code false forced (BitVec.ofNat 32 detail) s) := aside s _ rfl (record_stopped ..) h
  rw [decideBase_eq]
  dsimp only
  have locked := lock _ cls (lockCause (finalClass s.fcu src code false) code forced (specific <|> sourceCause src (BitVec.ofNat 32 detail))) _ noted
  rw [decisionEffect, if_neg (by omega), target]
  split
  · exact third _ locked
  · exact locked

/-- A plain fault of class 2 at most reaches its target of class 3, and nothing else. -/
theorem raise_mid (listed : sourceListed src = true) {code : Nat} (le : code ≤ 2) (specific : Option Half) {s : State} (h : P s) :
    P (raise src code detail specific s) := by
  have shown : ∀ (f : FcuSource → FcuSource) u, P u → P (State.updSource src f u) := fun f u hu => aside u _ rfl rfl hu
  have changed : ∀ u, P u → (u.fcuSource src).real = 2 →
      P (changeBase raiseNoAgree src code false (BitVec.ofNat 32 detail) specific 0 u) := fun u hu real => by
    have plain : patternBroken (usedPattern (u.fcuSource src)) = false := by
      rw [usedPattern, real]
      rfl
    unfold changeBase
    dsimp only
    rw [plain]
    split
    · exact decideBase_mid high target lock aside third le _ _ (shown _ _ hu)
    · split
      · exact aside u _ rfl (record_stopped ..) hu
      · exact shown _ _ hu
  rw [raise, presentPattern, if_pos listed, presentBase]
  dsimp only
  split
  · exact h
  · refine changed _ (shown _ _ ?_) (by rw [fcuSource_updSource_same])
    split
    · exact changeBase_low high aside _ (by decide) _ _ _ _ nofun (shown _ _ h)
    · exact h

end

/-! ### A lane leaves (R130, R138, R145) -/

/-- What lane i shows once it has left for a cause, and what the others and the votes keep. -/
structure LaneGone (i cause : Nat) (s t : State) : Prop where
  others : ∀ j, j ≠ i → t.lane j = s.lane j
  state  : (t.lane i).st = .reset ∨ (t.lane i).st = .locked ∧ (t.lane i).lock = true
  named  : (t.lane i).lastCause = BitVec.ofNat 8 cause
  total  : (t.lane i).exclTotal = satInc 0xFF (s.lane i).exclTotal
  rail   : (t.lane i).railMv = (s.lane i).railMv
  locked : (t.lane i).lock = true → (t.lane i).st = .locked ∨ (s.lane i).lock = true
  minors : t.voter.minor0 = s.voter.minor0 ∧ t.voter.minor1 = s.voter.minor1 ∧ t.voter.minor2 = s.voter.minor2

section
variable {s t u : State} {i cause : Nat}

/-- What leaves lanes and votes as they are keeps a lane gone. -/
theorem LaneGone.aside (h : LaneGone i cause s t) (lanes : u.lanes = t.lanes) (voter : u.voter = t.voter) : LaneGone i cause s u := by
  have same : ∀ j, u.lane j = t.lane j := fun j => lane_of_lanes lanes
  exact ⟨fun j hj => (same j).trans (h.others j hj), same i ▸ h.state, same i ▸ h.named, same i ▸ h.total, same i ▸ h.rail, same i ▸ h.locked,
    voter ▸ h.minors⟩

theorem LaneGone.relocked (hi : i < 3) (h : LaneGone i cause s t) : LaneGone i cause s (lockLane i cause t) := by
  unfold lockLane
  split
  · exact h
  · have own : ∀ f : LaneSt → LaneSt, (t.updLane i f).lane i = f (t.lane i) := lane_updLane_same hi
    have held : LaneGone i cause s (t.updLane i fun l => { l with lock := true, st := .locked, lastCause := BitVec.ofNat 8 cause }) :=
      ⟨fun j hj => (lane_updLane_other hj _).trans (h.others j hj), .inr (by rw [own]; exact ⟨rfl, rfl⟩), by rw [own], by rw [own]; exact h.total,
        by rw [own]; exact h.rail, fun _ => .inl (by rw [own]), h.minors⟩
    exact held.aside rfl rfl

theorem interruptLoads_frame (code : Half) (s : State) : { interruptLoads code s with hif := s.hif, prog := s.prog } = s := by
  have failed : ∀ v u, { u with hif := s.hif, prog := s.prog } = s → { failVerify v code u with hif := s.hif, prog := s.prog } = s := fun v u hu => by
    unfold failVerify
    split
    · exact (congrArg (fun w : State => { w with hif := s.hif, prog := s.prog }) (complete_frame ..) :).trans hu
    · exact hu
  unfold interruptLoads
  exact failed _ _ (failed _ _ rfl)

theorem LaneGone.history (hi : i < 3) (h : LaneGone i cause s t) (ms : LaneSt → List Nat) :
    LaneGone i cause s (t.updLane i fun l => { l with reintMs := ms l }) := by
  have own : ∀ f : LaneSt → LaneSt, (t.updLane i f).lane i = f (t.lane i) := lane_updLane_same hi
  exact ⟨fun j hj => (lane_updLane_other hj _).trans (h.others j hj), by rw [own]; exact h.state, by rw [own]; exact h.named,
    by rw [own]; exact h.total, by rw [own]; exact h.rail, by rw [own]; exact h.locked, h.minors⟩

/-- A lane that is told to lock is locked, unless its lock stood before it left. -/
theorem LaneGone.heldNow (hi : i < 3) (h : LaneGone i cause s t) (free : (s.lane i).lock = false) :
    ((lockLane i cause t).lane i).st = .locked ∧ ((lockLane i cause t).lane i).lock = true := by
  unfold lockLane
  split
  · next lock => exact ⟨(h.locked lock).resolve_right (by rw [free]; decide), lock⟩
  · have own : (t.updLane i fun l => { l with lock := true, st := .locked, lastCause := BitVec.ofNat 8 cause }).lane i = _ := lane_updLane_same hi _
    have noted : ∀ c v r a b d e (u : State), (record c v r a b d e u).lane i = u.lane i := fun _ _ _ _ _ _ _ _ => rfl
    rw [noted, own]
    exact ⟨rfl, rfl⟩

theorem LaneGone.after (hi : i < 3) (h : LaneGone i cause s t) (fp : Fingerprint) (lockNow was3 : Bool) :
    LaneGone i cause s (afterExclusion i cause fp lockNow was3 t) ∧
      (lockNow = true → (s.lane i).lock = false → ((afterExclusion i cause fp lockNow was3 t).lane i).st = .locked ∧
        ((afterExclusion i cause fp lockNow was3 t).lane i).lock = true) := by
  have noted : LaneGone i cause s (record 0x0301 2 (0x10 + i) i cause fp.kind.toNat (fp.lo.toNat % 2 ^ 32) t) := h.aside rfl rfl
  unfold afterExclusion
  extract_lets s1 s2 s3 s4
  have h2 : LaneGone i cause s s2 ∧ (lockNow = true → (s.lane i).lock = false → (s2.lane i).st = .locked ∧ (s2.lane i).lock = true) := by
    simp only [s2]
    split
    · exact ⟨noted.relocked hi, fun _ free => noted.heldNow hi free⟩
    · next no => exact ⟨noted, fun now => absurd (by rw [now]; rfl) no⟩
  have h3 : LaneGone i cause s s3 ∧ (s3.lane i).st = (s2.lane i).st ∧ (s3.lane i).lock = (s2.lane i).lock := by
    simp only [s3]
    split
    · exact ⟨h2.1, rfl, rfl⟩
    · refine ⟨h2.1.history hi _, ?_, ?_⟩ <;> rw [lane_updLane_same hi]
  have frame := interruptLoads_frame 0x0002 s3
  have lanes : s4.lanes = s3.lanes := (congrArg State.lanes frame :)
  have h4 : LaneGone i cause s s4 := h3.1.aside lanes (congrArg State.voter frame :)
  have same : s4.lane i = s3.lane i := lane_of_lanes lanes
  have held : lockNow = true → (s.lane i).lock = false → (s4.lane i).st = .locked ∧ (s4.lane i).lock = true := fun now free => by
    rw [same, h3.2.1, h3.2.2]
    exact h2.2 now free
  split
  · exact ⟨h4.aside rfl rfl, held⟩
  · exact ⟨h4, held⟩

/-- A lane masked is in RESET with its cause, and keeps its lock. -/
theorem LaneGone.masked (hi : i < 3) (cause : Nat) (fp : Fingerprint) (s : State) : LaneGone i cause s (maskLane i cause fp s) := by
  obtain ⟨f, g, e, hf, hg⟩ : ∃ (f : LaneSt → LaneSt) (g : Voter → Voter), maskLane i cause fp s = (s.updLane i f).updVoter g ∧
      (∀ l, (f l).st = .reset ∧ (f l).lastCause = BitVec.ofNat 8 cause ∧ (f l).exclTotal = satInc 0xFF l.exclTotal ∧ (f l).railMv = l.railMv ∧
        (f l).lock = l.lock) ∧ ∀ v, (g v).minor0 = v.minor0 ∧ (g v).minor1 = v.minor1 ∧ (g v).minor2 = v.minor2 := by
    refine ⟨_, fun v => if s.serving i then { v with lastMasked := some i } else v, rfl, fun _ => ⟨rfl, rfl, rfl, rfl, rfl⟩, fun v => ?_⟩
    cases s.serving i
    · exact ⟨rfl, rfl, rfl⟩
    · exact ⟨rfl, rfl, rfl⟩
  have own : ((s.updLane i f).updVoter g).lane i = f (s.lane i) := lane_updLane_same hi f
  have others : ∀ j, j ≠ i → ((s.updLane i f).updVoter g).lane j = s.lane j := fun j hj => lane_updLane_other hj f
  obtain ⟨st, named, total, rail, lock⟩ := hf (s.lane i)
  rw [e]
  refine ⟨others, .inl (by rw [own, st]), by rw [own, named], by rw [own, total], by rw [own, rail], fun h => .inr ?_, hg s.voter⟩
  rwa [own, lock] at h

theorem listed_lane (hi : i < 3) : sourceListed (0x10 + i) = true ∧ classThreeTarget (0x10 + i) = some (.lane i) := by
  rcases (by omega : i = 0 ∨ i = 1 ∨ i = 2) with rfl | rfl | rfl <;> exact ⟨rfl, rfl⟩

/-- The fault of a lane that is gone reaches that lane alone. -/
theorem LaneGone.raised (hi : i < 3) (hc : cause < 256) (h : LaneGone i cause s t) : LaneGone i cause s (raise (0x10 + i) 2 cause none t) := by
  obtain ⟨listed, target⟩ := listed_lane hi
  refine raise_mid (P := LaneGone i cause s) (detail := cause) (by omega) target
    (fun cls le cause u hu => by
      rw [lockDecided_unrecorded target rfl le]
      exact hu) (fun u v e _ hu => hu.aside (congrArg State.lanes e :) (congrArg State.voter e :))
    (fun u hu => ?_) listed (by decide) none h
  have same : (BitVec.ofNat 32 cause).toNat % 256 = cause := by
    rw [BitVec.toNat_ofNat]
    omega
  have silent : u.serving i = false := by
    rcases hu.state with st | ⟨st, -⟩ <;> simp [State.serving, st]
  rw [same, targetEffect, lockTarget, silent]
  exact hu.relocked hi

/-- An exclusion takes one lane out, and locks it if told to. -/
theorem exclusionSteps_gone (hi : i < 3) (hc : cause < 256) (fp : Fingerprint) (lockNow : Bool) (s : State) :
    LaneGone i cause s (exclusionSteps i cause fp lockNow s) ∧
      (lockNow = true → (s.lane i).lock = false → ((exclusionSteps i cause fp lockNow s).lane i).st = .locked ∧
        ((exclusionSteps i cause fp lockNow s).lane i).lock = true) := by
  unfold exclusionSteps
  exact ((LaneGone.masked hi cause fp s).raised hi hc).after hi fp lockNow _

theorem LaneGone.servingLanes (h : LaneGone i cause s t) (all : s.servingLanes = [0, 1, 2]) : t.servingLanes = [0, 1, 2].filter fun j => j != i := by
  refine servingLanes_without all (fun j _ hj => by rw [h.others j hj]) ?_
  rcases h.state with st | ⟨st, -⟩ <;> rw [st] <;> decide

end

theorem excludeLane_of {s : State} {i : Nat} (hi : i < 3) (all : s.servingLanes = [0, 1, 2]) (cause : Nat) (fp : Fingerprint) (lockNow : Bool) :
    excludeLane i cause fp lockNow s = exclusionSteps i cause fp lockNow s := by
  have serving : s.serving i = true := by
    have mem : i ∈ s.servingLanes := by
      rw [all]
      simp
      omega
    exact (List.mem_filter.mp mem).2
  rw [excludeLane, serving, if_neg (by decide), all, if_neg (by decide)]

/-! ### Lanes that at most mark blocks -/

/-- The same lanes but for what a write marks in a copy. -/
def LanesAlike (s t : State) : Prop := t.lanes.map LaneSt.unmarked = s.lanes.map LaneSt.unmarked

theorem LanesAlike.st {s t : State} (h : LanesAlike s t) {j : Nat} (hj : j < 3) : (t.lane j).st = (s.lane j).st := by
  have marks : ∀ u : State, vget (u.lanes.map LaneSt.unmarked) .fresh j = (u.lane j).unmarked := fun u => vget_map u.lanes LaneSt.unmarked .fresh .fresh hj
  have same := (marks t).symm.trans ((congrArg (fun v => vget v .fresh j) h).trans (marks s))
  have st := congrArg LaneSt.st same
  exact st

theorem LanesAlike.of_lanes {s t : State} (h : t.lanes = s.lanes) : LanesAlike s t := congrArg (Vector.map LaneSt.unmarked) h

theorem lanesAlike_touchBlocks (bs : List Nat) (s : State) : LanesAlike s (touchBlocks bs s) := (congrArg State.lanes (touchBlocks_unmarked bs s) :)

theorem lanesAlike_lockDecided (src cls : Nat) (cause : Half) (s : State) : LanesAlike s (lockDecided cls src cause s) := by
  have written : ∀ k i, LanesAlike s (writeLock k i cause src s) := fun k i => by
    unfold writeLock
    split
    · rfl
    · have framed : ∀ bs f, (writeFramBlocks bs f s).lanes = (touchBlocks bs s).lanes := fun _ _ => rfl
      rw [LanesAlike, lanes_record, framed]
      exact lanesAlike_touchBlocks _ s
  unfold lockDecided
  split
  · exact written _ _
  · rfl

theorem lanes_of_sameButPorts {s t : State} (h : sameButPorts s t) : t.lanes = s.lanes := (congrArg State.lanes h :)

theorem lanesAlike_enterSafe (s : State) : LanesAlike s (enterSafe s) := by
  by_cases idle : s.mstate = .off ∨ s.mstate = .safe ∨ s.mstate = .frozen
  · rw [enterSafe, if_pos idle]
    rfl
  · have images : LanesAlike s (finishImages (fun _ => true) (fun _ => true) s) :=
      foldl_keeps (f := fun t (e : Nat × ImgWait) => finishImage true e.1 e.2 t) (P := LanesAlike s) (fun t e ht => by
        refine Eq.trans ?_ ht
        rw [finishImage]
        refine (congrArg (Vector.map LaneSt.unmarked) (congrArg State.lanes (complete_frame ..) :)).trans ?_
        exact lanesAlike_touchBlocks _ t) _ rfl
    have ended : (endOperations s).lanes = (finishImages (fun _ => true) (fun _ => true) s).lanes := by
      have ports : sameButPorts (finishImages (fun _ => true) (fun _ => true) s) (endOperations s) := (failPending_ports .host (finishImages (fun _ => true) (fun _ => true) s)).trans
        ((failPending_ports .maint _).trans ((sameButPorts_updHif _ _).trans (sameButPorts_updHif _ _)))
      exact lanes_of_sameButPorts ports
    have quiet : ∀ ch u, (quietCan ch u).lanes = u.lanes := fun ch u => (congrArg State.lanes (quietCan_frame ch u) :)
    have work : (abandonWork (endOperations s)).lanes = (endOperations s).lanes := by
      simp only [abandonWork, State.updFabric_lanes, State.updFloe_lanes, State.updTwin_lanes, State.updProg_lanes]
    have last : ∀ (f : Io → Io) (u : State), (enterState .safe (u.updIo f)).lanes = u.lanes := fun _ _ => rfl
    rw [LanesAlike, enterSafe_eq s idle, last, abandonAll_eq, quiet, quiet, work, ended]
    exact images

/-- A fault of a source without a target leaves the lanes and the votes as they are. -/
def VotesKept (s t : State) : Prop := LanesAlike s t ∧ t.voter = s.voter

theorem votesKept_enterSafe {s t : State} (h : VotesKept s t) : VotesKept s (enterSafe t) := by
  have view := enterSafe_frame t
  simp only [sameButSafe, safeView, Prod.mk.injEq] at view
  exact ⟨(lanesAlike_enterSafe t).trans h.1, view.1.2.2.2.2.2.2.2.2.trans h.2⟩

theorem votesKept_aside {s t u : State} (e : { u with fcu := t.fcu, ice := t.ice, freeCtr := t.freeCtr } = t) (h : VotesKept s t) : VotesKept s u := by
  have lanes : u.lanes = t.lanes := (congrArg State.lanes e :)
  exact ⟨(LanesAlike.of_lanes lanes).trans h.1, (congrArg State.voter e :).trans h.2⟩

theorem votesKept_lock {s t : State} (src cls : Nat) (cause : Half) (h : VotesKept s t) : VotesKept s (lockDecided cls src cause t) :=
  ⟨(lanesAlike_lockDecided src cls cause t).trans h.1, (congrArg State.voter (lockDecided_frame cls src cause t) :).trans h.2⟩

theorem raiseNoAgree_votesKept {s t : State} (h : VotesKept s t) : VotesKept s (raiseNoAgree t) :=
  raiseNoAgree_through (P := VotesKept s) (fun _ _ e h => votesKept_aside e h) (fun src cls cause _ h => votesKept_lock src cls cause h)
    (fun _ h => votesKept_enterSafe h) h

theorem raiseOpen_votesKept {src : Nat} (listed : sourceListed src = true) (target : classThreeTarget src = none) (code : Nat) (specific : Option Half)
    {s t : State} (h : VotesKept s t) : VotesKept s (raiseOpen src code specific t) :=
  raiseOpen_through (P := VotesKept s) (fun _ _ e h => votesKept_aside e h) (fun src cls cause _ h => votesKept_lock src cls cause h)
    (fun _ h => votesKept_enterSafe h) (fun t e => absurd (target.symm.trans e) (by simp)) listed code specific h

/-- A fault of a source without a target does not lead out of SAFE. -/
theorem raiseOpen_staysSafe {src : Nat} (listed : sourceListed src = true) (target : classThreeTarget src = none) (code : Nat) (specific : Option Half)
    {s : State} (h : s.mstate = .safe) : (raiseOpen src code specific s).mstate = .safe :=
  raiseOpen_keeps (P := fun t => t.mstate = .safe) (fun _ _ e h => (congrArg State.mstate e :).trans h) (fun _ h => safe_enterSafe h)
    (fun t e => absurd (target.symm.trans e) (by simp)) listed code specific h

/-! ### Votes (R127 to R132) -/

/-- The TAG counters go on from the records. -/
theorem stepTags_lanes {s : State} (all : s.servingLanes = [0, 1, 2]) (r : Nat → VRec) {i : Nat} (hi : i < 3) :
    (stepTags r s).lane i = { s.lane i with tag := (r i).tag + 1 } := by
  rw [stepTags, all]
  simp only [List.foldl_cons, List.foldl_nil]
  rcases (by omega : i = 0 ∨ i = 1 ∨ i = 2) with rfl | rfl | rfl
  · rw [lane_updLane_other (by decide), lane_updLane_other (by decide), lane_updLane_same (by decide)]
  · rw [lane_updLane_other (by decide), lane_updLane_same (by decide), lane_updLane_other (by decide)]
  · rw [lane_updLane_same (by decide), lane_updLane_other (by decide), lane_updLane_other (by decide)]

theorem stepTags_frame (r : Nat → VRec) (s : State) : { stepTags r s with lanes := s.lanes } = s :=
  foldl_keeps (f := fun s i => s.updLane i fun l => { l with tag := (r i).tag + 1 }) (P := fun t => { t with lanes := s.lanes } = s) (fun _ _ h => h) _ rfl

theorem stepTags_serving {s : State} (all : s.servingLanes = [0, 1, 2]) (r : Nat → VRec) : (stepTags r s).servingLanes = [0, 1, 2] :=
  (servingLanes_kept fun j hj => by rw [stepTags_lanes all r hj]).trans all

/-- The kinds of the records of three lanes. -/
def kindsOf (r0 r1 r2 : VRec) : List Nat := sortNats [r0.kind.toNat, r1.kind.toNat, r2.kind.toNat]

section
variable {r0 r1 r2 : VRec} {s : State} (hr : s.runs = true) (all : s.servingLanes = [0, 1, 2])
include hr all

theorem exec_voteRecord (inPath votersAgree parityOk : Bool) : exec (.voteRecord r0 r1 r2 votersAgree parityOk inPath) s =
    .next (if !votersAgree || !parityOk then voterFaults (kindsOf r0 r1 r2) votersAgree parityOk (stepTags (laneRecord r0 r1 r2) s)
      else if isSelftest (laneRecord r0 r1 r2) [0, 1, 2] then selfTest (laneRecord r0 r1 r2) (stepTags (laneRecord r0 r1 r2) s)
      else actOnVote (kindsOf r0 r1 r2) (vote3 r0 r1 r2) (stepTags (laneRecord r0 r1 r2) s)) := by
  have serving : ∀ i ∈ List.range 3, s.serving i = true := by
    have eq : (List.range 3).filter s.serving = List.range 3 := all.trans rfl
    exact List.filter_eq_self.mp eq
  have voting : votingLanes inPath s = [0, 1, 2] := by
    rw [votingLanes, List.filter_eq_self.mpr fun i hi => by rw [serving i hi]; rfl]
    rfl
  refine congrArg Host.Outcome.next ((if_pos hr).trans ?_)
  dsimp only
  rw [voting]
  rfl

/-- A vote that is none of the voters' own faults and no self-test. -/
theorem exec_vote (inPath : Bool) (plain : isSelftest (laneRecord r0 r1 r2) [0, 1, 2] = false) :
    exec (.voteRecord r0 r1 r2 true true inPath) s = .next (actOnVote (kindsOf r0 r1 r2) (vote3 r0 r1 r2) (stepTags (laneRecord r0 r1 r2) s)) := by
  rw [exec_voteRecord hr all, plain]
  rfl

/-- A minority of a voting kind is counted and excluded. -/
theorem minorityClause (inPath : Bool) (plain : isSelftest (laneRecord r0 r1 r2) [0, 1, 2] = false) {v x : VRec} {i : Nat} (hi : i < 3)
    (out : vote3 r0 r1 r2 = .minority v i x) (votes : kindVotes v.kind.toNat = true) :
    ∃ t, exec (.voteRecord r0 r1 r2 true true inPath) s = .next t ∧ LaneGone i (minorityCause v x) (countMinority i (stepTags (laneRecord r0 r1 r2) s)) t := by
  refine ⟨_, exec_vote hr all inPath plain, ?_⟩
  have serving : (countMinority i (stepTags (laneRecord r0 r1 r2) s)).servingLanes = [0, 1, 2] :=
    (servingLanes_of_lanes rfl).trans (stepTags_serving all (laneRecord r0 r1 r2))
  have mine : (countMinority i (stepTags (laneRecord r0 r1 r2) s)).serving i = true := by
    have mem : i ∈ (countMinority i (stepTags (laneRecord r0 r1 r2) s)).servingLanes := by
      rw [serving]
      simp
      omega
    exact (List.mem_filter.mp mem).2
  have small : minorityCause v x < 256 := by
    have lt := v.kind.isLt
    unfold minorityCause
    split <;> omega
  rw [out, actOnVote, if_pos votes]
  dsimp only
  rw [mine, if_pos rfl, excludeLane_of hi serving]
  exact (exclusionSteps_gone hi small _ false _).1

end

theorem lost_loseVotes (ks : List Nat) (s : State) {k : Nat} (h : k ∈ ks) : voteLost k (loseVotes ks s) = true := by
  have lost : (loseVotes ks s).voter.lost = s.voter.lost ++ ks.filter fun k => !s.voter.lost.contains k := rfl
  rw [voteLost, lost, List.contains_iff_mem, List.mem_append, List.mem_filter]
  by_cases old : k ∈ s.voter.lost
  · exact .inl old
  · exact .inr ⟨h, by simp [old]⟩

theorem runs_quiet_of_frame {s t : State} (h : { t with lanes := s.lanes } = s) (src : Nat) : t.runs = s.runs ∧ quietSource src t = quietSource src s :=
  ⟨(congrArg State.runs h :), (congrArg (quietSource src) h :)⟩

theorem mem_sortNats {k : Nat} {l : List Nat} (h : k ∈ l) : k ∈ sortNats l := by
  have inserted : ∀ (x : Nat) (a : List Nat), k = x ∨ k ∈ a → k ∈ insertNat x a := by
    intro x a
    induction a with
    | nil => exact fun h => by simpa [insertNat] using h
    | cons y ys ih =>
      intro h
      unfold insertNat
      split
      · simpa using h
      · split
        · next e =>
          subst e
          simpa using h
        · rcases h with h | h
          · exact List.mem_cons_of_mem _ (ih (.inl h))
          · rcases List.mem_cons.mp h with rfl | h
            · exact List.mem_cons_self
            · exact List.mem_cons_of_mem _ (ih (.inr h))
  have folded : ∀ (l a : List Nat), k ∈ l ∨ k ∈ a → k ∈ l.foldl (fun a x => insertNat x a) a := by
    intro l
    induction l with
    | nil => exact fun a h => h.resolve_left (by simp)
    | cons x l ih =>
      intro a h
      refine ih _ ?_
      rcases h with h | h
      · rcases List.mem_cons.mp h with h | h
        · exact .inr (inserted x a (.inl h))
        · exact .inl h
      · exact .inr (inserted x a (.inr h))
  exact folded l [] (.inl h)

theorem mem_kindsOf (r0 r1 r2 : VRec) {i : Nat} (hi : i < 3) : (laneRecord r0 r1 r2 i).kind.toNat ∈ kindsOf r0 r1 r2 := by
  refine mem_sortNats ?_
  rcases (by omega : i = 0 ∨ i = 1 ∨ i = 2) with rfl | rfl | rfl <;> simp [laneRecord]

section
variable {r0 r1 r2 : VRec} {s : State} (hr : s.runs = true) (all : s.servingLanes = [0, 1, 2])
include hr all

/-- What a vote that failed leaves: no lane goes, and every kind presented is lost. -/
theorem lostClause {t : State} (h : VotesKept (loseVotes (kindsOf r0 r1 r2) (stepTags (laneRecord r0 r1 r2) s)) t) :
    t.servingLanes = [0, 1, 2] ∧ ∀ i, i < 3 → voteLost (laneRecord r0 r1 r2 i).kind.toNat t = true := by
  refine ⟨(servingLanes_kept fun j hj => h.1.st hj).trans ((servingLanes_of_lanes rfl).trans (stepTags_serving all _)), fun i hi => ?_⟩
  rw [voteLost, h.2]
  exact lost_loseVotes _ _ (mem_kindsOf r0 r1 r2 hi)

theorem agreedClause (inPath : Bool) (h01 : r0 = r1) (h12 : r1 = r2) (kind : r0.kind.toNat ≠ 0xA) :
    ∃ t, exec (.voteRecord r0 r1 r2 true true inPath) s = .next t ∧ { t with lanes := s.lanes } = s ∧
        ∀ i, i < 3 → t.lane i = { s.lane i with tag := r0.tag + 1 } := by
  subst h01 h12
  have same : ∀ i, laneRecord r0 r0 r0 i = r0 := fun i => by
    unfold laneRecord
    split <;> rfl
  have plain : isSelftest (laneRecord r0 r0 r0) [0, 1, 2] = false := by
    have other : r0.kind ≠ 10#4 := fun e => kind (by rw [e]; rfl)
    simp [isSelftest, same, other]
  have voted : vote3 r0 r0 r0 = .voted r0 := by simp [vote3]
  refine ⟨_, exec_vote hr all inPath plain, ?_⟩
  rw [voted, actOnVote]
  exact ⟨stepTags_frame _ s, fun i hi => by rw [stepTags_lanes all _ hi, same]⟩

theorem selftestVoteClause (inPath : Bool) (h01 : r0 = r1) (h12 : r1 = r2) (kind : r0.kind = 0xA) (due : r0.data = BitVec.ofNat 64 s.voter.selftestN) :
    ∃ t, exec (.voteRecord r0 r1 r2 true true inPath) s = .next t ∧
        t.voter = { s.voter with selftestN := s.voter.selftestN + 1, selftestMs := s.tb.ms } ∧
        { t with lanes := s.lanes, voter := s.voter } = s := by
  subst h01 h12
  have same : ∀ i, laneRecord r0 r0 r0 i = r0 := fun i => by
    unfold laneRecord
    split <;> rfl
  have test : isSelftest (laneRecord r0 r0 r0) [0, 1, 2] = true := by simp [isSelftest, same, kind]
  obtain ⟨u, hu⟩ : ∃ u, u = stepTags (laneRecord r0 r0 r0) s := ⟨_, rfl⟩
  have frame : { u with lanes := s.lanes } = s := hu ▸ stepTags_frame _ s
  have serving : u.servingLanes = [0, 1, 2] := hu ▸ stepTags_serving all _
  have voter : u.voter = s.voter := (congrArg State.voter frame :)
  have ms : u.tb.ms = s.tb.ms := (congrArg (fun v : State => v.tb.ms) frame :)
  have inverted : invertBit u.voter.selftestN r0 ≠ r0 := fun e => by
    have data : r0.data ^^^ (1#64 <<< (u.voter.selftestN % 64)) = r0.data := congrArg VRec.data e
    have zero : 1#64 <<< (u.voter.selftestN % 64) = 0#64 := by
      have x := congrArg (fun y => r0.data ^^^ y) data
      simpa [← BitVec.xor_assoc] using x
    have bit := congrArg (fun y : BitVec 64 => y.getLsbD (u.voter.selftestN % 64)) zero
    simp [BitVec.getLsbD_shiftLeft, Nat.mod_lt] at bit
  have due' : r0.data = BitVec.ofNat 64 u.voter.selftestN := by rw [voter]; exact due
  have passes : selftestPasses u.servingLanes u.voter.selftestN (laneRecord r0 r0 r0) = true := by
    have lt : u.voter.selftestN % 3 < 3 := Nat.mod_lt _ (by decide)
    rw [serving, selftestPasses, injectedLane]
    dsimp only
    simp only [same, voteServing]
    rcases (by omega : u.voter.selftestN % 3 = 0 ∨ u.voter.selftestN % 3 = 1 ∨ u.voter.selftestN % 3 = 2) with h | h | h <;>
      simp [h, vote3, inverted, Ne.symm inverted, kind, due']
  refine ⟨selfTest (laneRecord r0 r0 r0) u, ?_, ?_⟩
  · rw [exec_voteRecord hr all, test, hu]
    rfl
  · rw [selfTest]
    dsimp only
    rw [passes, if_pos rfl]
    refine ⟨?_, (congrArg (fun v : State => { v with voter := s.voter }) frame :)⟩
    rw [State.updVoter_voter, voter, ms, Bool.and_true]

theorem dividedClause (inPath : Bool) (h01 : r0 ≠ r1) (h02 : r0 ≠ r2) (h12 : r1 ≠ r2) (plain : isSelftest (laneRecord r0 r1 r2) [0, 1, 2] = false)
    (quiet : quietSource 0x04 s = true) :
    ∃ t, exec (.voteRecord r0 r1 r2 true true inPath) s = .next t ∧ t.mstate = .safe ∧ t.servingLanes = [0, 1, 2] ∧
        ∀ i, i < 3 → voteLost (laneRecord r0 r1 r2 i).kind.toNat t = true := by
  have divided : vote3 r0 r1 r2 = .noMajority := by rw [vote3, if_neg h01, if_neg h02, if_neg h12]
  obtain ⟨u, hu⟩ : ∃ u, u = loseVotes (kindsOf r0 r1 r2) (stepTags (laneRecord r0 r1 r2) s) := ⟨_, rfl⟩
  have frame := stepTags_frame (laneRecord r0 r1 r2) s
  have runs : u.runs = true ∧ quietSource 0x04 u = true := by
    have same := runs_quiet_of_frame frame 0x04
    rw [hu]
    exact ⟨same.1.trans hr, same.2.trans quiet⟩
  refine ⟨raiseNoAgree u, ?_, raiseNoAgree_safe runs.1 runs.2, lostClause hr all (hu ▸ raiseNoAgree_votesKept ⟨rfl, rfl⟩)⟩
  rw [exec_vote hr all inPath plain, divided, hu]
  rfl

theorem votersClause (inPath : Bool) (parity : Bool) (quiet : quietSource 0x01 s = true) :
    ∃ t, exec (.voteRecord r0 r1 r2 false parity inPath) s = .next t ∧ t.mstate = .safe ∧ t.servingLanes = [0, 1, 2] ∧
        ∀ i, i < 3 → voteLost (laneRecord r0 r1 r2 i).kind.toNat t = true := by
  obtain ⟨u, hu⟩ : ∃ u, u = loseVotes (kindsOf r0 r1 r2) (stepTags (laneRecord r0 r1 r2) s) := ⟨_, rfl⟩
  have frame := stepTags_frame (laneRecord r0 r1 r2) s
  have runs : u.runs = true ∧ quietSource 0x01 u = true := by
    have same := runs_quiet_of_frame frame 0x01
    rw [hu]
    exact ⟨same.1.trans hr, same.2.trans quiet⟩
  have safe : (raiseOpen 0x01 4 none u).mstate = .safe := raiseOpen_safe runs.1 (by decide) runs.2 (.inl (by decide)) none
  have kept : VotesKept u (raiseOpen 0x01 4 none u) := raiseOpen_votesKept (by decide) (by decide) 4 none ⟨rfl, rfl⟩
  refine ⟨if parity then raiseOpen 0x01 4 none u else raiseOpen 0x03 4 none (raiseOpen 0x01 4 none u), ?_, ?_, ?_⟩
  · rw [exec_voteRecord hr all, hu]
    rfl
  · split
    · exact safe
    · exact raiseOpen_staysSafe (by decide) (by decide) 4 none safe
  · refine lostClause hr all ?_
    rw [← hu]
    split
    · exact kept
    · exact raiseOpen_votesKept (by decide) (by decide) 4 none kept

theorem parityClause (inPath : Bool) (quiet : quietSource 0x03 s = true) :
    ∃ t, exec (.voteRecord r0 r1 r2 true false inPath) s = .next t ∧ t.mstate = .safe ∧ t.servingLanes = [0, 1, 2] ∧
        ∀ i, i < 3 → voteLost (laneRecord r0 r1 r2 i).kind.toNat t = true := by
  obtain ⟨u, hu⟩ : ∃ u, u = loseVotes (kindsOf r0 r1 r2) (stepTags (laneRecord r0 r1 r2) s) := ⟨_, rfl⟩
  have frame := stepTags_frame (laneRecord r0 r1 r2) s
  have runs : u.runs = true ∧ quietSource 0x03 u = true := by
    have same := runs_quiet_of_frame frame 0x03
    rw [hu]
    exact ⟨same.1.trans hr, same.2.trans quiet⟩
  refine ⟨raiseOpen 0x03 4 none u, ?_, raiseOpen_safe runs.1 (by decide) runs.2 (.inl (by decide)) none,
    lostClause hr all (hu ▸ raiseOpen_votesKept (by decide) (by decide) 4 none ⟨rfl, rfl⟩)⟩
  rw [exec_voteRecord hr all, hu]
  rfl

end

/-- Two records of a kind are none of a self-test, as no kind of R131 is. -/
theorem plain_of_voting {r0 r1 r2 : VRec} {v : VRec} {i j : Nat} (hi : i < 3) (hj : j < 3) (ne : i ≠ j) (vi : laneRecord r0 r1 r2 i = v)
    (vj : laneRecord r0 r1 r2 j = v) (votes : kindVotes v.kind.toNat = true) : isSelftest (laneRecord r0 r1 r2) [0, 1, 2] = false := by
  have other : (v.kind == 0xA) = false := beq_eq_false_iff_ne.mpr fun e => by
    rw [e] at votes
    exact absurd votes (by decide)
  have few : ([0, 1, 2].filter fun k => (laneRecord r0 r1 r2 k).kind == 0xA).length < 2 := by
    have bound : ∀ k, k = i ∨ k = j → (fun k => (laneRecord r0 r1 r2 k).kind == 0xA) k = false := fun k hk => by
      rcases hk with rfl | rfl
      · exact (congrArg (fun w : VRec => w.kind == 0xA) vi).trans other
      · exact (congrArg (fun w : VRec => w.kind == 0xA) vj).trans other
    generalize (fun k => (laneRecord r0 r1 r2 k).kind == 0xA) = p at bound ⊢
    simp only [List.filter_cons, List.filter_nil]
    rcases (by omega : (i = 0 ∧ j = 1 ∨ i = 1 ∧ j = 0) ∨ (i = 0 ∧ j = 2 ∨ i = 2 ∧ j = 0) ∨ (i = 1 ∧ j = 2 ∨ i = 2 ∧ j = 1)) with h | h | h
    · simp only [bound 0 (by omega), bound 1 (by omega), Bool.false_eq_true, if_false]
      split <;> simp
    · simp only [bound 0 (by omega), bound 2 (by omega), Bool.false_eq_true, if_false]
      split <;> simp
    · simp only [bound 1 (by omega), bound 2 (by omega), Bool.false_eq_true, if_false]
      split <;> simp
  exact decide_eq_false (by omega)

/-- What an excluded minority leaves. -/
theorem minority_result {s t : State} {i cause : Nat} (hi : i < 3) (all : s.servingLanes = [0, 1, 2]) {r : Nat → VRec}
    (gone : LaneGone i cause (countMinority i (stepTags r s)) t) : t.servingLanes = ([0, 1, 2].filter fun j => j != i) ∧
      t.voter.minor0 = (countMinority i s).voter.minor0 ∧ t.voter.minor1 = (countMinority i s).voter.minor1 ∧
      t.voter.minor2 = (countMinority i s).voter.minor2 ∧ (t.lane i).lastCause = BitVec.ofNat 8 cause := by
  have serving : (countMinority i (stepTags r s)).servingLanes = [0, 1, 2] := (servingLanes_of_lanes rfl).trans (stepTags_serving all r)
  have voter : (stepTags r s).voter = s.voter := (congrArg State.voter (stepTags_frame r s) :)
  have counted : (countMinority i (stepTags r s)).voter = (countMinority i s).voter := by
    rw [countMinority, State.updVoter_voter, voter, countMinority, State.updVoter_voter]
  obtain ⟨m0, m1, m2⟩ := gone.minors
  rw [counted] at m0 m1 m2
  exact ⟨gone.servingLanes serving, m0, m1, m2, gone.named⟩

/-- Settles O40: the votes by their outcomes; an exclusion leaves the two others as they are, whatever its fault escalates to. -/
theorem votesOfThreeLanes : Obligations.VotesOfThreeLanes := by
  unfold Obligations.VotesOfThreeLanes
  intro r0 r1 r2 inPath s hr all
  refine ⟨fun h01 h12 kind => agreedClause hr all inPath h01 h12 kind, fun h01 h12 kind due => selftestVoteClause hr all inPath h01 h12 kind due,
    fun h01 h12 votes => ?_, fun h02 h01 votes => ?_, fun h12 h01 votes => ?_,
    fun h01 h02 h12 plain quiet _ => dividedClause hr all inPath h01 h02 h12 plain quiet, fun parity quiet _ => votersClause hr all inPath parity quiet,
    fun quiet _ => parityClause hr all inPath quiet⟩
  · have plain := plain_of_voting (r0 := r0) (r1 := r1) (r2 := r2) (i := 0) (j := 1) (by decide) (by decide) (by decide) rfl h01.symm votes
    obtain ⟨t, ran, gone⟩ := minorityClause hr all inPath plain (v := r0) (x := r2) (i := 2) (by decide) (by rw [vote3, if_pos h01, if_neg h12]) votes
    obtain ⟨serving, -, -, minor, named⟩ := minority_result (by decide) all gone
    exact ⟨t, ran, serving, minor, named⟩
  · have plain := plain_of_voting (r0 := r0) (r1 := r1) (r2 := r2) (i := 0) (j := 2) (by decide) (by decide) (by decide) rfl h02.symm votes
    obtain ⟨t, ran, gone⟩ := minorityClause hr all inPath plain (v := r0) (x := r1) (i := 1) (by decide) (by rw [vote3, if_neg h01, if_pos h02]) votes
    obtain ⟨serving, -, minor, -, named⟩ := minority_result (by decide) all gone
    exact ⟨t, ran, serving, minor, named⟩
  · have plain := plain_of_voting (r0 := r0) (r1 := r1) (r2 := r2) (i := 1) (j := 2) (by decide) (by decide) (by decide) rfl h12.symm votes
    have h02 : r0 ≠ r2 := fun e => h01 (e.trans h12.symm)
    obtain ⟨t, ran, gone⟩ := minorityClause hr all inPath plain (v := r1) (x := r0) (i := 0) (by decide) (by rw [vote3, if_neg h01, if_neg h02, if_pos h12]) votes
    obtain ⟨serving, minor, -, -, named⟩ := minority_result (by decide) all gone
    exact ⟨t, ran, serving, minor, named⟩

end Sys2Proof.Proofs
end

section
/-!
SUPPORT. Lanes leave and return (R124, R136, R138, R145 to R149, R326): O41.
-/
namespace Sys2Proof.Proofs
open Sys2Proof.Machine

/-! ### Faults of a lane -/

theorem mem_of_core {s t : State} (h : core t = core s) : t.mem = s.mem := (congrArg (fun c => c.1.2.2.2.2.2) h :)

section
variable {s : State} (all : s.servingLanes = [0, 1, 2])
include all

theorem laneFault_gone {i cause : Nat} (hi : i < 3) (hc : cause < 256) : LaneGone i cause s (laneFault i cause s) := by
  rw [laneFault, excludeLane_of hi all]
  exact (exclusionSteps_gone hi hc _ false s).1

theorem core_laneFault {i cause : Nat} (hi : i < 3) : core (laneFault i cause s) = core s := by
  rw [laneFault, excludeLane_of hi all]
  exact core_exclusionSteps hi ..

end

theorem railShown_serving {s : State} (all : s.servingLanes = [0, 1, 2]) (lane : LaneId) (mv : Nat) :
    (s.updLane lane.val fun l => { l with railMv := mv }).servingLanes = [0, 1, 2] := by
  refine (servingLanes_kept fun j hj => ?_).trans all
  by_cases e : j = lane.val
  · subst e
    rw [lane_updLane_same hj]
  · rw [lane_updLane_other e]

theorem railClause {s : State} (hr : s.runs = true) (all : s.servingLanes = [0, 1, 2]) (mv : Half) (lane : LaneId) :
    ∃ t, exec (.laneRailWindowFault lane mv) s = .next t ∧ (t.lane lane.val).railMv = mv.toNat ∧
        ((t.lane lane.val).st = .reset ∨ (t.lane lane.val).st = .locked ∧ (t.lane lane.val).lock = true) ∧
        (t.lane lane.val).lastCause = BitVec.ofNat 8 0x13 ∧
        (t.lane lane.val).exclTotal = satInc 0xFF (s.lane lane.val).exclTotal ∧
        (∀ j, j < 3 → j ≠ lane.val → t.lane j = s.lane j) ∧ t.mem = s.mem := by
  have all' := railShown_serving all lane mv.toNat
  have gone := laneFault_gone all' (i := lane.val) (cause := 0x13) lane.isLt (by decide)
  have own : (s.updLane lane.val fun l => { l with railMv := mv.toNat }).lane lane.val = _ := lane_updLane_same lane.isLt _
  have mem := mem_of_core (core_laneFault all' (i := lane.val) (cause := 0x13) lane.isLt)
  exact ⟨_, congrArg Host.Outcome.next (if_pos hr), gone.rail.trans (congrArg LaneSt.railMv own), gone.state, gone.named,
    gone.total.trans (by rw [own]), fun j _ ne => (gone.others j ne).trans (lane_updLane_other ne _), mem⟩

theorem watchdogClause {s : State} (hr : s.runs = true) (all : s.servingLanes = [0, 1, 2]) (lane : LaneId) :
    ∃ t, exec (.laneWatchdogExpiry lane) s = .next t ∧
        ((t.lane lane.val).st = .reset ∨ (t.lane lane.val).st = .locked ∧ (t.lane lane.val).lock = true) ∧
        (t.lane lane.val).lastCause = BitVec.ofNat 8 0x16 ∧
        (t.lane lane.val).exclTotal = satInc 0xFF (s.lane lane.val).exclTotal ∧
        (∀ j, j < 3 → j ≠ lane.val → t.lane j = s.lane j) ∧ t.mem = s.mem := by
  have gone := laneFault_gone all (i := lane.val) (cause := 0x16) lane.isLt (by decide)
  exact ⟨_, congrArg Host.Outcome.next (if_pos hr), gone.state, gone.named, gone.total, fun j _ ne => gone.others j ne,
    mem_of_core (core_laneFault all lane.isLt)⟩

theorem commonModeClause {s : State} (hr : s.runs = true) (quiet : quietSource 0x0D s = true) :
    ∃ t, exec .laneRailsCommonMode s = .next t ∧ t.mstate = .safe ∧ t.servingLanes = s.servingLanes ∧ lockStands 1 0 t = true := by
  have kept : VotesKept s (raiseOpen 0x0D 4 none s) := raiseOpen_votesKept (by decide) (by decide) 4 none ⟨rfl, rfl⟩
  have locked : lockStands 1 0 (raiseOpen 0x0D 4 none s) = true := by
    have quiet' : quietSource 0x0D (drawFree s).2 = true := quiet
    change lockStands 1 0 (presentPattern 0x0D 2 4 _ none (drawFree s).2) = true
    rw [presentPattern_quiet (by decide) quiet' (by decide)]
    exact decideBase_locks _ (by simp [finalClass, patternBroken]; rfl)
  exact ⟨_, congrArg Host.Outcome.next (if_pos hr), raiseOpen_safe hr (by decide) quiet (.inl (by decide)) none,
    servingLanes_kept fun j hj => kept.1.st hj, locked⟩

/-! ### Reintegration -/

/-- The lane with its blocks copied. -/
theorem copyBlock_marked (n : Nat) (s : State) (l : LaneSt) : (copyBlock n s l).marked = l.marked ∧ (copyBlock n s l).st = l.st := by
  unfold copyBlock
  split
  · exact ⟨rfl, rfl⟩
  · split
    · exact ⟨rfl, rfl⟩
    · split
      · split <;> exact ⟨rfl, rfl⟩
      · split <;> exact ⟨rfl, rfl⟩

theorem copyBlock_img (n : Nat) (s : State) (l : LaneSt) (a : Nat) :
    memRead (copyBlock n s l).img a = if imageBlock a = n then memRead s.mem a else memRead l.img a := by
  unfold copyBlock imageBlock
  split
  · rw [if_neg (by omega)]
  · split
    · rw [if_neg (by omega)]
    · split
      · split
        · rw [if_neg (by omega)]
        · rw [if_neg (by omega)]
      · split
        · rw [if_neg (by omega)]
        · dsimp only
          rw [memRead_memReplace]
          refine if_congr ?_ rfl rfl
          omega

/-- Blocks copied in a row: those bytes are the image's whose block is among them, and the others that already were. -/
theorem copyBlocks_img (s : State) (a : Nat) (bs : List Nat) (l : LaneSt) (h : imageBlock a ∉ bs → memRead l.img a = memRead s.mem a) :
    memRead (bs.foldl (fun x n => copyBlock n s x) l).img a = memRead s.mem a := by
  induction bs generalizing l with
  | nil => exact h (by simp)
  | cons n bs ih =>
    refine ih _ fun out => ?_
    rw [copyBlock_img]
    split
    · rfl
    · next ne => exact h (by simp [ne, out])

theorem copyBlocks_marked (s : State) (bs : List Nat) (l : LaneSt) : (bs.foldl (fun x n => copyBlock n s x) l).marked = l.marked := by
  induction bs generalizing l with
  | nil => rfl
  | cons n bs ih => exact (ih _).trans (copyBlock_marked n s l).1

section
variable {lane : LaneId} {s : State} (hr : s.runs = true)
include hr

theorem exec_laneFrom {old : LaneState} {i : Instr} {f : State → State} (h : (s.lane lane.val).st = old)
    (e : exec i s = .next (whileRunning (fun s => laneFrom old lane.val f s) s)) : exec i s = .next (f s) := by
  rw [e, whileRunning, if_pos hr, laneFrom, if_pos h]

theorem resetElapsedClause (h : (s.lane lane.val).st = .reset) :
    ∃ t, exec (.reintResetElapsed lane) s = .next t ∧ t.lane lane.val = { s.lane lane.val with st := .test } ∧ { t with lanes := s.lanes } = s :=
  ⟨_, exec_laneFrom hr h rfl, lane_updLane_same lane.isLt _, rfl⟩

theorem testPassedClause (h : (s.lane lane.val).st = .test) (boot : s.eff ≠ .boot) (tests : s.eff ≠ .selftest) (free : s.twin.join = none) :
    ∃ t, exec (.reintTestComplete lane true) s = .next t ∧
        t.lane lane.val = { s.lane lane.val with st := .copy, dirty := 2128, copyFrom := s.cyc, marked := [], gaps := 0, img := [] } ∧
        { t with lanes := s.lanes } = s := by
  refine ⟨s.updLane lane.val fun l => { l with st := .copy, dirty := 2128, copyFrom := s.cyc, marked := [], gaps := 0, img := [] }, ?_,
    lane_updLane_same lane.isLt _, rfl⟩
  refine (exec_laneFrom hr h rfl).trans (congrArg Host.Outcome.next ?_)
  rw [if_neg (by simp [boot, tests]), if_neg (by decide), if_neg (by simp [free])]

theorem testFailedClause (h : (s.lane lane.val).st = .test) (boot : s.eff ≠ .boot) (tests : s.eff ≠ .selftest) (free : (s.lane lane.val).lock = false) :
    ∃ t, exec (.reintTestComplete lane false) s = .next t ∧ (t.lane lane.val).st = .locked ∧
        (t.lane lane.val).lock = true ∧ (t.lane lane.val).lastCause = 0x20 ∧
        (t.lane lane.val).exclTotal = satInc 0xFF (s.lane lane.val).exclTotal ∧
        (∀ j, j < 3 → j ≠ lane.val → t.lane j = s.lane j) ∧ t.mem = s.mem := by
  obtain ⟨gone, held⟩ := exclusionSteps_gone (s := s) lane.isLt (cause := 0x20) (by decide) (selfFingerprint 0x20) true
  obtain ⟨st, lock⟩ := held rfl free
  refine ⟨exclusionSteps lane.val 0x20 (selfFingerprint 0x20) true s, ?_, st, lock, gone.named, gone.total, fun j _ ne => gone.others j ne,
    mem_of_core (core_exclusionSteps lane.isLt ..)⟩
  refine (exec_laneFrom hr h rfl).trans (congrArg Host.Outcome.next ?_)
  rw [if_neg (by simp [boot, tests]), if_pos (by decide)]

theorem bulkClause (h : (s.lane lane.val).st = .copy) (hold : s.mstate ≠ .hold) :
    ∃ t, exec (.reintBulkCopyDone lane) s = .next t ∧ (t.lane lane.val).st = .delta ∧ (t.lane lane.val).dirty = 0 ∧
        (t.lane lane.val).marked = (s.lane lane.val).marked ∧
        ((s.lane lane.val).dirty = 2128 → ∀ a, a < 0x780000 → memRead (t.lane lane.val).img a = memRead s.mem a) ∧
        { t with lanes := s.lanes } = s := by
  have bulk : ∀ l : LaneSt, (copyBulk l.dirty s l).marked = l.marked ∧
      (l.dirty = 2128 → ∀ a, a < 0x780000 → memRead (copyBulk l.dirty s l).img a = memRead s.mem a) := fun l => by
    have rows : (List.range l.dirty).foldl (fun x j => copyBlock (2128 - l.dirty + j) s x) l =
        ((List.range l.dirty).map fun j => 2128 - l.dirty + j).foldl (fun x n => copyBlock n s x) l := by rw [List.foldl_map]
    refine ⟨?_, fun whole a ha => ?_⟩
    · unfold copyBulk
      dsimp only
      rw [rows, copyBlocks_marked]
    · unfold copyBulk
      dsimp only
      rw [rows]
      refine copyBlocks_img s a _ l fun out => absurd ?_ out
      rw [List.mem_map]
      refine ⟨imageBlock a, List.mem_range.mpr ?_, ?_⟩ <;> rw [whole] <;> simp only [imageBlock] <;> omega
  refine ⟨s.updLane lane.val fun l => { copyBulk l.dirty s l with st := .delta, dirty := 0, gaps := 0 }, ?_, ?_⟩
  · exact (exec_laneFrom hr h rfl).trans (congrArg Host.Outcome.next (if_neg hold))
  · rw [lane_updLane_same lane.isLt]
    obtain ⟨marked, img⟩ := bulk (s.lane lane.val)
    exact ⟨rfl, rfl, marked, img, rfl⟩

theorem deltaClause (h : (s.lane lane.val).st = .delta) (hold : s.mstate ≠ .hold) :
    ∃ t, exec (.reintDeltaEmpty lane) s = .next t ∧ (t.lane lane.val).st = .entry ∧ (t.lane lane.val).dirty = 0 ∧
        (t.lane lane.val).marked = [] ∧
        (∀ a, (imageBlock a ∉ (s.lane lane.val).marked → memRead (s.lane lane.val).img a = memRead s.mem a) →
          memRead (t.lane lane.val).img a = memRead s.mem a) ∧ { t with lanes := s.lanes } = s := by
  refine ⟨s.updLane lane.val fun l => { l.marked.foldl (fun x n => copyBlock n s x) l with st := .entry, dirty := 0, marked := [] }, ?_, ?_⟩
  · exact (exec_laneFrom hr h rfl).trans (congrArg Host.Outcome.next (if_neg hold))
  · rw [lane_updLane_same lane.isLt]
    exact ⟨rfl, rfl, rfl, fun a ha => copyBlocks_img s a _ _ ha, rfl⟩

theorem gapsClause (h : (s.lane lane.val).st = .delta) :
    ∃ t, exec (.reintGapsExhausted lane) s = .next t ∧ (t.lane lane.val).lastCause = 0x21 ∧
        ((t.lane lane.val).st = .reset ∨ (t.lane lane.val).st = .locked) := by
  obtain ⟨gone, -⟩ := exclusionSteps_gone (s := s) lane.isLt (cause := 0x21) (by decide) (selfFingerprint 0x21) false
  exact ⟨_, exec_laneFrom hr h rfl, gone.named, gone.state.imp id And.left⟩

end

/-! ### Scan steps -/

theorem voter_enterSafe (s : State) : (enterSafe s).voter = s.voter := by
  have view := enterSafe_frame s
  simp only [sameButSafe, safeView, Prod.mk.injEq] at view
  obtain ⟨⟨-, -, -, -, -, -, -, -, voter⟩, -⟩ := view
  exact voter

/-- A fault of the pair keeps the voter. -/
theorem voter_raisePair (code : Nat) (specific : Option Half) {s t : State} (h : t.voter = s.voter) : (raiseOpen 0x31 code specific t).voter = s.voter :=
  raiseOpen_keeps (P := fun t => t.voter = s.voter) (fun _ _ e h => (congrArg State.voter e :).trans h)
    (fun u h => (voter_enterSafe u).trans h)
    (fun k e n u h => by
      cases Option.some.inj ((show classThreeTarget 0x31 = some .twin from rfl).symm.trans e)
      exact (congrArg State.voter (setPState_frame .removed u) :).trans h) rfl code specific h

theorem core_goSilent (cause cls : Nat) (s : State) : core (goSilent cause cls s) = core s :=
  ((core_raiseOpen rfl ..).trans (core_setPState ..)).trans rfl

theorem voter_goSilent (cause cls : Nat) (s : State) : (goSilent cause cls s).voter = s.voter :=
  voter_raisePair cls none (congrArg State.voter (setPState_frame .silent (s.updTwin fun t => { t with silentCause := BitVec.ofNat 8 cause })) :)

theorem core_updTwin (f : Twin → Twin) (s : State) : core (s.updTwin f) = core s := rfl

theorem leftAgain_keeps {s u : State} (hc : core u = core s) (hv : u.voter = s.voter) :
    core (raiseOpen 0x31 3 (some 0x0201) (setPState .removed u)) = core s ∧ (raiseOpen 0x31 3 (some 0x0201) (setPState .removed u)).voter = s.voter :=
  ⟨(core_raiseOpen rfl ..).trans ((core_setPState ..).trans hc), voter_raisePair _ _ ((congrArg State.voter (setPState_frame .removed u) :).trans hv)⟩

theorem divergence_keeps (what round : Nat) (own peer : Dword) (s : State) :
    core (divergence what round own peer s) = core s ∧ (divergence what round own peer s).voter = s.voter := by
  have noted : ∀ sev (u : State), core u = core s → u.voter = s.voter →
      core (record 0x0501 sev 0x31 what round (own.toNat % 2 ^ 32) (peer.toNat % 2 ^ 32) u) = core s ∧
      (record 0x0501 sev 0x31 what round (own.toNat % 2 ^ 32) (peer.toNat % 2 ^ 32) u).voter = s.voter := fun sev u hc hv => by
    have frame := record_frame 0x0501 sev 0x31 what round (own.toNat % 2 ^ 32) (peer.toNat % 2 ^ 32) u
    exact ⟨(congrArg core frame :).trans hc, (congrArg State.voter frame :).trans hv⟩
  unfold divergence
  dsimp only
  split
  · obtain ⟨hc, hv⟩ := noted 0 ((s.updTwin fun t => { t with cmpMismatch := satInc 0xFFFFFFFF t.cmpMismatch }).updTwin fun t => { t with hasDiv := true, lastDivMs := s.tb.ms }) ((core_updTwin ..).trans (core_updTwin ..)) rfl
    exact ⟨(core_raiseOpen rfl ..).trans hc, voter_raisePair _ _ hv⟩
  · obtain ⟨hc, hv⟩ := noted 2 (((s.updTwin fun t => { t with cmpMismatch := satInc 0xFFFFFFFF t.cmpMismatch }).updTwin fun t => { t with hasDiv := true, lastDivMs := s.tb.ms }).updTwin fun t => { t with silentCause := 1 }) ((core_updTwin ..).trans ((core_updTwin ..).trans (core_updTwin ..))) rfl
    split
    · exact leftAgain_keeps hc hv
    · exact ⟨(core_goSilent ..).trans hc, (voter_goSilent ..).trans hv⟩

theorem compareWindow_keeps (s : State) : core (compareWindow s) = core s ∧ (compareWindow s).voter = s.voter := by
  unfold compareWindow
  split
  · dsimp only
    split
    · exact ⟨rfl, rfl⟩
    · split
      · exact divergence_keeps ..
      · exact ⟨rfl, rfl⟩
  · exact ⟨rfl, rfl⟩

theorem scanDueClause {s : State} (hr : s.runs = true) (due : scanDue s = true) :
    ∃ t, exec .scanStep s = .next t ∧ t.voter.scanChunk = (s.voter.scanChunk + 1) % 120 ∧
      t.voter.scanRound = some s.floe.round ∧ t.mem = s.mem := by
  refine ⟨_, congrArg Host.Outcome.next ((if_pos hr).trans (if_neg (by simp [due]))), ?_⟩
  obtain ⟨u, hu⟩ : ∃ u : State, u = s.updVoter fun v => { v with scanRound := some s.floe.round, scanChunk := (s.voter.scanChunk + 1) % 120, scanSweeps := if s.voter.scanChunk = 119 then satInc 0xFFFFFFFF v.scanSweeps else v.scanSweeps } := ⟨_, rfl⟩
  have chunk : u.voter.scanChunk = (s.voter.scanChunk + 1) % 120 := by rw [hu]; rfl
  have round : u.voter.scanRound = some s.floe.round := by rw [hu]; rfl
  have mem : u.mem = s.mem := by rw [hu]; rfl
  dsimp only
  rw [← hu]
  split
  · exact ⟨chunk, round, mem⟩
  · obtain ⟨held, voter⟩ := compareWindow_keeps (sendStsig 6 s.voter.scanChunk (finishSig (crc64Fold (crc64Fold crc64Init (windowBytes 6 s.voter.scanChunk s.relRound)) (memBytes s.mem (65536 * s.voter.scanChunk) 65536))) u)
    have sent := sendStsig_frame 6 s.voter.scanChunk (finishSig (crc64Fold (crc64Fold crc64Init (windowBytes 6 s.voter.scanChunk s.relRound)) (memBytes s.mem (65536 * s.voter.scanChunk) 65536))) u
    have voter' := voter.trans (congrArg State.voter sent :)
    exact ⟨(congrArg Voter.scanChunk voter').trans chunk, (congrArg Voter.scanRound voter').trans round,
      (mem_of_core held).trans ((congrArg State.mem sent :).trans mem)⟩

theorem scanIdleClause {s : State} (hr : s.runs = true) (idle : scanDue s = false) : exec .scanStep s = .next s :=
  congrArg Host.Outcome.next ((if_pos hr).trans (if_pos (by simp [idle])))

/-- Settles O41: a fault that excludes a lane, and each step of reintegration, is one record change of that lane. -/
theorem lanesLeaveAndReturn : Obligations.LanesLeaveAndReturn := by
  unfold Obligations.LanesLeaveAndReturn
  refine ⟨fun mv s hr all => ⟨fun lane => ?_, fun x hx lane => ?_, fun quiet _ => commonModeClause hr quiet⟩, fun lane s hr =>
    ⟨resetElapsedClause hr, testPassedClause hr, testFailedClause hr, bulkClause hr, deltaClause hr, gapsClause hr, scanDueClause hr, scanIdleClause hr⟩⟩
  · obtain ⟨t, step, rail, -⟩ := railClause hr all mv lane
    exact ⟨t, step, rail⟩
  · rcases List.mem_pair.mp hx with rfl | rfl
    · exact watchdogClause hr all lane
    · obtain ⟨t, step, -, rest⟩ := railClause hr all mv lane
      exact ⟨t, step, rest⟩

end Sys2Proof.Proofs
end

section
/-!
SUPPORT. What the work of the pair outside faults leaves unchanged; a round start (R93, R190, R197, R203, R220): O42.
-/
namespace Sys2Proof.Proofs
open Sys2Proof.Machine

/-! ### The work of the pair -/

/-- Only what a join, a split or an activation of the pair may change differs. -/
def PairWork (s t : State) : Prop :=
  { t with mstate := s.mstate, holdFrom := s.holdFrom, voter := s.voter, ice := s.ice, fcu := s.fcu, freeCtr := s.freeCtr, prog := s.prog, tasks := s.tasks, fram := s.fram, twin := s.twin, io := s.io, hif := s.hif } = s

theorem PairWork.refl (s : State) : PairWork s s := rfl

theorem PairWork.trans {s t u : State} (h : PairWork s t) (k : PairWork t u) : PairWork s u := by
  unfold PairWork at *
  exact (congrArg (fun v : State => { v with mstate := s.mstate, holdFrom := s.holdFrom, voter := s.voter, ice := s.ice, fcu := s.fcu, freeCtr := s.freeCtr, prog := s.prog, tasks := s.tasks, fram := s.fram, twin := s.twin, io := s.io, hif := s.hif }) k :).trans h

theorem PairWork.ite {c : Prop} [Decidable c] {s t u : State} (h : PairWork s t) (k : PairWork s u) : PairWork s (if c then t else u) := by
  split
  · exact h
  · exact k

theorem PairWork.floe {s t : State} (h : PairWork s t) : t.floe = s.floe := (congrArg State.floe h :)
theorem PairWork.keys {s t : State} (h : PairWork s t) : t.keys = s.keys := (congrArg State.keys h :)
theorem PairWork.tb {s t : State} (h : PairWork s t) : t.tb = s.tb := (congrArg State.tb h :)
theorem PairWork.mem {s t : State} (h : PairWork s t) : t.mem = s.mem := (congrArg State.mem h :)

/-- A change of the twin's record. -/
theorem PairWork.ofTwin {s t : State} (h : { t with twin := s.twin } = s) : PairWork s t :=
  (congrArg (fun v : State => { v with mstate := s.mstate, holdFrom := s.holdFrom, voter := s.voter, ice := s.ice, fcu := s.fcu, freeCtr := s.freeCtr, prog := s.prog, tasks := s.tasks, fram := s.fram, io := s.io, hif := s.hif }) h :)

theorem PairWork.ofHif {s t : State} (h : { t with hif := s.hif } = s) : PairWork s t :=
  (congrArg (fun v : State => { v with mstate := s.mstate, holdFrom := s.holdFrom, voter := s.voter, ice := s.ice, fcu := s.fcu, freeCtr := s.freeCtr, prog := s.prog, tasks := s.tasks, fram := s.fram, io := s.io, twin := s.twin }) h :)

theorem PairWork.ofIo {s t : State} (h : { t with io := s.io } = s) : PairWork s t :=
  (congrArg (fun v : State => { v with mstate := s.mstate, holdFrom := s.holdFrom, voter := s.voter, ice := s.ice, fcu := s.fcu, freeCtr := s.freeCtr, prog := s.prog, tasks := s.tasks, fram := s.fram, hif := s.hif, twin := s.twin }) h :)

theorem PairWork.ofIce {s t : State} (h : { t with ice := s.ice } = s) : PairWork s t :=
  (congrArg (fun v : State => { v with mstate := s.mstate, holdFrom := s.holdFrom, voter := s.voter, hif := s.hif, fcu := s.fcu, freeCtr := s.freeCtr, prog := s.prog, tasks := s.tasks, fram := s.fram, io := s.io, twin := s.twin }) h :)

theorem PairWork.ofFault {s t : State} (h : { t with fcu := s.fcu, ice := s.ice, freeCtr := s.freeCtr } = s) : PairWork s t :=
  (congrArg (fun v : State => { v with mstate := s.mstate, holdFrom := s.holdFrom, voter := s.voter, hif := s.hif, prog := s.prog, tasks := s.tasks, fram := s.fram, io := s.io, twin := s.twin }) h :)

theorem pairWork_updTwin (f : Twin → Twin) (s : State) : PairWork s (s.updTwin f) := .ofTwin rfl

theorem pairWork_updTasks (f : Tasks → Tasks) (s : State) : PairWork s (s.updTasks f) := rfl

theorem pairWork_sendMsg (mtype prio : Nat) (body : List Byte) (s : State) : PairWork s (sendMsg mtype prio body s) := .ofTwin (sendMsg_frame ..)

theorem pairWork_complete (p : Port) (op tag : Half) (r : Reply) (s : State) : PairWork s (complete p op tag r s) := .ofHif (complete_frame ..)

theorem pairWork_setPState (new : PState) (s : State) : PairWork s (setPState new s) :=
  (congrArg (fun v : State => { v with mstate := s.mstate, holdFrom := s.holdFrom, voter := s.voter, hif := s.hif, fcu := s.fcu, freeCtr := s.freeCtr, prog := s.prog, fram := s.fram, io := s.io }) (setPState_frame new s) :)

theorem settleOutputs_frame (s : State) : { settleOutputs s with io := s.io } = s :=
  settleOutputs_keeps (P := fun t => { t with io := s.io } = s) (fun _ _ _ h => h) rfl

theorem pairWork_settleOutputs (s : State) : PairWork s (settleOutputs s) := .ofIo (settleOutputs_frame s)

theorem pairWork_record (code : Half) (sev src p0 p1 p2 p3 : Nat) (s : State) : PairWork s (record code sev src p0 p1 p2 p3 s) := .ofIce (record_frame ..)

theorem pairWork_enterEff (new : MState) (s : State) : PairWork s (enterEff new s) :=
  (congrArg (fun v : State => { v with twin := s.twin, voter := s.voter, hif := s.hif, fcu := s.fcu, freeCtr := s.freeCtr, prog := s.prog, tasks := s.tasks, fram := s.fram, io := s.io }) (enterEff_frame new s) :)

/-! ### Joins, splits and activations -/

theorem pairWork_answerClient (c : Option (Port × Half)) (r : Reply) (s : State) : PairWork s (answerClient c r s) := by
  unfold answerClient
  split
  · exact pairWork_complete ..
  · exact .refl s

theorem pairWork_abandonActivation (code : Code) (group : Nat) (s : State) : PairWork s (abandonActivation code group s) := by
  unfold abandonActivation
  split
  · exact .refl s
  · next a _ =>
    have withdrawn : PairWork s (s.updProg fun p => { p with sched := none }) := rfl
    exact (withdrawn.trans (pairWork_answerClient ..)).trans (pairWork_record ..)

theorem pairWork_settleConfirmation (s : State) : PairWork s (settleConfirmation s) := by
  unfold settleConfirmation
  split
  · split
    · exact (rfl : PairWork s (s.updProg _))
    · exact .refl s
  · exact .refl s

theorem pairWork_sendAbort (reason : Nat) (s : State) : PairWork s (sendAbort reason s) := pairWork_sendMsg ..

theorem pairWork_abandonRecord (reason n : Nat) (s : State) : PairWork s (abandonRecord reason n s) :=
  raiseOpen_low (P := PairWork s) (src := 0x30) (by decide) (fun u v e _ hu => hu.trans (.ofFault e)) rfl none (pairWork_record ..)

theorem pairWork_abandonJoin (reason : Nat) (s : State) : PairWork s (abandonJoin reason s) := by
  unfold abandonJoin
  split
  · exact .refl s
  · next j _ =>
    extract_lets s1 s2 s3
    have h1 : PairWork s s1 := pairWork_updTwin ..
    have h2 : PairWork s s2 := by
      dsimp only [s2]
      split
      · exact h1.trans (pairWork_setPState ..)
      · exact h1
    have h3 : PairWork s s3 := by
      dsimp only [s3]
      split
      · exact h2.trans (pairWork_complete ..)
      · exact h2
    exact h3.trans (pairWork_abandonRecord ..)

theorem pairWork_dropJoin (reason : Nat) (s : State) : PairWork s (dropJoin reason s) := by
  unfold dropJoin
  split
  · exact .refl s
  · exact (pairWork_sendAbort ..).trans (pairWork_abandonJoin ..)

theorem pairWork_endSplit (r : Reply) (s : State) : PairWork s (endSplit r s) := by
  unfold endSplit
  split
  · next x _ =>
    have cleared := pairWork_updTwin (fun t => { t with split := none }) s
    dsimp only
    split
    · exact cleared.trans (pairWork_complete ..)
    · exact cleared
  · exact .refl s

theorem pairWork_abandonSplit (reason : Nat) (s : State) : PairWork s (abandonSplit reason s) := by
  unfold abandonSplit
  split
  · exact .refl s
  · exact (pairWork_endSplit ..).trans (pairWork_abandonRecord ..)

theorem pairWork_dropSplit (reason : Nat) (s : State) : PairWork s (dropSplit reason s) := by
  unfold dropSplit
  split
  · exact .refl s
  · exact (pairWork_sendAbort ..).trans (pairWork_abandonSplit ..)

theorem pairWork_startSchedule (origin : Nat) (s : State) : PairWork s (startSchedule origin s) := pairWork_updTasks ..

theorem pairWork_beginService (origin : Nat) (s : State) : PairWork s (beginService origin s) := by
  unfold beginService
  have emptied : PairWork (startSchedule origin s) ((startSchedule origin s).updIo fun i => { i with cos := [] }) := .ofIo rfl
  have entered := ((pairWork_startSchedule origin s).trans emptied).trans (pairWork_enterEff .service _)
  exact (entered.trans (pairWork_settleOutputs _)).trans (.ofIce (recordUnscheduled_frame _))

theorem pairWork_startJoin (client : Option (Port × Half)) (s : State) : PairWork s (startJoin client s) :=
  (((pairWork_updTwin _ s).trans (pairWork_sendMsg ..)).trans (pairWork_setPState ..)).trans (pairWork_settleOutputs _)

theorem pairWork_autoJoin (s : State) : PairWork s (autoJoin s) := by
  unfold autoJoin
  split
  · exact pairWork_startJoin ..
  · exact .refl s

theorem pairWork_enterPair (j : Join) (s : State) : PairWork s (enterPair j s) := by
  unfold enterPair
  extract_lets s1 s2 s3 s4 s5 s6
  have h1 : PairWork s s1 := pairWork_updTwin ..
  have h2 : PairWork s1 s2 := rfl
  have h3 : PairWork s2 s3 := rfl
  have h5 : PairWork s s5 := (((h1.trans h2).trans h3).trans (pairWork_updTasks ..)).trans (pairWork_setPState ..)
  have h6 : PairWork s s6 := by
    dsimp only [s6]
    split
    · exact h5.trans (pairWork_beginService ..)
    · exact (h5.trans (pairWork_startSchedule ..)).trans (pairWork_settleOutputs _)
  split
  · exact h6.trans (pairWork_complete ..)
  · exact h6

theorem pairWork_joinEntry (s : State) : PairWork s (joinEntry s) := by
  unfold joinEntry
  split
  · split
    · exact .refl s
    · split
      · split
        · exact pairWork_enterPair ..
        · exact .refl s
      · exact (pairWork_updTwin ..).trans (pairWork_setPState ..)
  · exact .refl s

/-! ### The twin's part of a round start -/

theorem pairWork_takeRoles (s : State) : PairWork s (takeRoles s) := by
  unfold takeRoles
  split
  · exact .refl s
  · have taken := pairWork_updTwin (fun t => { t with roles := t.leaderSeen }) s
    dsimp only
    split
    · split
      · exact taken.trans (pairWork_abandonActivation ..)
      · exact taken
    · exact taken

theorem pairWork_pairRound (s : State) : PairWork s (pairRound s) := by
  unfold pairRound
  split
  · split
    · exact pairWork_setPState ..
    · exact .refl s
  · split
    · exact pairWork_setPState ..
    · exact .refl s
  · exact .refl s

theorem pairWork_endHandshakes (s : State) : PairWork s (endHandshakes s) := by
  unfold endHandshakes
  extract_lets s1
  have joins : PairWork s s1 := by
    dsimp only [s1]
    split
    · exact .ite (pairWork_dropJoin ..) (.ite (pairWork_dropJoin ..) (.refl s))
    · exact .refl s
  split
  · split
    · exact joins.trans (pairWork_dropSplit ..)
    · exact joins
  · exact joins

theorem pairWork_countBoundary (s : State) : PairWork s (countBoundary s) := by
  unfold countBoundary
  split
  · split
    · exact pairWork_updTwin ..
    · exact .refl s
  · exact .refl s

theorem pairWork_twinRound (s : State) : PairWork s (twinRound s) := by
  unfold twinRound
  split
  · exact .refl s
  · have supervised : PairWork s (superviseLink s) := pairWork_updTwin ..
    have roles := (supervised.trans (pairWork_takeRoles _)).trans ((pairWork_pairRound _).trans (pairWork_settleConfirmation _))
    have entered := roles.trans ((pairWork_endHandshakes _).trans (pairWork_joinEntry _))
    exact entered.trans ((pairWork_countBoundary _).trans (pairWork_autoJoin _))

/-! ### A round start -/

theorem pairWork_passStopped (s : State) : PairWork s (passStopped s) := by
  unfold passStopped
  split
  · exact .refl s
  · exact pairWork_updTasks ..

/-- The rest of a round start once the time base stands. -/
def roundOpened (s : State) : State := settleOutputs (passStopped (twinRound (openRound (s.updKeys Keys.advance))))

theorem roundOpened_frame (s : State) : (roundOpened s).floe = (openRound s).floe ∧ (roundOpened s).keys = s.keys.advance := by
  have work : PairWork (openRound (s.updKeys Keys.advance)) (roundOpened s) :=
    ((pairWork_twinRound _).trans (pairWork_passStopped _)).trans (pairWork_settleOutputs _)
  exact ⟨work.floe, work.keys⟩

/-- Settles O42: after the load of the time base nothing that a round start does touches Floe's record or the keys but the opening of
the round itself. -/
theorem roundStarts : Obligations.RoundStarts := by
  unfold Obligations.RoundStarts
  intro s hr cold sync
  have loaded : takeSync (takeColdStart (drainLink s)) = drainLink s := by
    have noCold : takeColdStart (drainLink s) = drainLink s := by
      unfold takeColdStart
      rw [show (drainLink s).floe.coldTake = none from cold]
    rw [noCold]
    exact if_neg sync
  have run : exec .roundStart s = .next (roundOpened (takeSync (takeColdStart (drainLink s)))) := congrArg Host.Outcome.next (if_pos hr)
  obtain ⟨floe, keys⟩ := roundOpened_frame (drainLink s)
  refine ⟨_, run.trans (congrArg (fun u => Host.Outcome.next (roundOpened u)) loaded), ?_⟩
  rw [floe, keys]
  exact ⟨rfl, rfl, rfl, rfl, rfl, rfl, rfl, rfl, rfl, rfl⟩

end Sys2Proof.Proofs
end

section
/-!
SUPPORT. Releases (R22, R23, R90): O43.
-/
namespace Sys2Proof.Proofs
open Sys2Proof.Machine

/-! ### What a fault of a task keeps -/

theorem tasks_enterSafe (s : State) : (enterSafe s).tasks = s.tasks := by
  have view := enterSafe_frame s
  simp only [sameButSafe, safeView, Prod.mk.injEq] at view
  obtain ⟨-, -, tasks, -⟩ := view
  exact tasks

theorem classThreeTarget_task {n : Nat} (h : n < 8) : classThreeTarget (0x18 + n) = some (.task n) := by
  unfold classThreeTarget
  rw [if_neg (by omega), if_pos (by omega)]
  simp

theorem sourceListed_task {n : Nat} (h : n < 8) : sourceListed (0x18 + n) = true := by
  simp only [sourceListed, decide_eq_true_eq]
  omega

/-- What no fault of a task changes in that task's record: everything but its stop. -/
def TaskKept (n : Nat) (s t : State) : Prop := { t.task n with stopped := (s.task n).stopped } = s.task n ∧ t.mem = s.mem

theorem TaskKept.run {n : Nat} {s t : State} (h : TaskKept n s t) : t.run n = s.run n := (congrArg TaskSt.run h.1 :)

theorem TaskKept.overruns {n : Nat} {s t : State} (h : TaskKept n s t) : (t.task n).overruns = (s.task n).overruns := (congrArg TaskSt.overruns h.1 :)

theorem TaskKept.of_tasks {n : Nat} {s t u : State} (h : TaskKept n s t) (tasks : u.tasks = t.tasks) (mem : u.mem = t.mem) : TaskKept n s u :=
  ⟨(congrArg (fun x => { vget x.t .fresh n with stopped := (s.task n).stopped }) tasks :).trans h.1, mem.trans h.2⟩

theorem raiseTask_kept {n : Nat} (hn : n < 8) (code : Nat) (specific : Option Half) (s : State) : TaskKept n s (raiseOpen (0x18 + n) code specific s) :=
  raiseOpen_keeps (P := TaskKept n s) (fun _ _ e h => h.of_tasks (congrArg State.tasks e :) (congrArg State.mem e :))
    (fun u h => h.of_tasks (tasks_enterSafe u) (mem_of_core (core_enterSafe u)))
    (fun k e m u h => by
      cases Option.some.inj ((classThreeTarget_task hn).symm.trans e)
      refine ⟨?_, h.2⟩
      rw [targetEffect, task_updTask_same hn]
      exact h.1) (sourceListed_task hn) code specific ⟨rfl, rfl⟩

theorem raiseOverrun_kept {n : Nat} (hn : n < 8) (literal relRound : Nat) (consecutive : Bool) (s : State) :
    TaskKept n (s.updTask n fun x => { x with overruns := satInc 0xFFFFFFFF x.overruns }) (raiseOverrun n literal relRound consecutive s) := by
  have kept : ∀ code, TaskKept n (s.updTask n fun x => { x with overruns := satInc 0xFFFFFFFF x.overruns })
      (record 0x0401 2 (0x18 + n) n literal relRound (bit consecutive)
        (raiseOpen (0x18 + n) code none (s.updTask n fun x => { x with overruns := satInc 0xFFFFFFFF x.overruns }))) := fun code => by
    have frame := record_frame 0x0401 2 (0x18 + n) n literal relRound (bit consecutive)
        (raiseOpen (0x18 + n) code none (s.updTask n fun x => { x with overruns := satInc 0xFFFFFFFF x.overruns }))
    exact (raiseTask_kept hn code none _).of_tasks (congrArg State.tasks frame :) (congrArg State.mem frame :)
  exact kept (if consecutive then 4 else 2)

/-- An overrun is counted, and the cycle goes on. -/
theorem raiseOverrun_counts {n : Nat} (hn : n < 8) (literal relRound : Nat) (consecutive : Bool) (s : State) :
    ((raiseOverrun n literal relRound consecutive s).task n).overruns = satInc 0xFFFFFFFF (s.task n).overruns ∧
      (raiseOverrun n literal relRound consecutive s).run n = s.run n ∧ (raiseOverrun n literal relRound consecutive s).mem = s.mem := by
  have counted := task_updTask_same (s := s) hn fun x => { x with overruns := satInc 0xFFFFFFFF x.overruns }
  have raised := raiseOverrun_kept hn literal relRound consecutive s
  exact ⟨raised.overruns.trans (congrArg TaskSt.overruns counted :), raised.run.trans (congrArg TaskSt.run counted :), raised.2⟩

/-! ### Before a release -/

theorem pairWork_goSilent (cause : Nat) (s : State) : PairWork s (goSilent cause 1 s) :=
  raiseOpen_low (P := PairWork s) (src := 0x31) (by decide) (fun u v e _ hu => hu.trans (.ofFault e)) rfl none
    ((pairWork_updTwin ..).trans (pairWork_setPState ..))

theorem pairWork_comparisonTimeout (n : Nat) (s : State) : PairWork s (comparisonTimeout n s) := by
  have cleared : PairWork s (s.updTask n fun x => { x with ownCmp := none, peerCmp := none }) := pairWork_updTasks ..
  unfold comparisonTimeout
  dsimp only
  exact .ite cleared (.ite (cleared.trans (pairWork_updTwin ..)) (.ite cleared (cleared.trans (pairWork_goSilent ..))))

/-- Only the lanes and what records them differ. -/
def LanesOnly (s t : State) : Prop := { t with lanes := s.lanes, ice := s.ice } = s

theorem LanesOnly.trans {s t u : State} (h : LanesOnly s t) (k : LanesOnly t u) : LanesOnly s u := by
  unfold LanesOnly at *
  exact (congrArg (fun v : State => { v with lanes := s.lanes, ice := s.ice }) k :).trans h

theorem LanesOnly.tb {s t : State} (h : LanesOnly s t) : t.tb = s.tb := (congrArg State.tb h :)
theorem LanesOnly.floe {s t : State} (h : LanesOnly s t) : t.floe = s.floe := (congrArg State.floe h :)
theorem LanesOnly.mem {s t : State} (h : LanesOnly s t) : t.mem = s.mem := (congrArg State.mem h :)

theorem lanesOnly_updLane (i : Nat) (f : LaneSt → LaneSt) (s : State) : LanesOnly s (s.updLane i f) := rfl
theorem lanesOnly_record (code : Half) (sev src p0 p1 p2 p3 : Nat) (s : State) : LanesOnly s (record code sev src p0 p1 p2 p3 s) := rfl
theorem lanesOnly_passGap (s : State) : LanesOnly s (passGap s) := rfl
theorem lanesOnly_recordState (old new : MState) (s : State) : LanesOnly s (recordState old new s) := rfl

theorem enterLanes_only (s : State) : LanesOnly s (enterLanes s) := by
  unfold enterLanes
  extract_lets waiting tag s1
  have entered : LanesOnly s s1 := foldl_keeps (f := fun u i =>
      record 0x0302 1 (0x10 + i) i (min (u.tb.ms - (u.lane i).lastExclMs) 0xFFFFFFFF) 0 0
        (u.updLane i fun l => { l with st := .serving, tag := tag, img := [], ownFram := .fresh })) (P := LanesOnly s)
    (fun u i hu => hu.trans ((lanesOnly_updLane ..).trans (lanesOnly_record ..))) _ rfl
  split
  · rfl
  · exact entered.trans (lanesOnly_recordState ..)

/-- The gaps of a release have passed, and the lanes that waited have entered. -/
def gapPassed (b : Bank) (s : State) : State := if refIdle b s then enterLanes (passGap s) else s

theorem gapPassed_only (b : Bank) (s : State) : LanesOnly s (gapPassed b s) := by
  unfold gapPassed
  split
  · exact (lanesOnly_passGap s).trans (enterLanes_only _)
  · rfl

/-- The state in which a release starts its cycle. -/
def beforeCycle (b : Bank) (n : Nat) (s : State) : State :=
  (comparisonTimeout n (gapPassed b s)).updTasks (refRelease b n (comparisonTimeout n (gapPassed b s)).refInstant)

theorem beforeCycle_same (b : Bank) (n : Nat) (s : State) :
    (beforeCycle b n s).tb = s.tb ∧ (beforeCycle b n s).floe = s.floe ∧ (beforeCycle b n s).mem = s.mem := by
  have entered := gapPassed_only b s
  have work : PairWork (gapPassed b s) (beforeCycle b n s) := (pairWork_comparisonTimeout ..).trans (pairWork_updTasks ..)
  exact ⟨work.tb.trans entered.tb, work.floe.trans entered.floe, work.mem.trans entered.mem⟩

/-! ### Releases -/

section
variable {n : TaskId} {b : Bank} {s : State} (hr : s.runs = true) (active : s.prog.active = some b) (service : s.inService = true)
  (up : s.power.brownout = false) (serving : s.twin.ps ≠ .joining) (due : releaseDue n.val s = true)
include hr active service up serving due

theorem exec_taskRelease : exec (.taskRelease n) s =
    .next (match s.run n.val with | some c => lateRelease b n.val c s | none => startCycle b n.val (beforeCycle b n.val s)) := by
  have run : exec (.taskRelease n) s = execTaskRelease n s := rfl
  have open' : (!s.inService || s.power.brownout || s.twin.ps == .joining || !releaseDue n.val s) = false := by
    simp [service, up, serving, due]
  rw [run, execTaskRelease, whileRunning, if_pos hr]
  simp only [active, open', Bool.false_eq_true, if_false]
  rfl

theorem releaseClause (idle : s.run n.val = none) :
    ∃ t c, exec (.taskRelease n) s = .next t ∧ t.run n.val = some c ∧ c.release = s.tb.tb.ns ∧
        c.relRound = s.floe.round ∧ c.started = false ∧ c.inSig = none ∧ c.agreed = false ∧ c.overrun = false ∧
        (t.task n.val).latchTime = s.tb.tb.ns ∧ t.mem = s.mem := by
  obtain ⟨tb, floe, mem⟩ := beforeCycle_same b n.val s
  have ran := exec_taskRelease hr active service up serving due
  rw [idle] at ran
  obtain ⟨u, hu⟩ : ∃ u, u = beforeCycle b n.val s := ⟨_, rfl⟩
  rw [← hu] at tb floe mem ran
  have own : (startCycle b n.val u).task n.val = _ := task_updTask_same n.isLt _
  exact ⟨_, _, ran, (congrArg TaskSt.run own :), (congrArg (fun x => x.tb.ns) tb :), (congrArg Floe.round floe :), rfl, rfl, rfl, rfl,
    (congrArg TaskSt.latchTime own :).trans (congrArg (fun x => x.tb.ns) tb :), mem⟩

theorem lateClause (c : Cycle) (busy : s.run n.val = some c) (late : c.relRound ≠ s.floe.round) :
    ∃ t, exec (.taskRelease n) s = .next t ∧ (t.task n.val).overruns = satInc 0xFFFFFFFF (s.task n.val).overruns ∧
        (t.run n.val).map Cycle.release = some c.release := by
  have ran := exec_taskRelease hr active service up serving due
  rw [busy] at ran
  have late' : lateRelease b n.val c s = raiseOverrun n.val (openOffset b n.val c s).1 s.floe.round true (drawFree s).2 := if_neg late
  obtain ⟨counts, kept, -⟩ := raiseOverrun_counts n.isLt (openOffset b n.val c s).1 s.floe.round true (drawFree s).2
  refine ⟨_, ran.trans (congrArg Host.Outcome.next late'), counts, ?_⟩
  rw [kept]
  exact (congrArg (Option.map Cycle.release) busy :)

theorem repeatedClause (c : Cycle) (busy : s.run n.val = some c) (same : c.relRound = s.floe.round) : exec (.taskRelease n) s = .next s := by
  have ran := exec_taskRelease hr active service up serving due
  rw [busy] at ran
  exact ran.trans (congrArg Host.Outcome.next (if_pos same))

end

/-- Settles O43: a release starts its cycle on what the lanes and the pair have left of the state, or counts an overrun. -/
theorem releaseStartsCycle : Obligations.ReleaseStartsCycle := by
  unfold Obligations.ReleaseStartsCycle
  exact fun n b s hr active service up serving due => ⟨releaseClause hr active service up serving due,
    lateClause hr active service up serving due, repeatedClause hr active service up serving due⟩

end Sys2Proof.Proofs
end

section
/-!
SUPPORT. Cycles are signed, evaluated and pre-empted (R24, R48, R75, R82, R112, R133): O44.
-/
namespace Sys2Proof.Proofs
open Sys2Proof.Machine

/-! ### The run of a task -/

theorem run_updRun_same {n : Nat} (h : n < 8) (f : Cycle → Cycle) (s : State) : (updRun n f s).run n = (s.run n).map f :=
  (congrArg TaskSt.run (task_updTask_same (s := s) h fun x => { x with run := x.run.map f }) :)

theorem run_updRun_other {n m : Nat} (h : m ≠ n) (f : Cycle → Cycle) (s : State) : (updRun n f s).run m = s.run m :=
  (congrArg TaskSt.run (task_updTask_other h fun x => { x with run := x.run.map f }) :)

theorem run_of_tasks {s t : State} (h : t.tasks = s.tasks) (n : Nat) : t.run n = s.run n :=
  (congrArg (fun ts : Tasks => (vget ts.t .fresh n).run) h :)

/-- A change of the pair state reaches a cycle only through the end of its agreement. -/
theorem run_setPState {n : Nat} (h : n < 8) (new : PState) (s : State) : (setPState new s).run n = s.run n ∨
    (setPState new s).run n = (s.run n).map fun c => { c with agreed := c.agreed || (c.inSig.isSome && !c.unagreed) } := by
  have ended : (endAgreement s).run n = (s.run n).map fun c => { c with agreed := c.agreed || (c.inSig.isSome && !c.unagreed) } :=
    (congrArg TaskSt.run (vget_map s.tasks.t (fun x => { x with ownCmp := none, peerCmp := none, run := x.run.map fun c => { c with agreed := c.agreed || (c.inSig.isSome && !c.unagreed) } }) .fresh .fresh h) :)
  unfold setPState
  split
  · exact .inl rfl
  · dsimp only
    split
    · exact .inr ended
    · exact .inl rfl

/-! ### The input signature -/

/-- The signed cycle of a task: signature, role and slice stand, and outside a pair it is agreed. -/
structure Signed (n : Nat) (sig : Dword) (role : Bool) (slice : List Byte) (single : Prop) (m : Mem) (t : State) : Prop where
  run : ∃ d, t.run n = some d ∧ d.inSig = some sig ∧ d.role = role ∧ d.slice = slice ∧ (single → d.agreed = true)
  mem : t.mem = m

section
variable {n : Nat} {sig : Dword} {role : Bool} {slice : List Byte} {single : Prop} {m : Mem} {s t : State}

theorem Signed.of_tasks (h : Signed n sig role slice single m s) (tasks : t.tasks = s.tasks) (mem : t.mem = s.mem) : Signed n sig role slice single m t where
  run := by
    rw [run_of_tasks tasks]
    exact h.run
  mem := mem.trans h.mem

theorem Signed.work (h : Signed n sig role slice single m s) (e : { t with tasks := s.tasks, twin := s.twin, fcu := s.fcu, ice := s.ice, freeCtr := s.freeCtr } = s)
    (run : t.run n = s.run n ∨ t.run n = (s.run n).map fun c => { c with agreed := c.agreed || (c.inSig.isSome && !c.unagreed) }) :
    Signed n sig role slice single m t where
  run := by
    obtain ⟨d, at', insig, hrole, hslice, agreed⟩ := h.run
    rcases run with same | ended
    · exact ⟨d, same.trans at', insig, hrole, hslice, agreed⟩
    · refine ⟨_, ended.trans (congrArg _ at'), insig, hrole, hslice, fun hs => ?_⟩
      dsimp only
      rw [agreed hs, Bool.true_or]
  mem := (congrArg State.mem e :).trans h.mem

theorem Signed.updRun (hn : n < 8) (h : Signed n sig role slice single m s) (k : Nat) (f : Cycle → Cycle)
    (keeps : ∀ c, (f c).inSig = c.inSig ∧ (f c).role = c.role ∧ (f c).slice = c.slice ∧ (c.agreed = true → (f c).agreed = true)) :
    Signed n sig role slice single m (Machine.updRun k f s) where
  run := by
    obtain ⟨d, at', insig, hrole, hslice, agreed⟩ := h.run
    by_cases e : n = k
    · subst e
      obtain ⟨a, b, c, g⟩ := keeps d
      exact ⟨f d, (run_updRun_same hn f s).trans (congrArg _ at'), a.trans insig, b.trans hrole, c.trans hslice, fun hs => g (agreed hs)⟩
    · exact ⟨d, (run_updRun_other e f s).trans at', insig, hrole, hslice, agreed⟩
  mem := h.mem

theorem Signed.sendMsg (h : Signed n sig role slice single m s) (mtype prio : Nat) (body : List Byte) :
    Signed n sig role slice single m (Machine.sendMsg mtype prio body s) := by
  have frame := sendMsg_frame mtype prio body s
  exact h.of_tasks (congrArg State.tasks frame :) (congrArg State.mem frame :)

theorem Signed.goSilent (hn : n < 8) (h : Signed n sig role slice single m s) (cause : Nat) : Signed n sig role slice single m (Machine.goSilent cause 1 s) := by
  refine raiseOpen_low (P := Signed n sig role slice single m) (src := 0x31) (by decide) (fun u v e _ hu => hu.of_tasks (congrArg State.tasks e :) (congrArg State.mem e :)) rfl none ?_
  obtain ⟨u, hu⟩ : ∃ u : State, u = s.updTwin fun t => { t with silentCause := BitVec.ofNat 8 cause } := ⟨_, rfl⟩
  have named : Signed n sig role slice single m u := hu ▸ h.of_tasks rfl rfl
  have frame := setPState_frame .silent u
  rw [← hu]
  exact named.work (congrArg (fun v : State => { v with fcu := u.fcu, freeCtr := u.freeCtr }) frame :) (run_setPState hn ..)

theorem Signed.agree (hn : n < 8) (h : Signed n sig role slice single m s) : Signed n sig role slice single m (Machine.updRun n (fun c => { c with agreed := true }) s) :=
  h.updRun hn n _ fun _ => ⟨rfl, rfl, rfl, fun _ => rfl⟩

theorem Signed.sendSlice (h : Signed n sig role slice single m s) (task round : Nat) (sl : List Byte) :
    Signed n sig role slice single m (Machine.sendSlice task round sl s) :=
  foldl_keeps (f := fun s k => Machine.sendMsg 0x11 4 (wordsBytes [at32 0 task, BitVec.ofNat 32 round, BitVec.ofNat 32 (1024 * k), BitVec.ofNat 32 sl.length] ++ (sl.drop (1024 * k)).take 1024) s)
    (fun u k hu => hu.sendMsg ..) _ h

theorem Signed.meet (hn : n < 8) (h : Signed n sig role slice single m s) : Signed n sig role slice single m (meetSignatures n s) := by
  unfold meetSignatures
  split
  · unfold resolveAgreement
    split
    · exact h
    · split
      · dsimp only
        split
        · split
          · exact (h.agree hn).goSilent hn 4
          · exact h.agree hn
        · split
          · split
            · exact h.agree hn
            · exact ((h.agree hn).sendSlice ..).of_tasks rfl rfl
          · split
            · exact h.agree hn
            · exact h
      · exact h
  · exact h

theorem Signed.endWaits (hn : n < 8) (h : Signed n sig role slice single m s) : Signed n sig role slice single m (endWaits s) := by
  unfold Machine.endWaits
  split
  · refine foldl_keeps (f := fun s t => match s.run t with
      | some c => if c.inSig.isSome && !c.agreed && !c.unagreed then endWait t s else s
      | none => s) (fun u k hu => ?_) _ h
    split
    · split
      · exact hu.updRun hn k _ fun _ => ⟨rfl, rfl, rfl, id⟩
      · exact hu
    · exact hu
  · exact h

end

/-- The input signature of a slice (R24, R133). -/
def inputSignature (n : Nat) (c : Cycle) (s : State) : Dword :=
  finishSig (crc64Fold (crc64Fold crc64Init (windowBytes 1 n (BitVec.ofNat 32 (c.relRound - s.tasks.origin)))) c.slice)

section
variable {n : TaskId} {b : Bank} {c : Cycle} {s : State} (hr : s.runs = true) (active : s.prog.active = some b) (busy : s.run n.val = some c)
include hr active busy

theorem copiedClause (unsigned : c.inSig = none) (voted : voteLost 1 s = false) :
    ∃ t d, exec (.sliceCopyComplete n) s = .next t ∧ t.run n.val = some d ∧
        d.inSig = some (finishSig (crc64Fold (crc64Fold crc64Init
          (windowBytes 1 n.val (BitVec.ofNat 32 (c.relRound - s.tasks.origin)))) c.slice)) ∧ d.role = s.isLeader ∧
        (s.twin.ps ≠ .paired → d.agreed = true) ∧ d.slice = c.slice ∧ t.mem = s.mem := by
  obtain ⟨u, hu⟩ : ∃ u, u = updRun n.val (fun c' => { c' with inSig := some (inputSignature n.val c s), role := s.isLeader, agreed := decide (s.twin.ps ≠ .paired) }) s := ⟨_, rfl⟩
  have signed : Signed n.val (inputSignature n.val c s) s.isLeader c.slice (s.twin.ps ≠ .paired) s.mem u := by
    rw [hu]
    exact ⟨⟨_, (run_updRun_same n.isLt _ s).trans (congrArg _ busy), rfl, rfl, rfl, fun h => decide_eq_true h⟩, rfl⟩
  have ran : exec (.sliceCopyComplete n) s = .next (endWaits (meetSignatures n.val
      (if sendsComparison u then sendMsg 0x10 2 (insigBody u.isLeader n.val c.relRound (inputSignature n.val c s)) u else u))) := by
    have run : exec (.sliceCopyComplete n) s = execSliceCopyComplete n s := rfl
    rw [run, execSliceCopyComplete, whileRunning, if_pos hr]
    simp only [busy, unsigned, voted, Option.isSome_none, Bool.false_eq_true, if_false]
    rw [hu]
    rfl
  have sent : Signed n.val (inputSignature n.val c s) s.isLeader c.slice (s.twin.ps ≠ .paired) s.mem
      (if sendsComparison u then sendMsg 0x10 2 (insigBody u.isLeader n.val c.relRound (inputSignature n.val c s)) u else u) := by
    split
    · exact signed.sendMsg ..
    · exact signed
  obtain ⟨⟨d, at', insig, role, slice, agreed⟩, mem⟩ := (sent.meet n.isLt).endWaits n.isLt
  exact ⟨_, d, ran, at', insig, role, agreed, slice, mem⟩

theorem unvotedClause (unsigned : c.inSig = none) (lost : voteLost 1 s = true) : exec (.sliceCopyComplete n) s = .next (takeLost 1 s) := by
  have run : exec (.sliceCopyComplete n) s = execSliceCopyComplete n s := rfl
  rw [run, execSliceCopyComplete, whileRunning, if_pos hr]
  simp only [busy, unsigned, lost, Option.isSome_none, Bool.false_eq_true, if_false, if_true]

end

/-! ### The latch -/

/-- Only the image, the tasks' status records, the Floe counters and the event records differ, and what a write marks. -/
def Latched (s t : State) : Prop :=
  State.unmarked { t with mem := s.mem, tasks := s.tasks, floe := s.floe, ice := s.ice } = s.unmarked ∧ t.tasks.t = s.tasks.t

theorem Latched.refl (s : State) : Latched s s := ⟨rfl, rfl⟩

theorem Latched.trans {s t u : State} (h : Latched s t) (k : Latched t u) : Latched s u :=
  ⟨(congrArg (fun v : State => { v with mem := s.mem, tasks := s.tasks, floe := s.floe, ice := s.ice }) k.1 :).trans h.1, k.2.trans h.2⟩

theorem latched_writeImage (bs : List Nat) (m : Mem) (s : State) : Latched s (writeImage bs m s) :=
  ⟨(congrArg (fun v : State => { v with tasks := s.tasks, floe := s.floe, ice := s.ice }) (writeImage_unmarked bs m s) :),
    (congrArg (fun v : State => v.tasks.t) (writeImage_frame bs m s) :)⟩

theorem latched_touchBlocks (bs : List Nat) (s : State) : Latched s (touchBlocks bs s) :=
  ⟨(congrArg (fun v : State => { v with mem := s.mem, tasks := s.tasks, floe := s.floe, ice := s.ice }) (touchBlocks_unmarked bs s) :),
    (congrArg (fun v : State => v.tasks.t) (touchBlocks_frame bs s) :)⟩

theorem latched_record (code : Half) (sev src p0 p1 p2 p3 : Nat) (s : State) : Latched s (record code sev src p0 p1 p2 p3 s) := ⟨rfl, rfl⟩

theorem latched_updFloe (f : Floe → Floe) (s : State) : Latched s (s.updFloe f) := ⟨rfl, rfl⟩

theorem latched_countCheck (v : Verdict200) (ch : Chan) (s : State) : Latched s (countCheck v ch s) := latched_updFloe ..

theorem latched_duplicateMismatch (key : Nat) (ch : Chan) (p : List Byte) (s : State) : Latched s (duplicateMismatch key ch p s) := by
  unfold duplicateMismatch
  extract_lets recent g s1
  have h1 : Latched s s1 := latched_updFloe ..
  by_cases h : recent = true
  · rw [if_pos h]
    exact h1
  · rw [if_neg h]
    exact (h1.trans (latched_updFloe ..)).trans (latched_record ..)

theorem latched_checkBuffer (key : Nat) (check : List Byte → Verdict200) (prim alt : List Byte) (s : State) :
    Latched s (checkBuffer key check prim alt s).2.2 := by
  unfold checkBuffer
  extract_lets buf ach v v2 s1 s2
  have h1 : Latched s s1 := latched_countCheck ..
  have h2 : Latched s s2 := by
    dsimp only [s2]
    split
    · exact h1
    · exact h1.trans (latched_countCheck ..)
  change Latched s (if v = .ok ∧ v2 = .ok then duplicateMismatch key ach alt s2 else s2)
  split
  · exact h2.trans (latched_duplicateMismatch ..)
  · exact h2

theorem latched_updateController (b : Bank) (release r : Nat) (e : OcRec × List Byte × List Byte) (s : State) :
    Latched s (updateController b release r e s) := by
  obtain ⟨c, prim, alt⟩ := e
  unfold updateController
  dsimp -zeta only
  extract_lets old f l p new missed lost valid loss new' s1 m1 m2 s2
  have checked : Latched s s1 :=
    (latched_checkBuffer c.node (checkStatus s c old release) prim alt s).trans ⟨rfl, rfl⟩
  have written : Latched s s2 := checked.trans (latched_writeImage ..)
  split
  · exact written.trans (latched_record ..)
  · split
    · exact written.trans (latched_record ..)
    · exact written

theorem latched_updateData (release : Nat) (e : Nat × List Byte × List Byte) (s : State) : Latched s (updateData release e s) := by
  have checked := latched_checkBuffer (dataKey e.1) (checkData s e.1 release) e.2.1 e.2.2 s
  unfold updateData
  obtain ⟨r3, hr3⟩ : ∃ x, x = checkBuffer (dataKey e.1) (checkData s e.1 release) e.2.1 e.2.2 s := ⟨_, rfl⟩
  rw [← hr3] at checked ⊢
  obtain ⟨v, v2, u⟩ := r3
  dsimp only at checked ⊢
  split
  · exact checked.trans (latched_updFloe ..)
  · exact checked

theorem latched_latchSlice (b : Bank) (n : Nat) (c : Cycle) (s : State) : Latched s (latchSlice b n c s) := by
  have controllers : ∀ (xs : List (OcRec × List Byte × List Byte)) (u : State), Latched s u → Latched s (xs.foldl (fun s e => updateController b c.release.toNat c.relRound e s) u) :=
    fun xs u hu => foldl_keeps (fun v e hv => hv.trans (latched_updateController ..)) xs hu
  have data : ∀ (xs : List (Nat × List Byte × List Byte)) (u : State), Latched s u → Latched s (xs.foldl (fun s e => updateData c.release.toNat e s) u) :=
    fun xs u hu => foldl_keeps (fun v e hv => hv.trans (latched_updateData ..)) xs hu
  unfold latchSlice
  exact ((data _ _ (controllers _ _ (.refl s))).trans (latched_touchBlocks ..)).trans (latched_writeImage ..)

theorem latched_preload (b : Bank) (n : Nat) (s : State) : Latched s (preload b n s) := by
  unfold preload
  extract_lets es els first p s1
  have h1 : Latched s s1 := by
    dsimp only [s1]
    split
    · exact latched_writeImage ..
    · exact .refl s
  exact h1.trans ⟨rfl, rfl⟩

/-- What the beginning of a cycle leaves: the task's run begun on what the latch has brought. -/
theorem beginCycle_runs (b : Bank) {n : Nat} (hn : n < 8) (c : Cycle) {s : State} {c0 : Cycle} (busy : s.run n = some c0) :
    ∃ d, (beginCycle b n c s).run n = some d ∧ d.started = true ∧ d.paused = false ∧ d.pc = 0 ∧ d.yieldAt = c0.yieldAt ∧
      (beginCycle b n c s).prog = s.prog ∧
      State.unmarked { beginCycle b n c s with mem := s.mem, tasks := s.tasks, floe := s.floe, ice := s.ice } = s.unmarked := by
  have latched : Latched s (preload b n (latchSlice b n c s)) := (latched_latchSlice ..).trans (latched_preload ..)
  unfold beginCycle
  dsimp only
  obtain ⟨u, hu⟩ : ∃ u, u = preload b n (latchSlice b n c s) := ⟨_, rfl⟩
  rw [← hu] at latched ⊢
  have at' : u.run n = some c0 := (congrArg (fun v => (vget v .fresh n).run) latched.2 :).trans busy
  exact ⟨_, (run_updRun_same hn _ u).trans (congrArg _ at'), rfl, rfl, rfl, rfl, (congrArg State.prog latched.1 :), latched.1⟩

/-! ### The remap of an activation boundary -/

/-- What holds through each part of a divergence holds after it. -/
theorem divergence_through {P : State → Prop}
    (aside : ∀ s t : State, { t with fcu := s.fcu, ice := s.ice, fram := s.fram, lanes := s.lanes, twin := s.twin, freeCtr := s.freeCtr } = s → P s → P t)
    (pair : ∀ new s, P s → P (setPState new s)) (safe : ∀ s, P s → P (enterSafe s))
    (what round : Nat) (own peer : Dword) {s : State} (h : P s) : P (divergence what round own peer s) := by
  have twin : ∀ (f : Twin → Twin) u, P u → P (u.updTwin f) := fun f u hu => aside u _ rfl hu
  have noted : ∀ code sev p0 p1 p2 p3 (u : State), P u → P (record code sev 0x31 p0 p1 p2 p3 u) := fun code sev p0 p1 p2 p3 u hu => aside u _ rfl hu
  have raised : ∀ code specific (u : State), P u → P (raiseOpen 0x31 code specific u) := fun code specific u hu =>
    raiseOpen_keeps aside safe (fun k e n v hv => by
      cases Option.some.inj ((show classThreeTarget 0x31 = some .twin from rfl).symm.trans e)
      exact pair .removed v hv) rfl code specific hu
  have again : ∀ u, P u → P (goSilent 1 2 u) := fun u hu => raised _ _ _ (pair _ _ (twin _ _ hu))
  have counted := twin (fun t => { t with hasDiv := true, lastDivMs := s.tb.ms }) _ (twin (fun t => { t with cmpMismatch := satInc 0xFFFFFFFF t.cmpMismatch }) s h)
  unfold divergence
  extract_lets s1 rec' again' s2 s3
  have h3 : P s3 := noted _ _ _ _ _ _ _ (twin _ _ counted)
  split
  · exact raised _ _ _ (noted _ _ _ _ _ _ _ counted)
  · split
    · exact raised _ _ _ (pair _ _ h3)
    · exact again _ h3

/-- The remap is over, and the task still runs. -/
def RemapOver (n : Nat) (t : State) : Prop := t.prog.remapFrom = none ∧ (t.run n).isSome = true

theorem RemapOver.of {n : Nat} {s t : State} (h : RemapOver n s) (prog : t.prog.remapFrom = s.prog.remapFrom) (tasks : t.tasks.t = s.tasks.t) : RemapOver n t :=
  ⟨prog.trans h.1, (congrArg (fun v => (vget v .fresh n).run.isSome) tasks :).trans h.2⟩

theorem RemapOver.setPState {n : Nat} (hn : n < 8) (new : PState) {s : State} (h : RemapOver n s) : RemapOver n (setPState new s) := by
  have frame := setPState_frame new s
  refine ⟨(congrArg (fun u : State => u.prog.remapFrom) frame :).trans h.1, ?_⟩
  rcases run_setPState hn new s with e | e
  · rw [e]
    exact h.2
  · rw [e, Option.isSome_map]
    exact h.2

theorem RemapOver.enterSafe {n : Nat} {s : State} (h : RemapOver n s) : RemapOver n (enterSafe s) :=
  enterSafe_keeps (P := RemapOver n) (fun u v e hu => hu.of (congrArg (fun x : State => x.prog.remapFrom) e :) (congrArg (fun x : State => x.tasks.t) e :))
    (fun u hu => hu.of rfl rfl) h

theorem RemapOver.compareWindow {n : Nat} (hn : n < 8) {s : State} (h : RemapOver n s) : RemapOver n (compareWindow s) := by
  unfold Machine.compareWindow
  split
  · dsimp only
    split
    · exact h
    · split
      · exact divergence_through (P := RemapOver n) (fun u v e hu => hu.of (congrArg (fun x : State => x.prog.remapFrom) e :) (congrArg (fun x : State => x.tasks.t) e :))
          (fun new u hu => hu.setPState hn new) (fun u hu => hu.enterSafe) _ _ _ _ (h.of rfl rfl)
      · exact h.of rfl rfl
  · exact h

theorem remapNow_done {n : Nat} {b : Bank} {s : State} (active : s.prog.active = some b) (due : s.prog.remapFrom ≠ none) (busy : (s.run n).isSome = true) :
    RemapOver n (remapNow s) := by
  obtain ⟨old, hold⟩ := Option.ne_none_iff_exists'.mp due
  unfold remapNow
  rw [hold, active]
  dsimp -zeta only
  extract_lets e s1 s2 s3 s4 s5
  have h1 : RemapOver n s1 := ⟨rfl, busy⟩
  have h2 : RemapOver n s2 := by
    have frame := writeImage_frame (remapBlocks ++ e.blocks) e.mem s1
    exact h1.of (congrArg (fun x : State => x.prog.remapFrom) frame :) (congrArg (fun x : State => x.tasks.t) frame :)
  have h5 : RemapOver n s5 := h2.of rfl rfl
  change RemapOver n (if voteLost 8 s5 then takeLost 8 s5 else sendStsig 8 0 (finishSig e.sig) s5)
  split
  · exact h5.of rfl rfl
  · have frame := sendStsig_frame 8 0 (finishSig e.sig) s5
    exact h5.of (congrArg (fun x : State => x.prog.remapFrom) frame :) (congrArg (fun x : State => x.tasks.t) frame :)

/-! ### Evaluation -/

section
variable {n : TaskId} {b : Bank} {c : Cycle} {s : State} (hr : s.runs = true) (active : s.prog.active = some b) (busy : s.run n.val = some c)
include hr active busy

section
variable (ready : c.agreed = true ∨ c.unagreed = true) (free : mayRun n.val s = true)
include ready free

/-- The evaluation of a task that may run. -/
theorem exec_evaluationStart (fault : Option (LaneId × EvalFault)) : exec (.evaluationStart n fault) s =
    .next (if !c.started && voteLost 1 s then takeLost 1 s
      else if !c.started then evalFault fault (beginCycle b n.val c (remapWindow s))
      else evalFault fault (updRun n.val (fun c => { c with paused := false }) s)) := by
  have run : exec (.evaluationStart n fault) s = execEvaluationStart n fault s := rfl
  have may : (!(c.agreed || c.unagreed) || !mayRun n.val s) = false := by
    rw [free]
    rcases ready with h | h <;> simp [h]
  rw [run, execEvaluationStart, whileRunning, if_pos hr]
  simp only [busy, active, may, Bool.false_eq_true, if_false]

theorem exec_begins (fault : Option (LaneId × EvalFault)) (fresh : c.started = false) (voted : voteLost 1 s = false) :
    exec (.evaluationStart n fault) s = .next (evalFault fault (beginCycle b n.val c (remapWindow s))) :=
  (exec_evaluationStart hr active busy ready free fault).trans (by rw [fresh, voted] <;> rfl)

theorem exec_resumes (fault : Option (LaneId × EvalFault)) (started : c.started = true) :
    exec (.evaluationStart n fault) s = .next (evalFault fault (updRun n.val (fun c => { c with paused := false }) s)) :=
  (exec_evaluationStart hr active busy ready free fault).trans (by rw [started] <;> rfl)

theorem keptBackClause (fresh : c.started = false) (lost : voteLost 1 s = true) : exec (.evaluationStart n none) s = .next (takeLost 1 s) :=
  (exec_evaluationStart hr active busy ready free none).trans (by rw [fresh, lost] <;> rfl)

theorem beginsClause (fresh : c.started = false) (voted : voteLost 1 s = false) (plain : s.prog.remapFrom = none) :
    ∃ t d, exec (.evaluationStart n none) s = .next t ∧ t.run n.val = some d ∧ d.started = true ∧ d.paused = false ∧ d.pc = 0 ∧
        d.yieldAt = c.yieldAt ∧
        State.unmarked { t with mem := s.mem, tasks := s.tasks, floe := s.floe, ice := s.ice } = s.unmarked := by
  obtain ⟨d, at', started, paused, pc, yields, -, kept⟩ := beginCycle_runs b n.isLt c busy
  have window : remapWindow s = s := if_neg (by simp [plain])
  refine ⟨_, d, (exec_begins hr active busy ready free none fresh voted).trans (congrArg Host.Outcome.next ?_), at', started, paused, pc, yields, kept⟩
  rw [evalFault, window]

theorem remapsClause (fresh : c.started = false) (voted : voteLost 1 s = false) (due : s.prog.remapFrom ≠ none) :
    ∃ t d, exec (.evaluationStart n none) s = .next t ∧ t.run n.val = some d ∧ d.started = true ∧ d.pc = 0 ∧
        t.prog.remapFrom = none := by
  have done : RemapOver n.val (remapWindow s) := by
    rw [remapWindow, if_pos (Option.isSome_iff_ne_none.mpr due)]
    exact (remapNow_done active due (by rw [busy]; rfl)).compareWindow n.isLt
  obtain ⟨c0, hc0⟩ := Option.isSome_iff_exists.mp done.2
  obtain ⟨d, at', started, -, pc, -, prog, -⟩ := beginCycle_runs b n.isLt c hc0
  exact ⟨_, d, exec_begins hr active busy ready free none fresh voted, at', started, pc, (congrArg Prog.remapFrom prog).trans done.1⟩

theorem resumesClause (started : c.started = true) :
    ∃ t, exec (.evaluationStart n none) s = .next t ∧ t.run n.val = some { c with paused := false } ∧ { t with tasks := s.tasks } = s :=
  ⟨_, exec_resumes hr active busy ready free none started, (run_updRun_same n.isLt _ s).trans (congrArg _ busy), rfl⟩

theorem evalFaultClause (l : LaneId) (k : EvalFault) (goes : c.started = true ∨ voteLost 1 s = false) :
    ∃ u, exec (.evaluationStart n none) s = .next u ∧
        exec (.evaluationStart n (some (l, k))) s = .next (laneFault l.val (evalFaultCause k) u) := by
  cases started : c.started with
  | true => exact ⟨_, exec_resumes hr active busy ready free none started, exec_resumes hr active busy ready free (some (l, k)) started⟩
  | false =>
    have voted := goes.resolve_left (by simp [started])
    exact ⟨_, exec_begins hr active busy ready free none started voted, exec_begins hr active busy ready free (some (l, k)) started voted⟩

end

theorem yieldClause (off : Nat) (rest : List Nat) (started : c.started = true) (runs : c.paused = false) (next : c.yieldAt = off :: rest) :
    ∃ t d, exec (.taskYield n) s = .next t ∧ t.run n.val = some d ∧ d.paused = true ∧ d.yieldAt = rest ∧ d.pc = off ∧
        t.mem = (runEquations (evalCtx b n.val s) (b.equations n.val) c.pc off { mem := s.mem, sig := c.sig }).mem ∧
        State.unmarked { t with mem := s.mem, tasks := s.tasks } = s.unmarked := by
  obtain ⟨e, he⟩ : ∃ e, e = runEquations (evalCtx b n.val s) (b.equations n.val) c.pc off { mem := s.mem, sig := c.sig } := ⟨_, rfl⟩
  obtain ⟨w, hw⟩ : ∃ w, w = writeImage e.blocks e.mem s := ⟨_, rfl⟩
  have ran : exec (.taskYield n) s = .next ((updRun n.val (fun c => { c with paused := true, yieldAt := rest })
      (updRun n.val (fun c => { c with pc := off, sig := e.sig }) w)).updTasks fun ts => ts.yielded n.val off) := by
    have run : exec (.taskYield n) s = execTaskYield n s := rfl
    rw [run, execTaskYield, whileRunning, if_pos hr]
    simp only [busy, active, next, started, runs, Bool.not_false, Bool.and_self, if_true]
    rw [evaluateTo, hw, he]
  have frame := writeImage_frame e.blocks e.mem s
  have image : w.mem = e.mem := by rw [hw]; rfl
  have marks := writeImage_unmarked e.blocks e.mem s
  rw [← hw] at frame marks
  have at' : (updRun n.val (fun c => { c with pc := off, sig := e.sig }) w).run n.val = some { c with pc := off, sig := e.sig } :=
    (run_updRun_same n.isLt _ w).trans (congrArg _ ((run_of_tasks (congrArg State.tasks frame :) n.val).trans busy))
  exact ⟨_, _, ran, (run_updRun_same n.isLt _ _).trans (congrArg _ at'), rfl, rfl, rfl, image.trans (congrArg Ev.mem he),
    (congrArg (fun v : State => { v with tasks := s.tasks }) marks :)⟩

end

/-- Settles O44: each step of a cycle is its own task's run on what the latch or the evaluation writes. -/
theorem cycleRuns : Obligations.CycleRuns := by
  unfold Obligations.CycleRuns
  exact fun n b c s hr active busy => ⟨copiedClause hr active busy, unvotedClause hr active busy, keptBackClause hr active busy,
    beginsClause hr active busy, remapsClause hr active busy, resumesClause hr active busy,
    fun l k ready free goes => evalFaultClause hr active busy ready free l k goes, yieldClause hr active busy⟩

end Sys2Proof.Proofs
end

section
/-!
SUPPORT. Task ends, deadlines and retentive commits (R17, R85, R88, R89, R120, R138): O45.
-/
namespace Sys2Proof.Proofs
open Sys2Proof.Machine

/-! ### A cycle that is over -/

/-- The task's cycle is over: it has counted, and its sequence number and the image stand. -/
structure CycleOver (n cycles : Nat) (pubSeq : Word) (m : Mem) (t : State) : Prop where
  run    : (t.task n).run = none
  first  : (t.task n).first = false
  newprg : (t.task n).newprg = false
  cycles : (t.task n).cycles = cycles
  pubSeq : (t.task n).pubSeq = pubSeq
  mem    : t.mem = m

section
variable {n cycles : Nat} {q : Word} {m : Mem} {s t : State}

theorem CycleOver.of_task (h : CycleOver n cycles q m s)
    (run : (t.task n).run = none) (first : (t.task n).first = (s.task n).first) (newprg : (t.task n).newprg = (s.task n).newprg)
    (counted : (t.task n).cycles = (s.task n).cycles) (published : (t.task n).pubSeq = (s.task n).pubSeq) (mem : t.mem = s.mem) :
    CycleOver n cycles q m t :=
  ⟨run, first.trans h.first, newprg.trans h.newprg, counted.trans h.cycles, published.trans h.pubSeq, mem.trans h.mem⟩

theorem task_of_tasksT (e : t.tasks.t = s.tasks.t) (n : Nat) : t.task n = s.task n := (congrArg (fun v => vget v .fresh n) e :)

theorem CycleOver.of_tasks (h : CycleOver n cycles q m s) (tasks : t.tasks.t = s.tasks.t) (mem : t.mem = s.mem) : CycleOver n cycles q m t := by
  have same := task_of_tasksT tasks n
  exact h.of_task ((congrArg TaskSt.run same).trans h.run) (congrArg _ same) (congrArg _ same) (congrArg _ same) (congrArg _ same) mem

theorem CycleOver.updTask (hn : n < 8) (h : CycleOver n cycles q m s) (f : TaskSt → TaskSt)
    (keeps : ∀ x, (f x).run = x.run ∧ (f x).first = x.first ∧ (f x).newprg = x.newprg ∧ (f x).cycles = x.cycles ∧ (f x).pubSeq = x.pubSeq) :
    CycleOver n cycles q m (s.updTask n f) := by
  obtain ⟨run, first, newprg, counted, published⟩ := keeps (s.task n)
  have same := task_updTask_same (s := s) hn f
  exact h.of_task ((congrArg TaskSt.run same).trans (run.trans h.run)) ((congrArg TaskSt.first same).trans first)
    ((congrArg TaskSt.newprg same).trans newprg) ((congrArg TaskSt.cycles same).trans counted) ((congrArg TaskSt.pubSeq same).trans published) rfl

/-- A task whose input agreement and comparison have ended. -/
def agreementEnded (x : TaskSt) : TaskSt :=
  { x with ownCmp := none, peerCmp := none, run := x.run.map fun c => { c with agreed := c.agreed || (c.inSig.isSome && !c.unagreed) } }

/-- The end of the input agreement leaves every task's counts. -/
theorem task_setPState (hn : n < 8) (new : PState) (s : State) : (setPState new s).task n = s.task n ∨
    (setPState new s).task n = agreementEnded (s.task n) := by
  have ended : (endAgreement s).task n = agreementEnded (s.task n) := vget_map s.tasks.t agreementEnded .fresh .fresh hn
  unfold setPState
  split
  · exact .inl rfl
  · dsimp only
    split
    · exact .inr ended
    · exact .inl rfl

theorem CycleOver.setPState (hn : n < 8) (h : CycleOver n cycles q m s) (new : PState) : CycleOver n cycles q m (Machine.setPState new s) := by
  have mem : (Machine.setPState new s).mem = s.mem := (congrArg State.mem (setPState_frame new s) :)
  rcases task_setPState hn new s with e | e
  · exact h.of_task ((congrArg TaskSt.run e).trans h.run) (congrArg _ e) (congrArg _ e) (congrArg _ e) (congrArg _ e) mem
  · exact h.of_task ((congrArg TaskSt.run e).trans (by rw [agreementEnded, h.run] <;> rfl)) (congrArg TaskSt.first e :) (congrArg TaskSt.newprg e :) (congrArg TaskSt.cycles e :)
      (congrArg TaskSt.pubSeq e :) mem

theorem CycleOver.enterSafe (h : CycleOver n cycles q m s) : CycleOver n cycles q m (Machine.enterSafe s) :=
  h.of_tasks (congrArg Tasks.t (tasks_enterSafe s)) (mem_of_core (core_enterSafe s))

theorem CycleOver.aside (h : CycleOver n cycles q m s)
    (e : { t with fcu := s.fcu, ice := s.ice, fram := s.fram, lanes := s.lanes, twin := s.twin, freeCtr := s.freeCtr } = s) : CycleOver n cycles q m t :=
  h.of_tasks (congrArg (fun v : State => v.tasks.t) e :) (congrArg State.mem e :)

theorem CycleOver.compareCycle (hn : n < 8) (h : CycleOver n cycles q m s) : CycleOver n cycles q m (Machine.compareCycle n s) := by
  have diverged : ∀ what round own peer u, CycleOver n cycles q m u → CycleOver n cycles q m (divergence what round own peer u) :=
    fun what round own peer u hu => divergence_through (P := CycleOver n cycles q m) (fun _ _ e h => h.aside e) (fun new _ h => h.setPState hn new)
      (fun _ h => h.enterSafe) what round own peer hu
  have cleared := h.updTask hn (fun x => { x with ownCmp := none, peerCmp := none }) fun _ => ⟨rfl, rfl, rfl, rfl, rfl⟩
  unfold Machine.compareCycle
  split
  · split
    · exact h
    · dsimp only
      split
      · split
        · exact cleared
        · split
          · exact diverged _ _ _ _ _ cleared
          · exact diverged _ _ _ _ _ cleared
      · unfold shadowCycle
        extract_lets differs x inDiff s1
        have h1 : CycleOver n cycles q m s1 := cleared.of_tasks rfl rfl
        split
        · exact (h1.updTask hn (fun x => { x with shadowDiff := true }) fun _ => ⟨rfl, rfl, rfl, rfl, rfl⟩).of_tasks rfl rfl
        · exact h1
      · exact cleared
  · exact h

theorem CycleOver.sendTwcmp (hn : n < 8) (h : CycleOver n cycles q m s) (c : Cycle) (out ev : Dword) : CycleOver n cycles q m (Machine.sendTwcmp n c out ev s) := by
  unfold Machine.sendTwcmp
  extract_lets x s1 s2
  have h1 : CycleOver n cycles q m s1 := h.updTask hn _ fun _ => ⟨rfl, rfl, rfl, rfl, rfl⟩
  have h2 : CycleOver n cycles q m s2 := by
    dsimp only [s2]
    split
    · exact h1.of_tasks rfl rfl
    · split
      · have frame := sendMsg_frame 0x12 2 (wordsBytes [flag 31 c.overrun ||| at32 0 n, BitVec.ofNat 32 c.relRound] ++ dwordBytes out ++
          dwordBytes ev ++ wordsBytes [x.pubSeq, 0]) s1
        exact h1.of_tasks (congrArg (fun v : State => v.tasks.t) frame :) (congrArg State.mem frame :)
      · exact h1
  exact h2.compareCycle hn

theorem CycleOver.copyAtEnd (h : CycleOver n cycles q m s) (t : Nat) (counts sup : Bool) : CycleOver n cycles q m (Machine.copyAtEnd t counts sup s) := by
  unfold Machine.copyAtEnd
  have copies := finishImages_copies (fun w => !taskOn w.task s || (w.task == t && counts)) (fun w => !taskOn w.task s || sup) s
  unfold sameButCopies at copies
  exact h.of_tasks (congrArg (fun v : State => v.tasks.t) copies :) (congrArg State.mem copies :)

theorem CycleOver.reportActivation (h : CycleOver n cycles q m s) : CycleOver n cycles q m (Machine.reportActivation s) := by
  unfold Machine.reportActivation
  split
  · next c round time _ =>
    have frame := complete_frame c.1 0x0403 c.2 (activationOk round time) (s.updProg fun p => { p with report := none })
    exact h.of_tasks (congrArg (fun v : State => v.tasks.t) frame :) (congrArg State.mem frame :)
  · exact h

theorem CycleOver.commitCycle (h : CycleOver n cycles q m s) (t : Nat) : CycleOver n cycles q m (Machine.commitCycle t s) := by
  unfold Machine.commitCycle
  extract_lets js s1
  have h1 : CycleOver n cycles q m s1 := h.of_tasks rfl rfl
  split
  · exact raiseNoAgree_keeps (P := CycleOver n cycles q m) (fun _ _ e h => h.aside e) (fun _ h => h.enterSafe) h1
  · exact h1

end

/-! ### Publication -/

/-- A cycle that publishes (R85). -/
def publishes (n : Nat) (c : Cycle) (s : State) : Bool :=
  !c.overrun && !(suppressed s && !beforeSplit c s) && !(voteLost 2 s || voteLost 3 s) && !lockStands 3 n s && decide (s.eff = .service ∨ s.eff = .startup)

theorem setCommands_frame (xs : List (Nat × Bool)) (s : State) : { xs.foldl (fun s x => setCommand x.1 x.2 s) s with io := s.io } = s :=
  foldl_keeps (f := fun s (x : Nat × Bool) => setCommand x.1 x.2 s) (P := fun u : State => { u with io := s.io } = s) (fun u x hu => hu) xs rfl

theorem publish_task (b : Bank) {n : Nat} (hn : n < 8) (c : Cycle) (stop : Nat) (s : State) :
    ((publish b n c stop s).task n).cycles = (s.task n).cycles ∧ ((publish b n c stop s).task n).pubSeq = (s.task n).pubSeq + 1 ∧ (publish b n c stop s).mem = s.mem := by
  obtain ⟨u, hu⟩ : ∃ u, u = s.updXsram (storeFrames b n (outputFrames b n c s)) := ⟨_, rfl⟩
  obtain ⟨v, hv⟩ : ∃ v, v = (outputCommands b n s.mem).foldl (fun s x => setCommand x.1 x.2 s) u := ⟨_, rfl⟩
  obtain ⟨w, hw⟩ : ∃ w, w = settleOutputs v := ⟨_, rfl⟩
  have kept := setCommands_frame (outputCommands b n s.mem) u
  have settled := settleOutputs_frame v
  rw [← hv] at kept
  rw [← hw] at settled
  have tasks : w.tasks = s.tasks := (congrArg State.tasks settled :).trans ((congrArg State.tasks kept :).trans (by rw [hu] <;> rfl))
  have mem : w.mem = s.mem := (congrArg State.mem settled :).trans ((congrArg State.mem kept :).trans (by rw [hu] <;> rfl))
  have same := task_of_tasksT (congrArg Tasks.t tasks) n
  unfold publish
  dsimp only
  rw [← hu, ← hv, ← hw]
  have own := task_updTask_same (s := w) hn fun x => { x with pubSeq := x.pubSeq + 1, pubs := (x.pubs.filter fun p => decide (w.floe.round ≤ p.round)) ++ [{ round := publishRound w.floe.live stop, rel := c.relRound, agreed := c.agreed, frames := (outputFrames b n c s).map fun f => (f.2.1.frameId, f.2.2) }] }
  exact ⟨(congrArg TaskSt.cycles own :).trans (congrArg TaskSt.cycles same :), (congrArg TaskSt.pubSeq own :).trans (congrArg (fun x => x.pubSeq + 1) same :), mem⟩

/-- The end of a cycle counts it; it publishes or not. -/
theorem closeCycle_over (b : Bank) {n : Nat} (hn : n < 8) (c : Cycle) (stop : Nat) (s : State) :
    CycleOver n (satInc 0xFFFFFFFF (s.task n).cycles) (if publishes n c s then (s.task n).pubSeq + 1 else (s.task n).pubSeq) s.mem (closeCycle b n c stop s) := by
  have publishing : ∀ u : State, u.tasks = s.tasks → u.mem = s.mem → ∀ p : Bool,
      let v := if p then publish b n c stop u else if u.twin.ps = .shadow ∧ !c.overrun then u.updXsram (shadowSeqs b n) else u
      (v.task n).cycles = (s.task n).cycles ∧ (v.task n).pubSeq = (if p then (s.task n).pubSeq + 1 else (s.task n).pubSeq) ∧ v.mem = s.mem := by
    intro u tasks mem p
    have same := task_of_tasksT (congrArg Tasks.t tasks) n
    cases p with
    | true =>
      obtain ⟨counted, published, image⟩ := publish_task b hn c stop u
      exact ⟨counted.trans (congrArg TaskSt.cycles same), published.trans (congrArg (fun x => x.pubSeq + 1) same), image.trans mem⟩
    | false =>
      dsimp only
      rw [if_neg Bool.false_ne_true, if_neg Bool.false_ne_true]
      split
      · exact ⟨congrArg TaskSt.cycles same, congrArg TaskSt.pubSeq same, mem⟩
      · exact ⟨congrArg TaskSt.cycles same, congrArg TaskSt.pubSeq same, mem⟩
  unfold closeCycle
  extract_lets ev rel out us lost s1 sup pub s2 s3 s4 s5 s6
  have decided : pub = publishes n c s := rfl
  obtain ⟨counted, published, image⟩ := publishing s1 rfl rfl pub
  have h3 : CycleOver n (satInc 0xFFFFFFFF (s.task n).cycles) (if publishes n c s then (s.task n).pubSeq + 1 else (s.task n).pubSeq) s.mem s3 := by
    have own := task_updTask_same (s := s2) hn fun x => { x with cycles := satInc 0xFFFFFFFF x.cycles, maxEndUs := max x.maxEndUs us, run := none, first := false, warm := false, newprg := false, prevOver := c.overrun, prevInSig := c.inSig.getD 0, prevEval := ev }
    rw [← decided]
    exact ⟨(congrArg TaskSt.run own :), (congrArg TaskSt.first own :), (congrArg TaskSt.newprg own :),
      (congrArg TaskSt.cycles own :).trans (congrArg (satInc 0xFFFFFFFF) counted), (congrArg TaskSt.pubSeq own :).trans published, image⟩
  have h4 : CycleOver n (satInc 0xFFFFFFFF (s.task n).cycles) (if publishes n c s then (s.task n).pubSeq + 1 else (s.task n).pubSeq) s.mem s4 := by
    have ended : (s3.tasks.ended n).t = s3.tasks.t := by
      unfold Tasks.ended
      split
      · rfl
      · split <;> rfl
    have frame := touchBlocks_frame (if pub then 0 :: publicationBlocks b n s3 else [0]) (s3.updTasks fun ts => ts.ended n)
    exact h3.of_tasks ((congrArg (fun v : State => v.tasks.t) frame :).trans ended) (congrArg State.mem frame :)
  have h5 : CycleOver n (satInc 0xFFFFFFFF (s.task n).cycles) (if publishes n c s then (s.task n).pubSeq + 1 else (s.task n).pubSeq) s.mem s5 :=
    (h4.copyAtEnd n (pub || sup) sup).reportActivation
  have h6 : CycleOver n (satInc 0xFFFFFFFF (s.task n).cycles) (if publishes n c s then (s.task n).pubSeq + 1 else (s.task n).pubSeq) s.mem s6 := h5.commitCycle n
  clear_value s6
  by_cases safe : s6.eff = .safe
  · rw [if_pos safe]
    exact h6.updTask hn (fun x => { x with ownCmp := none }) fun _ => ⟨rfl, rfl, rfl, rfl, rfl⟩
  · rw [if_neg safe]
    exact h6.sendTwcmp hn c out ev

/-! ### Task ends -/

/-- A late cycle is marked, and the rest of its task stands but for the stop and the count of overruns. -/
theorem overrunCycle_counts {n : Nat} (hn : n < 8) (literal : Nat) {c : Cycle} {s : State} (busy : s.run n = some c) (fresh : c.overrun = false) :
    (overrunCycle n literal s).run n = some { c with overrun := true } ∧
      ((overrunCycle n literal s).task n).overruns = satInc 0xFFFFFFFF (s.task n).overruns ∧ (overrunCycle n literal s).mem = s.mem ∧
      ((overrunCycle n literal s).task n).cfg = (s.task n).cfg ∧ ((overrunCycle n literal s).task n).first = (s.task n).first ∧
      ((overrunCycle n literal s).task n).newprg = (s.task n).newprg ∧ ((overrunCycle n literal s).task n).warm = (s.task n).warm ∧
      ((overrunCycle n literal s).task n).cycles = (s.task n).cycles ∧ ((overrunCycle n literal s).task n).pubSeq = (s.task n).pubSeq := by
  obtain ⟨u, hu⟩ : ∃ u, u = updRun n (fun c => { c with overrun := true }) s := ⟨_, rfl⟩
  have eq : overrunCycle n literal s = raiseOverrun n literal c.relRound (s.task n).prevOver u := by
    unfold overrunCycle
    rw [busy, hu]
    exact if_neg (by simp [fresh])
  have marked : u.task n = { s.task n with run := (s.task n).run.map fun c => { c with overrun := true } } := by
    rw [hu]
    exact task_updTask_same hn _
  have run : u.run n = some { c with overrun := true } := (congrArg TaskSt.run marked :).trans (congrArg (Option.map fun c : Cycle => { c with overrun := true }) busy :)
  have mem : u.mem = s.mem := by rw [hu] <;> rfl
  have counted := task_updTask_same (s := u) hn fun x => { x with overruns := satInc 0xFFFFFFFF x.overruns }
  have kept := raiseOverrun_kept hn literal c.relRound (s.task n).prevOver u
  obtain ⟨counts, same, image⟩ := raiseOverrun_counts hn literal c.relRound (s.task n).prevOver u
  rw [eq]
  obtain ⟨record, -⟩ := kept
  rw [counted] at record
  refine ⟨same.trans run, counts.trans (congrArg (fun x => satInc 0xFFFFFFFF x.overruns) marked :), image.trans mem, ?_, ?_, ?_, ?_, ?_, ?_⟩
  · exact (congrArg TaskSt.cfg record :).trans (congrArg TaskSt.cfg marked :)
  · exact (congrArg TaskSt.first record :).trans (congrArg TaskSt.first marked :)
  · exact (congrArg TaskSt.newprg record :).trans (congrArg TaskSt.newprg marked :)
  · exact (congrArg TaskSt.warm record :).trans (congrArg TaskSt.warm marked :)
  · exact (congrArg TaskSt.cycles record :).trans (congrArg TaskSt.cycles marked :)
  · exact (congrArg TaskSt.pubSeq record :).trans (congrArg TaskSt.pubSeq marked :)

/-- The state in which a cycle's end is evaluated: it has overrun if it ends late. -/
def endState (b : Bank) (n : Nat) (c : Cycle) (stop : Nat) (s : State) : State :=
  if deadlineNs n c s < stop then overrunCycle n (openOffset b n c s).1 (openOffset b n c s).2 else s

/-- What the evaluation of a cycle's end begins with. -/
structure EndBegins (n : Nat) (c : Cycle) (s u : State) : Prop where
  run    : u.run n = some c
  ctx    : ∀ b, evalCtx b n u = evalCtx b n s
  cycles : (u.task n).cycles = (s.task n).cycles
  pubSeq : (u.task n).pubSeq = (s.task n).pubSeq
  mem    : u.mem = s.mem

theorem endState_begins (b : Bank) {n : Nat} (hn : n < 8) {c : Cycle} (stop : Nat) {s : State} (busy : s.run n = some c) :
    ∃ o, EndBegins n { c with overrun := o } s (endState b n c stop s) ∧ (deadlineNs n c s < stop → o = true) ∧
      (stop ≤ deadlineNs n c s → o = c.overrun ∧ endState b n c stop s = s) := by
  by_cases late : deadlineNs n c s < stop
  · have busy' : (drawFree s).2.run n = some c := busy
    have eq : endState b n c stop s = overrunCycle n (openOffset b n c s).1 (drawFree s).2 := if_pos late
    rw [eq]
    cases marked : c.overrun with
    | true =>
      have same : overrunCycle n (openOffset b n c s).1 (drawFree s).2 = (drawFree s).2 := by
        unfold overrunCycle
        rw [busy']
        exact if_pos marked
      rw [same]
      refine ⟨true, ⟨?_, fun _ => rfl, rfl, rfl, rfl⟩, fun _ => rfl, fun h => absurd h (by omega)⟩
      rw [busy', ← marked]
    | false =>
      obtain ⟨run, -, mem, cfg, first, newprg, warm, counted, published⟩ := overrunCycle_counts hn (openOffset b n c s).1 busy' marked
      refine ⟨true, ⟨run, fun k => ?_, counted, published, mem⟩, fun _ => rfl, fun h => absurd h (by omega)⟩
      simp only [evalCtx, cfg, first, newprg, warm]
      rfl
  · have eq : endState b n c stop s = s := if_neg late
    rw [eq]
    exact ⟨c.overrun, ⟨busy, fun _ => rfl, rfl, rfl, rfl⟩, fun h => absurd h late, fun _ => ⟨rfl, rfl⟩⟩

/-- What the evaluation of an end leaves. -/
theorem evaluateTo_ends (b : Bank) {n : Nat} (hn : n < 8) (c c0 : Cycle) (stop : Nat) {u : State} (busy : u.run n = some c0) :
    (∃ sig, (evaluateTo b n c stop u).run n = some { c0 with pc := stop, sig := sig }) ∧
      (evaluateTo b n c stop u).mem = (runEquations (evalCtx b n u) (b.equations n) c.pc stop { mem := u.mem, sig := c.sig }).mem ∧
      ((evaluateTo b n c stop u).task n).cycles = (u.task n).cycles ∧ ((evaluateTo b n c stop u).task n).pubSeq = (u.task n).pubSeq ∧
      ∀ d, publishes n d (evaluateTo b n c stop u) = publishes n d u := by
  unfold evaluateTo
  dsimp only
  obtain ⟨e, he⟩ : ∃ e, e = runEquations (evalCtx b n u) (b.equations n) c.pc stop { mem := u.mem, sig := c.sig } := ⟨_, rfl⟩
  obtain ⟨w, hw⟩ : ∃ w, w = writeImage e.blocks e.mem u := ⟨_, rfl⟩
  have frame := writeImage_frame e.blocks e.mem u
  have marks := writeImage_unmarked e.blocks e.mem u
  have image : w.mem = e.mem := by rw [hw]; rfl
  rw [← he, ← hw]
  rw [← hw] at frame marks
  have tasks : w.tasks = u.tasks := (congrArg State.tasks frame :)
  have same := task_of_tasksT (congrArg Tasks.t tasks) n
  have own := task_updTask_same (s := w) hn fun x => { x with run := x.run.map fun c => { c with pc := stop, sig := e.sig } }
  have view : ∀ d, publishes n d w = publishes n d u := fun d => (congrArg (publishes n d) marks :)
  exact ⟨⟨e.sig, (run_updRun_same hn _ w).trans (congrArg _ ((congrArg TaskSt.run same).trans busy))⟩, image.trans rfl,
    (congrArg TaskSt.cycles own :).trans (congrArg TaskSt.cycles same :), (congrArg TaskSt.pubSeq own :).trans (congrArg TaskSt.pubSeq same :), view⟩

/-- The end of a cycle: counted, published where nothing keeps it back, and the image as the rest of the segment leaves it. -/
theorem finishCycle_over (b : Bank) {n : Nat} (hn : n < 8) {c : Cycle} (stop : Nat) {s : State} (busy : s.run n = some c) :
    ∃ p, CycleOver n (satInc 0xFFFFFFFF (s.task n).cycles) (if p then (s.task n).pubSeq + 1 else (s.task n).pubSeq)
        (runEquations (evalCtx b n s) (b.equations n) c.pc (b.taskLen n) { mem := s.mem, sig := c.sig }).mem (finishCycle b n c stop s) ∧
      (stop ≤ deadlineNs n c s → p = publishes n c s) ∧ (deadlineNs n c s < stop → p = false) := by
  obtain ⟨o, begins, late, inTime⟩ := endState_begins b hn stop busy
  obtain ⟨u, hu⟩ : ∃ u, u = endState b n c stop s := ⟨_, rfl⟩
  rw [← hu] at begins inTime
  obtain ⟨⟨sig, run⟩, mem, counted, published, view⟩ := evaluateTo_ends b hn c { c with overrun := o } (b.taskLen n) begins.run
  obtain ⟨w, hw⟩ : ∃ w, w = evaluateTo b n c (b.taskLen n) u := ⟨_, rfl⟩
  have eq : finishCycle b n c stop s = closeCycle b n { c with overrun := o, pc := b.taskLen n, sig := sig } stop w := by
    obtain ⟨x, hx⟩ : ∃ x, x = openOffset b n c s := ⟨_, rfl⟩
    rw [endState, ← hx] at hu
    unfold finishCycle
    rw [← hx]
    obtain ⟨off, v⟩ := x
    dsimp only at hu ⊢
    rw [← hu, run, ← hw]
  rw [← hw] at mem counted published view
  have closed := closeCycle_over b hn { c with overrun := o, pc := b.taskLen n, sig := sig } stop w
  rw [eq]
  refine ⟨publishes n { c with overrun := o, pc := b.taskLen n, sig := sig } w, ?_, fun h => ?_, fun h => ?_⟩
  · rw [counted, published, mem, begins.cycles, begins.pubSeq, begins.mem, begins.ctx] at closed
    exact closed
  · obtain ⟨same, rest⟩ := inTime h
    rw [view, rest]
    subst same
    rfl
  · rw [publishes, late h]
    rfl

section
variable {n : TaskId} {b : Bank} {c : Cycle} {s : State} (hr : s.runs = true) (active : s.prog.active = some b) (busy : s.run n.val = some c)
include hr

section
include active busy

theorem exec_taskEnd (stop : Dword) (backlog : Option LaneId) (started : c.started = true) (runs : c.paused = false) (last : c.yieldAt = []) :
    exec (.taskEnd n stop backlog) s = .next (laneFaultIn 0x14 backlog (finishCycle b n.val c stop.toNat s)) := by
  have run : exec (.taskEnd n stop backlog) s = execTaskEnd n stop backlog s := rfl
  rw [run, execTaskEnd, whileRunning, if_pos hr]
  simp only [busy, active, started, runs, last, Bool.not_false, Bool.and_self, List.isEmpty_nil, if_true]

theorem taskEndClause (stop : Dword) (started : c.started = true) (runs : c.paused = false) (last : c.yieldAt = []) :
    ∃ t, exec (.taskEnd n stop none) s = .next t ∧ t.run n.val = none ∧ (t.task n.val).first = false ∧
        (t.task n.val).newprg = false ∧ (t.task n.val).cycles = satInc 0xFFFFFFFF (s.task n.val).cycles ∧
        t.mem = (runEquations (evalCtx b n.val s) (b.equations n.val) c.pc (b.taskLen n.val)
          { mem := s.mem, sig := c.sig }).mem ∧
        (stop.toNat ≤ deadlineNs n.val c s → c.overrun = false → suppressed s = false →
          voteLost 2 s = false → voteLost 3 s = false → lockStands 3 n.val s = false →
          s.eff = .service ∨ s.eff = .startup → (t.task n.val).pubSeq = (s.task n.val).pubSeq + 1) ∧
        (voteLost 2 s = true ∨ voteLost 3 s = true ∨ lockStands 3 n.val s = true ∨ c.overrun = true →
          (t.task n.val).pubSeq = (s.task n.val).pubSeq) ∧
        ∀ l, exec (.taskEnd n stop (some l)) s = .next (laneFault l.val 0x14 t) := by
  obtain ⟨p, ended, inTime, late⟩ := finishCycle_over b n.isLt stop.toNat busy
  refine ⟨_, exec_taskEnd hr active busy stop none started runs last, ended.run, ended.first, ended.newprg, ended.cycles, ended.mem,
    fun time fresh lead out ev free state => ?_, fun kept => ?_, fun l => exec_taskEnd hr active busy stop (some l) started runs last⟩
  · have pub : p = true := by
      rw [inTime time, publishes, fresh, lead, out, ev, free, decide_eq_true state] <;> rfl
    exact ended.pubSeq.trans (if_pos pub)
  · have held : p = false := by
      rcases Nat.lt_or_ge (deadlineNs n.val c s) stop.toNat with over' | time
      · exact late over'
      · rw [inTime time, publishes]
        rcases kept with h | h | h | h <;> simp [h]
    exact ended.pubSeq.trans (if_neg (by simp [held]))

end

section
include busy

theorem deadlineClause (literal : Word) (fresh : c.overrun = false) :
    ∃ t, exec (.deadlineInstant n literal) s = .next t ∧ (t.run n.val).map Cycle.overrun = some true ∧
        (t.task n.val).overruns = satInc 0xFFFFFFFF (s.task n.val).overruns ∧ t.mem = s.mem := by
  obtain ⟨run, counts, mem, -⟩ := overrunCycle_counts n.isLt literal.toNat busy fresh
  refine ⟨_, congrArg Host.Outcome.next (if_pos hr), ?_, counts, mem⟩
  rw [run] <;> rfl

theorem deadlinePassedClause (literal : Word) (marked : c.overrun = true) : exec (.deadlineInstant n literal) s = .next s := by
  have same : overrunCycle n.val literal.toNat s = s := by
    unfold overrunCycle
    rw [busy]
    exact if_pos marked
  exact congrArg Host.Outcome.next ((if_pos hr).trans same)

end

/-! ### Retentive commits -/

theorem exec_framCommitComplete (failed : Option LaneId) (waits : s.fram.waiting ≠ []) : exec (.framCommitComplete failed) s =
    .next (laneFaultIn 0x15 failed (countRetries (fun l => { l with framRetry := min 0xFFFF (l.framRetry + 3) }) failed
      (writeFramBlocks (commitBlocks s.fram) commitOne s))) :=
  congrArg Host.Outcome.next ((if_pos hr).trans (if_neg (by simp [waits])))

theorem framClause (j : Journal) (rest : List Journal) (waits : s.fram.waiting = j :: rest) :
    ∃ t, exec (.framCommitComplete none) s = .next t ∧ t.fram.waiting = rest ∧
      (j.cont = true → t.fram.home = s.fram.home ∧ t.fram.partialSet = s.fram.partialSet ++ [j] ∧
        t.fram.commitSeq = s.fram.commitSeq) ∧
      (j.cont = false → t.fram.home = (s.fram.partialSet ++ [j]).foldl applyJournal s.fram.home ∧
        t.fram.partialSet = [] ∧ t.fram.commitSeq = j.seq) ∧
      State.unmarked { t with fram := s.fram } = s.unmarked ∧
      ∀ l, exec (.framCommitComplete (some l)) s = .next (laneFault l.val 0x15
        (t.updLane l.val fun x => { x with framRetry := min 0xFFFF (x.framRetry + 3) })) := by
  have some' : s.fram.waiting ≠ [] := by simp [waits]
  have marks := writeFramBlocks_unmarked (commitBlocks s.fram) commitOne s
  obtain ⟨t, ht⟩ : ∃ t, t = writeFramBlocks (commitBlocks s.fram) commitOne s := ⟨_, rfl⟩
  have fram : t.fram = commitOne s.fram := by
    have touched := touchBlocks_frame (commitBlocks s.fram) s
    rw [ht]
    exact congrArg commitOne (congrArg State.fram touched :)
  have ran := fun failed => exec_framCommitComplete hr failed some'
  simp only [← ht] at ran marks
  refine ⟨t, ran none, ?_, fun more => ?_, fun whole => ?_, marks, fun l => ran (some l)⟩
  · rw [fram, commitOne, waits]
    dsimp only
    split <;> rfl
  · rw [fram, commitOne, waits]
    simp only [more, if_true, and_self]
  · rw [fram, commitOne, waits]
    simp only [whole, Bool.false_eq_true, if_false, and_self]

end

/-- Settles O45: the end of a cycle closes it on what the overrun and the evaluation have left, and a commit is the head of the queue. -/
theorem cyclesEndAndCommit : Obligations.CyclesEndAndCommit := by
  unfold Obligations.CyclesEndAndCommit
  exact ⟨fun n b c s hr active busy => ⟨taskEndClause hr active busy, deadlineClause hr busy, deadlinePassedClause hr busy⟩,
    fun j rest s hr waits => framClause hr j rest waits⟩

end Sys2Proof.Proofs
end

section
/-!
SUPPORT. Frames and clock correction of a module in SYNC (R192, R199, R206 to R211, R217, R220, R226): O46.
-/
namespace Sys2Proof.Proofs
open Sys2Proof.Machine

/-! ### Frames sent -/

theorem sourceListed_chan (c : Chan) : sourceListed (chanSource c) = true := by cases c <;> rfl

theorem chanSource_high (c : Chan) : 8 ≤ chanSource c := by cases c <;> decide

/-- A channel's fault of class 1 leaves Floe's record. -/
theorem raiseChan_floe (c : Chan) (s : State) : (raiseOpen (chanSource c) 1 none s).floe = s.floe :=
  raiseOpen_low (P := fun t => t.floe = s.floe) (chanSource_high c) (fun u v e _ hu => (congrArg State.floe e :).trans hu) (sourceListed_chan c) none rfl

theorem sent_updChan (c : Chan) (f : FloeChan → FloeChan) (s : State) :
    (s.updChan c f).floe.sent = s.floe.sent ∧ (s.updChan c f).floe.nodeSeq = s.floe.nodeSeq := by
  cases c <;> exact ⟨rfl, rfl⟩

/-- A payload on the wire is noted as it left, and where the guardian does not cut it nothing but Floe's record changes. -/
theorem putOnWire_sent (num : Nat) (p : List Byte) (s : State) (t : Tx) :
    (putOnWire num p s t).floe.sent = s.floe.sent ++ [(num, t.ch, (t.wire (ethFrame 0x03464C000000 (nodeAddress (frSrc p)) 0x88B5 p)).1, (t.wire (ethFrame 0x03464C000000 (nodeAddress (frSrc p)) 0x88B5 p)).2)] ∧
      (putOnWire num p s t).floe.nodeSeq = s.floe.nodeSeq ∧
      (t.isCut (ethFrame 0x03464C000000 (nodeAddress (frSrc p)) 0x88B5 p) = false → { putOnWire num p s t with floe := s.floe } = s) := by
  obtain ⟨frame, hf⟩ : ∃ f, f = ethFrame 0x03464C000000 (nodeAddress (frSrc p)) 0x88B5 p := ⟨_, rfl⟩
  obtain ⟨u, hu⟩ : ∃ u : State, u = s.updFloe fun f => { f with sent := f.sent ++ [(num, t.ch, (t.wire frame).1, (t.wire frame).2)] } := ⟨_, rfl⟩
  have noted : u.floe.sent = s.floe.sent ++ [(num, t.ch, (t.wire frame).1, (t.wire frame).2)] ∧ u.floe.nodeSeq = s.floe.nodeSeq ∧ { u with floe := s.floe } = s := by
    rw [hu]
    exact ⟨rfl, rfl, rfl⟩
  obtain ⟨sent, seq, rest⟩ := noted
  unfold putOnWire
  rw [← hf]
  dsimp only
  rw [← hu]
  have counted := sent_updChan t.ch (fun x => { x with txFrames := satInc 0xFFFFFFFF x.txFrames }) u
  split
  · next cut =>
    have marked := sent_updChan t.ch (fun x => { x with guardCut := satInc 0xFFFF x.guardCut }) (countTx t.ch u)
    have kept := raiseChan_floe t.ch ((countTx t.ch u).updChan t.ch fun x => { x with guardCut := satInc 0xFFFF x.guardCut })
    unfold guardCut
    rw [kept]
    exact ⟨marked.1.trans (counted.1.trans sent), marked.2.trans (counted.2.trans seq), fun h => absurd cut (by simp [h])⟩
  · exact ⟨counted.1.trans sent, counted.2.trans seq, fun _ => rest⟩

theorem putOnWires_sent (num : Nat) (p : List Byte) (on : List Tx) (s : State) :
    (on.foldl (putOnWire num p) s).floe.sent = s.floe.sent ++ on.map (fun t => (num, t.ch, (t.wire (ethFrame 0x03464C000000 (nodeAddress (frSrc p)) 0x88B5 p)).1, (t.wire (ethFrame 0x03464C000000 (nodeAddress (frSrc p)) 0x88B5 p)).2)) ∧
      (on.foldl (putOnWire num p) s).floe.nodeSeq = s.floe.nodeSeq ∧
      ((∀ t ∈ on, t.isCut (ethFrame 0x03464C000000 (nodeAddress (frSrc p)) 0x88B5 p) = false) → { on.foldl (putOnWire num p) s with floe := s.floe } = s) := by
  induction on generalizing s with
  | nil => exact ⟨(List.append_nil _).symm, rfl, fun _ => rfl⟩
  | cons t on ih =>
    obtain ⟨sent, seq, whole⟩ := putOnWire_sent num p s t
    obtain ⟨sent', seq', whole'⟩ := ih (putOnWire num p s t)
    refine ⟨sent'.trans (by rw [sent, List.append_assoc] <;> rfl), seq'.trans seq, fun h => ?_⟩
    exact (congrArg (fun u : State => { u with floe := s.floe }) (whole' fun t ht => h t (List.mem_cons_of_mem _ ht)) :).trans (whole (h t List.mem_cons_self))

theorem transmitClause {s : State} (hr : s.runs = true) (sync : s.floe.fstate = .sync) (k : Nat) (x : Slot) (p : List Byte) (la lb : Int) (pa pb : Bool)
    (free : s.floe.mute = false) (slot : s.slots[k]? = some x) (own : x.owner = floeNode s.floe.live) (kind : x.kind = .status)
    (state : fullStatus s = true ∨ s.eff = .safe) (sends : (sendsOn x .a s || sendsOn x .b s) = true)
    (built : nodeFrame 3 (s.roundStartNs + x.start) s.floe.keyCur (statusBody s) s = some p) :
    let f := ethFrame 0x03464C000000 (nodeAddress (frSrc p)) 0x88B5 p
    let on := [Tx.mk .a la pa (some (windowClose x)), Tx.mk .b lb pb (some (windowClose x))].filter fun w => sendsOn x w.ch s
    ∃ t, exec (.frameTransmit k la lb pa pb) s = .next t ∧
      t.floe.sent = s.floe.sent ++ on.map (fun w => (x.num, w.ch, (w.wire f).1, (w.wire f).2)) ∧
      t.floe.nodeSeq = s.floe.nodeSeq + 1 ∧ ((∀ w ∈ on, w.isCut f = false) → { t with floe := s.floe } = s) := by
  intro f on
  have some' : on ≠ [] := by
    intro none'
    have gone := List.filter_eq_nil_iff.mp none'
    rw [Bool.or_eq_true] at sends
    rcases sends with h | h
    · exact gone (Tx.mk .a la pa (some (windowClose x))) (by simp) h
    · exact gone (Tx.mk .b lb pb (some (windowClose x))) (by simp) h
  have payload : slotPayload x s = some (some p, advanceSeq) := by
    unfold slotPayload
    rw [kind]
    dsimp only
    rw [if_pos state, built]
  have ran : exec (.frameTransmit k la lb pa pb) s = .next (on.foldl (putOnWire x.num p) (advanceSeq s)) := by
    have run : exec (.frameTransmit k la lb pa pb) s = execFrameTransmit k la lb s pa pb := rfl
    rw [run, execFrameTransmit, if_neg (by simp [hr, sync, free]), slot]
    dsimp only
    rw [if_pos own, sendSlot]
    change Host.Outcome.next (match on with
      | [] => s
      | on => match slotPayload x s with
        | none => s
        | some (none, _) => keyMissing s
        | some (some p, after) => on.foldl (putOnWire x.num p) (after s)) = _
    clear_value on
    cases on with
    | nil => exact absurd rfl some'
    | cons w ws =>
      dsimp only
      rw [payload]
  obtain ⟨sent, seq, whole⟩ := putOnWires_sent x.num p on (advanceSeq s)
  exact ⟨_, ran, sent, seq, fun h => (congrArg (fun u : State => { u with floe := s.floe }) (whole h) :)⟩

/-! ### Frames received -/

theorem find_put_same {α : Type} (t : Tbl α) (k : Nat) (v : α) : Tbl.find (Tbl.put t k v) k = some v := by
  induction t with
  | nil => simp [Tbl.put, Tbl.find]
  | cons e t ih =>
    obtain ⟨j, w⟩ := e
    unfold Tbl.put
    split
    · simp [Tbl.find]
    · split
      · simp [Tbl.find]
      · next ne =>
        rw [Tbl.find, if_neg (Ne.symm ne)]
        exact ih

theorem countSync_floe (ch : Chan) (x : Slot) (dev : Int) (ftype : Nat) (p : List Byte) (s : State) :
    (countSync ch x dev ftype p s).floe.rx = s.floe.rx ∧ { countSync ch x dev ftype p s with floe := s.floe } = s := by
  unfold countSync
  split
  · cases ch <;> exact ⟨rfl, rfl⟩
  · exact ⟨rfl, rfl⟩

theorem dataArrived_stores (ch : Chan) (x : Slot) (dev : Int) (p : List Byte) (s : State) :
    Tbl.find (dataArrived ch x dev p s).floe.rx (0x10000 + frId p) = some (rxStep ch p (Tbl.find s.floe.rx (0x10000 + frId p))) ∧
      { dataArrived ch x dev p s with floe := s.floe } = s := by
  obtain ⟨rx, rest⟩ := countSync_floe ch x dev 4 p s
  refine ⟨(find_put_same _ _ _).trans ?_, rest⟩
  exact congrArg some (congrArg (rxStep ch p) (congrArg (fun t => Tbl.find t (0x10000 + frId p)) rx))

section
variable {s : State} (hr : s.runs = true) (sync : s.floe.fstate = .sync)
include hr sync

theorem exec_frameReceive {ch : Chan} (arrival : Dword) (fcs : Bool) (f : List Byte) (fate : RingFate) (passes : chanPasses ch s = true)
    (open' : crossingsOpen ch s = true) : exec (.frameReceive ch arrival fcs f fate) s =
      .next (match ethPayload 0x88B5 f with
        | none => s
        | some p => if !fcs then countFcs ch s else roundFrame ch arrival.toNat fate p s) := by
  have run : exec (.frameReceive ch arrival fcs f fate) s = execFrameReceive ch arrival fcs f s fate := rfl
  rw [run, execFrameReceive, if_neg (by simp [hr, sync, passes, open'])]
  simp only [sync] <;> rfl

theorem dataFrameClause (ch : Chan) (arrival : Dword) (fate : RingFate) (f p : List Byte) (x : Slot) (passes : chanPasses ch s = true)
    (open' : crossingsOpen ch s = true) (payload : ethPayload 0x88B5 f = some p)
    (slot : arrivalSlot (frameOffset arrival.toNat p s) s.slots = some x) (time : frameOffset arrival.toNat p s - x.start ≤ 1250)
    (other : x.owner ≠ floeNode s.floe.live) (rx : x.rx = true) (kind : x.kind = .data) :
    ∃ t, exec (.frameReceive ch arrival true f fate) s = .next t ∧
      (fate = .stored → Tbl.find t.floe.rx (0x10000 + frId p) =
        some (rxStep ch p (Tbl.find s.floe.rx (0x10000 + frId p))) ∧ { t with floe := s.floe } = s) ∧
      (fate = .full → t = s.updChan ch fun c => { c with ringOvf := satInc 0xFFFF c.ringOvf }) ∧
      (fate = .poisoned → t = s.updFabric fun g => { g with eccUncorr := satInc 0xFFFF g.eccUncorr }) := by
  have arrived : roundFrame ch arrival.toNat fate p s = match fate with
      | .stored => dataArrived ch x (frameOffset arrival.toNat p s - x.start) p s
      | .full => ringOverflow ch s
      | .poisoned => poisonRead s := by
    unfold roundFrame
    dsimp only
    rw [slot]
    dsimp only
    rw [if_neg (by omega), if_neg (by simp [other, rx])]
    cases fate
    · dsimp only
      rw [slotFrame, if_neg other, if_neg (by simp [rx]), kind]
    · rfl
    · rfl
  have ran := exec_frameReceive hr sync arrival true f fate passes open'
  rw [payload] at ran
  refine ⟨_, ran.trans (congrArg Host.Outcome.next arrived), ?_⟩
  cases fate
  · exact ⟨fun _ => dataArrived_stores .., nofun, nofun⟩
  · exact ⟨nofun, fun _ => rfl, nofun⟩
  · exact ⟨nofun, nofun, fun _ => rfl⟩

theorem discardClause (ch : Chan) (arrival : Dword) (fcs : Bool) (fate : RingFate) (f : List Byte) (passes : chanPasses ch s = true)
    (open' : crossingsOpen ch s = true) :
    (ethPayload 0x88B5 f = none → exec (.frameReceive ch arrival fcs f fate) s = .next s) ∧
      ((ethPayload 0x88B5 f).isSome = true → exec (.frameReceive ch arrival false f fate) s =
        .next (s.updChan ch fun c => { c with rxFcs := satInc 0xFFFF c.rxFcs })) := by
  have ran := fun fcs => exec_frameReceive hr sync arrival fcs f fate passes open'
  refine ⟨fun other => ?_, fun ours => ?_⟩
  · rw [ran, other]
  · obtain ⟨p, hp⟩ := Option.isSome_iff_exists.mp ours
    rw [ran, hp]
    rfl

end

/-! ### The correction point -/

/-- The results of a round and the time base, as the correction point has set them. -/
structure Corrected (ftm : Int) (used : Nat) (clock : Clock) (t : State) : Prop where
  ftm   : t.floe.ftm = ftm
  used  : t.floe.syncUsed = used
  clock : t.tb.tb = clock

section
variable {ftm : Int} {used : Nat} {clock : Clock} {s t : State}

theorem Corrected.of (h : Corrected ftm used clock s) (f : t.floe.ftm = s.floe.ftm) (u : t.floe.syncUsed = s.floe.syncUsed) (c : t.tb.tb = s.tb.tb) :
    Corrected ftm used clock t := ⟨f.trans h.ftm, u.trans h.used, c.trans h.clock⟩

theorem Corrected.updChan (h : Corrected ftm used clock s) (c : Chan) (f : FloeChan → FloeChan) : Corrected ftm used clock (s.updChan c f) := by
  cases c <;> exact h.of rfl rfl rfl

theorem Corrected.frame (h : Corrected ftm used clock s) (floe : t.floe = s.floe) (tb : t.tb = s.tb) : Corrected ftm used clock t :=
  h.of (congrArg Floe.ftm floe) (congrArg Floe.syncUsed floe) (congrArg TimeBase.tb tb)

theorem Corrected.enterSafe (h : Corrected ftm used clock s) : Corrected ftm used clock (Machine.enterSafe s) :=
  enterSafe_keeps (P := Corrected ftm used clock) (fun u v e hu => hu.frame (congrArg State.floe e :) (congrArg State.tb e :)) (fun u hu => hu.of rfl rfl rfl) h

theorem Corrected.channelFault (h : Corrected ftm used clock s) (c : Chan) : Corrected ftm used clock (Machine.channelFault c s) :=
  raiseOpen_keeps (P := Corrected ftm used clock) (fun u v e hu => hu.frame (congrArg State.floe e :) (congrArg State.tb e :)) (fun u hu => hu.enterSafe)
    (fun k e n u hu => by
      obtain ⟨j, target⟩ : ∃ j, classThreeTarget (chanSource c) = some (.channel j) := by cases c <;> exact ⟨_, rfl⟩
      cases Option.some.inj (target.symm.trans e)
      exact hu) (sourceListed_chan c) 2 _ h

theorem Corrected.setFState (h : Corrected ftm used clock s) (new : FState) : Corrected ftm used clock (Machine.setFState new s) := by
  unfold Machine.setFState
  split
  · exact h
  · exact h.of rfl rfl rfl

theorem Corrected.toListen (h : Corrected ftm used clock s) : Corrected ftm used clock (Machine.toListen s) := by
  unfold Machine.toListen
  extract_lets s1
  have h1 : Corrected ftm used clock s1 := h.of rfl rfl rfl
  exact (h1.setFState .listen).of rfl rfl rfl

theorem Corrected.leaveService (h : Corrected ftm used clock s) (new : MState) : Corrected ftm used clock (Machine.leaveService new s) := by
  have copies := finishImages_copies (fun _ => true) (fun _ => true) s
  unfold sameButCopies at copies
  unfold Machine.leaveService
  have frame := enterEff_frame new (finishImages (fun _ => true) (fun _ => true) s)
  exact (h.frame (congrArg State.floe copies :) (congrArg State.tb copies :)).frame (congrArg State.floe frame :) (congrArg State.tb frame :)

theorem Corrected.loseSync (h : Corrected ftm used clock s) : Corrected ftm used clock (Machine.loseSync s) := by
  unfold Machine.loseSync
  dsimp only
  split
  · exact h.toListen.leaveService .recovery
  · exact h.toListen

theorem Corrected.enterPassive (h : Corrected ftm used clock s) : Corrected ftm used clock (Machine.enterPassive 1 s) := by
  unfold Machine.enterPassive
  extract_lets now s1 s2
  have h1 : Corrected ftm used clock s1 := h.of rfl rfl rfl
  have h2 : Corrected ftm used clock s2 :=
    raiseOpen_low (P := Corrected ftm used clock) (src := 0x2A) (by decide) (fun u v e _ hu => hu.frame (congrArg State.floe e :) (congrArg State.tb e :)) rfl none h1
  split
  · exact h2.loseSync
  · exact h2.setFState .passive

theorem Corrected.judged (h : Corrected ftm used clock s) : Corrected ftm used clock (judgeChannels s) := by
  unfold judgeChannels
  extract_lets u
  have hu : Corrected ftm used clock u := (h.updChan ..).updChan ..
  split
  · unfold bothLost
    split
    · exact hu.loseSync
    · exact hu
  · exact hu

theorem Corrected.stopSending (h : Corrected ftm used clock s) (c : Chan) : Corrected ftm used clock (Machine.stopSending c s) := by
  unfold Machine.stopSending
  split
  · exact h
  · exact (h.updChan ..).channelFault c

theorem Corrected.judgeState (h : Corrected ftm used clock s) (now : Option Int) : Corrected ftm used clock (Machine.judgeState now s) := by
  unfold Machine.judgeState
  split
  · exact h.of rfl rfl rfl
  · split
    · exact h.loseSync
    · unfold syncLimits
      extract_lets badA badB
      split
      · exact h.enterPassive
      · split
        · exact h.stopSending .a
        · split
          · exact h.stopSending .b
          · exact h
  · split
    · exact h.loseSync
    · unfold passiveRound
      extract_lets counted good s1
      have h1 : Corrected ftm used clock s1 := h.of rfl rfl rfl
      split
      · exact h
      · split
        · have h2 : Corrected ftm used clock (s1.updFloe fun f => { f with mute := true, passiveRounds := none, passiveGood := 0 }) := h1.of rfl rfl rfl
          exact h2.setFState .sync
        · exact h1
  · exact h

end

theorem exec_correctionPoint {s : State} (hr : s.runs = true) (sync : s.floe.fstate = .sync) :
    exec .correctionPoint s = .next (judgeState (correctRound s).1 (judgeChannels (correctRound s).2)) := by
  have run : exec .correctionPoint s = execCorrectionPoint s := rfl
  rw [run, execCorrectionPoint, sync]
  dsimp only
  rw [if_neg (by simp [hr])]

theorem unvotedRoundClause {s : State} (hr : s.runs = true) (sync : s.floe.fstate = .sync) (lost : voteLost 0xC s = true) :
    ∃ t, exec .correctionPoint s = .next t ∧ t.floe.ftm = s.floe.ftm ∧ t.floe.syncUsed = 0 ∧ t.tb.tb = s.tb.tb := by
  have kept : Corrected s.floe.ftm 0 s.tb.tb (correctRound s).2 := by
    rw [correctRound, if_pos lost]
    exact ⟨rfl, rfl, rfl⟩
  obtain ⟨ftm, used, clock⟩ := kept.judged.judgeState (correctRound s).1
  exact ⟨_, exec_correctionPoint hr sync, ftm, used, clock⟩

/-- The time base that a round's correction leaves: corrected, unless the integration counter keeps network time. -/
def correctedClock (x : Int) (s : State) : Clock :=
  if s.tb.integRun then s.tb.tb else s.tb.tb.correct s.tb.compLimit.toNat x (rateStep x s.roundNs)

theorem setPinned_kept (r : Option Nat) (s : State) :
    (setPinned r s).floe = s.floe ∧ (setPinned r s).tb.tb = s.tb.tb ∧ (setPinned r s).tb.integRun = s.tb.integRun := by
  refine ⟨rfl, ?_⟩
  change (if s.tb.integRun then { s.tb with pinInteg := r } else { s.tb with pinRound := r }).tb = _ ∧
    (if s.tb.integRun then { s.tb with pinInteg := r } else { s.tb with pinRound := r }).integRun = _
  split <;> exact ⟨rfl, rfl⟩

theorem recordPinnedRate_kept (want bound : Int) (s : State) :
    (recordPinnedRate want bound s).floe = s.floe ∧ (recordPinnedRate want bound s).tb.tb = s.tb.tb ∧ (recordPinnedRate want bound s).tb.integRun = s.tb.integRun := by
  unfold recordPinnedRate
  extract_lets recent
  clear_value recent
  by_cases h : recent = true
  · rw [if_pos h]
    exact ⟨rfl, rfl, rfl⟩
  · rw [if_neg h]
    exact setPinned_kept (some s.floe.round) s

theorem applyCorrection_corrects (x : Int) (s : State) : (applyCorrection x s).floe = s.floe ∧ (applyCorrection x s).tb.tb = correctedClock x s := by
  unfold applyCorrection
  extract_lets limit step want s1
  have kept : s1.floe = s.floe ∧ s1.tb.tb = s.tb.tb ∧ s1.tb.integRun = s.tb.integRun := by
    dsimp only [s1]
    split
    · exact recordPinnedRate_kept ..
    · split
      · exact recordPinnedRate_kept ..
      · exact setPinned_kept ..
  clear_value s1
  obtain ⟨floe, clock, runs⟩ := kept
  refine ⟨floe, ?_⟩
  change (if s1.tb.integRun then { s1.tb with integ := s1.tb.integ.correct limit x step } else { s1.tb with tb := s1.tb.tb.correct limit x step }).tb = _
  rw [correctedClock, runs]
  split
  · exact clock
  · exact congrArg (Clock.correct limit x step) clock

/-- The rate of a corrected clock is the wanted one, bounded by the limit (R95). -/
theorem correct_rate {limit : Nat} (h : limit < 2 ^ 31) (ftm rate : Int) (c : Clock) :
    (c.correct limit ftm rate).rate.toInt = max (-(limit : Int)) (min (limit : Int) (c.rate.toInt + rate)) := by
  have ofInt : ∀ y : Int, -(limit : Int) ≤ y → y ≤ limit → (BitVec.ofInt 32 y).toInt = y := fun y lo hi => by
    rw [BitVec.toInt_ofInt]
    exact Int.bmod_eq_of_le (by omega) (by omega)
  change (if (limit : Int) < c.rate.toInt + rate then BitVec.ofNat 32 limit
      else if c.rate.toInt + rate < -(limit : Int) then BitVec.ofInt 32 (-(limit : Int)) else BitVec.ofInt 32 (c.rate.toInt + rate)).toInt = _
  split
  · have same : BitVec.ofNat 32 limit = BitVec.ofInt 32 (limit : Int) := rfl
    rw [same, ofInt _ (by omega) (by omega)]
    omega
  · split
    · rw [ofInt _ (by omega) (by omega)]
      omega
    · rw [ofInt _ (by omega) (by omega)]
      omega

/-- The voted FTM is the midpoint of the round (R209, R210). -/
theorem votedFtm_midpoint {s : State} {x : Int} (mid : midpoint (syncValues s) = some x) (small : x.natAbs < 2 ^ 31) : votedFtm (syncData s) = some x := by
  have high : (hiWord (syncData s)).toInt = x := by
    unfold syncData
    rw [mid]
    dsimp only
    generalize (BitVec.ofInt 16 ((s.floe.chA.ownDev.map satDev).getD s.floe.ownDevA) ++ BitVec.ofInt 16 ((s.floe.chB.ownDev.map satDev).getD s.floe.ownDevB)) = low
    have word : hiWord (twos 32 x ++ low) = twos 32 x := by
      apply BitVec.eq_of_toNat_eq
      rw [hiWord, BitVec.toNat_ofNat, BitVec.toNat_append, Nat.shiftRight_eq_div_pow]
      have lo := low.isLt
      have hi := (twos 32 x).isLt
      rw [Nat.shiftLeft_eq, ← Nat.shiftLeft_eq, ← Nat.shiftLeft_add_eq_or_of_lt lo, Nat.shiftLeft_eq]
      omega
    rw [Option.getD_some, word, twos, BitVec.toInt_ofInt]
    exact Int.bmod_eq_of_le (by omega) (by omega)
  rw [votedFtm, high]
  exact if_neg (by omega)

theorem correctionClause {s : State} (hr : s.runs = true) (sync : s.floe.fstate = .sync) (voted : voteLost 0xC s = false) :
    ∃ t, exec .correctionPoint s = .next t ∧
      t.floe.ftm = (votedFtm (syncData s)).getD s.floe.ftm ∧ t.floe.syncUsed = (syncValues s).length ∧
      (∀ x, midpoint (syncValues s) = some x → x.natAbs < 2 ^ 31 → votedFtm (syncData s) = some x ∧
        (s.tb.integRun = false → s.tb.compLimit.toNat < 2 ^ 31 →
        t.tb.tb.slew16 = s.tb.tb.slew16 - 16 * x ∧ t.tb.tb.ns = s.tb.tb.ns ∧
        t.tb.tb.rate.toInt = max (-(s.tb.compLimit.toNat : Int)) (min (s.tb.compLimit.toNat : Int)
          (s.tb.tb.rate.toInt + rateStep x s.roundNs)))) := by
  have kept : Corrected ((votedFtm (syncData s)).getD s.floe.ftm) (syncValues s).length
      (match votedFtm (syncData s) with | some x => correctedClock x s | none => s.tb.tb) (correctRound s).2 := by
    rw [correctRound, if_neg (by simp [voted])]
    dsimp only
    have noted : (noteResults (syncValues s).length (syncData s) s).floe.ftm = (votedFtm (syncData s)).getD s.floe.ftm := rfl
    cases record : votedFtm (syncData s) with
    | some x =>
      rw [record] at noted
      obtain ⟨floe, clock⟩ := applyCorrection_corrects x (noteResults (syncValues s).length (syncData s) s)
      exact ⟨(congrArg Floe.ftm floe).trans noted, congrArg Floe.syncUsed floe, clock⟩
    | none =>
      rw [record] at noted
      exact ⟨noted, rfl, rfl⟩
  obtain ⟨ftm, used, clock⟩ := kept.judged.judgeState (correctRound s).1
  refine ⟨_, exec_correctionPoint hr sync, ftm, used, fun x mid small => ?_⟩
  have record := votedFtm_midpoint mid small
  refine ⟨record, fun free limit => ?_⟩
  rw [record] at clock
  dsimp only at clock
  rw [correctedClock, free] at clock
  rw [clock]
  exact ⟨rfl, rfl, correct_rate limit x _ _⟩

/-! ### Mode switches -/

theorem modeSwitchClause {s : State} (hr : s.runs = true) (sync : s.floe.fstate = .sync) (announced : s.floe.swPend = true)
    (round : s.floe.round = s.floe.switchRound.toNat) (loaded : (vget s.floe.liveSched none s.floe.modeNext.toNat).isSome = true) :
    ∃ t, exec .modeSwitch s = .next t ∧ t.floe.mode = s.floe.modeNext ∧ t.floe.swPend = false ∧
      { t with floe := s.floe, ice := s.ice, hif := s.hif } = s := by
  have ran : exec .modeSwitch s = .next (switchMode s) := by
    have run : exec .modeSwitch s = execModeSwitch s := rfl
    rw [run, execModeSwitch]
    dsimp only
    rw [if_neg (by simp [hr, announced, round]), sync]
    dsimp only
    rw [if_pos loaded]
  refine ⟨_, ran, ?_⟩
  unfold switchMode
  extract_lets f u
  have hu : u.floe.mode = s.floe.modeNext ∧ u.floe.swPend = false ∧ { u with floe := s.floe, ice := s.ice, hif := s.hif } = s := ⟨rfl, rfl, rfl⟩
  clear_value u
  obtain ⟨mode, pend, rest⟩ := hu
  split
  · split
    · unfold endModereq
      split
      · next m p tag n _ =>
        have frame := complete_frame p 0x0B03 tag (.words [f.switchRound]) (u.updFloe fun f => { f with mreq := none })
        exact ⟨(congrArg (fun v : State => v.floe.mode) frame :).trans mode, (congrArg (fun v : State => v.floe.swPend) frame :).trans pend,
          (congrArg (fun v : State => { v with floe := s.floe, ice := s.ice, hif := s.hif }) frame :).trans rest⟩
      · exact ⟨mode, pend, rest⟩
    · exact ⟨mode, pend, rest⟩
  · exact ⟨mode, pend, rest⟩

/-- Settles O46: what is sent and stored is read off the slot's own path, and nothing after the correction of the clock touches it again. -/
theorem floeRounds : Obligations.FloeRounds := by
  unfold Obligations.FloeRounds
  exact fun s hr sync => ⟨transmitClause hr sync, dataFrameClause hr sync, discardClause hr sync, correctionClause hr sync,
    unvotedRoundClause hr sync, modeSwitchClause hr sync⟩

end Sys2Proof.Proofs
end

section
/-!
SUPPORT. The way into synchronisation and out of it (R31, R214 to R216): O47.
-/
namespace Sys2Proof.Proofs
open Sys2Proof.Machine

theorem fstate_setFState (new : FState) (s : State) : (setFState new s).floe.fstate = new := by
  unfold setFState
  split
  · assumption
  · rfl

theorem floe_setFState (new : FState) (s : State) : { (setFState new s).floe with fstate := s.floe.fstate } = s.floe := by
  unfold setFState
  split <;> rfl

theorem toListen_listens (s : State) : (toListen s).floe.fstate = .listen ∧ (toListen s).floe.coldCnt = s.floe.coldCnt ∧
    (toListen s).tb.integRun = false ∧ (s.floe.fstate ≠ .listen → (toListen s).tb.sync = 0) ∧ { toListen s with floe := s.floe, tb := s.tb, ice := s.ice } = s := by
  unfold toListen
  extract_lets s1
  have h1 : s1.floe.fstate = s.floe.fstate ∧ s1.floe.coldCnt = s.floe.coldCnt ∧ { s1 with floe := s.floe } = s := ⟨rfl, rfl, rfl⟩
  clear_value s1
  obtain ⟨fstate, count, rest⟩ := h1
  have frame := setFState_listen_frame .listen s1
  have floe := floe_setFState .listen s1
  refine ⟨fstate_setFState .listen s1, (congrArg Floe.coldCnt floe :).trans count, rfl, fun ne => ?_, ?_⟩
  · have change' : s1.floe.fstate ≠ .listen := by rwa [fstate]
    change (setFState .listen s1).tb.sync = 0
    rw [setFState, if_neg change']
    rfl
  · exact (congrArg (fun u : State => { u with floe := s.floe, tb := s.tb, ice := s.ice }) frame :).trans
      (congrArg (fun u : State => { u with tb := s.tb, ice := s.ice }) rest :)

/-! ### Links that come up -/

/-- What the fault of a link leaves: FSTATE and the links themselves. -/
def Linked (ch : Chan) (f : FState) (t : State) : Prop := t.floe.fstate = f ∧ (t.chan ch).linkUp = true

theorem Linked.of {ch : Chan} {f : FState} {s t : State} (h : Linked ch f s) (fs : t.floe.fstate = s.floe.fstate) (a : t.floe.chA = s.floe.chA)
    (b : t.floe.chB = s.floe.chB) : Linked ch f t := by
  refine ⟨fs.trans h.1, ?_⟩
  have up := h.2
  cases ch
  · exact (congrArg FloeChan.linkUp a).trans up
  · exact (congrArg FloeChan.linkUp b).trans up

theorem Linked.channelFault {ch : Chan} {f : FState} {s : State} (h : Linked ch f s) (c : Chan) : Linked ch f (channelFault c s) :=
  raiseOpen_keeps (P := Linked ch f)
    (fun u v e hu => hu.of (congrArg (fun x : State => x.floe.fstate) e :) (congrArg (fun x : State => x.floe.chA) e :) (congrArg (fun x : State => x.floe.chB) e :))
    (fun u hu => enterSafe_keeps (P := Linked ch f)
      (fun v w e hv => hv.of (congrArg (fun x : State => x.floe.fstate) e :) (congrArg (fun x : State => x.floe.chA) e :) (congrArg (fun x : State => x.floe.chB) e :))
      (fun v hv => hv.of rfl rfl rfl) hu)
    (fun k e n u hu => by
      obtain ⟨j, target⟩ : ∃ j, classThreeTarget (chanSource c) = some (.channel j) := by cases c <;> exact ⟨_, rfl⟩
      cases Option.some.inj (target.symm.trans e)
      exact hu) (sourceListed_chan c) 2 _ h

theorem leaveDown_listens (ch : Chan) {s : State} (up : (s.chan ch).linkUp = true) : Linked ch .listen (leaveDown s) := by
  unfold leaveDown
  extract_lets s1 s2
  have h1 : Linked ch .listen s1 := by
    have floe := floe_setFState .listen (s.updFloe fun f => { f with mode := BitVec.ofNat 2 (floeInitMode f.live) })
    refine ⟨fstate_setFState .listen _, ?_⟩
    cases ch
    · exact (congrArg (fun f : Floe => f.chA.linkUp) floe :).trans up
    · exact (congrArg (fun f : Floe => f.chB.linkUp) floe :).trans up
  have h2 : Linked ch .listen s2 := by
    dsimp only [s2]
    split
    · exact h1
    · exact h1.channelFault .a
  split
  · exact h2
  · exact h2.channelFault .b

section
variable {s : State} (hr : s.runs = true)
include hr

theorem linkUpClause (ch : Chan) : ∃ t, exec (.linkUp ch) s = .next t ∧ (t.chan ch).linkUp = true ∧
      (s.floe.fstate = .down → floeConfigured s = true → t.floe.fstate = .listen) ∧
      (s.floe.fstate ≠ .down → { t with floe := s.floe } = s) := by
  obtain ⟨u, hu⟩ : ∃ u : State, u = s.updChan ch fun c => { c with linkUp := true } := ⟨_, rfl⟩
  have up : (u.chan ch).linkUp = true ∧ u.floe.fstate = s.floe.fstate ∧ floeConfigured u = floeConfigured s ∧ { u with floe := s.floe } = s := by
    rw [hu]
    cases ch <;> exact ⟨rfl, rfl, rfl, rfl⟩
  obtain ⟨linked, fstate, configured, rest⟩ := up
  have ran : exec (.linkUp ch) s = .next (if u.floe.fstate = .down ∧ floeConfigured u then leaveDown u else u) := by
    rw [hu]
    exact congrArg Host.Outcome.next (if_neg (by simp [hr]))
  refine ⟨_, ran, ?_⟩
  split
  · next h =>
    obtain ⟨down, -⟩ := h
    obtain ⟨listens, still⟩ := leaveDown_listens ch linked
    exact ⟨still, fun _ _ => listens, fun ne => absurd (fstate.symm.trans down) ne⟩
  · next h => exact ⟨linked, fun down conf => absurd ⟨fstate.trans down, configured.trans conf⟩ h, fun _ => rest⟩

/-! ### Cold starts -/

theorem coldSentClause (p : List Byte) (listens : s.floe.fstate = .listen) (allowed : coldAllowed s = true)
    (built : nodeFrame 2 s.now s.floe.idleKey (wordsBytes [BitVec.ofNat 32 (firstRound s), at32 0 (floeInitMode s.floe.live)]) s = some p) :
    ∃ t, exec .listenTimerExpiry s = .next t ∧ t.floe.fstate = .coldstart ∧ t.floe.nodeSeq = s.floe.nodeSeq + 1 := by
  obtain ⟨on, hon⟩ : ∃ on : List Tx, on = (([Chan.a, .b].filter fun c => chanPasses c s && !(s.chan c).txOff).map fun c => (⟨c, 0, false, none⟩ : Tx)) := ⟨_, rfl⟩
  have sent : sendCold s = setFState .coldstart (on.foldl (putOnWire coldSlot p) (advanceSeq s)) := by
    rw [sendCold, hon]
    dsimp only
    rw [built]
  obtain ⟨-, seq, -⟩ := putOnWires_sent coldSlot p on (advanceSeq s)
  refine ⟨_, congrArg Host.Outcome.next ((if_pos (by simp [hr, listens, allowed])).trans sent), fstate_setFState .., ?_⟩
  exact (congrArg Floe.nodeSeq (floe_setFState .coldstart (on.foldl (putOnWire coldSlot p) (advanceSeq s))) :).trans seq

theorem coldHeldClause (arrival : Dword) (f p : List Byte) (state : s.floe.fstate = .listen ∨ s.floe.fstate = .coldstart) (passes : chanPasses .a s = true)
    (open' : crossingsOpen .a s = true) (payload : ethPayload 0x88B5 f = some p) (ok : coldOk p s = true) (first : s.floe.coldA = none) :
    ∃ t c, exec (.coldstartReceive .a arrival f true) s = .next t ∧ t.floe.coldA = some c ∧ c.node = frSrc p ∧
      c.firstRound = wordAt (frData p) 0 ∧ { t with floe := s.floe } = s := by
  have ran : exec (.coldstartReceive .a arrival f true) s = .next (coldArrived .a arrival p s) := by
    have run : exec (.coldstartReceive .a arrival f true) s = execColdstartReceive .a arrival f s true := rfl
    rw [run, execColdstartReceive, if_neg (by simp [hr, passes, open', state]), payload]
    rfl
  have held : (coldArrived .a arrival p s).floe.coldA = (s.floe.coldA <|> some (coldFrame arrival p)) := by
    rw [coldArrived, if_neg (by simp [ok])]
    rfl
  refine ⟨_, coldFrame arrival p, ran, held.trans (by rw [first] <;> rfl), rfl, rfl, ?_⟩
  rw [coldArrived, if_neg (by simp [ok])]
  rfl

theorem exec_coldstartDecision {c : ColdRx} (held : s.floe.coldA = some c) : exec .coldstartDecision s = .next (adoptCold c s) := by
  have run : exec .coldstartDecision s = execColdstartDecision s := rfl
  rw [run, execColdstartDecision, whileRunning, if_pos hr, held]

theorem coldOwnClause (c : ColdRx) (held : s.floe.coldA = some c) (state : s.floe.fstate = .coldstart) (own : c.node = floeNode s.floe.live) :
    ∃ t, exec .coldstartDecision s = .next t ∧ t.floe.coldTake = some (c.firstRound, true) ∧ t.floe.mode = c.mode ∧
        t.floe.fstate = .coldstart ∧ { t with floe := s.floe } = s := by
  obtain ⟨u, hu⟩ : ∃ u : State, u = s.updFloe fun f => { f with coldA := none, coldB := none } := ⟨_, rfl⟩
  have fstate : u.floe.fstate = .coldstart := by rw [hu]; exact state
  have adopted : adoptCold c s = u.updFloe fun f => { f with coldTake := some (c.firstRound, true), mode := c.mode } := by
    unfold adoptCold
    dsimp only
    rw [← hu, fstate, decide_eq_true own]
  refine ⟨_, (exec_coldstartDecision hr held).trans (congrArg Host.Outcome.next adopted), rfl, rfl, fstate, ?_⟩
  rw [hu]
  rfl

theorem coldOtherClause (c : ColdRx) (held : s.floe.coldA = some c) (state : s.floe.fstate = .listen ∨ s.floe.fstate = .coldstart)
    (other : c.node ≠ floeNode s.floe.live) :
    ∃ t, exec .coldstartDecision s = .next t ∧ t.floe.coldTake = some (c.firstRound, false) ∧
        t.floe.fstate = .integrate ∧ t.tb.sync = 1 := by
  obtain ⟨u, hu⟩ : ∃ u : State, u = s.updFloe fun f => { f with coldA := none, coldB := none } := ⟨_, rfl⟩
  obtain ⟨v, hv⟩ : ∃ v : State, v = u.updFloe fun f => { f with coldTake := some (c.firstRound, false), mode := c.mode, integGood := 0, integRounds := 0, syncNext := false } := ⟨_, rfl⟩
  have fstate : u.floe.fstate = .listen ∨ u.floe.fstate = .coldstart := by rw [hu]; exact state
  have adopted : adoptCold c s = setFState .integrate v := by
    unfold adoptCold
    dsimp only
    rw [← hu, decide_eq_false other, hv]
    rcases fstate with h | h <;> rw [h]
  have fresh : v.floe.fstate ≠ .integrate := by
    rw [hv]
    change u.floe.fstate ≠ .integrate
    rcases fstate with h | h <;> rw [h] <;> decide
  have take : v.floe.coldTake = some (c.firstRound, false) := by rw [hv]; rfl
  refine ⟨_, (exec_coldstartDecision hr held).trans (congrArg Host.Outcome.next adopted), ?_, fstate_setFState .., ?_⟩
  · exact (congrArg Floe.coldTake (floe_setFState .integrate v) :).trans take
  · rw [setFState, if_neg fresh]
    rfl

/-! ### Timeouts -/

theorem coldTimeoutClause (state : s.floe.fstate = .coldstart) (take : s.floe.coldTake = none) (a : s.floe.coldA = none) (b : s.floe.coldB = none) :
    ∃ t, exec .coldstartTimeout s = .next t ∧ t.floe.fstate = .listen ∧ t.tb.sync = 0 ∧
        t.floe.coldCnt = satInc 0xFFFF s.floe.coldCnt := by
  obtain ⟨u, hu⟩ : ∃ u : State, u = s.updFloe fun f => { f with coldCnt := satInc 0xFFFF f.coldCnt } := ⟨_, rfl⟩
  have ran : exec .coldstartTimeout s = .next (toListen u) := by
    rw [hu]
    exact congrArg Host.Outcome.next ((if_pos hr).trans (if_pos ⟨state, take, a, b⟩))
  have counted : u.floe.coldCnt = satInc 0xFFFF s.floe.coldCnt ∧ u.floe.fstate ≠ .listen := by
    rw [hu]
    exact ⟨rfl, fun h => by cases state.symm.trans h⟩
  obtain ⟨listens, count, -, sync, -⟩ := toListen_listens u
  exact ⟨_, ran, listens, sync counted.2, count.trans counted.1⟩

theorem integrateTimeoutClause (state : s.floe.fstate = .integrate) (rounds : 10 ≤ s.floe.integRounds) (next : s.floe.syncNext = false) :
    ∃ t, exec .integrateTimeout s = .next t ∧ t.floe.fstate = .listen ∧ t.tb.integRun = false := by
  obtain ⟨listens, -, integ, -, -⟩ := toListen_listens s
  exact ⟨_, congrArg Host.Outcome.next ((if_pos hr).trans (if_pos ⟨state, rounds, by simp [next]⟩)), listens, integ⟩

end

theorem loseSync_listens (s : State) : (loseSync s).floe.fstate = .listen ∧ (s.eff = .service → (loseSync s).eff = .recovery) := by
  obtain ⟨listens, -, -, -, rest⟩ := toListen_listens s
  obtain ⟨u, hu⟩ : ∃ u, u = toListen s := ⟨_, rfl⟩
  have eff : u.eff = s.eff := by
    rw [hu, State.eff, show (toListen s).mstate = s.mstate from (congrArg State.mstate rest :), show (toListen s).holdFrom = s.holdFrom from (congrArg State.holdFrom rest :)]
    rfl
  unfold loseSync
  rw [← hu] at listens ⊢
  dsimp only
  split
  · have copies := finishImages_copies (fun _ => true) (fun _ => true) u
    unfold sameButCopies at copies
    obtain ⟨v, hv⟩ : ∃ v, v = finishImages (fun _ => true) (fun _ => true) u := ⟨_, rfl⟩
    rw [← hv] at copies
    rw [leaveService, ← hv]
    obtain ⟨-, -, -, -, floe, -⟩ := enterEff_fields .recovery v
    refine ⟨(congrArg Floe.fstate floe).trans ((congrArg (fun x : State => x.floe.fstate) copies :).trans listens), fun _ => eff_enterEff (by decide) v⟩
  · next out => exact ⟨listens, fun h => absurd (by rw [State.inService, eff, h] <;> rfl) out⟩

theorem passiveTimeoutClause {s : State} (hr : s.runs = true) (k : Nat) (state : s.floe.fstate = .passive) (rounds : s.floe.passiveRounds = some k) (ninth : 9 ≤ k) :
    ∃ t, exec .passiveTimeout s = .next t ∧ t.floe.fstate = .listen ∧ (s.eff = .service → t.eff = .recovery) := by
  obtain ⟨listens, leaves⟩ := loseSync_listens s
  exact ⟨_, congrArg Host.Outcome.next ((if_pos hr).trans (if_pos ⟨state, by rw [rounds]; simp [ninth]⟩)), listens, leaves⟩

/-- Settles O47: each step of the way is one change of FSTATE with what it holds or drops. -/
theorem floeStates : Obligations.FloeStates := by
  unfold Obligations.FloeStates
  exact fun s hr => ⟨linkUpClause hr, coldSentClause hr, coldHeldClause hr, coldOwnClause hr, coldOtherClause hr, coldTimeoutClause hr,
    integrateTimeoutClause hr, passiveTimeoutClause hr⟩

end Sys2Proof.Proofs
end

section
/-!
SUPPORT. Conditions of a Floe channel (R223, R354, R365): O48.
-/
namespace Sys2Proof.Proofs
open Sys2Proof.Machine

/-! ### A fault counts -/

theorem raiseOpen_counts {n : Nat} (listed : sourceListed n = true) (ne : n ≠ 4) {s : State} (quiet : quietSource n s = true) (code : Nat) (specific : Option Half) :
    ((raiseOpen n code specific s).fcuSource n).count = satInc 0xFFFF (s.fcuSource n).count := by
  have quiet' : quietSource n (drawFree s).2 = true := quiet
  change ((presentPattern n 2 code _ specific (drawFree s).2).fcuSource n).count = _
  rw [presentPattern_quiet listed quiet' (by decide), decideBase_eq]
  dsimp only
  rw [fcuSource_decisionEffect (fun u => fcuSource_raiseNoAgree ne u), fcuSource_of_fcu_eq (lockDecided_fcu ..), fcuSource_noteFault_same, fcuSource_showPattern]
  rfl

/-! ### What the fault of a channel leaves -/

/-- Floe's state and channels, and the crossings. -/
def Channels (s t : State) : Prop :=
  t.floe.fstate = s.floe.fstate ∧ t.floe.chA = s.floe.chA ∧ t.floe.chB = s.floe.chB ∧ t.fabric.xs = s.fabric.xs

theorem Channels.refl (s : State) : Channels s s := ⟨rfl, rfl, rfl, rfl⟩

theorem Channels.of {s t u : State} (h : Channels s t) (floe : u.floe = t.floe) (xs : u.fabric.xs = t.fabric.xs) : Channels s u := by
  obtain ⟨fstate, a, b, x⟩ := h
  exact ⟨(congrArg Floe.fstate floe).trans fstate, (congrArg Floe.chA floe).trans a, (congrArg Floe.chB floe).trans b, xs.trans x⟩

theorem Channels.chan {s t : State} (h : Channels s t) (ch : Chan) : t.chan ch = s.chan ch := by
  obtain ⟨-, a, b, -⟩ := h
  cases ch
  · exact a
  · exact b

theorem channelFault_channels (ch : Chan) (s : State) : Channels s (channelFault ch s) :=
  raiseOpen_keeps (P := Channels s) (fun u v e hu => hu.of (congrArg State.floe e :) (congrArg (fun x : State => x.fabric.xs) e :))
    (fun u hu => enterSafe_keeps (P := Channels s) (fun v w e hv => hv.of (congrArg State.floe e :) (congrArg (fun x : State => x.fabric.xs) e :))
      (fun v hv => hv) hu)
    (fun k e n u hu => by
      obtain ⟨j, target⟩ : ∃ j, classThreeTarget (chanSource ch) = some (.channel j) := by cases ch <;> exact ⟨_, rfl⟩
      cases Option.some.inj (target.symm.trans e)
      exact hu) (sourceListed_chan ch) 2 _ (.refl s)

theorem loseSync_channels (s : State) (ch : Chan) : (loseSync s).chan ch = s.chan ch ∧ (loseSync s).fabric.xs = s.fabric.xs := by
  have listened : (toListen s).chan ch = s.chan ch ∧ (toListen s).fabric.xs = s.fabric.xs := by
    unfold toListen
    extract_lets s1
    have h1 : s1.chan ch = s.chan ch ∧ s1.fabric = s.fabric := ⟨rfl, rfl⟩
    clear_value s1
    obtain ⟨chan, fabric⟩ := h1
    have floe := floe_setFState .listen s1
    have frame := setFState_listen_frame .listen s1
    refine ⟨?_, (congrArg (fun u : State => u.fabric.xs) frame :).trans (congrArg Fabric.xs fabric)⟩
    cases ch
    · exact (congrArg Floe.chA floe :).trans chan
    · exact (congrArg Floe.chB floe :).trans chan
  unfold loseSync
  obtain ⟨u, hu⟩ : ∃ u, u = toListen s := ⟨_, rfl⟩
  rw [← hu] at listened ⊢
  dsimp only
  split
  · have copies := finishImages_copies (fun _ => true) (fun _ => true) u
    unfold sameButCopies at copies
    obtain ⟨v, hv⟩ : ∃ v, v = finishImages (fun _ => true) (fun _ => true) u := ⟨_, rfl⟩
    rw [← hv] at copies
    rw [leaveService, ← hv]
    have frame := enterEff_frame .recovery v
    exact ⟨(congrArg (fun x : State => x.chan ch) frame :).trans ((congrArg (fun x : State => x.chan ch) copies :).trans listened.1),
      (congrArg (fun x : State => x.fabric.xs) frame :).trans ((congrArg (fun x : State => x.fabric.xs) copies :).trans listened.2)⟩
  · exact listened

theorem bothLost_channels (s : State) (ch : Chan) : (bothLost s).chan ch = s.chan ch ∧ (bothLost s).fabric.xs = s.fabric.xs := by
  unfold bothLost
  split
  · exact loseSync_channels s ch
  · exact ⟨rfl, rfl⟩

/-! ### Links, silence, echoes -/

theorem chan_updChan_same (ch : Chan) (f : FloeChan → FloeChan) (s : State) : (s.updChan ch f).chan ch = f (s.chan ch) := by cases ch <;> rfl

theorem chan_updChan_other {ch d : Chan} (h : d ≠ ch) (f : FloeChan → FloeChan) (s : State) : (s.updChan ch f).chan d = s.chan d := by
  cases ch <;> cases d
  · exact absurd rfl h
  · rfl
  · rfl
  · exact absurd rfl h

theorem updChan_frame (ch : Chan) (f : FloeChan → FloeChan) (s : State) :
    { s.updChan ch f with floe := s.floe } = s ∧ (s.updChan ch f).floe.fstate = s.floe.fstate := by cases ch <;> exact ⟨rfl, rfl⟩

theorem dropFrame_xs {n : Nat} (hn : n < 2) (inFrame : Bool) (f : Fabric) :
    (vget (dropClock n (if inFrame then dropFrame n f else f)).xs .fresh n).xdrop =
        (if inFrame then satInc 0xFFFF (vget f.xs .fresh n).xdrop else (vget f.xs .fresh n).xdrop) ∧
      (vget (dropClock n (if inFrame then dropFrame n f else f)).xs .fresh n).notReady = true ∧
      (vget (dropClock n (if inFrame then dropFrame n f else f)).xs .fresh (n + 3)).notReady = true := by
  obtain ⟨g, hg⟩ : ∃ g, g = if inFrame then dropFrame n f else f := ⟨_, rfl⟩
  have counted : (vget g.xs .fresh n).xdrop = if inFrame then satInc 0xFFFF (vget f.xs .fresh n).xdrop else (vget f.xs .fresh n).xdrop := by
    rw [hg]
    cases inFrame
    · rfl
    · refine (congrArg Crossing.xdrop (vget_vmod_same f.xs .fresh (by omega : n < 17) fun x => { x with xdrop := satInc 0xFFFF x.xdrop }) :).trans ?_
      simp [vget, (by omega : n < 17)]
  rw [← hg, ← counted]
  obtain ⟨v, hv⟩ : ∃ v, v = vmod g.xs n fun x => { x with notReady := true } := ⟨_, rfl⟩
  have own : vget v .fresh n = { vget g.xs .fresh n with notReady := true } := by
    rw [hv, vget_vmod_same g.xs .fresh (by omega : n < 17)]
    simp [vget, (by omega : n < 17)]
  have clock : (dropClock n g).xs = vmod v (n + 3) fun x => { x with notReady := true } := by rw [hv] <;> rfl
  rw [clock, vget_vmod_other _ _ (by omega : n ≠ n + 3), own, vget_vmod_same _ _ (by omega : n + 3 < 17)]
  exact ⟨rfl, rfl, rfl⟩

section
variable {ch : Chan} {s : State} (hr : s.runs = true)
include hr

theorem linkDownClause (inFrame : Bool) (up : (s.chan ch).linkUp = true) :
    ∃ t, exec (.linkDown ch inFrame) s = .next t ∧ (t.chan ch).linkUp = false ∧ (t.chan ch).ok = false ∧
        (vget t.fabric.xs .fresh (chanNum ch)).xdrop =
          (if inFrame then satInc 0xFFFF (vget s.fabric.xs .fresh (chanNum ch)).xdrop else (vget s.fabric.xs .fresh (chanNum ch)).xdrop) ∧
        (vget t.fabric.xs .fresh (chanNum ch)).notReady = true ∧ (vget t.fabric.xs .fresh (chanNum ch + 3)).notReady = true := by
  obtain ⟨u, hu⟩ : ∃ u : State, u = (s.updChan ch fun c => { c with linkUp := false, ok := false, goodRounds := 0 }).updFabric
      fun f => dropClock (chanNum ch) (if inFrame then dropFrame (chanNum ch) f else f) := ⟨_, rfl⟩
  have lost : (u.chan ch).linkUp = false ∧ (u.chan ch).ok = false ∧
      u.fabric = dropClock (chanNum ch) (if inFrame then dropFrame (chanNum ch) s.fabric else s.fabric) := by
    rw [hu]
    cases ch <;> exact ⟨rfl, rfl, rfl⟩
  obtain ⟨link, ok, fabric⟩ := lost
  have ran : exec (.linkDown ch inFrame) s = .next (if u.floe.fstate = .down then u else bothLost (channelFault ch u)) := by
    rw [hu]
    exact congrArg Host.Outcome.next (if_neg (by simp [hr, up]))
  have kept : (if u.floe.fstate = .down then u else bothLost (channelFault ch u)).chan ch = u.chan ch ∧
      (if u.floe.fstate = .down then u else bothLost (channelFault ch u)).fabric.xs = u.fabric.xs := by
    split
    · exact ⟨rfl, rfl⟩
    · obtain ⟨chan, xs⟩ := bothLost_channels (channelFault ch u) ch
      have fault := channelFault_channels ch u
      exact ⟨chan.trans (fault.chan ch), xs.trans fault.2.2.2⟩
  obtain ⟨chan, xs⟩ := kept
  have small : chanNum ch < 2 := by cases ch <;> decide
  obtain ⟨drop, side, stamp⟩ := dropFrame_xs small inFrame s.fabric
  refine ⟨_, ran, ?_⟩
  rw [chan, xs, fabric]
  exact ⟨link, ok, drop, side, stamp⟩

theorem silentClause (state : s.floe.fstate ≠ .down) (rounds : 3 ≤ (s.chan ch).badRounds) (fresh : (s.chan ch).silentRaised = false) :
    ∃ t, exec (.channelSilent ch) s = .next t ∧ (t.chan ch).ok = false ∧ (t.chan ch).silentRaised = true ∧
        (s.floe.fstate = .sync → (∀ d, d ≠ ch → (s.chan d).ok = false) → t.floe.fstate = .listen) := by
  obtain ⟨u, hu⟩ : ∃ u : State, u = s.updChan ch fun c => { c with ok := false, goodRounds := 0, silentRaised := true } := ⟨_, rfl⟩
  have own : u.chan ch = { s.chan ch with ok := false, goodRounds := 0, silentRaised := true } := by
    rw [hu]
    exact chan_updChan_same ..
  have other : ∀ d, d ≠ ch → u.chan d = s.chan d := fun d hd => by
    rw [hu]
    exact chan_updChan_other hd ..
  have fstate : u.floe.fstate = s.floe.fstate := by
    rw [hu]
    exact (updChan_frame ch _ s).2
  have ran : exec (.channelSilent ch) s = .next (bothLost (channelFault ch u)) := by
    rw [hu]
    exact congrArg Host.Outcome.next (if_neg (by simp [hr, state, fresh]; omega))
  have fault := channelFault_channels ch u
  obtain ⟨chan, -⟩ := bothLost_channels (channelFault ch u) ch
  have same := chan.trans ((fault.chan ch).trans own)
  refine ⟨_, ran, (congrArg FloeChan.ok same :), (congrArg FloeChan.silentRaised same :), fun sync others => ?_⟩
  have off : ∀ d, ((channelFault ch u).chan d).ok = false := fun d => by
    rw [fault.chan d]
    by_cases hd : d = ch
    · rw [hd, own]
    · rw [other d hd, others d hd]
  have offA : (channelFault ch u).floe.chA.ok = false := off .a
  have offB : (channelFault ch u).floe.chB.ok = false := off .b
  have synced : (channelFault ch u).floe.fstate = .sync := fault.1.trans (fstate.trans sync)
  rw [bothLost, if_pos ⟨.inl synced, by simp [offA], by simp [offB]⟩]
  exact (loseSync_listens _).1

theorem echoClause (state : s.floe.fstate ≠ .down) (rounds : 3 ≤ (s.chan ch).echoMissRounds) (ok : (s.chan ch).ok = true) (sends : (s.chan ch).txOff = false) :
    ∃ t, exec (.echoMissing ch) s = .next t ∧ (t.chan ch).txOff = true ∧
        (∀ d, d ≠ ch → (t.chan d).txOff = (s.chan d).txOff) ∧
        (quietSource (chanSource ch) s = true →
          (t.fcuSource (chanSource ch)).count = satInc 0xFFFF (s.fcuSource (chanSource ch)).count) := by
  obtain ⟨u, hu⟩ : ∃ u : State, u = s.updChan ch fun c => { c with txOff := true } := ⟨_, rfl⟩
  have own : u.chan ch = { s.chan ch with txOff := true } := by
    rw [hu]
    exact chan_updChan_same ..
  have other : ∀ d, d ≠ ch → u.chan d = s.chan d := fun d hd => by
    rw [hu]
    exact chan_updChan_other hd ..
  have fcu : u.fcu = s.fcu := by
    rw [hu]
    exact (congrArg State.fcu (updChan_frame ch (fun c => { c with txOff := true }) s).1 :)
  have ran : exec (.echoMissing ch) s = .next (channelFault ch u) := by
    rw [hu]
    exact congrArg Host.Outcome.next (if_neg (by simp [hr, state, ok, sends]; omega))
  have fault := channelFault_channels ch u
  refine ⟨_, ran, (congrArg FloeChan.txOff ((fault.chan ch).trans own) :), fun d hd => (congrArg FloeChan.txOff ((fault.chan d).trans (other d hd)) :), fun quiet => ?_⟩
  have source := fcuSource_of_fcu_eq fcu (chanSource ch)
  have quiet' : quietSource (chanSource ch) u = true := by
    rw [quietSource, source]
    exact quiet
  refine (raiseOpen_counts (sourceListed_chan ch) (by cases ch <;> decide) quiet' 2 (some 0x0301)).trans ?_
  rw [source]

end

/-- Settles O48: the fault of a channel leaves the channels and the crossings as the condition has set them. -/
theorem channelConditions : Obligations.ChannelConditions := by
  unfold Obligations.ChannelConditions
  exact fun ch s hr => ⟨linkDownClause hr, silentClause hr, echoClause hr⟩

end Sys2Proof.Proofs
end

section
/-!
SUPPORT. Twin messages are checked; HELLO and the automatic join (R154, R156 to R161, R167, R181): O49.
-/
namespace Sys2Proof.Proofs
open Sys2Proof.Machine

/-! ### The checks of a message -/

theorem messageChecks {i : Instr} {code : Nat} {f : List Byte} {act : List Byte → State → State} {s : State} (e : exec i s = .next (onMessage code f act s)) :
    (ethPayload 0x88B6 f = none ∨ s.runs = false ∨ s.twinId = 0 ∨ fld (msgWord (frameMessage f) 0) 31 24 ≠ code → exec i s = .next s) ∧
    ((ethPayload 0x88B6 f).isSome = true → s.runs = true → s.twinId ≠ 0 → fld (msgWord (frameMessage f) 0) 31 24 = code → msgCodeOk s.keys.regT (frameMessage f) = false →
      exec i s = .next (s.updTwin fun t => { t with scodeFail := satInc 0xFFFF t.scodeFail })) ∧
    ((ethPayload 0x88B6 f).isSome = true → s.runs = true → s.twinId ≠ 0 → fld (msgWord (frameMessage f) 0) 31 24 = code → msgCodeOk s.keys.regT (frameMessage f) = true → msgPlaced (frameMessage f) s = false →
      twinConflict (frameMessage f) s = false →
      exec i s = .next (s.updTwin fun t => { t with linkRej := satInc 0xFFFF t.linkRej })) := by
  rw [e]
  cases payload : ethPayload 0x88B6 f with
  | none =>
    have none' : onMessage code f act s = s := by rw [onMessage, payload]
    exact ⟨fun _ => congrArg _ none', nofun, nofun⟩
  | some m =>
    have message : frameMessage f = m := by rw [frameMessage, payload, Option.getD_some]
    have opened : onMessage code f act s = onPayload code m act s := by rw [onMessage, payload]
    rw [message, opened]
    refine ⟨fun out => congrArg _ ?_, fun _ hr id type bad => congrArg _ ?_, fun _ hr id type good misplaced free => congrArg _ ?_⟩
    · refine if_pos ?_
      rcases out with h | h | h | h
      · cases h
      · simp [h]
      · simp [h]
      · simp [h]
    · rw [onPayload, if_neg (by simp [hr, id, type]), if_pos (by simp [bad])]
    · rw [onPayload, if_neg (by simp [hr, id, type]), if_neg (by simp [good]), if_pos (by simp [misplaced])]
      dsimp only
      refine if_neg ?_
      simp only [Bool.not_eq_true]
      exact free

/-! ### HELLO -/

/-- What a HELLO has noted in the twin's record. -/
def helloView (t : Twin) := (t.peer, t.rxSeq, t.helloNow, t.delayNs, t.offsetNs)

/-- What was noted stands, and only the work of the pair has changed. -/
def HelloStands (s t : State) : Prop := PairWork s t ∧ helloView t.twin = helloView s.twin

theorem HelloStands.refl (s : State) : HelloStands s s := ⟨.refl s, rfl⟩

theorem HelloStands.trans {s t u : State} (h : HelloStands s t) (k : HelloStands t u) : HelloStands s u := ⟨h.1.trans k.1, k.2.trans h.2⟩

theorem HelloStands.ite {c : Prop} [Decidable c] {s t u : State} (h : HelloStands s t) (k : HelloStands s u) : HelloStands s (if c then t else u) := by
  split
  · exact h
  · exact k

theorem helloStands_setPState (new : PState) (s : State) : HelloStands s (setPState new s) := by
  refine ⟨pairWork_setPState new s, ?_⟩
  unfold setPState
  split
  · rfl
  · dsimp only
    split <;> rfl

theorem helloStands_sendMsg (mtype prio : Nat) (body : List Byte) (s : State) : HelloStands s (sendMsg mtype prio body s) := by
  refine ⟨pairWork_sendMsg .., ?_⟩
  unfold sendMsg
  split <;> rfl

theorem helloStands_complete (p : Port) (op tag : Half) (r : Reply) (s : State) : HelloStands s (complete p op tag r s) :=
  ⟨pairWork_complete .., (congrArg (fun u : State => helloView u.twin) (complete_frame p op tag r s) :)⟩

theorem helloStands_abandonRecord (reason n : Nat) (s : State) : HelloStands s (abandonRecord reason n s) :=
  ⟨pairWork_abandonRecord .., raiseOpen_low (P := fun t => helloView t.twin = helloView s.twin) (src := 0x30) (by decide)
    (fun u v e _ hu => (congrArg (fun x : State => helloView x.twin) e :).trans hu) rfl none rfl⟩

theorem helloStands_abandonJoin (reason : Nat) (s : State) : HelloStands s (abandonJoin reason s) := by
  unfold abandonJoin
  split
  · exact .refl s
  · next j _ =>
    extract_lets s1 s2 s3
    have h1 : HelloStands s s1 := ⟨pairWork_updTwin .., rfl⟩
    have h2 : HelloStands s s2 := .ite (h1.trans (helloStands_setPState ..)) h1
    have h3 : HelloStands s s3 := by
      dsimp only [s3]
      split
      · exact h2.trans (helloStands_complete ..)
      · exact h2
    exact h3.trans (helloStands_abandonRecord ..)

theorem helloStands_dropJoin (reason : Nat) (s : State) : HelloStands s (dropJoin reason s) := by
  unfold dropJoin
  exact .ite (.refl s) ((helloStands_sendMsg ..).trans (helloStands_abandonJoin ..))

theorem helloStands_startJoin (client : Option (Port × Half)) (s : State) : HelloStands s (startJoin client s) := by
  unfold startJoin
  extract_lets j s1
  have h1 : HelloStands s s1 := ⟨pairWork_updTwin .., rfl⟩
  have sent := (h1.trans (helloStands_sendMsg ..)).trans (helloStands_setPState .joining (sendMsg 0x28 3 (roundReason s.floe.round 0) s1))
  exact sent.trans ⟨pairWork_settleOutputs _, (congrArg (fun u : State => helloView u.twin) (settleOutputs_frame _) :)⟩

theorem helloStands_autoJoin (s : State) : HelloStands s (autoJoin s) := by
  unfold autoJoin
  exact .ite (helloStands_startJoin ..) (.refl s)

theorem helloStands_endWaits (s : State) : HelloStands s (endWaits s) := by
  unfold endWaits
  split
  · refine foldl_keeps (f := fun s t => match s.run t with
      | some c => if c.inSig.isSome && !c.agreed && !c.unagreed then endWait t s else s
      | none => s) (P := HelloStands s) (fun u k hu => ?_) _ (.refl s)
    split
    · exact .ite (hu.trans ⟨pairWork_updTasks .., rfl⟩) hu
    · exact hu
  · exact .refl s

theorem helloStands_helloEffects (s : State) : HelloStands s (helloEffects s) := by
  unfold helloEffects
  extract_lets s1 s2
  have h1 : HelloStands s s1 := .ite (helloStands_setPState ..) (helloStands_endWaits s)
  have h2 : HelloStands s s2 := by
    dsimp only [s2]
    split
    · exact .ite (h1.trans (helloStands_dropJoin ..)) h1
    · exact h1
  exact h2.trans (helloStands_autoJoin _)

/-- A HELLO's offset is noted, and the rest of what it has noted stands. -/
theorem offsetStep_notes (o : Int) (s : State) : PairWork s (offsetStep o s) ∧
    helloView (offsetStep o s).twin = (s.twin.peer, s.twin.rxSeq, s.twin.helloNow, s.twin.delayNs, o) := by
  unfold offsetStep
  split
  · exact ⟨pairWork_updTwin .., rfl⟩
  · extract_lets bad s1
    have h1 : PairWork s s1 ∧ helloView s1.twin = (s.twin.peer, s.twin.rxSeq, s.twin.helloNow, s.twin.delayNs, o) := ⟨pairWork_updTwin .., rfl⟩
    split
    · exact raiseOpen_low (P := fun t => PairWork s t ∧ helloView t.twin = (s.twin.peer, s.twin.rxSeq, s.twin.helloNow, s.twin.delayNs, o)) (src := 0x30) (by decide)
        (fun u v e _ hu => ⟨hu.1.trans (.ofFault e), (congrArg (fun x : State => helloView x.twin) e :).trans hu.2⟩) rfl none h1
    · exact h1

theorem helloClause (receipt : Dword) (restarted : Bool) (f : List Byte) (s : State)
    (h : accepted 0x01 f (if restarted then s.updTwin fun t => { t with rxSeq := none } else s) = true) :
    ∃ t p, exec (.hello receipt f restarted) s = .next t ∧ t.twin.peer = some p ∧ p.health = wordAt (msgBody (frameMessage f)) 0 ∧
      p.txTime = dwordAt (msgBody (frameMessage f)) 2 ∧ p.receipt = receipt ∧ p.round = s.floe.round ∧
      t.twin.rxSeq = some (msgWord (frameMessage f) 1) ∧ t.twin.helloNow = true ∧
      t.twin.delayNs = ((receipt - dwordAt (msgBody (frameMessage f)) 4).toInt - (wordAt (msgBody (frameMessage f)) 1).toInt).tdiv 2 ∧
      t.twin.offsetNs = (dwordAt (msgBody (frameMessage f)) 2).toInt + t.twin.delayNs - receipt.toInt ∧ t.mem = s.mem ∧ t.keys = s.keys := by
  obtain ⟨u, hu⟩ : ∃ u, u = if restarted then s.updTwin fun t => { t with rxSeq := none } else s := ⟨_, rfl⟩
  rw [← hu] at h
  have ran : exec (.hello receipt f restarted) s = .next (helloTaken receipt (msgBody (frameMessage f)) (noted f u)) := by
    rw [hu] at h ⊢
    exact congrArg Host.Outcome.next (onMessage_noted h)
  have same : u.mem = s.mem ∧ u.keys = s.keys ∧ u.floe = s.floe := by
    rw [hu]
    split <;> exact ⟨rfl, rfl, rfl⟩
  obtain ⟨mem, keys, floe⟩ := same
  obtain ⟨b, hb⟩ : ∃ b, b = msgBody (frameMessage f) := ⟨_, rfl⟩
  rw [← hb] at ran ⊢
  obtain ⟨d, hd⟩ : ∃ d, d = ((receipt - dwordAt b 4).toInt - (wordAt b 1).toInt).tdiv 2 := ⟨_, rfl⟩
  obtain ⟨v, hv⟩ : ∃ v : State, v = (noted f u).updTwin fun t => { t with peer := some { health := wordAt b 0, txTime := dwordAt b 2, receipt := receipt, litCrc := dwordAt b 6, descCrc := dwordAt b 8, cfgCrc := dwordAt b 10, round := u.floe.round }, helloNow := true, delayNs := d, linkOk := linkHolds t.helloRuns d (noted f u) } := ⟨_, rfl⟩
  have taken : helloTaken receipt b (noted f u) = helloEffects (offsetStep ((dwordAt b 2).toInt + d - receipt.toInt) v) := by
    rw [hv, hd]
    rfl
  have base : v.mem = u.mem ∧ v.keys = u.keys ∧ v.twin.rxSeq = some (msgWord (frameMessage f) 1) ∧ v.twin.helloNow = true ∧ v.twin.delayNs = d ∧
      v.twin.peer = some { health := wordAt b 0, txTime := dwordAt b 2, receipt := receipt, litCrc := dwordAt b 6, descCrc := dwordAt b 8, cfgCrc := dwordAt b 10, round := u.floe.round } := by
    rw [hv]
    exact ⟨rfl, rfl, rfl, rfl, rfl, rfl⟩
  obtain ⟨vmem, vkeys, seq, now, delay, peer⟩ := base
  obtain ⟨work, view⟩ := offsetStep_notes ((dwordAt b 2).toInt + d - receipt.toInt) v
  obtain ⟨t, ht⟩ : ∃ t, t = helloEffects (offsetStep ((dwordAt b 2).toInt + d - receipt.toInt) v) := ⟨_, rfl⟩
  have stands := helloStands_helloEffects (offsetStep ((dwordAt b 2).toInt + d - receipt.toInt) v)
  rw [← ht] at stands taken
  have all := stands.2.trans view
  rw [peer, seq, now, delay] at all
  simp only [helloView, Prod.mk.injEq] at all
  obtain ⟨peer', seq', now', delay', offset'⟩ := all
  have both := work.trans stands.1
  refine ⟨t, _, ran.trans (congrArg _ taken), peer', rfl, rfl, rfl, congrArg Floe.round floe, seq', now', delay'.trans hd, ?_,
    both.mem.trans (vmem.trans mem), both.keys.trans (vkeys.trans keys)⟩
  rw [offset', delay']

theorem helloSendClause {s : State} (hr : s.runs = true) :
    (linkUsable s = true → exec .helloSend s = .next (s.updTwin fun t =>
      { t with txQueue := insertMsg 1 (twinMessage 0x01 (helloBody s) s) t.txQueue })) ∧
    (linkUsable s = false → exec .helloSend s = .next s) :=
  ⟨fun h => congrArg Host.Outcome.next ((if_pos hr).trans (sendMsg_usable h ..)),
    fun h => congrArg Host.Outcome.next ((if_pos hr).trans (if_pos (by simp [h])))⟩

/-! ### The automatic join -/

/-- The request of a join on its way (R181). -/
def joinAsked (client : Option (Port × Half)) (s : State) : Join :=
  { mine := true, roundP := s.floe.round, client := client, acked := false, cameFrom := s.twin.ps, ackRound := 0, unsent := [], cur := none, marked := [], quarters := 0, journal := [], tries := 0, entryRound := none, origin := 0, scan := 0 }

theorem setPState_unpaired {new : PState} {s : State} (away : s.twin.ps ≠ .paired) (ne : s.twin.ps ≠ new) :
    (setPState new s).twin = { s.twin with ps := new } ∧ { setPState new s with twin := s.twin, ice := s.ice } = s := by
  rw [setPState, if_neg ne, if_neg away]
  exact ⟨rfl, rfl⟩

/-- A join that starts outside a pair: the request stands in the queue, and the twin is JOINING. -/
theorem startJoin_joining (client : Option (Port × Half)) {s : State} (away : s.twin.ps ≠ .paired) (ne : s.twin.ps ≠ .joining) (usable : linkUsable s = true) :
    (startJoin client s).twin = { s.twin with ps := .joining, join := some (joinAsked client s), txQueue := insertMsg 3 (twinMessage 0x28 (roundReason s.floe.round 0) s) s.twin.txQueue } ∧
      { startJoin client s with twin := s.twin, io := s.io, ice := s.ice } = s := by
  obtain ⟨u, hu⟩ : ∃ u : State, u = s.updTwin fun t => { t with join := some (joinAsked client s) } := ⟨_, rfl⟩
  have usable' : linkUsable u = true := by rw [hu]; exact usable
  obtain ⟨v, hv⟩ : ∃ v : State, v = u.updTwin fun t => { t with txQueue := insertMsg 3 (twinMessage 0x28 (roundReason s.floe.round 0) u) t.txQueue } := ⟨_, rfl⟩
  have eq : startJoin client s = settleOutputs (setPState .joining v) := by
    rw [hv, ← sendMsg_usable usable', hu]
    rfl
  have base : v.twin = { s.twin with join := some (joinAsked client s), txQueue := insertMsg 3 (twinMessage 0x28 (roundReason s.floe.round 0) s) s.twin.txQueue } ∧
      { v with twin := s.twin } = s := by
    rw [hv, hu]
    exact ⟨rfl, rfl⟩
  obtain ⟨twin, rest⟩ := base
  have ps : v.twin.ps = s.twin.ps := (congrArg Twin.ps twin :)
  obtain ⟨joined, frame⟩ := setPState_unpaired (new := .joining) (s := v) (by rw [ps]; exact away) (by rw [ps]; exact ne)
  have settled := settleOutputs_frame (setPState .joining v)
  rw [eq]
  refine ⟨(congrArg State.twin settled :).trans (joined.trans (by rw [twin])), ?_⟩
  exact (congrArg (fun x : State => { x with twin := s.twin, io := s.io, ice := s.ice }) settled :).trans
    ((congrArg (fun x : State => { x with twin := s.twin, io := s.io, ice := s.ice }) frame :).trans
      (congrArg (fun x : State => { x with io := s.io, ice := s.ice }) rest :))

theorem joinRetryClause {s : State} (hr : s.runs = true) (state : s.twin.ps = .alone ∨ s.twin.ps = .silent) (may : mayJoin s = true)
    (waited : s.twin.retryMs ≤ s.tb.ms) (free : joinReason s = none) (usable : linkUsable s = true) :
    ∃ t j, exec .joinRetry s = .next t ∧ t.twin.ps = .joining ∧ t.twin.join = some j ∧ j.mine = true ∧ j.acked = false ∧
      j.roundP = s.floe.round ∧ j.cameFrom = s.twin.ps ∧ j.client = none ∧
      t.twin.txQueue = insertMsg 3 (twinMessage 0x28 (roundReason s.floe.round 0) s) s.twin.txQueue ∧
      { t with twin := s.twin, io := s.io, ice := s.ice } = s := by
  have away : s.twin.ps ≠ .paired := by rcases state with h | h <;> rw [h] <;> decide
  have ne : s.twin.ps ≠ .joining := by rcases state with h | h <;> rw [h] <;> decide
  obtain ⟨twin, rest⟩ := startJoin_joining none away ne usable
  exact ⟨_, joinAsked none s, congrArg Host.Outcome.next ((if_pos hr).trans (if_pos ⟨state, may, waited, free⟩)), (congrArg Twin.ps twin :),
    (congrArg Twin.join twin :), rfl, rfl, rfl, rfl, rfl, (congrArg Twin.txQueue twin :), rest⟩

/-- Settles O49: one lemma on the checks serves every type of message; what a HELLO notes is not touched by what it sets off. -/
theorem twinMessagesAreChecked : Obligations.TwinMessagesAreChecked := by
  unfold Obligations.TwinMessagesAreChecked
  refine ⟨fun f s x hx => ?_, helloClause, fun s hr => helloSendClause hr, fun s hr state may waited free usable => joinRetryClause hr state may waited free usable⟩
  simp only [List.mem_cons, List.not_mem_nil, or_false] at hx
  rcases hx with rfl | rfl | rfl | rfl | rfl | rfl | rfl | rfl | rfl | rfl | rfl | rfl | rfl | rfl
  all_goals exact messageChecks rfl

end Sys2Proof.Proofs
end

section
/-!
SUPPORT. Splits of the pair (R158, R177 to R179): O50.
-/
namespace Sys2Proof.Proofs
open Sys2Proof.Machine

/-! ### Operations that a port starts -/

/-- An execute taken: its token is used up, and the operation is pending. -/
def pended (p : Port) (op tag : Half) (s : State) : State := pendStart p op tag (spendToken p op (takeCommand p s))

/-- An operation that starts changes the ports alone. -/
theorem pended_hif (p : Port) (op tag : Half) (s : State) : ∃ h, pended p op tag s = s.updHif (fun _ => h) ∧
    ((s.updHif fun _ => h).port p).pend = (s.port p).pend ++ [{ opcode := op, tag := tag }] := by
  have same : pended p op tag s = s.updHif fun _ => (pended p op tag s).hif := by cases p <;> rfl
  refine ⟨_, same, ?_⟩
  rw [← same]
  cases p <;> rfl

theorem setPState_twin (new : PState) (s : State) : (setPState new s).twin = { s.twin with ps := new } := by
  unfold setPState
  split
  · next same =>
    rw [← same]
  · dsimp only
    split <;> rfl

/-! ### What an end of a split keeps -/

/-- The low fault of an end handshake keeps ports, twin and image. -/
theorem abandonRecord_keeps (reason n : Nat) (s : State) :
    (abandonRecord reason n s).hif = s.hif ∧ (abandonRecord reason n s).twin = s.twin :=
  raiseOpen_low (P := fun t => t.hif = s.hif ∧ t.twin = s.twin) (src := 0x30) (by decide)
    (fun u v e _ hu => ⟨(congrArg State.hif e :).trans hu.1, (congrArg State.twin e :).trans hu.2⟩) rfl none ⟨rfl, rfl⟩

theorem completed_of_hif {p : Port} {op tag : Half} {r : Reply} {s t u : State} (h : completed p op tag r s t) (same : u.hif = t.hif) : completed p op tag r s u := by
  intro pend
  rw [port_of_hif same]
  exact h pend

/-- The end of a split: no split stands, and its operation completes. -/
theorem endSplit_done {x : Split} {s : State} (h : s.twin.split = some x) (r : Reply) :
    (endSplit r s).twin = { s.twin with split := none } ∧ { endSplit r s with twin := s.twin, hif := s.hif } = s ∧
      ∀ p tag, x.client = some (p, tag) → ∀ u, s.hif = u.hif → completed p 0x0A02 tag r u (endSplit r s) := by
  unfold endSplit
  rw [h]
  dsimp only
  obtain ⟨v, hv⟩ : ∃ v : State, v = s.updTwin fun t => { t with split := none } := ⟨_, rfl⟩
  have base : v.twin = { s.twin with split := none } ∧ v.hif = s.hif ∧ { v with twin := s.twin } = s := by
    rw [hv]
    exact ⟨rfl, rfl, rfl⟩
  obtain ⟨twin, hif, rest⟩ := base
  rw [← hv]
  cases client : x.client with
  | none => exact ⟨twin, (congrArg (fun u : State => { u with hif := s.hif }) rest :), nofun⟩
  | some c =>
    obtain ⟨p, tag⟩ := c
    have frame := complete_frame p 0x0A02 tag r v
    refine ⟨(congrArg State.twin frame :).trans twin, (congrArg (fun u : State => { u with twin := s.twin, hif := s.hif }) frame :).trans (congrArg (fun u : State => { u with hif := s.hif }) rest :), ?_⟩
    intro p' tag' e u same
    cases e
    exact completed_complete (hif.trans same)

theorem abandonSplit_done {x : Split} {s : State} (h : s.twin.split = some x) (reason : Nat) :
    (abandonSplit reason s).twin = { s.twin with split := none } ∧
      ∀ p tag, x.client = some (p, tag) → ∀ u, s.hif = u.hif → completed p 0x0A02 tag (.error .errTwin reason 0) u (abandonSplit reason s) := by
  obtain ⟨twin, -, done⟩ := endSplit_done h (.error .errTwin reason 0)
  rw [abandonSplit, if_neg (by simp [h])]
  obtain ⟨hif, kept⟩ := abandonRecord_keeps reason 2 (endSplit (.error .errTwin reason 0) s)
  exact ⟨kept.trans twin, fun p tag client u same => completed_of_hif (done p tag client u same) hif⟩

/-! ### The request -/

theorem splitAskedClause (p : Port) (tag : Half) (token : Word) {s : State} (ok : ready (.twinSplitExecute p tag token) s = true)
    (service : s.inService = true) (paired : s.twin.ps = .paired) (free : splitReason s = none) (usable : linkUsable s = true) :
    ∃ t, answers (.twinSplitExecute p tag token) .pend s t ∧
      t.twin = { s.twin with
        split := some { mine := true, roundS := s.floe.round, client := some (p, tag), acked := false },
        txQueue := insertMsg 3 (twinMessage 0x20 (roundReason s.floe.round 0) s) s.twin.txQueue } ∧
      (t.port p).pend = (s.port p).pend ++ [{ opcode := 0x0A02, tag := tag }] ∧ { t with hif := s.hif, twin := s.twin } = s := by
  have hc : hostCommand (.twinSplitExecute p tag token) = some ⟨p, 0x0A02, tag, wordsBytes [2, token]⟩ := rfl
  obtain ⟨h, same, pend⟩ := pended_hif p 0x0A02 tag s
  obtain ⟨v, hv⟩ : ∃ v : State, v = s.updHif fun _ => h := ⟨_, rfl⟩
  rw [← hv] at same pend
  obtain ⟨w, hw⟩ : ∃ w : State, w = v.updTwin fun t => { t with split := some { mine := true, roundS := s.floe.round, client := some (p, tag), acked := false } } := ⟨_, rfl⟩
  have usable' : linkUsable w = true := by rw [hw, hv]; exact usable
  have run : handleTwinSplit p tag (wordsBytes [2, token]) (takeCommand p s) =
      (.pend, w.updTwin fun t => { t with txQueue := insertMsg 3 (twinMessage 0x20 (roundReason s.floe.round 0) w) t.txQueue }) := by
    rw [← sendMsg_usable usable']
    refine (armExecute_execute ..).trans ?_
    have free' : splitReason (takeCommand p s) = none := free
    have service' : (takeCommand p s).inService = true := service
    have paired' : (takeCommand p s).twin.ps = .paired := paired
    rw [splitExecute, if_neg (by simp [service', paired']), free']
    dsimp only
    rw [← pended, same, hw, hv]
    rfl
  refine ⟨_, answers_queued hc ok run rfl, ?_, ?_, ?_⟩
  · refine (queued_view (view := State.twin) (blind := fun _ _ => rfl) ..).trans ?_
    rw [hw, hv]
    rfl
  · rw [queued_pend, ← pend, hw]
    cases p <;> rfl
  · refine (queued_view (view := fun t => { t with hif := s.hif, twin := s.twin }) (blind := fun _ _ => rfl) ..).trans ?_
    rw [hw, hv]
    rfl

/-! ### The answer -/

theorem linkUsable_of_accepted {mtype : Nat} {f : List Byte} {s : State} (h : accepted mtype f s = true) : linkUsable s = true := by
  simp only [accepted, Bool.and_eq_true, decide_eq_true_eq] at h
  obtain ⟨⟨⟨-, id, -⟩, code⟩, -⟩ := h
  have key : s.keys.regT.isSome = true := by
    cases k : s.keys.regT with
    | some _ => rfl
    | none => rw [k] at code; exact code
  simp [linkUsable, id, key]

/-- What a message of the link notes leaves the handshakes and the queue. -/
theorem noted_kept (f : List Byte) (s : State) : remainReason (noted f s) = remainReason s ∧ linkUsable (noted f s) = linkUsable s ∧
    { noted f s with twin := s.twin } = s ∧ (noted f s).twin.split = s.twin.split ∧ (noted f s).twin.txQueue = s.twin.txQueue ∧
    ∀ mtype body, twinMessage mtype body (noted f s) = twinMessage mtype body s := ⟨rfl, rfl, rfl, rfl, rfl, fun _ _ => rfl⟩

theorem splitRequestClause (f : List Byte) (s : State) (h : accepted 0x20 f s = true) :
    ∃ t, exec (.splitreq f) s = .next t ∧ { t with twin := s.twin } = s ∧
      (∀ r, remainReason s = some r → t.twin.split = s.twin.split ∧ t.twin.txQueue =
        insertMsg 3 (twinMessage 0x21 (roundReason (wordAt (msgBody (frameMessage f)) 0).toNat r) s) s.twin.txQueue) ∧
      (remainReason s = none → t.twin.split =
          some { mine := false, roundS := (wordAt (msgBody (frameMessage f)) 0).toNat, client := none, acked := true } ∧ t.twin.txQueue =
        insertMsg 3 (twinMessage 0x21 (roundReason (wordAt (msgBody (frameMessage f)) 0).toNat 0) s) s.twin.txQueue) := by
  have ran : exec (.splitreq f) s = .next (splitRequested (msgBody (frameMessage f)) (noted f s)) := congrArg Host.Outcome.next (onMessage_noted h)
  obtain ⟨reason, usable, rest, split, queue, message⟩ := noted_kept f s
  rw [linkUsable_of_accepted h] at usable
  generalize noted f s = u at *
  refine ⟨_, ran, ?_⟩
  rw [splitRequested, reason]
  generalize msgBody (frameMessage f) = b
  cases remainReason s with
  | some r =>
    dsimp only
    rw [sendMsg_usable usable, message]
    exact ⟨rest, fun r' e => by cases e; exact ⟨split, congrArg (insertMsg 3 _) queue⟩, nofun⟩
  | none =>
    dsimp only
    obtain ⟨v, hv⟩ : ∃ v : State, v = u.updTwin fun t => { t with split := some { mine := false, roundS := (wordAt b 0).toNat, client := none, acked := true } } := ⟨_, rfl⟩
    have base : linkUsable v = linkUsable u ∧ { v with twin := s.twin } = { u with twin := s.twin } ∧ v.twin.txQueue = u.twin.txQueue ∧
        v.twin.split = some { mine := false, roundS := (wordAt b 0).toNat, client := none, acked := true } ∧ ∀ mtype body, twinMessage mtype body v = twinMessage mtype body u := by
      rw [hv]
      exact ⟨rfl, rfl, rfl, rfl, fun _ _ => rfl⟩
    obtain ⟨able, same, queue', split', message'⟩ := base
    rw [← hv, sendMsg_usable (able.trans usable), message', message]
    exact ⟨same.trans rest, nofun, fun _ => ⟨split', congrArg (insertMsg 3 _) (queue'.trans queue)⟩⟩

theorem splitAnswerClause (f : List Byte) (x : Split) (s : State) (h : accepted 0x21 f s = true) (split : s.twin.split = some x) (mine : x.mine = true)
    (waits : x.acked = false) (round : x.roundS = (wordAt (msgBody (frameMessage f)) 0).toNat) :
    ∃ t, exec (.splitack f) s = .next t ∧
      (wordAt (msgBody (frameMessage f)) 1 = 0 → t.twin.split = some { x with acked := true } ∧ { t with twin := s.twin } = s) ∧
      (wordAt (msgBody (frameMessage f)) 1 ≠ 0 → t.twin.split = none ∧ ∀ p tag, x.client = some (p, tag) →
        completed p 0x0A02 tag (.error .errTwin (wordAt (msgBody (frameMessage f)) 1).toNat 0) s t) := by
  have ran : exec (.splitack f) s = .next (splitAnswered (msgBody (frameMessage f)) (noted f s)) := congrArg Host.Outcome.next (onMessage_noted h)
  have split' : (noted f s).twin.split = some x := split
  have hif : (noted f s).hif = s.hif := rfl
  have rest : { noted f s with twin := s.twin } = s := rfl
  generalize noted f s = u at *
  have answer : splitAnswered (msgBody (frameMessage f)) u = if wordAt (msgBody (frameMessage f)) 1 = 0 then u.updTwin fun t => { t with split := some { x with acked := true } }
      else abandonSplit (wordAt (msgBody (frameMessage f)) 1).toNat u := by
    rw [splitAnswered, split']
    exact if_neg (by simp [mine, waits, round])
  refine ⟨_, ran.trans (congrArg _ answer), fun zero => ?_, fun other => ?_⟩
  · rw [if_pos zero]
    exact ⟨rfl, rest⟩
  · rw [if_neg other]
    obtain ⟨twin, done⟩ := abandonSplit_done split' (wordAt (msgBody (frameMessage f)) 1).toNat
    exact ⟨(congrArg Twin.split twin :), fun p tag client => done p tag client s hif⟩

/-! ### The end of a split -/

/-- The partner is told that a handshake has ended, with a reason that the state does not fix (log entry 48). -/
theorem sendAbort_drawn (r : Nat) (s : State) : (sendAbort r (drawFree s).2).twin.split = s.twin.split ∧ (sendAbort r (drawFree s).2).hif = s.hif ∧
    (linkUsable s = true → (sendAbort r (drawFree s).2).twin.txQueue = insertMsg 3 (twinMessage 0x2C (roundReason 0 r) s) s.twin.txQueue) := by
  obtain ⟨u, hu⟩ : ∃ u, u = (drawFree s).2 := ⟨_, rfl⟩
  have base : u.twin = s.twin ∧ u.hif = s.hif ∧ linkUsable u = linkUsable s ∧ ∀ mtype body, twinMessage mtype body u = twinMessage mtype body s := by
    rw [hu]
    exact ⟨rfl, rfl, rfl, fun _ _ => rfl⟩
  obtain ⟨twin, hif, usable, message⟩ := base
  rw [← hu]
  refine ⟨?_, (congrArg State.hif (sendMsg_frame 0x2C 3 (roundReason 0 r) u) :).trans hif, fun able => ?_⟩
  · rw [sendAbort, sendMsg]
    split
    · exact (congrArg Twin.split twin :)
    · exact (congrArg Twin.split twin :)
  · rw [sendAbort, sendMsg_usable (usable.trans able)]
    change insertMsg 3 (twinMessage 0x2C (roundReason 0 r) u) u.twin.txQueue = _
    rw [message, twin]

section
variable {x : Split} {s : State} (hr : s.runs = true) (split : s.twin.split = some x)
include hr split

theorem splitUnansweredClause (mine : x.mine = true) (waits : x.acked = false) : ∃ t r, exec .splitackTimeout s = .next t ∧ t.twin.split = none ∧
      (linkUsable s = true → t.twin.txQueue = insertMsg 3 (twinMessage 0x2C (roundReason 0 r) s) s.twin.txQueue) ∧
      ∀ p tag, x.client = some (p, tag) → completed p 0x0A02 tag (.error .errTwin r 0) s t := by
  obtain ⟨r, hrr⟩ : ∃ r, r = (drawFree s).1.toNat % 2 ^ 32 := ⟨_, rfl⟩
  obtain ⟨v, hv⟩ : ∃ v, v = sendAbort r (drawFree s).2 := ⟨_, rfl⟩
  have ran : exec .splitackTimeout s = .next (abandonSplit r v) := by
    have run : exec .splitackTimeout s = execSplitackTimeout s := rfl
    have stands : (drawFree s).2.twin.split.isNone = false := by
      rw [show (drawFree s).2.twin.split = some x from split]
      rfl
    rw [run, execSplitackTimeout, whileRunning, if_pos hr, split]
    dsimp only
    rw [if_pos ⟨mine, by simp [waits]⟩, openReason, hv, hrr]
    dsimp only
    rw [dropSplit, if_neg (by simp [stands])]
  obtain ⟨split', hif, queue⟩ := sendAbort_drawn r s
  rw [← hv] at split' hif queue
  obtain ⟨done, completes⟩ := abandonSplit_done (split'.trans split) r
  exact ⟨_, r, ran, (congrArg Twin.split done :), fun able => (congrArg Twin.txQueue done :).trans (queue able), fun p tag client => completes p tag client s hif⟩

theorem splitBoundaryClause (due : splitDue x s = true) : ∃ t, exec .splitBoundary s = .next t ∧ t.twin.split = none ∧
      t.twin.ps = (if x.mine then .shadow else .alone) ∧ t.mem = s.mem ∧ (x.mine = true → t.twin.shadowRound = s.floe.round) ∧
      ∀ p tag, x.mine = true → x.client = some (p, tag) →
        completed p 0x0A02 tag (.words [BitVec.ofNat 32 s.floe.round]) s t := by
  have ran : exec .splitBoundary s = .next (splitNow x s) := by
    have run : exec .splitBoundary s = execSplitBoundary s := rfl
    rw [run, execSplitBoundary, whileRunning, if_pos hr, split]
    exact congrArg Host.Outcome.next (if_pos due)
  refine ⟨_, ran, ?_⟩
  cases mine : x.mine with
  | true =>
    obtain ⟨twin, rest, done⟩ := endSplit_done split (.words [BitVec.ofNat 32 s.floe.round])
    obtain ⟨u, hu⟩ : ∃ u, u = endSplit (.words [BitVec.ofNat 32 s.floe.round]) s := ⟨_, rfl⟩
    rw [← hu] at twin rest done
    obtain ⟨v, hv⟩ : ∃ v : State, v = (u.updTasks fun t => { t with t := t.t.map fun k => { k with shadowDiff := false } }).updTwin fun t => { t with shadowRound := u.floe.round } := ⟨_, rfl⟩
    have eq : splitNow x s = settleOutputs (setPState .shadow v) := by
      rw [splitNow, if_pos mine, hv, hu]
      rfl
    have base : v.twin = { u.twin with shadowRound := u.floe.round } ∧ v.hif = u.hif ∧ v.mem = u.mem := by
      rw [hv]
      exact ⟨rfl, rfl, rfl⟩
    obtain ⟨vtwin, vhif, vmem⟩ := base
    have frame := setPState_frame .shadow v
    have settled := settleOutputs_frame (setPState .shadow v)
    have all : (settleOutputs (setPState .shadow v)).twin = { v.twin with ps := .shadow } := (congrArg State.twin settled :).trans (setPState_twin ..)
    have hif : (settleOutputs (setPState .shadow v)).hif = u.hif := (congrArg State.hif settled :).trans ((congrArg State.hif frame :).trans vhif)
    have mem : (settleOutputs (setPState .shadow v)).mem = s.mem :=
      (congrArg State.mem settled :).trans ((congrArg State.mem frame :).trans (vmem.trans (congrArg State.mem rest :)))
    have floe : u.floe = s.floe := (congrArg State.floe rest :)
    rw [eq, all, vtwin, twin, floe]
    exact ⟨rfl, rfl, mem, fun _ => rfl, fun p tag _ client => completed_of_hif (done p tag client s rfl) hif⟩
  | false =>
    have eq : splitNow x s = setPState .alone (s.updTwin fun t => { t with split := none }) := by
      rw [splitNow, if_neg (by simp [mine])]
    have frame := setPState_frame .alone (s.updTwin fun t => { t with split := none })
    have twin := setPState_twin .alone (s.updTwin fun t => { t with split := none })
    rw [eq, twin]
    exact ⟨rfl, rfl, (congrArg State.mem frame :), nofun, nofun⟩

theorem splitNeverClause (late : x.roundS + 1000 < s.floe.round) : ∃ t r, exec .splitNoBoundary s = .next t ∧ t.twin.split = none ∧
      (linkUsable s = true → t.twin.txQueue = insertMsg 3 (twinMessage 0x2C (roundReason 0 r) s) s.twin.txQueue) ∧
      ∀ p tag, x.client = some (p, tag) → completed p 0x0A02 tag (.err .errNoBoundary) s t := by
  obtain ⟨r, hrr⟩ : ∃ r, r = (drawFree s).1.toNat % 2 ^ 32 := ⟨_, rfl⟩
  obtain ⟨v, hv⟩ : ∃ v, v = sendAbort r (drawFree s).2 := ⟨_, rfl⟩
  have ran : exec .splitNoBoundary s = .next (abandonRecord r 2 (endSplit (.err .errNoBoundary) v)) := by
    have run : exec .splitNoBoundary s = execSplitNoBoundary s := rfl
    rw [run, execSplitNoBoundary, whileRunning, if_pos hr, split]
    dsimp only
    rw [if_pos late, openReason, hv, hrr]
  obtain ⟨split', hif, queue⟩ := sendAbort_drawn r s
  rw [← hv] at split' hif queue
  obtain ⟨twin, -, done⟩ := endSplit_done (split'.trans split) (.err .errNoBoundary)
  obtain ⟨kept, twin'⟩ := abandonRecord_keeps r 2 (endSplit (.err .errNoBoundary) v)
  have all := twin'.trans twin
  exact ⟨_, r, ran, (congrArg Twin.split all :), fun able => (congrArg Twin.txQueue all :).trans (queue able), fun p tag client => completed_of_hif (done p tag client s hif) kept⟩

end

/-- Settles O50: each message and each time-out of a split is one change of the twin's record, and its operation completes with it. -/
theorem splitOfThePair : Obligations.SplitOfThePair := by
  unfold Obligations.SplitOfThePair
  exact ⟨fun p tag token s => splitAskedClause p tag token, splitRequestClause, splitAnswerClause,
    fun x s hr split => ⟨splitUnansweredClause hr split, splitBoundaryClause hr split, splitNeverClause hr split⟩⟩

end Sys2Proof.Proofs
end

section
/-!
SUPPORT. Joins of the pair (R158, R179, R181 to R183, R185): O51.
-/
namespace Sys2Proof.Proofs
open Sys2Proof.Machine

/-! ### The end of a join -/

/-- The end of a join: none stands, the next may start in 1.0 s, the pair state is the one before, and the operation completes. -/
theorem abandonJoin_done {j : Join} {s : State} (h : s.twin.join = some j) (reason : Nat) :
    (abandonJoin reason s).twin = { s.twin with join := none, retryMs := s.tb.ms + 1000, ps := if j.mine = true ∧ s.twin.ps = .joining then j.cameFrom else s.twin.ps } ∧
      ∀ p tag, j.client = some (p, tag) → ∀ u, s.hif = u.hif → completed p 0x0A03 tag (.error .errTwin reason 0) u (abandonJoin reason s) := by
  obtain ⟨u, hu⟩ : ∃ u : State, u = s.updTwin fun t => { t with join := none, retryMs := s.tb.ms + 1000 } := ⟨_, rfl⟩
  obtain ⟨v, hv⟩ : ∃ v : State, v = if j.mine = true ∧ s.twin.ps = .joining then setPState j.cameFrom u else u := ⟨_, rfl⟩
  have base : u.twin = { s.twin with join := none, retryMs := s.tb.ms + 1000 } ∧ u.hif = s.hif := by
    rw [hu]
    exact ⟨rfl, rfl⟩
  obtain ⟨utwin, uhif⟩ := base
  have back : v.twin = { s.twin with join := none, retryMs := s.tb.ms + 1000, ps := if j.mine = true ∧ s.twin.ps = .joining then j.cameFrom else s.twin.ps } ∧ v.hif = s.hif := by
    rw [hv]
    split
    · exact ⟨(setPState_twin ..).trans (by rw [utwin]), (congrArg State.hif (setPState_frame j.cameFrom u) :).trans uhif⟩
    · exact ⟨utwin, uhif⟩
  obtain ⟨vtwin, vhif⟩ := back
  have eq : abandonJoin reason s = abandonRecord reason 1 (match j.client with | some (p, tag) => complete p 0x0A03 tag (.error .errTwin reason 0) v | none => v) := by
    unfold abandonJoin
    rw [h, hv, hu]
    rfl
  rw [eq]
  cases client : j.client with
  | none =>
    obtain ⟨-, twin⟩ := abandonRecord_keeps reason 1 v
    exact ⟨twin.trans vtwin, nofun⟩
  | some c =>
    obtain ⟨p, tag⟩ := c
    obtain ⟨hif, twin⟩ := abandonRecord_keeps reason 1 (complete p 0x0A03 tag (.error .errTwin reason 0) v)
    have frame := complete_frame p 0x0A03 tag (.error .errTwin reason 0) v
    refine ⟨twin.trans ((congrArg State.twin frame :).trans vtwin), ?_⟩
    intro p' tag' e w same
    cases e
    exact completed_of_hif (completed_complete (vhif.trans same)) hif

theorem dropJoin_done {j : Join} {s : State} (h : s.twin.join = some j) (reason : Nat) : (dropJoin reason s).twin.join = none ∧
    ∀ p tag, j.client = some (p, tag) → ∀ u, s.hif = u.hif → completed p 0x0A03 tag (.error .errTwin reason 0) u (dropJoin reason s) := by
  obtain ⟨v, hv⟩ : ∃ v, v = sendAbort reason s := ⟨_, rfl⟩
  have stands : v.twin.join = some j := by
    rw [hv, sendAbort, sendMsg]
    split <;> exact h
  have hif : v.hif = s.hif := by
    rw [hv]
    exact (congrArg State.hif (sendMsg_frame 0x2C 3 (roundReason 0 reason) s) :)
  obtain ⟨twin, done⟩ := abandonJoin_done stands reason
  rw [dropJoin, if_neg (by simp [h]), ← hv]
  exact ⟨(congrArg Twin.join twin :), fun p tag client u same => done p tag client u (hif.trans same)⟩

/-! ### The request -/

theorem joinAskedClause (p : Port) (tag : Half) (token : Word) {s : State} (ok : ready (.twinJoinExecute p tag token) s = true)
    (may : mayJoin s = true) (free : joinReason s = none) :
    ∃ t j, answers (.twinJoinExecute p tag token) .pend s t ∧ t.twin.ps = .joining ∧ t.twin.join = some j ∧
      j.mine = true ∧ j.acked = false ∧ j.client = some (p, tag) ∧ j.roundP = s.floe.round ∧
      (t.port p).pend = (s.port p).pend ++ [{ opcode := 0x0A03, tag := tag }] ∧
      { t with hif := s.hif, twin := s.twin, io := s.io, ice := s.ice, tasks := s.tasks } = s := by
  have hc : hostCommand (.twinJoinExecute p tag token) = some ⟨p, 0x0A03, tag, wordsBytes [2, token]⟩ := rfl
  obtain ⟨h, same, pend⟩ := pended_hif p 0x0A03 tag s
  obtain ⟨v, hv⟩ : ∃ v : State, v = s.updHif fun _ => h := ⟨_, rfl⟩
  rw [← hv] at same pend
  have run : handleTwinJoin p tag (wordsBytes [2, token]) (takeCommand p s) = (.pend, startJoin (some (p, tag)) v) := by
    refine (armExecute_execute ..).trans ?_
    have free' : joinReason (takeCommand p s) = none := free
    have may' : mayJoin (takeCommand p s) = true := may
    rw [joinExecute, if_neg (by simp [may']), free']
    dsimp only
    rw [← pended, same]
  have base : v.floe = s.floe ∧ { v with hif := s.hif } = s := by
    rw [hv]
    exact ⟨rfl, rfl⟩
  obtain ⟨floe, rest⟩ := base
  obtain ⟨u, hu⟩ : ∃ u : State, u = v.updTwin fun t => { t with join := some (joinAsked (some (p, tag)) v) } := ⟨_, rfl⟩
  obtain ⟨w, hw⟩ : ∃ w : State, w = sendMsg 0x28 3 (roundReason v.floe.round 0) u := ⟨_, rfl⟩
  have started : startJoin (some (p, tag)) v = settleOutputs (setPState .joining w) := by
    rw [hw, hu]
    rfl
  have join : w.twin.join = some (joinAsked (some (p, tag)) v) := by
    rw [hw, hu, sendMsg]
    split <;> rfl
  have wrest : { w with twin := v.twin } = v := by
    have frame := sendMsg_frame 0x28 3 (roundReason v.floe.round 0) u
    rw [← hw] at frame
    refine (congrArg (fun x : State => { x with twin := v.twin }) frame :).trans ?_
    rw [hu]
    rfl
  have frame := setPState_frame .joining w
  have settled := settleOutputs_frame (setPState .joining w)
  have twin : (startJoin (some (p, tag)) v).twin = { w.twin with ps := .joining } := by
    rw [started]
    exact (congrArg State.twin settled :).trans (setPState_twin ..)
  have whole : { startJoin (some (p, tag)) v with twin := v.twin, io := v.io, ice := v.ice, tasks := v.tasks } = v := by
    rw [started]
    refine (congrArg (fun x : State => { x with twin := v.twin, io := v.io, ice := v.ice, tasks := v.tasks }) settled :).trans
      ((congrArg (fun x : State => { x with twin := v.twin, io := v.io, ice := v.ice, tasks := v.tasks }) frame :).trans
        (congrArg (fun x : State => { x with io := v.io, ice := v.ice, tasks := v.tasks }) wrest :))
  obtain ⟨x, hx⟩ : ∃ x, x = startJoin (some (p, tag)) v := ⟨_, rfl⟩
  rw [← hx] at run twin whole
  have xhif : x.hif = v.hif := (congrArg State.hif whole :)
  have qtwin : (queueResponse p 0x0A03 tag .pend x).twin = x.twin := queued_view (view := State.twin) (blind := fun _ _ => rfl) ..
  refine ⟨_, joinAsked (some (p, tag)) v, answers_queued hc ok run rfl, ?_, ?_, rfl, rfl, rfl, congrArg Floe.round floe, ?_, ?_⟩
  · rw [qtwin, twin]
  · rw [qtwin, twin, join]
  · rw [queued_pend, port_of_hif xhif, ← pend]
  · refine (queued_view (view := fun t => { t with hif := s.hif, twin := s.twin, io := s.io, ice := s.ice, tasks := s.tasks }) (blind := fun _ _ => rfl) ..).trans ?_
    exact (congrArg (fun y : State => { y with hif := s.hif, twin := s.twin, io := s.io, ice := s.ice, tasks := s.tasks }) whole :).trans
      (congrArg (fun y : State => { y with twin := s.twin, io := s.io, ice := s.ice, tasks := s.tasks }) rest :)

/-! ### The answer -/

/-- The join that the serving twin owes its partner. -/
def joinServed (round : Nat) (s : State) : Join :=
  { mine := false, roundP := round, client := none, acked := true, cameFrom := s.twin.ps, ackRound := s.floe.round, unsent := List.range 3088, cur := none, marked := [], quarters := 0, journal := [], tries := 0, entryRound := none, origin := 0, scan := 0 }

theorem joinServed_unsent (round : Nat) (s : State) : (joinServed round s).unsent = List.range 3088 := by simp only [joinServed]

theorem joinRequestClause (f : List Byte) (s : State) (h : accepted 0x28 f s = true) :
    ∃ t, exec (.joinreq f) s = .next t ∧ { t with twin := s.twin } = s ∧
      (∀ r, serveReason s = some r → t.twin.join = s.twin.join ∧ t.twin.txQueue =
        insertMsg 3 (twinMessage 0x29 (roundReason (wordAt (msgBody (frameMessage f)) 0).toNat r) s) s.twin.txQueue) ∧
      (serveReason s = none → t.twin.txQueue =
          insertMsg 3 (twinMessage 0x29 (roundReason (wordAt (msgBody (frameMessage f)) 0).toNat 0) s) s.twin.txQueue ∧
        ∃ j, t.twin.join = some j ∧ j.mine = false ∧ j.acked = true ∧ j.roundP = (wordAt (msgBody (frameMessage f)) 0).toNat ∧
          j.unsent = List.range 3088 ∧ j.entryRound = none) := by
  have ran : exec (.joinreq f) s = .next (joinRequested (msgBody (frameMessage f)) (noted f s)) := congrArg Host.Outcome.next (onMessage_noted h)
  have reason : serveReason (noted f s) = serveReason s := rfl
  have join : (noted f s).twin.join = s.twin.join := rfl
  obtain ⟨-, usable, rest, -, queue, message⟩ := noted_kept f s
  rw [linkUsable_of_accepted h] at usable
  generalize noted f s = u at *
  refine ⟨_, ran, ?_⟩
  generalize msgBody (frameMessage f) = b
  cases refused : serveReason s with
  | some r =>
    rw [joinRequested, reason, refused]
    dsimp only
    rw [sendMsg_usable usable, message]
    exact ⟨rest, fun r' e => by cases e; exact ⟨join, congrArg (insertMsg 3 _) queue⟩, nofun⟩
  | none =>
    obtain ⟨v, hv⟩ : ∃ v : State, v = u.updTwin fun t => { t with join := some (joinServed (wordAt b 0).toNat u) } := ⟨_, rfl⟩
    have base : linkUsable v = linkUsable u ∧ { v with twin := s.twin } = { u with twin := s.twin } ∧ v.twin.txQueue = u.twin.txQueue ∧
        v.twin.join = some (joinServed (wordAt b 0).toNat u) ∧ ∀ mtype body, twinMessage mtype body v = twinMessage mtype body u := by
      rw [hv]
      exact ⟨rfl, rfl, rfl, rfl, fun _ _ => rfl⟩
    obtain ⟨able, same, queue', join', message'⟩ := base
    have served : joinRequested b u = sendMsg 0x29 3 (roundReason (wordAt b 0).toNat 0) v := by
      rw [joinRequested, reason, refused, hv]
      rfl
    rw [served, sendMsg_usable (able.trans usable), message', message]
    exact ⟨same.trans rest, nofun, fun _ => ⟨congrArg (insertMsg 3 _) (queue'.trans queue), _, join', rfl, rfl, rfl, joinServed_unsent .., rfl⟩⟩

theorem joinAnswerClause (f : List Byte) (j : Join) (s : State) (h : accepted 0x29 f s = true) (join : s.twin.join = some j) (mine : j.mine = true)
    (waits : j.acked = false) (round : j.roundP = (wordAt (msgBody (frameMessage f)) 0).toNat) :
    ∃ t, exec (.joinack f) s = .next t ∧
      (wordAt (msgBody (frameMessage f)) 1 = 0 → t.twin.join = some { j with acked := true } ∧ { t with twin := s.twin } = s) ∧
      (wordAt (msgBody (frameMessage f)) 1 ≠ 0 → t.twin.join = none ∧ t.twin.retryMs = s.tb.ms + 1000 ∧
        (s.twin.ps = .joining → t.twin.ps = j.cameFrom) ∧ ∀ p tag, j.client = some (p, tag) →
          completed p 0x0A03 tag (.error .errTwin (wordAt (msgBody (frameMessage f)) 1).toNat 0) s t) := by
  have ran : exec (.joinack f) s = .next (joinAnswered (msgBody (frameMessage f)) (noted f s)) := congrArg Host.Outcome.next (onMessage_noted h)
  have join' : (noted f s).twin.join = some j := join
  have ps : (noted f s).twin.ps = s.twin.ps := rfl
  have rest : { noted f s with twin := s.twin } = s := rfl
  generalize noted f s = u at *
  have hif : u.hif = s.hif := (congrArg State.hif rest :)
  have tb : u.tb = s.tb := (congrArg State.tb rest :)
  have answer : joinAnswered (msgBody (frameMessage f)) u = if wordAt (msgBody (frameMessage f)) 1 = 0 then u.updTwin fun t => { t with join := some { j with acked := true } }
      else abandonJoin (wordAt (msgBody (frameMessage f)) 1).toNat u := by
    rw [joinAnswered, join']
    exact if_neg (by simp [mine, waits, round])
  refine ⟨_, ran.trans (congrArg _ answer), fun zero => ?_, fun other => ?_⟩
  · rw [if_pos zero]
    exact ⟨rfl, rest⟩
  · rw [if_neg other]
    obtain ⟨twin, done⟩ := abandonJoin_done join' (wordAt (msgBody (frameMessage f)) 1).toNat
    refine ⟨(congrArg Twin.join twin :), (congrArg Twin.retryMs twin :).trans (by rw [tb]), fun joining => ?_, fun p tag client => done p tag client s hif⟩
    exact (congrArg Twin.ps twin :).trans (if_pos ⟨mine, ps.trans joining⟩)

/-! ### Time-outs and JOINABORT -/

section
variable {j : Join} {s : State} (hr : s.runs = true) (join : s.twin.join = some j)
include hr join

theorem joinUnansweredClause (mine : j.mine = true) (waits : j.acked = false) : ∃ t r, exec .joinackTimeout s = .next t ∧ t.twin.join = none ∧
      ∀ p tag, j.client = some (p, tag) → completed p 0x0A03 tag (.error .errTwin r 0) s t := by
  obtain ⟨r, hrr⟩ : ∃ r, r = (drawFree s).1.toNat % 2 ^ 32 := ⟨_, rfl⟩
  have join' : (drawFree s).2.twin.join = some j := join
  have hif : (drawFree s).2.hif = s.hif := rfl
  have ran : exec .joinackTimeout s = .next (dropJoin r (drawFree s).2) := by
    have run : exec .joinackTimeout s = execJoinackTimeout s := rfl
    rw [run, execJoinackTimeout, whileRunning, if_pos hr, join]
    dsimp only
    rw [if_pos ⟨mine, by simp [waits]⟩, openReason, hrr]
  generalize (drawFree s).2 = u at *
  obtain ⟨gone, done⟩ := dropJoin_done join' r
  exact ⟨_, r, ran, gone, fun p tag client => done p tag client s hif⟩

theorem joinNeverClause (tries : 50 ≤ j.tries) : ∃ t, exec .joinNoEntry s = .next t ∧ t.twin.join = none ∧
      ∀ p tag, j.client = some (p, tag) → completed p 0x0A03 tag (.error .errTwin 0x0E 0) s t := by
  have ran : exec .joinNoEntry s = .next (dropJoin 0x0E s) := by
    have run : exec .joinNoEntry s = execJoinNoEntry s := rfl
    rw [run, execJoinNoEntry, whileRunning, if_pos hr, join]
    exact congrArg Host.Outcome.next (if_pos tries)
  obtain ⟨gone, done⟩ := dropJoin_done join 0x0E
  exact ⟨_, ran, gone, fun p tag client => done p tag client s rfl⟩

end

theorem joinAbortClause (f : List Byte) (s : State) (h : accepted 0x2C f s = true) :
    ∃ t, exec (.joinabort f) s = .next t ∧ t.twin.join = none ∧ t.twin.split = none := by
  have ran : exec (.joinabort f) s = .next (abortTaken (msgBody (frameMessage f)) (noted f s)) := congrArg Host.Outcome.next (onMessage_noted h)
  generalize noted f s = u at *
  refine ⟨_, ran, ?_⟩
  rw [abortTaken]
  generalize (wordAt (msgBody (frameMessage f)) 1).toNat = r
  have joins : (abandonJoin r u).twin.join = none := by
    cases join : u.twin.join with
    | none =>
      rw [abandonJoin, join]
      exact join
    | some j => exact (congrArg Twin.join (abandonJoin_done join r).1 :)
  generalize abandonJoin r u = v at *
  cases split : v.twin.split with
  | none =>
    rw [abandonSplit, if_pos (by simp [split])]
    exact ⟨joins, split⟩
  | some x =>
    obtain ⟨twin, -⟩ := abandonSplit_done split r
    rw [twin]
    exact ⟨joins, rfl⟩

/-! ### The stream -/

/-- The link's queue has drained; nothing of the stream depends on it. -/
theorem drainLink_kept (s : State) : { drainLink s with twin := s.twin } = s ∧ (drainLink s).twin.txQueue = [] ∧
    (drainLink s).twin.txSeq = s.twin.txSeq + BitVec.ofNat 32 s.twin.txQueue.length ∧ linkUsable (drainLink s) = linkUsable s ∧
    (∀ mtype body, twinMessage mtype body (drainLink s) = twinMessage mtype body s) ∧ ∀ n part, stateblkBody n part (drainLink s) = stateblkBody n part s :=
  ⟨rfl, rfl, rfl, rfl, fun _ _ => rfl, fun _ _ => rfl⟩

theorem sendQuarter_sent (j : Join) (n part : Nat) {s : State} (usable : linkUsable s = true) :
    (sendQuarter j n part s).twin = { s.twin with txQueue := insertMsg 5 (twinMessage 0x2A (stateblkBody n part s) s) s.twin.txQueue, join := some { j with cur := if part = 3 then none else some (n, part + 1) } } ∧
      { sendQuarter j n part s with twin := s.twin } = s := by
  rw [sendQuarter, sendMsg_usable usable]
  exact ⟨rfl, rfl⟩

section
variable {j : Join} {s : State} (hr : s.runs = true) (join : s.twin.join = some j) (serves : j.mine = false) (acked : j.acked = true)
  (usable : linkUsable s = true) (time : j.ackRound < s.floe.round) (open' : j.entryRound = none)
include hr join serves acked usable time open'

theorem exec_stateblkSend : exec .stateblkSend s = .next (streamNext j (drainLink s)) := by
  have run : exec .stateblkSend s = execStateblkSend s := rfl
  rw [run, execStateblkSend, whileRunning, if_pos hr, join]
  exact congrArg Host.Outcome.next (if_neg (by simp [serves, acked, usable, open']; omega))

/-- A quarter goes out on the drained queue. -/
theorem quarterSent (d : Join) (n part : Nat) (next : streamNext j (drainLink s) = sendQuarter d n part (drainLink s)) :
    ∃ t, exec .stateblkSend s = .next t ∧ { t with twin := s.twin } = s ∧ t.twin.txQueue = [(5, twinMessage 0x2A (stateblkBody n part s) s)] ∧
      t.twin.txSeq = s.twin.txSeq + BitVec.ofNat 32 s.twin.txQueue.length ∧ t.twin.join = some { d with cur := if part = 3 then none else some (n, part + 1) } := by
  have ran := (exec_stateblkSend hr join serves acked usable time open').trans (congrArg Host.Outcome.next next)
  obtain ⟨rest, queue, seq, able, message, body⟩ := drainLink_kept s
  generalize drainLink s = u at *
  obtain ⟨twin, frame⟩ := sendQuarter_sent d n part (able.trans usable)
  refine ⟨_, ran, (congrArg (fun x : State => { x with twin := s.twin }) frame :).trans rest, ?_, (congrArg Twin.txSeq twin :).trans seq, (congrArg Twin.join twin :)⟩
  refine (congrArg Twin.txQueue twin :).trans ?_
  rw [queue, message, body]
  rfl

theorem streamClause :
      (∀ n part, j.cur = some (n, part) → ∃ t, exec .stateblkSend s = .next t ∧ { t with twin := s.twin } = s ∧
        t.twin.txQueue = [(5, twinMessage 0x2A (stateblkBody n part s) s)] ∧
        t.twin.txSeq = s.twin.txSeq + BitVec.ofNat 32 s.twin.txQueue.length ∧
        t.twin.join = some { j with cur := if part = 3 then none else some (n, part + 1) }) ∧
      (∀ n rest, j.cur = none → j.unsent = n :: rest → ∃ t d, exec .stateblkSend s = .next t ∧ { t with twin := s.twin } = s ∧
        t.twin.txQueue = [(5, twinMessage 0x2A (stateblkBody n 0 s) s)] ∧ t.twin.join = some d ∧ d.cur = some (n, 1) ∧
        n ∉ d.unsent) ∧
      (∀ n rest, j.cur = none → j.unsent = [] → j.marked = n :: rest → ∃ t d, exec .stateblkSend s = .next t ∧
        { t with twin := s.twin } = s ∧ t.twin.txQueue = [(5, twinMessage 0x2A (stateblkBody n 0 s) s)] ∧
        t.twin.join = some d ∧ d.cur = some (n, 1) ∧ n ∉ d.marked) := by
  have begins : ∀ n, j.cur = none → nextBlock j = some n → streamNext j (drainLink s) = sendQuarter (beginBlock n j) n 0 (drainLink s) := fun n cur next => by
    rw [streamNext, cur]
    dsimp only
    rw [next]
  refine ⟨fun n part cur => ?_, fun n rest cur unsent => ?_, fun n rest cur unsent marked => ?_⟩
  · exact quarterSent hr join serves acked usable time open' j n part (by rw [streamNext, cur])
  · obtain ⟨t, ran, frame, queue, -, joins⟩ := quarterSent hr join serves acked usable time open' (beginBlock n j) n 0 (begins n cur (by rw [nextBlock, unsent]))
    exact ⟨t, _, ran, frame, queue, joins, rfl, by simp [beginBlock]⟩
  · obtain ⟨t, ran, frame, queue, -, joins⟩ := quarterSent hr join serves acked usable time open' (beginBlock n j) n 0 (begins n cur (by rw [nextBlock, unsent, marked]; rfl))
    exact ⟨t, _, ran, frame, queue, joins, rfl, by simp [beginBlock]⟩

end

/-! ### What the joining twin stores -/

theorem map_quarters (f : Join → Join) (h : ∀ k, (f k).quarters = k.quarters) (j : Option Join) :
    (j.map f).map Join.quarters = j.map Join.quarters := by
  rw [Option.map_map]
  exact congrFun (congrArg Option.map (funext h)) j

theorem writeRuntime_quarters (d : List Byte) (s : State) :
    (writeRuntime d s).twin.join.map Join.quarters = s.twin.join.map Join.quarters := by
  rw [writeRuntime, State.updTasks_twin, State.updTwin_twin]
  refine map_quarters _ ?_ _
  exact fun _ => rfl

theorem writeSlots_quarters (a : Nat) (d : List Byte) (s : State) :
    (writeSlots a d s).twin.join.map Join.quarters = s.twin.join.map Join.quarters := by
  rw [writeSlots, State.updTwin_twin]
  refine map_quarters _ ?_ _
  exact fun _ => rfl

/-- A quarter of any block leaves the count of quarters. -/
theorem writeQuarter_quarters (n part : Nat) (d : List Byte) (s : State) :
    (writeQuarter n part d s).twin.join.map Join.quarters = s.twin.join.map Join.quarters := by
  rw [writeQuarter]
  split
  · split
    · exact writeRuntime_quarters d s
    · rfl
  · split
    · rw [State.updTasks_twin]
    · split
      · rfl
      · split
        · exact writeSlots_quarters _ d s
        · split
          · rw [State.updFram_twin]
          · split
            · rw [State.updMem_twin]
            · rw [State.updXsram_twin]

theorem part_lt (w : Word) : fld w 1 0 < 4 := by
  rw [fld]
  exact Nat.mod_lt _ (by decide)

theorem writeQuarter_fram {b n : Nat} (hb : b < 32) (hn : n = 16 + b) {part : Nat} (hp : part < 4) (d : List Byte) (s : State) :
    writeQuarter n part d s = s.updFram fun f => { f with home := memWriteBytes f.home (4096 * b + 1024 * part) d } := by
  have off : 4096 * n + 1024 * part - 16 * 4096 = 4096 * b + 1024 * part := by omega
  rw [writeQuarter]
  rw [if_neg (by omega), if_neg (by omega), if_neg (by omega), if_neg (by omega), if_pos (by omega), off]
  refine congrArg (fun f => s.updFram f) (funext fun f => ?_)
  rw [writeFram, if_pos (by omega)]

theorem writeQuarter_mem {b n : Nat} (hb : b < 2048) (hn : n = 80 + b) (part : Nat) (d : List Byte) (s : State) :
    writeQuarter n part d s = s.updMem fun m => memWriteBytes m (4096 * b + 1024 * part) d := by
  have off : 4096 * n + 1024 * part - 80 * 4096 = 4096 * b + 1024 * part := by omega
  rw [writeQuarter]
  rw [if_neg (by omega), if_neg (by omega), if_neg (by omega), if_neg (by omega), if_neg (by omega), if_pos (by omega), off]

theorem writeQuarter_xsram {b n : Nat} (hb : b < 960) (hn : n = 2128 + b) (part : Nat) (d : List Byte) (s : State) :
    writeQuarter n part d s = s.updXsram fun x => memWriteBytes x (0x40000 + 4096 * b + 1024 * part) d := by
  have off : 0x40000 + (4096 * n + 1024 * part - 2128 * 4096) = 0x40000 + 4096 * b + 1024 * part := by omega
  rw [writeQuarter]
  rw [if_neg (by omega), if_neg (by omega), if_neg (by omega), if_neg (by omega), if_neg (by omega), if_neg (by omega), off]

section
variable {f : List Byte} {j : Join} {s : State} (join : s.twin.join = some j) (mine : j.mine = true) (acked : j.acked = true)
include join mine acked

theorem blockStoredClause (h : accepted 0x2A f s = true) : ∃ t, exec (.stateblk f) s = .next t ∧
      t.twin.join.map Join.quarters = some (j.quarters + 1) ∧
      (∀ b, b < 32 → (wordAt (msgBody (frameMessage f)) 0).toNat = 16 + b →
        t.fram.home = memWriteBytes s.fram.home (4096 * b + 1024 * fld (wordAt (msgBody (frameMessage f)) 1) 1 0)
          (slice (msgBody (frameMessage f)) 16 1024) ∧ { t with twin := s.twin, fram := s.fram } = s) ∧
      (∀ b, b < 2048 → (wordAt (msgBody (frameMessage f)) 0).toNat = 80 + b →
        t.mem = memWriteBytes s.mem (4096 * b + 1024 * fld (wordAt (msgBody (frameMessage f)) 1) 1 0) (slice (msgBody (frameMessage f)) 16 1024) ∧
          { t with twin := s.twin, mem := s.mem } = s) ∧
      (∀ b, b < 960 → (wordAt (msgBody (frameMessage f)) 0).toNat = 2128 + b →
        t.xsram =
            memWriteBytes s.xsram (0x40000 + 4096 * b + 1024 * fld (wordAt (msgBody (frameMessage f)) 1) 1 0) (slice (msgBody (frameMessage f)) 16 1024) ∧
          { t with twin := s.twin, xsram := s.xsram } = s) := by
  have ran : exec (.stateblk f) s = .next (stateblkTaken (msgBody (frameMessage f)) (noted f s)) := congrArg Host.Outcome.next (onMessage_noted h)
  have join' : (noted f s).twin.join = some j := join
  have rest : { noted f s with twin := s.twin } = s := rfl
  generalize noted f s = u at *
  generalize msgBody (frameMessage f) = b at *
  obtain ⟨v, hv⟩ : ∃ v : State, v = u.updTwin fun t => { t with join := some { j with quarters := j.quarters + 1 } } := ⟨_, rfl⟩
  have taken : stateblkTaken b u = writeQuarter (wordAt b 0).toNat (fld (wordAt b 1) 1 0) (slice b 16 1024) v := by
    rw [stateblkTaken, join', hv]
    exact if_neg (by simp [mine, acked])
  have base : v.twin.join = some { j with quarters := j.quarters + 1 } ∧ { v with twin := s.twin } = s := by
    rw [hv]
    exact ⟨rfl, rest⟩
  obtain ⟨vjoin, vrest⟩ := base
  have part := part_lt (wordAt b 1)
  refine ⟨_, ran.trans (congrArg _ taken), (writeQuarter_quarters ..).trans (by rw [vjoin] <;> rfl), fun k hk hn => ?_, fun k hk hn => ?_, fun k hk hn => ?_⟩
  · rw [writeQuarter_fram hk hn part]
    exact ⟨congrArg (fun f : Fram => memWriteBytes f.home _ _) (congrArg State.fram vrest :), (congrArg (fun x : State => { x with fram := s.fram }) vrest :)⟩
  · rw [writeQuarter_mem hk hn]
    exact ⟨congrArg (fun m => memWriteBytes m _ _) (congrArg State.mem vrest :), (congrArg (fun x : State => { x with mem := s.mem }) vrest :)⟩
  · rw [writeQuarter_xsram hk hn]
    exact ⟨congrArg (fun m => memWriteBytes m _ _) (congrArg State.xsram vrest :), (congrArg (fun x : State => { x with xsram := s.xsram }) vrest :)⟩

theorem joinEndClause (h : accepted 0x2B f s = true) : ∃ t, exec (.joinend f) s = .next t ∧
      (dwordAt (msgBody (frameMessage f)) 2 = joinCheck s →
        t.twin.join = some { j with entryRound := some (wordAt (msgBody (frameMessage f)) 0).toNat } ∧ { t with twin := s.twin } = s) ∧
      (dwordAt (msgBody (frameMessage f)) 2 ≠ joinCheck s → t.twin.join = none ∧
        ∀ p tag, j.client = some (p, tag) → completed p 0x0A03 tag (.error .errTwin 0x0D 0) s t) := by
  have ran : exec (.joinend f) s = .next (joinEnded (msgBody (frameMessage f)) (noted f s)) := congrArg Host.Outcome.next (onMessage_noted h)
  have join' : (noted f s).twin.join = some j := join
  have rest : { noted f s with twin := s.twin } = s := rfl
  have check : joinCheck (noted f s) = joinCheck s := rfl
  have hif : (noted f s).hif = s.hif := rfl
  generalize noted f s = u at *
  generalize msgBody (frameMessage f) = b at *
  have ended : joinEnded b u = if dwordAt b 2 = joinCheck s then u.updTwin fun t => { t with join := some { j with entryRound := some (wordAt b 0).toNat } } else dropJoin 0x0D u := by
    rw [joinEnded, join', ← check]
    exact if_neg (by simp [mine, acked])
  refine ⟨_, ran.trans (congrArg _ ended), fun equal => ?_, fun differs => ?_⟩
  · rw [if_pos equal]
    exact ⟨rfl, rest⟩
  · rw [if_neg differs]
    obtain ⟨gone, done⟩ := dropJoin_done join' 0x0D
    exact ⟨gone, fun p tag client => done p tag client s hif⟩

end

/-- Settles O51: each message of a join is one change of the twin's record or of one memory, and its operation completes with its end. -/
theorem joinOfThePair : Obligations.JoinOfThePair := by
  unfold Obligations.JoinOfThePair
  exact ⟨fun p tag token s => joinAskedClause p tag token, joinRequestClause, joinAnswerClause,
    fun j s hr join => ⟨joinUnansweredClause hr join, joinNeverClause hr join, fun serves acked usable time open' => streamClause hr join serves acked usable time open'⟩,
    joinAbortClause, fun f j s join mine acked => ⟨blockStoredClause join mine acked, joinEndClause join mine acked⟩⟩

end Sys2Proof.Proofs
end

section
/-!
SUPPORT. The pair agrees on its inputs and compares its results (R165, R170, R171, R175): O52.
-/
namespace Sys2Proof.Proofs
open Sys2Proof.Machine

/-! ### What a fault leaves of the pair -/

/-- What the pair knows of itself, apart from a join or split in progress. -/
def pairFacts (s : State) : Twin := { s.twin with join := none, split := none }

theorem pairFacts_of_twin {s t : State} (h : t.twin = s.twin) : pairFacts t = pairFacts s :=
  congrArg (fun x : Twin => { x with join := none, split := none }) h

theorem pairFacts_touchBlocks (bs : List Nat) (s : State) : pairFacts (touchBlocks bs s) = pairFacts s := by
  unfold touchBlocks
  split <;> rfl

theorem pairFacts_complete (p : Port) (op tag : Half) (r : Reply) (s : State) : pairFacts (complete p op tag r s) = pairFacts s :=
  pairFacts_of_twin (congrArg State.twin (complete_frame p op tag r s) :)

theorem pairFacts_finishImage (unpub : Bool) (k : Nat) (w : ImgWait) (s : State) : pairFacts (finishImage unpub k w s) = pairFacts s := by
  unfold finishImage
  dsimp only
  rw [pairFacts_complete]
  exact (pairFacts_of_twin (State.updXsram_twin ..)).trans (pairFacts_touchBlocks ..)

theorem pairFacts_finishImages (p unpub : ImgWait → Bool) (s : State) : pairFacts (finishImages p unpub s) = pairFacts s :=
  foldl_keeps (P := fun t => pairFacts t = pairFacts s) (fun t _ ht => (pairFacts_finishImage _ _ _ t).trans ht) _ rfl

theorem pairFacts_abandonAll (s : State) : pairFacts (abandonAll s) = pairFacts s := by
  rw [abandonAll_eq]
  have second := pairFacts_of_twin (congrArg State.twin (quietCan_frame .can2 (quietCan .can1 (abandonWork s))) :)
  have first := pairFacts_of_twin (congrArg State.twin (quietCan_frame .can1 (abandonWork s)) :)
  have work : pairFacts (abandonWork s) = pairFacts s := by
    unfold abandonWork pairFacts
    simp only [State.updFabric_twin, State.updFloe_twin, State.updTwin_twin, State.updProg_twin]
  generalize quietCan .can1 (abandonWork s) = u at *
  generalize abandonWork s = v at *
  exact (second.trans first).trans work

theorem pairFacts_endOperations (s : State) : pairFacts (endOperations s) = pairFacts s := by
  have ports : ∀ w : State, pairFacts (((failPending .maint (failPending .host w)).updPort .host keepLockTokens).updPort .maint keepLockTokens) = pairFacts w := fun w => by
    have failed := (failPending_ports .host w).trans (failPending_ports .maint _)
    generalize failPending .maint (failPending .host w) = v at *
    exact pairFacts_of_twin (congrArg State.twin failed :)
  rw [endOperations, ports, pairFacts_finishImages]

theorem pairFacts_enterSafe (s : State) : pairFacts (enterSafe s) = pairFacts s := by
  by_cases idle : s.mstate = .off ∨ s.mstate = .safe ∨ s.mstate = .frozen
  · rw [enterSafe, if_pos idle]
  · rw [enterSafe_eq s idle]
    exact ((pairFacts_of_twin rfl).trans (pairFacts_abandonAll _)).trans (pairFacts_endOperations s)

theorem pairFacts_lockDecided (cls src : Nat) (cause : Half) (s : State) : pairFacts (lockDecided cls src cause s) = pairFacts s := by
  unfold lockDecided
  split
  · unfold writeLock
    split
    · rfl
    · unfold writeFramBlocks
      have touched := pairFacts_touchBlocks [56] s
      generalize touchBlocks [56] s = u at *
      exact (pairFacts_of_twin rfl).trans touched
  · rfl

/-- A fault of class 0 of the pair is recorded and has no other effect. -/
theorem raisePair_low {P : State → Prop}
    (aside : ∀ s t : State, { t with fcu := s.fcu, ice := s.ice, freeCtr := s.freeCtr } = s → t.ice.stopped = s.ice.stopped → P s → P t)
    (specific : Option Half) {s : State} (h : P s) : P (raiseOpen 0x31 0 specific s) := by
  have drawn : P (drawFree s).2 := aside s _ rfl rfl h
  have shown : ∀ (f : FcuSource → FcuSource) u, P u → P (State.updSource 0x31 f u) := fun f u hu => aside u _ rfl rfl hu
  have changed := fun (forced : Bool) detail specific endMs u hu => changeBase_low (P := P) (src := 0x31) (by decide) aside raiseNoAgree (code := 0) (by decide) forced detail specific endMs (s := u) nofun hu
  change P (presentPattern 0x31 2 0 _ specific (drawFree s).2)
  rw [presentPattern, if_pos (show sourceListed 0x31 = true from rfl), presentBase]
  dsimp only
  split
  · exact drawn
  · refine changed _ _ _ _ _ (shown _ _ ?_)
    split
    · exact changed _ _ _ _ _ (shown _ _ drawn)
    · exact drawn

/-! ### A divergence -/

/-- The comparison of a task's cycle is over. -/
def CmpOver (n : Nat) (t : State) : Prop := (t.task n).ownCmp = none ∧ (t.task n).peerCmp = none

theorem CmpOver.of_tasks {n : Nat} {s t : State} (h : CmpOver n s) (e : t.tasks = s.tasks) : CmpOver n t := by
  rw [CmpOver, task_of_tasksT (congrArg Tasks.t e)]
  exact h

theorem CmpOver.setPState {n : Nat} (hn : n < 8) (new : PState) {s : State} (h : CmpOver n s) : CmpOver n (setPState new s) := by
  rcases task_setPState hn new s with e | e <;> rw [CmpOver, e]
  · exact h
  · exact ⟨rfl, rfl⟩

/-- What a twin knows of itself once a divergence has entered its history. -/
def divergedFacts (s : State) : Twin :=
  { pairFacts s with cmpMismatch := satInc 0xFFFFFFFF s.twin.cmpMismatch, hasDiv := true, lastDivMs := s.tb.ms }

/-- The twin once a divergence has entered its history. -/
def diverged (s : State) : State :=
  (s.updTwin fun t => { t with cmpMismatch := satInc 0xFFFFFFFF t.cmpMismatch }).updTwin fun t => { t with hasDiv := true, lastDivMs := s.tb.ms }

theorem diverged_keeps (s : State) : pairFacts (diverged s) = divergedFacts s ∧ (diverged s).tasks = s.tasks ∧ (diverged s).mem = s.mem := by
  unfold diverged
  refine ⟨?_, by rw [State.updTwin_tasks, State.updTwin_tasks], by rw [State.updTwin_mem, State.updTwin_mem]⟩
  unfold pairFacts
  rw [State.updTwin_twin, State.updTwin_twin]
  rfl

/-- The leader records a divergence at class 0 (R175). -/
theorem divergence_leader (what round : Nat) (own peer : Dword) {s : State} (lead : s.isLeader = true) :
    pairFacts (divergence what round own peer s) = divergedFacts s ∧ (divergence what round own peer s).tasks = s.tasks ∧
      (divergence what round own peer s).mem = s.mem := by
  have ran : divergence what round own peer s = raiseOpen 0x31 0 none (record 0x0501 0 0x31 what round (own.toNat % 2 ^ 32) (peer.toNat % 2 ^ 32) (diverged s)) := if_pos lead
  obtain ⟨facts, tasks, mem⟩ := diverged_keeps s
  have frame := record_frame 0x0501 0 0x31 what round (own.toNat % 2 ^ 32) (peer.toNat % 2 ^ 32) (diverged s)
  rw [ran]
  generalize record 0x0501 0 0x31 what round (own.toNat % 2 ^ 32) (peer.toNat % 2 ^ 32) (diverged s) = u at *
  generalize diverged s = v at *
  refine raisePair_low (P := fun t => pairFacts t = divergedFacts s ∧ t.tasks = s.tasks ∧ t.mem = s.mem) (fun u v e _ h => ?_) none
    ⟨(pairFacts_of_twin (congrArg State.twin frame :)).trans facts, (congrArg State.tasks frame :).trans tasks, (congrArg State.mem frame :).trans mem⟩
  obtain ⟨facts, tasks, mem⟩ := h
  exact ⟨(pairFacts_of_twin (congrArg State.twin e :)).trans facts, (congrArg State.tasks e :).trans tasks, (congrArg State.mem e :).trans mem⟩

/-- A twin that has left the pair for a divergence, with the facts `d` and what `s` had of the image and of comparisons that are over. -/
structure LeftPair (d : Twin) (s t : State) : Prop where
  facts : ∃ ps, (ps = .silent ∨ ps = .removed) ∧ pairFacts t = { d with ps := ps, silentCause := 1 }
  mem : t.mem = s.mem
  cmps : ∀ n, n < 8 → CmpOver n s → CmpOver n t

section
variable {d : Twin} {s t u : State}

theorem LeftPair.aside (h : LeftPair d s t) (facts : pairFacts u = pairFacts t) (mem : u.mem = t.mem) (tasks : u.tasks = t.tasks) : LeftPair d s u where
  facts := by
    rw [facts]
    exact h.facts
  mem := mem.trans h.mem
  cmps n hn e := (h.cmps n hn e).of_tasks tasks

theorem LeftPair.enterSafe (h : LeftPair d s t) : LeftPair d s (enterSafe t) :=
  h.aside (pairFacts_enterSafe t) (mem_of_core (core_enterSafe t)) (tasks_enterSafe t)

theorem LeftPair.setPState (h : LeftPair d s t) {new : PState} (left : new = .silent ∨ new = .removed) : LeftPair d s (setPState new t) where
  facts := by
    obtain ⟨ps, -, facts⟩ := h.facts
    refine ⟨new, left, (congrArg (fun x : Twin => { x with join := none, split := none }) (setPState_twin new t)).trans ?_⟩
    exact congrArg (fun x : Twin => { x with ps := new }) facts
  mem := (congrArg State.mem (setPState_frame new t) :).trans h.mem
  cmps n hn e := (h.cmps n hn e).setPState hn new

theorem LeftPair.raiseOpen (h : LeftPair d s t) (code : Nat) (specific : Option Half) : LeftPair d s (raiseOpen 0x31 code specific t) :=
  raiseOpen_through (P := LeftPair d s) (src := 0x31)
    (fun u v e hu => hu.aside (pairFacts_of_twin (congrArg State.twin e :)) (congrArg State.mem e :) (congrArg State.tasks e :))
    (fun src cls cause u hu => hu.aside (pairFacts_lockDecided ..) (congrArg State.mem (lockDecided_frame cls src cause u) :) (congrArg State.tasks (lockDecided_frame cls src cause u) :))
    (fun u hu => hu.enterSafe)
    (fun x e n u hu => by
      cases Option.some.inj ((show classThreeTarget 0x31 = some .twin from rfl).symm.trans e)
      exact hu.setPState (.inr rfl)) rfl code specific h

/-- The follower leaves the pair for a divergence (R167, R175). -/
theorem divergence_follower (what round : Nat) (own peer : Dword) (follow : s.isLeader = false) :
    LeftPair (divergedFacts s) s (divergence what round own peer s) := by
  obtain ⟨w, hw⟩ : ∃ w, w = (diverged s).updTwin fun t => { t with silentCause := 1 } := ⟨_, rfl⟩
  have named : pairFacts w = { divergedFacts s with silentCause := 1 } ∧ w.mem = s.mem ∧ w.tasks = s.tasks := by
    obtain ⟨facts, tasks, mem⟩ := diverged_keeps s
    rw [hw]
    generalize diverged s = u at *
    exact ⟨(congrArg (fun x : Twin => { x with silentCause := 1 }) facts :), mem, tasks⟩
  have frame := record_frame 0x0501 2 0x31 what round (own.toNat % 2 ^ 32) (peer.toNat % 2 ^ 32) w
  obtain ⟨v, hv⟩ : ∃ v, v = record 0x0501 2 0x31 what round (own.toNat % 2 ^ 32) (peer.toNat % 2 ^ 32) w := ⟨_, rfl⟩
  have ran : divergence what round own peer s = if s.twin.hasDiv && withinHour s.tb.ms s.twin.lastDivMs then
      Machine.raiseOpen 0x31 3 (some 0x0201) (Machine.setPState .removed v) else goSilent 1 2 v := by
    rw [hv, hw]
    exact if_neg (fun lead => Bool.false_ne_true (follow.symm.trans lead))
  rw [← hv] at frame
  have noted : pairFacts v = { divergedFacts s with silentCause := 1 } := (pairFacts_of_twin (congrArg State.twin frame :)).trans named.1
  have mem : v.mem = s.mem := (congrArg State.mem frame :).trans named.2.1
  have tasks : v.tasks = s.tasks := (congrArg State.tasks frame :).trans named.2.2
  have leaves : ∀ (w : State) new, (new = .silent ∨ new = .removed) → w.tasks = v.tasks → w.mem = v.mem → pairFacts w = { divergedFacts s with silentCause := 1 } →
      LeftPair (divergedFacts s) s (Machine.setPState new w) := fun w new left wt wm wf =>
    { facts := ⟨new, left, (congrArg (fun x : Twin => { x with join := none, split := none }) (setPState_twin new w)).trans
        (congrArg (fun x : Twin => { x with ps := new }) wf :)⟩
      mem := (congrArg State.mem (setPState_frame new w) :).trans (wm.trans mem)
      cmps := fun n hn e => (e.of_tasks (wt.trans tasks)).setPState hn new }
  rw [ran]
  split
  · exact (leaves v .removed (.inr rfl) rfl rfl noted).raiseOpen 3 _
  · exact (leaves (v.updTwin fun t => { t with silentCause := 1 }) .silent (.inl rfl) rfl rfl (congrArg (fun x : Twin => { x with silentCause := 1 }) noted :)).raiseOpen 2 none

end

/-! ### The agreement on inputs (R165, R170, R171) -/

/-- A cycle whose input agreement is complete. -/
def agreedCycle (c : Cycle) : Cycle := { c with agreed := true }

theorem sendMsg_ps (mtype prio : Nat) (body : List Byte) (s : State) : (sendMsg mtype prio body s).twin.ps = s.twin.ps := by
  unfold sendMsg
  split <;> rfl

theorem sendSlice_keeps (n round : Nat) (sl : List Byte) (s : State) :
    (sendSlice n round sl s).tasks = s.tasks ∧ (sendSlice n round sl s).mem = s.mem ∧ (sendSlice n round sl s).twin.ps = s.twin.ps :=
  foldl_keeps (P := fun t => t.tasks = s.tasks ∧ t.mem = s.mem ∧ t.twin.ps = s.twin.ps)
    (f := fun s k => sendMsg 0x11 4 (wordsBytes [at32 0 n, BitVec.ofNat 32 round, BitVec.ofNat 32 (1024 * k), BitVec.ofNat 32 sl.length] ++ (sl.drop (1024 * k)).take 1024) s)
    (fun u k ⟨tasks, mem, ps⟩ => by
      obtain ⟨body, hb⟩ : ∃ body, body = wordsBytes [at32 0 n, BitVec.ofNat 32 round, BitVec.ofNat 32 (1024 * k), BitVec.ofNat 32 sl.length] ++ (sl.drop (1024 * k)).take 1024 := ⟨_, rfl⟩
      rw [← hb]
      have frame := sendMsg_frame 0x11 4 body u
      exact ⟨(congrArg State.tasks frame :).trans tasks, (congrArg State.mem frame :).trans mem, (sendMsg_ps 0x11 4 body u).trans ps⟩)
    _ ⟨rfl, rfl, rfl⟩

section
variable {n : Nat} (hn : n < 8) {c : Cycle} {s : State} (run : s.run n = some c)
include hn run

/-- A twin that becomes SILENT at class 1 keeps a cycle whose agreement is over. -/
theorem goSilent_keeps (cause : Nat) (still : (c.agreed || (c.inSig.isSome && !c.unagreed)) = c.agreed) :
    (goSilent cause 1 s).run n = some c ∧ (goSilent cause 1 s).mem = s.mem ∧
      (goSilent cause 1 s).twin = { s.twin with silentCause := BitVec.ofNat 8 cause, ps := .silent } := by
  refine raiseOpen_low (P := fun t => t.run n = some c ∧ t.mem = s.mem ∧ t.twin = { s.twin with silentCause := BitVec.ofNat 8 cause, ps := .silent })
    (src := 0x31) (by decide) (fun u v e _ ⟨hr, hm, ht⟩ => ⟨(run_of_tasks (congrArg State.tasks e :) n).trans hr, (congrArg State.mem e :).trans hm, (congrArg State.twin e :).trans ht⟩) rfl none ?_
  obtain ⟨u, hu⟩ : ∃ u : State, u = s.updTwin fun t => { t with silentCause := BitVec.ofNat 8 cause } := ⟨_, rfl⟩
  have at' : u.run n = some c := by
    rw [hu]
    exact run
  rw [← hu]
  refine ⟨?_, (congrArg State.mem (setPState_frame .silent u) :).trans (by rw [hu]; rfl), (setPState_twin .silent u).trans (by rw [hu]; rfl)⟩
  rcases run_setPState hn .silent u with e | e
  · exact e.trans at'
  · rw [e, at', Option.map_some, still]

theorem agreed_run : (updRun n (fun c => { c with agreed := true }) s).run n = some (agreedCycle c) :=
  (run_updRun_same hn _ s).trans (congrArg _ run)

/-- What the meeting of two signatures leaves: the cycle is as it was, or agreed. -/
theorem meetSignatures_met : ∃ d, (meetSignatures n s).run n = some d ∧ (d = c ∨ d = agreedCycle c) ∧ (meetSignatures n s).mem = s.mem ∧
    (∀ own role peer, s.twin.ps = .paired → c.inSig = some own → c.peerSig = some (role, peer) →
      (role = !c.role → own = peer ∨ c.role = true → d.agreed = true ∧ (meetSignatures n s).twin.ps = .paired) ∧
      (role = c.role → d.agreed = true ∧ (s.twinId = 2 → (meetSignatures n s).twin.ps = .silent ∧ (meetSignatures n s).twin.silentCause = 4))) := by
  by_cases paired : s.twin.ps = .paired
  swap
  · rw [meetSignatures, if_neg paired]
    exact ⟨c, run, .inl rfl, rfl, fun _ _ _ h => absurd h paired⟩
  rw [meetSignatures, if_pos paired, resolveAgreement, run]
  have agreed := agreed_run hn run
  dsimp only
  cases hi : c.inSig with
  | none => exact ⟨c, run, .inl rfl, rfl, nofun⟩
  | some own =>
    cases hp : c.peerSig with
    | none => exact ⟨c, run, .inl rfl, rfl, nofun⟩
    | some pair =>
      obtain ⟨role, peer⟩ := pair
      have known : ∀ {t : State} {d : Cycle}, t.run n = some d → (d = c ∨ d = agreedCycle c) → t.mem = s.mem →
          (role = !c.role → own = peer ∨ c.role = true → d.agreed = true ∧ t.twin.ps = .paired) →
          (role = c.role → d.agreed = true ∧ (s.twinId = 2 → t.twin.ps = .silent ∧ t.twin.silentCause = 4)) → ∃ d, t.run n = some d ∧ (d = c ∨ d = agreedCycle c) ∧
          t.mem = s.mem ∧ ∀ own' role' peer', s.twin.ps = .paired → some own = some own' → some (role, peer) = some (role', peer') →
            (role' = !c.role → own' = peer' ∨ c.role = true → d.agreed = true ∧ t.twin.ps = .paired) ∧
            (role' = c.role → d.agreed = true ∧ (s.twinId = 2 → t.twin.ps = .silent ∧ t.twin.silentCause = 4)) := fun {t d} hr hd hm other same =>
        ⟨d, hr, hd, hm, fun _ _ _ _ ho hp => by
          cases ho
          cases hp
          exact ⟨other, same⟩⟩
      dsimp only
      split
      · next same =>
        have differ : ∀ {p : Prop}, role = !c.role → p := fun h => absurd (h.symm.trans same) (by cases c.role <;> decide)
        split
        · next second =>
          obtain ⟨kept, mem, twin⟩ := goSilent_keeps hn agreed 4 (Bool.true_or _)
          exact known kept (.inr rfl) mem (fun h => differ h) fun _ => ⟨rfl, fun _ => ⟨congrArg Twin.ps twin, congrArg Twin.silentCause twin⟩⟩
        · next first => exact known agreed (.inr rfl) rfl (fun h => differ h) fun _ => ⟨rfl, fun h => absurd h first⟩
      · next other =>
        split
        · split
          · exact known agreed (.inr rfl) rfl (fun _ _ => ⟨rfl, paired⟩) fun h => absurd h other
          · obtain ⟨tasks, mem, ps⟩ := sendSlice_keeps n c.relRound c.slice (updRun n (fun c => { c with agreed := true }) s)
            generalize sendSlice n c.relRound c.slice (updRun n (fun c => { c with agreed := true }) s) = v at *
            exact known (t := countAdopt v) ((run_of_tasks tasks n).trans agreed) (.inr rfl) mem (fun _ _ => ⟨rfl, ps.trans paired⟩) fun h => absurd h other
        · next follows =>
          split
          · exact known agreed (.inr rfl) rfl (fun _ _ => ⟨rfl, paired⟩) fun h => absurd h other
          · next differ => exact known run (.inl rfl) rfl (fun _ h => (h.elim differ follows).elim) fun h => absurd h other

end

theorem taskOf_lt (w : Word) : fld w 2 0 < 8 := by
  rw [fld]
  exact Nat.mod_lt _ (by decide)

theorem insigClause (f : List Byte) (c : Cycle) (s : State) (h : accepted 0x10 f s = true) :
    let n := fld (wordAt (msgBody (frameMessage f)) 0) 2 0
    s.run n = some c → c.relRound = (wordAt (msgBody (frameMessage f)) 1).toNat → c.peerSig = none →
    ∃ t d, exec (.insig f) s = .next t ∧ t.run n = some d ∧
      d.peerSig = some (tst (wordAt (msgBody (frameMessage f)) 0) 31, dwordAt (msgBody (frameMessage f)) 2) ∧ d.slice = c.slice ∧ t.mem = s.mem ∧
      (∀ own, s.twin.ps = .paired → c.inSig = some own → tst (wordAt (msgBody (frameMessage f)) 0) 31 = !c.role →
        own = dwordAt (msgBody (frameMessage f)) 2 ∨ c.role = true → d.agreed = true ∧ t.twin.ps = .paired) ∧
      (∀ own, s.twin.ps = .paired → c.inSig = some own → tst (wordAt (msgBody (frameMessage f)) 0) 31 = c.role →
        d.agreed = true ∧ (s.twinId = 2 → t.twin.ps = .silent ∧ t.twin.silentCause = 4)) := by
  intro n run round fresh
  have ran : exec (.insig f) s = .next (insigTaken (msgBody (frameMessage f)) (noted f s)) := congrArg Host.Outcome.next (onMessage_noted h)
  have hn : n < 8 := taskOf_lt _
  obtain ⟨v, hv⟩ : ∃ v, v = updRun n (fun c => { c with peerSig := some (tst (wordAt (msgBody (frameMessage f)) 0) 31, dwordAt (msgBody (frameMessage f)) 2) }) (noted f s) := ⟨_, rfl⟩
  have mem : v.mem = s.mem := by
    rw [hv]
    rfl
  have pair : v.twin.ps = s.twin.ps ∧ v.twinId = s.twinId := by
    rw [hv]
    exact ⟨rfl, rfl⟩
  have met : v.run n = some { c with peerSig := some (tst (wordAt (msgBody (frameMessage f)) 0) 31, dwordAt (msgBody (frameMessage f)) 2) } := by
    rw [hv]
    exact (run_updRun_same hn _ _).trans (congrArg _ (run : (noted f s).run n = some c))
  have taken : insigTaken (msgBody (frameMessage f)) (noted f s) = meetSignatures n v := by
    rw [insigTaken]
    rw [show (noted f s).run (fld (wordAt (msgBody (frameMessage f)) 0) 2 0) = some c from run]
    dsimp only
    rw [if_neg (by simp [round, fresh]), hv]
  obtain ⟨d, at', kept, hm, effect⟩ := meetSignatures_met hn met
  rw [← taken] at at' hm effect
  have same : d.peerSig = some (tst (wordAt (msgBody (frameMessage f)) 0) 31, dwordAt (msgBody (frameMessage f)) 2) ∧ d.slice = c.slice := by
    rcases kept with rfl | rfl <;> exact ⟨rfl, rfl⟩
  refine ⟨_, d, ran, at', same.1, same.2, hm.trans mem, fun own hp hi hr => ?_, fun own hp hi hr => ?_⟩
  · exact (effect own _ _ (pair.1.trans hp) hi rfl).1 hr
  · obtain ⟨agreed, silent⟩ := (effect own _ _ (pair.1.trans hp) hi rfl).2 hr
    exact ⟨agreed, fun second => silent (pair.2.trans second)⟩

theorem insliceClause (f : List Byte) (c : Cycle) (s : State) (h : accepted 0x11 f s = true) :
    let n := fld (wordAt (msgBody (frameMessage f)) 0) 2 0
    let got := c.adopted ++ (msgBody (frameMessage f)).drop 16
    let whole := (wordAt (msgBody (frameMessage f)) 3).toNat
    s.run n = some c → s.twin.ps = .paired → s.isLeader = false → c.agreed = false → c.unagreed = false →
    c.relRound = (wordAt (msgBody (frameMessage f)) 1).toNat → (wordAt (msgBody (frameMessage f)) 2).toNat = c.adopted.length →
    ∃ t d, exec (.inslice f) s = .next t ∧ t.run n = some d ∧ t.mem = s.mem ∧
      (got.length < whole → d = { c with adopted := got }) ∧
      (whole ≤ got.length → d.slice = got.take whole ∧ d.agreed = true ∧
        (c.peerSig.map (·.2) = d.inSig → t.twin.ps = .paired ∧ t.twin.adopt = satInc 0xFFFFFFFF s.twin.adopt) ∧
        (c.peerSig.map (·.2) ≠ d.inSig → t.twin.ps = .silent ∧ t.twin.silentCause = 2)) := by
  intro n got whole run paired follow waits live round off
  have ran : exec (.inslice f) s = .next (insliceTaken (msgBody (frameMessage f)) (noted f s)) := congrArg Host.Outcome.next (onMessage_noted h)
  have hn : n < 8 := taskOf_lt _
  have run' : (noted f s).run n = some c := run
  have follow' : (noted f s).isLeader = false := follow
  have paired' : (noted f s).twin.ps = .paired := paired
  have taken : insliceTaken (msgBody (frameMessage f)) (noted f s) =
      if whole ≤ got.length then adoptSlice n c (got.take whole) (noted f s) else updRun n (fun c => { c with adopted := got }) (noted f s) := by
    rw [insliceTaken]
    dsimp only
    rw [show (noted f s).run (fld (wordAt (msgBody (frameMessage f)) 0) 2 0) = some c from run]
    dsimp only
    rw [if_neg (by simp [paired', follow', waits, live, round, off])]
  have kept : (noted f s).mem = s.mem ∧ (noted f s).twin.adopt = s.twin.adopt := ⟨rfl, rfl⟩
  rw [taken] at ran
  generalize noted f s = u at *
  by_cases done : whole ≤ got.length
  swap
  · rw [if_neg done] at ran
    exact ⟨_, _, ran, (run_updRun_same hn _ u).trans (congrArg _ run'), kept.1, fun _ => rfl, fun h => absurd h done⟩
  rw [if_pos done, adoptSlice] at ran
  generalize finishSig (crc64Fold (crc64Fold crc64Init (windowBytes 1 n (BitVec.ofNat 32 (c.relRound - u.tasks.origin)))) (got.take whole)) = sig at ran
  have adopted : (updRun n (fun c => { c with slice := got.take whole, inSig := some sig, agreed := true }) u).run n =
      some { c with slice := got.take whole, inSig := some sig, agreed := true } := (run_updRun_same hn _ u).trans (congrArg _ run')
  obtain ⟨v, hv⟩ : ∃ v, v = updRun n (fun c => { c with slice := got.take whole, inSig := some sig, agreed := true }) u := ⟨_, rfl⟩
  have mem : v.mem = s.mem := by
    rw [hv]
    exact kept.1
  have twin : v.twin = u.twin := by
    rw [hv]
    rfl
  rw [← hv] at ran adopted
  by_cases same : c.peerSig.map (·.2) = some sig
  · rw [if_pos same] at ran
    exact ⟨countAdopt v, _, ran, adopted, mem, fun h => absurd h (by omega), fun _ => ⟨rfl, rfl,
      fun _ => ⟨(congrArg Twin.ps twin).trans paired', congrArg (satInc 0xFFFFFFFF) ((congrArg Twin.adopt twin).trans kept.2)⟩, fun h => absurd same h⟩⟩
  · rw [if_neg same] at ran
    obtain ⟨at', hm, ht⟩ := goSilent_keeps hn adopted 2 (Bool.true_or _)
    exact ⟨_, _, ran, at', hm.trans mem, fun h => absurd h (by omega), fun _ => ⟨rfl, rfl, fun h => absurd h same, fun _ => ⟨congrArg Twin.ps ht, congrArg Twin.silentCause ht⟩⟩⟩

theorem agreeTimeoutClause (n : TaskId) (c : Cycle) (s : State) (hr : s.runs = true) (paired : s.twin.ps = .paired) (run : s.run n.val = some c)
    (signed : c.inSig.isSome = true) (waits : c.agreed = false) (live : c.unagreed = false) :
    ∃ t d, exec (.agreeTimeout n) s = .next t ∧ t.run n.val = some d ∧ d.slice = c.slice ∧ t.mem = s.mem ∧
      (s.isLeader = true → d.agreed = true ∧ t.twin.ps = .paired ∧
        t.twin.agreeMiss = satInc 0xFFFFFFFF s.twin.agreeMiss) ∧
      (s.isLeader = false → d.unagreed = true ∧ t.twin.ps = if leaderLost s then .paired else .silent) := by
  have ran : exec (.agreeTimeout n) s = .next (if s.isLeader then
      updRun n.val (fun c => { c with agreed := true }) (s.updTwin fun x => { x with agreeMiss := satInc 0xFFFFFFFF x.agreeMiss })
      else if leaderLost (endWait n.val s) then endWait n.val s else goSilent 2 1 (endWait n.val s)) := by
    refine congrArg Host.Outcome.next ((if_pos hr).trans ?_)
    dsimp only
    rw [run]
    dsimp only
    rw [if_neg (by simp [paired, Option.isSome_iff_ne_none.mp signed, waits, live])]
  cases lead : s.isLeader with
  | true =>
    rw [lead, if_pos rfl] at ran
    exact ⟨_, _, ran, agreed_run n.isLt (s := s.updTwin fun x => { x with agreeMiss := satInc 0xFFFFFFFF x.agreeMiss }) run, rfl, rfl, fun _ => ⟨rfl, paired, rfl⟩, nofun⟩
  | false =>
    rw [lead, if_neg Bool.false_ne_true] at ran
    have ended : (endWait n.val s).run n.val = some { c with unagreed := true } := (run_updRun_same n.isLt _ s).trans (congrArg _ run)
    have lost : leaderLost (endWait n.val s) = leaderLost s := rfl
    have mem : (endWait n.val s).mem = s.mem := rfl
    have ps : (endWait n.val s).twin.ps = .paired := paired
    generalize endWait n.val s = u at *
    rw [lost] at ran
    cases hl : leaderLost s with
    | true =>
      rw [hl, if_pos rfl] at ran
      exact ⟨_, _, ran, ended, rfl, mem, nofun, fun _ => ⟨rfl, ps⟩⟩
    | false =>
      rw [hl, if_neg Bool.false_ne_true] at ran
      obtain ⟨at', hm, ht⟩ := goSilent_keeps n.isLt ended 2 (by simp [waits])
      exact ⟨_, _, ran, at', rfl, hm.trans mem, nofun, fun _ => ⟨rfl, congrArg Twin.ps ht⟩⟩

/-! ### The comparison of results (R175) -/

theorem twcmpClause (f : List Byte) (own : Nat × Bool × Dword × Dword × Word) (s : State) (h : accepted 0x12 f s = true) :
    let b := msgBody (frameMessage f)
    let n := fld (wordAt b 0) 2 0
    let peer := ((wordAt b 1).toNat, tst (wordAt b 0) 31, dwordAt b 2, dwordAt b 4)
    s.twin.ps = .paired → (s.task n).ownCmp = some own → own.1 = peer.1 →
    ∃ t, exec (.twcmp f) s = .next t ∧ (t.task n).ownCmp = none ∧ (t.task n).peerCmp = none ∧ t.mem = s.mem ∧
      (comparisonData own peer = 0 → t.twin.ps = .paired ∧ t.twin.cmpMismatch = s.twin.cmpMismatch) ∧
      (comparisonData own peer ≠ 0 → t.twin.cmpMismatch = satInc 0xFFFFFFFF s.twin.cmpMismatch ∧
        t.twin.hasDiv = true ∧ t.twin.lastDivMs = s.tb.ms ∧
        (s.isLeader = true → t.twin.ps = .paired) ∧
        (s.isLeader = false → (t.twin.ps = .silent ∨ t.twin.ps = .removed) ∧ t.twin.silentCause = 1)) := by
  intro b n peer paired mine round
  have ran : exec (.twcmp f) s = .next (twcmpTaken b (noted f s)) := congrArg Host.Outcome.next (onMessage_noted h)
  have hn : n < 8 := taskOf_lt _
  obtain ⟨v, hv⟩ : ∃ v, v = (noted f s).updTask n (fun x => { x with peerCmp := some peer }) := ⟨_, rfl⟩
  have met : v.task n = { s.task n with peerCmp := some peer } := by
    rw [hv]
    exact task_updTask_same hn _
  obtain ⟨w, hw⟩ : ∃ w, w = v.updTask n fun x => { x with ownCmp := none, peerCmp := none } := ⟨_, rfl⟩
  have cleared : CmpOver n w := by
    rw [CmpOver, hw, task_updTask_same hn]
    exact ⟨rfl, rfl⟩
  have kept : w.mem = s.mem ∧ w.twin.ps = .paired ∧ w.twin.cmpMismatch = s.twin.cmpMismatch ∧ w.tb = s.tb ∧ w.isLeader = s.isLeader := by
    have before : v.mem = s.mem ∧ v.twin = (noted f s).twin ∧ v.tb = s.tb := by
      rw [hv]
      exact ⟨rfl, rfl, rfl⟩
    have after : w.mem = v.mem ∧ w.twin = v.twin ∧ w.tb = v.tb := by
      rw [hw]
      exact ⟨rfl, rfl, rfl⟩
    have twin : w.twin = (noted f s).twin := after.2.1.trans before.2.1
    have leads : w.isLeader = (noted f s).isLeader := by simp only [State.isLeader, State.twinId, twin]
    exact ⟨after.1.trans before.1, (congrArg Twin.ps twin).trans paired, (congrArg Twin.cmpMismatch twin).trans rfl, after.2.2.trans before.2.2, leads.trans rfl⟩
  obtain ⟨mem, ps, count, tb, leads⟩ := kept
  have compared : twcmpTaken b (noted f s) = if comparisonData own peer = 0 then w
      else if own.2.2.1 ≠ peer.2.2.1 then divergence n own.1 own.2.2.1 peer.2.2.1 w else divergence n own.1 own.2.2.2.1 peer.2.2.2 w := by
    have started : twcmpTaken b (noted f s) = compareCycle n v := by
      rw [hv]
      rfl
    rw [started, compareCycle, met]
    dsimp only
    rw [mine]
    dsimp only
    rw [if_neg (not_not_intro round), ← hw, ps]
  have diverged : ∀ x y, (∃ t, t = divergence n own.1 x y w ∧ CmpOver n t ∧ t.mem = s.mem ∧ t.twin.cmpMismatch = satInc 0xFFFFFFFF s.twin.cmpMismatch ∧
        t.twin.hasDiv = true ∧ t.twin.lastDivMs = s.tb.ms ∧ (s.isLeader = true → t.twin.ps = .paired) ∧
        (s.isLeader = false → (t.twin.ps = .silent ∨ t.twin.ps = .removed) ∧ t.twin.silentCause = 1)) := fun x y => by
    have history : (divergedFacts w).cmpMismatch = satInc 0xFFFFFFFF s.twin.cmpMismatch ∧ (divergedFacts w).lastDivMs = s.tb.ms :=
      ⟨congrArg (satInc 0xFFFFFFFF) count, congrArg TimeBase.ms tb⟩
    refine ⟨_, rfl, ?_⟩
    cases lead : s.isLeader with
    | true =>
      obtain ⟨facts, tasks, hm⟩ := divergence_leader n own.1 x y (leads.trans lead)
      generalize divergence n own.1 x y w = t at *
      exact ⟨cleared.of_tasks tasks, hm.trans mem, (congrArg Twin.cmpMismatch facts :).trans history.1, (congrArg Twin.hasDiv facts :), (congrArg Twin.lastDivMs facts :).trans history.2,
        fun _ => (congrArg Twin.ps facts :).trans ps, nofun⟩
    | false =>
      obtain ⟨⟨new, left, facts⟩, hm, cmps⟩ := divergence_follower n own.1 x y (leads.trans lead)
      generalize divergence n own.1 x y w = t at *
      exact ⟨cmps n hn cleared, hm.trans mem, (congrArg Twin.cmpMismatch facts :).trans history.1, (congrArg Twin.hasDiv facts :), (congrArg Twin.lastDivMs facts :).trans history.2,
        nofun, fun _ => ⟨(congrArg Twin.ps facts :) ▸ left, (congrArg Twin.silentCause facts :)⟩⟩
  rw [compared] at ran
  by_cases equal : comparisonData own peer = 0
  · rw [if_pos equal] at ran
    exact ⟨w, ran, cleared.1, cleared.2, mem, fun _ => ⟨ps, count⟩, fun h => absurd equal h⟩
  · rw [if_neg equal] at ran
    have some' : ∃ x y, exec (.twcmp f) s = .next (divergence n own.1 x y w) := by
      split at ran
      · exact ⟨_, _, ran⟩
      · exact ⟨_, _, ran⟩
    obtain ⟨x, y, ran⟩ := some'
    obtain ⟨t, rfl, ended, hm, effect⟩ := diverged x y
    exact ⟨_, ran, ended.1, ended.2, hm, fun h => absurd h equal, fun _ => effect⟩

theorem stsigClause (f : List Byte) (k w : Byte) (r : Word) (own : Dword) (s : State) (h : accepted 0x13 f s = true)
    (paired : s.twin.ps = .paired) (mine : s.twin.ownSt = some (k, w, r, own)) (kind : fld (wordAt (msgBody (frameMessage f)) 0) 31 24 = k.toNat)
    (window : fld (wordAt (msgBody (frameMessage f)) 0) 23 16 = w.toNat) (round : wordAt (msgBody (frameMessage f)) 1 = r) :
    ∃ t, exec (.stsig f) s = .next t ∧ t.twin.ownSt = none ∧ t.twin.peerSt = none ∧
      (own = dwordAt (msgBody (frameMessage f)) 2 → t.twin.ps = .paired ∧ t.twin.cmpMismatch = s.twin.cmpMismatch) ∧
      (own ≠ dwordAt (msgBody (frameMessage f)) 2 → t.twin.cmpMismatch = satInc 0xFFFFFFFF s.twin.cmpMismatch ∧
        (s.isLeader = false → t.twin.ps = .silent ∨ t.twin.ps = .removed)) := by
  have ran : exec (.stsig f) s = .next (stsigTaken (msgBody (frameMessage f)) (noted f s)) := congrArg Host.Outcome.next (onMessage_noted h)
  generalize msgBody (frameMessage f) = b at *
  obtain ⟨v, hv⟩ : ∃ v, v = (noted f s).updTwin fun t => { t with peerSt := some (k, w, r, dwordAt b 2) } := ⟨_, rfl⟩
  have taken : stsigTaken b (noted f s) = compareWindow v := by
    rw [hv, stsigTaken, kind, window, round, BitVec.ofNat_toNat, BitVec.ofNat_toNat, BitVec.setWidth_eq, BitVec.setWidth_eq]
  obtain ⟨x, hx⟩ : ∃ x, x = v.updTwin fun t => { t with ownSt := none, peerSt := none } := ⟨_, rfl⟩
  have known : v.twin.ownSt = some (k, w, r, own) ∧ v.twin.peerSt = some (k, w, r, dwordAt b 2) := by
    rw [hv]
    exact ⟨mine, rfl⟩
  have kept : x.twin.ps = .paired ∧ x.twin.cmpMismatch = s.twin.cmpMismatch ∧ x.isLeader = s.isLeader ∧ x.twin.ownSt = none ∧ x.twin.peerSt = none := by
    rw [hx, hv]
    exact ⟨paired, rfl, rfl, rfl, rfl⟩
  obtain ⟨ps, count, leads, mineOver, theirsOver⟩ := kept
  have compared : stsigTaken b (noted f s) = if own ≠ dwordAt b 2 then divergence (k.toNat * 256 + w.toNat) r.toNat own (dwordAt b 2) x else x := by
    rw [taken, compareWindow, known.1, known.2]
    dsimp only
    rw [if_neg (by simp), ← hx, ps]
    simp only [true_and]
  rw [compared] at ran
  by_cases equal : own = dwordAt b 2
  · rw [if_neg (not_not_intro equal)] at ran
    exact ⟨x, ran, mineOver, theirsOver, fun _ => ⟨ps, count⟩, fun h => absurd equal h⟩
  rw [if_pos equal] at ran
  have history : (divergedFacts x).cmpMismatch = satInc 0xFFFFFFFF s.twin.cmpMismatch := congrArg (satInc 0xFFFFFFFF) count
  refine ⟨_, ran, ?_⟩
  cases lead : s.isLeader with
  | true =>
    obtain ⟨facts, -, -⟩ := divergence_leader (k.toNat * 256 + w.toNat) r.toNat own (dwordAt b 2) (leads.trans lead)
    generalize divergence (k.toNat * 256 + w.toNat) r.toNat own (dwordAt b 2) x = t at *
    exact ⟨(congrArg Twin.ownSt facts :).trans mineOver, (congrArg Twin.peerSt facts :).trans theirsOver, fun h => absurd h equal,
      fun _ => ⟨(congrArg Twin.cmpMismatch facts :).trans history, nofun⟩⟩
  | false =>
    obtain ⟨⟨new, left, facts⟩, -, -⟩ := divergence_follower (k.toNat * 256 + w.toNat) r.toNat own (dwordAt b 2) (leads.trans lead)
    generalize divergence (k.toNat * 256 + w.toNat) r.toNat own (dwordAt b 2) x = t at *
    exact ⟨(congrArg Twin.ownSt facts :).trans mineOver, (congrArg Twin.peerSt facts :).trans theirsOver, fun h => absurd h equal,
      fun _ => ⟨(congrArg Twin.cmpMismatch facts :).trans history, fun _ => (congrArg Twin.ps facts :) ▸ left⟩⟩

/-- Settles O52: agreement and comparison of the pair, message by message. -/
theorem pairAgreesAndCompares : Obligations.PairAgreesAndCompares :=
  ⟨insigClause, insliceClause, agreeTimeoutClause, twcmpClause, stsigClause⟩

end Sys2Proof.Proofs
end

section
/-!
SUPPORT. Samples of the supplies and readbacks, and the quench rules (R17, R150, R258, R264, R271): O54.
-/
namespace Sys2Proof.Proofs
open Sys2Proof.Machine

/-! ### Supplies (R264) -/

/-- What holds through the records of a supply's fault and the stop of its group holds after its sample. -/
theorem supplySource_keeps {P : State → Prop} {src g : Nat} (high : 8 ≤ src) (listed : sourceListed src = true)
    (target : classThreeTarget src = some (.group g))
    (aside : ∀ s t : State, { t with fcu := s.fcu, ice := s.ice, fram := s.fram, lanes := s.lanes, twin := s.twin, freeCtr := s.freeCtr } = s → P s → P t)
    (stops : ∀ s, P s → P (stopGroup g s)) (old new : FsState) {s : State} (h : P s) : P (supplySource src old new s) := by
  have close : ∀ u v : State, { v with fcu := u.fcu, ice := u.ice, freeCtr := u.freeCtr } = u → v.ice.stopped = u.ice.stopped → P u → P v :=
    fun u v e _ hu => aside_fault aside u v e hu
  unfold supplySource
  split
  · exact raise_mid high target (fun cls _ cause u hu => aside_lock aside src cls cause u hu) close (fun u hu => stops u hu)
      listed (by decide) none (aside s (drawFree s).2 rfl h)
  · split
    · exact changeBase_low high close raiseNoAgree (code := 0) (by decide) false 0 none (activeMs src s) nofun (aside s (s.updSource src fun x => { x with real := 1 }) rfl h)
    · exact h

/-- The supplies as sampled, with the image and the module state as before. -/
structure Sampled (f1 f2 : FsSt) (s t : State) : Prop where
  fs1 : t.io.fs1 = f1
  fs2 : t.io.fs2 = f2
  mem : t.mem = s.mem
  mstate : t.mstate = s.mstate

section
variable {f1 f2 : FsSt} {s t u : State}

theorem Sampled.aside (h : Sampled f1 f2 s t)
    (e : { u with fcu := t.fcu, ice := t.ice, fram := t.fram, lanes := t.lanes, twin := t.twin, freeCtr := t.freeCtr } = t) : Sampled f1 f2 s u where
  fs1 := (congrArg (fun v : State => v.io.fs1) e :).trans h.fs1
  fs2 := (congrArg (fun v : State => v.io.fs2) e :).trans h.fs2
  mem := (congrArg State.mem e :).trans h.mem
  mstate := (congrArg State.mstate e :).trans h.mstate

theorem Sampled.stopGroup (h : Sampled f1 f2 s t) (g : Nat) : Sampled f1 f2 s (stopGroup g t) := by
  obtain ⟨fs1, fs2, mem, mstate⟩ := h
  by_cases first : g = 1
  · exact ⟨by rw [Machine.stopGroup, State.updIo_io, if_pos first]; exact fs1, by rw [Machine.stopGroup, State.updIo_io, if_pos first]; exact fs2, mem, mstate⟩
  · exact ⟨by rw [Machine.stopGroup, State.updIo_io, if_neg first]; exact fs1, by rw [Machine.stopGroup, State.updIo_io, if_neg first]; exact fs2, mem, mstate⟩

theorem Sampled.source (h : Sampled f1 f2 s t) {src g : Nat} (high : 8 ≤ src) (listed : sourceListed src = true)
    (target : classThreeTarget src = some (.group g)) (old new : FsState) : Sampled f1 f2 s (supplySource src old new t) :=
  supplySource_keeps (P := Sampled f1 f2 s) high listed target (fun _ _ e hu => hu.aside e) (fun _ hu => hu.stopGroup g) old new h

theorem Sampled.settled (h : Sampled f1 f2 s t) : Sampled f1 f2 s (settleOutputs t) :=
  settleOutputs_keeps (P := Sampled f1 f2 s) (fun _ _ _ ⟨fs1, fs2, mem, mstate⟩ => ⟨fs1, fs2, mem, mstate⟩) h

end

theorem supplyClause {s : State} (hr : s.runs = true) (mv1 mv2 : Nat) :
    ∃ t, exec (.fieldSupplySample mv1 mv2) s = .next t ∧ t.io.fs1 = supplyStep mv1 s.io.fs1 ∧
      t.io.fs2 = supplyStep mv2 s.io.fs2 ∧ t.mem = s.mem ∧ t.mstate = s.mstate := by
  have ran : exec (.fieldSupplySample mv1 mv2) s = .next (settleOutputs (supplySource 0x27 s.io.fs2.st (supplyStep mv2 s.io.fs2).st
      (supplySource 0x26 s.io.fs1.st (supplyStep mv1 s.io.fs1).st (s.updIo fun i => { i with fs1 := supplyStep mv1 s.io.fs1, fs2 := supplyStep mv2 s.io.fs2 })))) :=
    congrArg Host.Outcome.next (if_neg (by simp [hr]))
  have taken : Sampled (supplyStep mv1 s.io.fs1) (supplyStep mv2 s.io.fs2) s (s.updIo fun i => { i with fs1 := supplyStep mv1 s.io.fs1, fs2 := supplyStep mv2 s.io.fs2 }) :=
    ⟨rfl, rfl, rfl, rfl⟩
  obtain ⟨fs1, fs2, mem, mstate⟩ := ((taken.source (src := 0x26) (g := 1) (by decide) rfl rfl s.io.fs1.st (supplyStep mv1 s.io.fs1).st).source
    (src := 0x27) (g := 2) (by decide) rfl rfl s.io.fs2.st (supplyStep mv2 s.io.fs2).st).settled
  exact ⟨_, ran, fs1, fs2, mem, mstate⟩

/-! ### Readbacks (R258) -/

theorem out_updOut_same {k : Nat} (h : k < 16) (f : OutSt → OutSt) (s : State) : (s.updOut k f).io.out k = f (s.io.out k) := by
  refine (vget_vmod_same s.io.outs .fresh h f).trans ?_
  rw [Io.out, vget, Vector.getElem?_eq_getElem h, Option.getD_some]

theorem out_updOut_other {j k : Nat} (h : j ≠ k) (f : OutSt → OutSt) (s : State) : (s.updOut k f).io.out j = s.io.out j :=
  vget_vmod_other s.io.outs .fresh h f

/-- The readback of an output as sampled. -/
def Reads (x : Nat × Nat) (o : OutSt) : Prop := o.rbOn = decide (12000 ≤ x.1) ∧ o.rbOff = decide (x.1 ≤ 5000) ∧ o.ma = min x.2 0x7FF

/-- The first `n` outputs show their readings, with the image and the module state as before. -/
structure ReadBack (readings : List (Nat × Nat)) (shown : Nat → Prop) (s t : State) : Prop where
  reads : ∀ k, k < 16 → shown k → Reads (readings.getD k (0, 0)) (t.io.out k)
  mem : t.mem = s.mem
  mstate : t.mstate = s.mstate

section
variable {readings : List (Nat × Nat)} {shown : Nat → Prop} {s t u : State}

theorem ReadBack.aside (h : ReadBack readings shown s t) (io : u.io.outs = t.io.outs) (mem : u.mem = t.mem) (mstate : u.mstate = t.mstate) :
    ReadBack readings shown s u where
  reads k hk hs := (congrArg (fun v => Reads (readings.getD k (0, 0)) (vget v .fresh k)) io) ▸ h.reads k hk hs
  mem := mem.trans h.mem
  mstate := mstate.trans h.mstate

/-- A change that leaves what an output reads keeps what is shown. -/
theorem ReadBack.out (h : ReadBack readings shown s t) (k : Nat) (f : OutSt → OutSt) (keeps : ∀ x o, Reads x o → Reads x (f o)) :
    ReadBack readings shown s (t.updOut k f) where
  reads j hj hs := by
    by_cases same : j = k
    · subst same
      rw [out_updOut_same hj]
      exact keeps _ _ (h.reads j hj hs)
    · rw [out_updOut_other same]
      exact h.reads j hj hs
  mem := h.mem
  mstate := h.mstate

/-- The sample of one more output. -/
theorem ReadBack.sampled (h : ReadBack readings shown s t) (k : Nat) (cmd old2 ready : Bool) :
    ReadBack readings (fun j => shown j ∨ j = k) s (t.updOut k (readbackStep (readings.getD k (0, 0)).1 (readings.getD k (0, 0)).2 cmd old2 ready)) where
  reads j hj hs := by
    by_cases same : j = k
    · subst same
      rw [out_updOut_same hj]
      exact ⟨rfl, rfl, rfl⟩
    · rw [out_updOut_other same]
      exact h.reads j hj (hs.resolve_right same)
  mem := h.mem
  mstate := h.mstate

theorem ReadBack.discriminate (h : ReadBack readings shown s t) (k : Nat) : ReadBack readings shown s (discriminate k t) := by
  unfold Machine.discriminate
  dsimp only
  split
  · exact h
  · refine h.aside ?_ rfl rfl
    rw [State.updIo_io]
    split <;> rfl

theorem ReadBack.output (h : ReadBack readings shown s t) (k : Nat) :
    ReadBack readings (fun j => shown j ∨ j = k) s (readbackOutput k (readings.getD k (0, 0)).1 (readings.getD k (0, 0)).2 t) := by
  have raised : ∀ (u : State), ReadBack readings (fun j => shown j ∨ j = k) s u →
      ReadBack readings (fun j => shown j ∨ j = k) s (raiseOpen (0x23 + groupOf k) 1 none u) := fun u hu => by
    have listed : 8 ≤ 0x23 + groupOf k ∧ sourceListed (0x23 + groupOf k) = true := by
      rw [groupOf]
      split <;> decide
    exact raiseOpen_low listed.1 (fun _ _ e _ hv => hv.aside (congrArg (fun v : State => v.io.outs) e :) (congrArg State.mem e :) (congrArg State.mstate e :))
      listed.2 none hu
  unfold readbackOutput
  extract_lets o ready taken o' watched
  have sampled : ReadBack readings (fun j => shown j ∨ j = k) s taken := h.sampled k _ _ _
  have failed : ReadBack readings (fun j => shown j ∨ j = k) s watched := by
    clear_value taken
    unfold watched
    split
    · exact raised _ (sampled.out k _ fun _ _ => id)
    · exact sampled
  clear_value watched
  split
  · exact failed.discriminate k
  · exact failed

end

theorem readbacks_shown (readings : List (Nat × Nat)) (s t : State) (mem : t.mem = s.mem) (mstate : t.mstate = s.mstate) (n : Nat) :
    ReadBack readings (· < n) s ((List.range n).foldl (fun s k => let x := readings.getD k (0, 0); readbackOutput k x.1 x.2 s) t) := by
  induction n with
  | zero => exact ⟨fun _ _ h => absurd h (Nat.not_lt_zero _), mem, mstate⟩
  | succ n ih =>
    rw [List.range_succ, List.foldl_append]
    obtain ⟨reads, hm, hs⟩ := ih.output n
    exact ⟨fun k hk h => reads k hk (by omega), hm, hs⟩

theorem readbackClause {s : State} (hr : s.runs = true) (readings : List (Nat × Nat)) :
    ∃ t, exec (.outputReadbackSample readings) s = .next t ∧ t.mem = s.mem ∧ t.mstate = s.mstate ∧
      ∀ k, k < 16 → ((t.io.out k).rbOn = true ↔ 12000 ≤ (readings.getD k (0, 0)).1) ∧
        ((t.io.out k).rbOff = true ↔ (readings.getD k (0, 0)).1 ≤ 5000) ∧
        (t.io.out k).ma = min (readings.getD k (0, 0)).2 0x7FF := by
  have ran : exec (.outputReadbackSample readings) s = .next (watchPress ((List.range 16).foldl
      (fun s k => let x := readings.getD k (0, 0); readbackOutput k x.1 x.2 s) (settleOutputs s))) := congrArg Host.Outcome.next (if_neg (by simp [hr]))
  have settled := settleOutputs_frame s
  have shown := readbacks_shown readings s (settleOutputs s) (congrArg State.mem settled :) (congrArg State.mstate settled :) 16
  generalize (List.range 16).foldl (fun s k => let x := readings.getD k (0, 0); readbackOutput k x.1 x.2 s) (settleOutputs s) = u at *
  refine ⟨watchPress u, ran, shown.mem, shown.mstate, fun k hk => ?_⟩
  obtain ⟨on, off, current⟩ := shown.reads k hk hk
  refine ⟨?_, ?_, current⟩
  · rw [show ((watchPress u).io.out k).rbOn = decide (12000 ≤ (readings.getD k (0, 0)).1) from on, decide_eq_true_iff]
  · rw [show ((watchPress u).io.out k).rbOff = decide ((readings.getD k (0, 0)).1 ≤ 5000) from off, decide_eq_true_iff]

/-! ### Quench rules (R150, R271) -/

/-- The inputs, the rules and the output guard with the image. -/
def ruleFacts (s : State) := (s.mem, s.io.inputs, s.io.rules, s.io.guard)

theorem ruleFacts_enterSafe (s : State) : ruleFacts (enterSafe s) = ruleFacts s := by
  by_cases idle : s.mstate = .off ∨ s.mstate = .safe ∨ s.mstate = .frozen
  · rw [enterSafe, if_pos idle]
  · rw [enterSafe_eq s idle, abandonAll_eq]
    have copies : sameButCopies s (endOperations s) :=
      ((finishImages_copies (fun _ => true) (fun _ => true) s).trans (failPending_ports .host _).copies).trans
        ((failPending_ports .maint _).trans ((sameButPorts_updHif _ _).trans (sameButPorts_updHif _ _))).copies
    generalize endOperations s = u at *
    have ended : ruleFacts u = ruleFacts s := (congrArg ruleFacts copies :)
    have work : ruleFacts (abandonWork u) = ruleFacts u := rfl
    generalize abandonWork u = v at *
    have first : ruleFacts (quietCan .can1 v) = ruleFacts v := (congrArg ruleFacts (quietCan_frame .can1 v) :)
    generalize quietCan .can1 v = w at *
    have second : ruleFacts (quietCan .can2 w) = ruleFacts w := (congrArg ruleFacts (quietCan_frame .can2 w) :)
    generalize quietCan .can2 w = x at *
    exact (show _ = ruleFacts x from rfl).trans (second.trans (first.trans (work.trans ended)))

theorem ruleFacts_insertSelftest (s : State) : ruleFacts (insertSelftest s) = ruleFacts s := by
  have stepped : ∀ r, ruleFacts (stepTags r s) = ruleFacts s := fun r =>
    foldl_keeps (P := fun t => ruleFacts t = ruleFacts s) (f := fun s i => s.updLane i fun l => { l with tag := (r i).tag + 1 }) (fun _ _ h => h) _ rfl
  have raised : ∀ u, ruleFacts u = ruleFacts s → ruleFacts (raiseOpen 0x02 4 none u) = ruleFacts s := fun u h =>
    raiseOpen_keeps (P := fun t => ruleFacts t = ruleFacts s) (fun _ _ e h => (congrArg ruleFacts e :).trans h)
      (fun v h => (ruleFacts_enterSafe v).trans h) (fun t e => absurd e (by simp [classThreeTarget])) rfl 4 none h
  unfold insertSelftest
  split
  · rfl
  · dsimp only
    unfold selfTest
    dsimp only
    split
    · exact stepped _
    · exact raised _ (stepped _)

theorem ruleFacts_heartbeat (s : State) : ruleFacts (heartbeat s) = ruleFacts s := by
  unfold heartbeat
  split <;> rfl

theorem rule_evaluateRules {q : Nat} (hq : q < 16) (s : State) : (evaluateRules s).io.rule q = ruleStep s.io.live q s.io (s.io.rule q) := by
  rw [Io.rule, vget, Vector.getElem?_eq_getElem hq, Option.getD_some]
  exact Vector.getElem_ofFn hq

/-- A rule whose condition holds is active (R271). -/
theorem ruleStep_active {c : List Word} {q : Nat} {i : Io} {r : RuleSt} (used : ioRule c q 0 ≠ 0) (holds : ruleCond c q i = true) :
    (ruleStep c q i r).active = true := by
  rw [ruleStep, if_neg used, holds]
  dsimp only
  split <;> rfl

/-- A rule that does not latch follows its condition (R271). -/
theorem ruleStep_follows {c : List Word} {q : Nat} {i : Io} {r : RuleSt} (used : ioRule c q 0 ≠ 0) (plain : tst (ioRule c q 2) 30 = false) :
    (ruleStep c q i r).active = ruleCond c q i := by
  rw [ruleStep, if_neg used, plain]
  rfl

theorem quenchClause {s : State} (hr : s.runs = true) (state : quenchState s = true) (voted : voteLost 5 s = false) :
    ∃ t, exec .quenchEvaluation s = .next t ∧ t.mem = s.mem ∧ t.io.inputs = s.io.inputs ∧
      ∀ q, q < 16 → t.io.rule q = ruleStep s.io.live q s.io (s.io.rule q) ∧
        (ioRule s.io.live q 0 ≠ 0 → ruleCond s.io.live q s.io = true → (t.io.rule q).active = true) ∧
        (ioRule s.io.live q 0 ≠ 0 → tst (ioRule s.io.live q 2) 30 = false →
          (t.io.rule q).active = ruleCond s.io.live q s.io) := by
  have ran : exec .quenchEvaluation s = .next (heartbeat (if 2 ≤ (evaluateRules s).servingLanes.length then insertSelftest (evaluateRules s) else evaluateRules s)) := by
    refine congrArg Host.Outcome.next ((if_pos hr).trans ((if_neg (by simp [state])).trans (if_neg (by simp [voted]))))
  have facts : ruleFacts (heartbeat (if 2 ≤ (evaluateRules s).servingLanes.length then insertSelftest (evaluateRules s) else evaluateRules s)) = ruleFacts (evaluateRules s) := by
    rw [ruleFacts_heartbeat]
    split
    · exact ruleFacts_insertSelftest _
    · rfl
  have evaluated := fun q (hq : q < 16) => rule_evaluateRules hq s
  have kept : (evaluateRules s).mem = s.mem ∧ (evaluateRules s).io.inputs = s.io.inputs := ⟨rfl, rfl⟩
  generalize heartbeat _ = t at *
  generalize evaluateRules s = u at *
  simp only [ruleFacts, Prod.mk.injEq] at facts
  obtain ⟨mem, inputs, rules, -⟩ := facts
  refine ⟨t, ran, mem.trans kept.1, inputs.trans kept.2, fun q hq => ?_⟩
  have stepped : t.io.rule q = ruleStep s.io.live q s.io (s.io.rule q) := by
    rw [Io.rule, rules]
    exact evaluated q hq
  rw [stepped]
  exact ⟨rfl, ruleStep_active, ruleStep_follows⟩

/-- Settles O54: the supply, the readbacks, and the rules with and without their vote. -/
theorem samplesAreTaken : Obligations.SamplesAreTaken := fun s hr =>
  ⟨supplyClause hr, readbackClause hr,
    fun state lost => congrArg Host.Outcome.next ((if_pos hr).trans ((if_neg (by simp [state])).trans (if_pos lost))), quenchClause hr⟩

end Sys2Proof.Proofs
end

section
/-!
SUPPORT. Fault ends, the storing of the Ice Core, sync points (R102, R138, R278, R294, R295): O57.
-/
namespace Sys2Proof.Proofs
open Sys2Proof.Machine

/-! ### A fault ends (R278) -/

theorem faultEndClause (src : Byte) (ms : Word) (s : State) (hr : s.runs = true) (faulty : (s.fcuSource src.toNat).real ≠ 1)
    (free : (s.fcuSource src.toNat).force = none) :
    ∃ t, exec (.faultEnd src ms) s = .next t ∧
      t.fcuSource src.toNat = { s.fcuSource src.toNat with real := 1, rail := 1 } ∧
      (∀ n, n ≠ src.toNat → t.fcuSource n = s.fcuSource n) ∧ { t with fcu := s.fcu, ice := s.ice } = s := by
  have ran : exec (.faultEnd src ms) s = .next (endPattern src.toNat ms.toNat s) := congrArg Host.Outcome.next (if_neg (by simpa [hr] using faulty))
  generalize src.toNat = n at *
  obtain ⟨u, hu⟩ : ∃ u, u = s.updSource n fun x => { x with real := 1 } := ⟨_, rfl⟩
  have mine : u.fcuSource n = { s.fcuSource n with real := 1 } := by
    rw [hu, fcuSource_updSource_same]
  have others : ∀ m, m ≠ n → u.fcuSource m = s.fcuSource m := fun m hm => by
    rw [hu, fcuSource_updSource_ne _ _ _ hm]
  have frame : { u with fcu := s.fcu } = s := by
    rw [hu]
    rfl
  have healthy : usedPattern (u.fcuSource n) = 1 := by
    rw [mine, usedPattern, if_neg (not_not_intro rfl)]
    dsimp only
    rw [free]
  obtain ⟨v, hv⟩ : ∃ v, v = u.updSource n fun x => { x with rail := 1 } := ⟨_, rfl⟩
  have mine' : v.fcuSource n = { s.fcuSource n with real := 1, rail := 1 } := by
    rw [hv, fcuSource_updSource_same, mine]
  have others' : ∀ m, m ≠ n → v.fcuSource m = s.fcuSource m := fun m hm => by
    rw [hv, fcuSource_updSource_ne _ _ _ hm, others m hm]
  have frame' : { v with fcu := s.fcu } = s := by
    rw [hv]
    exact frame
  have ended : endPattern n ms.toNat s = if (u.fcuSource n).rail ≠ 1 then record 0x0102 0 n n ms.toNat 0 0 v else v := by
    rw [endPattern, patternChange, changeBase, ← hu]
    rw [healthy, ← hv, if_neg (fun h => h.2 rfl)]
    simp only [and_true]
  rw [ended] at ran
  by_cases was : (u.fcuSource n).rail ≠ 1
  · rw [if_pos was] at ran
    have noted := record_frame 0x0102 0 n n ms.toNat 0 0 v
    have kept : ∀ m, (record 0x0102 0 n n ms.toNat 0 0 v).fcuSource m = v.fcuSource m := fun _ => rfl
    exact ⟨_, ran, (kept n).trans mine', fun m hm => (kept m).trans (others' m hm),
      (congrArg (fun x : State => { x with fcu := s.fcu, ice := s.ice }) noted :).trans (congrArg (fun x : State => { x with ice := s.ice }) frame' :)⟩
  · rw [if_neg was] at ran
    exact ⟨v, ran, mine', others', (congrArg (fun x : State => { x with ice := s.ice }) frame' :)⟩

/-! ### The Ice Core stores (R294, R295) -/

theorem noteSeq_frame (r : IceRec) (s : State) : { noteSeq r s with fcu := s.fcu, fram := s.fram } = s := by
  unfold noteSeq
  split
  · rfl
  · split <;> rfl

/-- With room in the NAND queue a record of severity 2 or more joins it. -/
theorem persist_room (r : IceRec) {s : State} (room : r.sev < 2 ∨ s.ice.nandQueue.length < 2048) :
    persist r s = s.updIce fun i => { i with nandQueue := if 2 ≤ r.sev ∧ s.ice.stopped = false then s.ice.nandQueue ++ [(r, s.tb.ms)] else s.ice.nandQueue } := by
  unfold persist
  by_cases low : r.sev < 2 ∨ s.ice.stopped = true
  · rw [if_pos low, if_neg (fun h => low.elim (fun l => absurd h.1 (by omega)) fun st => absurd h.2 (by simp [st]))]
    rfl
  · have high : 2 ≤ r.sev ∧ s.ice.stopped = false := by
      rw [not_or, Bool.not_eq_true] at low
      exact ⟨by omega, low.2⟩
    rw [if_neg low, if_pos (room.resolve_left (by omega)), if_pos high]
    rfl

theorem storeClause (r : IceRec) (rest store : List IceRec) (s : State) (hr : s.runs = true) (oldest : s.ice.inbound = r :: rest)
    (placed : storePlace { r with seq := s.ice.nextSeq } s.ice.store = some store) (room : r.sev < 2 ∨ s.ice.nandQueue.length < 2048) :
    ∃ t, exec .iceRecordStore s = .next t ∧ t.ice.inbound = rest ∧ t.ice.store = store ∧
      t.ice.nextSeq = s.ice.nextSeq + 1 ∧ t.ice.nandQueue = (if 2 ≤ r.sev ∧ s.ice.stopped = false then
        s.ice.nandQueue ++ [({ r with seq := s.ice.nextSeq }, s.tb.ms)] else s.ice.nandQueue) ∧
      { t with ice := s.ice, fcu := s.fcu, fram := s.fram } = s := by
  obtain ⟨u, hu⟩ : ∃ u, u = s.updIce fun i => { i with inbound := rest, store := store, nextSeq := i.nextSeq + 1 } := ⟨_, rfl⟩
  have ran : exec .iceRecordStore s = .next (persist { r with seq := s.ice.nextSeq } (moveMark s.ice.nextSeq (noteSeq { r with seq := s.ice.nextSeq } u))) := by
    refine congrArg Host.Outcome.next ((if_neg (by simp [hr])).trans ?_)
    rw [iceTake, oldest]
    dsimp only
    rw [placed, hu]
  have ice : u.ice = { s.ice with inbound := rest, store := store, nextSeq := s.ice.nextSeq + 1 } := by
    rw [hu]
    rfl
  have frame : { u with ice := s.ice } = s := by
    rw [hu]
    rfl
  have marked : { moveMark s.ice.nextSeq (noteSeq { r with seq := s.ice.nextSeq } u) with fcu := u.fcu, fram := u.fram } = u :=
    (show _ = { noteSeq { r with seq := s.ice.nextSeq } u with fcu := u.fcu, fram := u.fram } from rfl).trans (noteSeq_frame ..)
  generalize moveMark s.ice.nextSeq (noteSeq { r with seq := s.ice.nextSeq } u) = v at *
  have ice' : v.ice = { s.ice with inbound := rest, store := store, nextSeq := s.ice.nextSeq + 1 } := (congrArg State.ice marked :).trans ice
  have time : v.tb = s.tb := (congrArg State.tb marked :).trans (congrArg State.tb frame :)
  have frame' : { v with ice := s.ice, fcu := s.fcu, fram := s.fram } = s :=
    (congrArg (fun x : State => { x with ice := s.ice, fcu := s.fcu, fram := s.fram }) marked :).trans (congrArg (fun x : State => { x with fcu := s.fcu, fram := s.fram }) frame :)
  rw [persist_room _ (by rw [ice']; exact room)] at ran
  refine ⟨_, ran, (congrArg Ice.inbound ice' :), (congrArg Ice.store ice' :), (congrArg Ice.nextSeq ice' :), ?_, frame'⟩
  rw [State.updIce_ice, ice', time]

/-! ### Pages of the NAND ring (R138, R279, R295) -/

theorem ringAppend_suffix (ring new : List IceRec) (short : new.length ≤ 262144) : ∃ old, ringAppend ring new = old ++ new ∧ old <:+ ring := by
  refine ⟨ring.drop (ring.length + new.length - 262144), ?_, List.drop_suffix ..⟩
  rw [ringAppend, lastN, List.length_append, List.drop_append_of_le_length (by omega)]

theorem pageClause (s : State) (hr : s.runs = true) (due : pageDue s = true) :
    ∃ t, exec (.nandPageWrite none) s = .next t ∧ t.ice.nandQueue = s.ice.nandQueue.drop 128 ∧ t.ice.ring.length ≤ 262144 ∧
      (∃ old, t.ice.ring = old ++ (s.ice.nandQueue.take 128).map (·.1) ∧ old <:+ s.ice.ring) ∧
      { t with ice := s.ice } = s ∧
      ∀ l, exec (.nandPageWrite (some l)) s = .next (raiseOpen 0x40 1 none (laneFault l.val 0x15
        (t.updLane l.val fun x => { x with nandRetry := min 0xFFFF (x.nandRetry + 3) }))) := by
  have writes : s.ice.stopped = false := by
    simp only [pageDue, Bool.and_eq_true, Bool.not_eq_true'] at due
    exact due.1.2
  have written : (pageWrite s).ice = { s.ice with ring := ringAppend s.ice.ring ((s.ice.nandQueue.take 128).map (·.1)), nandQueue := s.ice.nandQueue.drop 128 } := by
    rw [pageWrite, State.updIce_ice, if_neg (by simp [writes])]
  have ring : (pageWrite s).ice.ring = ringAppend s.ice.ring ((s.ice.nandQueue.take 128).map (·.1)) := by
    rw [pageWrite, State.updIce_ice, if_neg (by simp [writes])]
  have short : ((s.ice.nandQueue.take 128).map (·.1)).length ≤ 262144 := by
    rw [List.length_map]
    exact (List.length_take_le ..).trans (by decide)
  have ended := ringAppend_suffix s.ice.ring _ short
  have both : (s.runs && pageDue s) = true := by rw [hr, due]; rfl
  refine ⟨pageWrite s, congrArg Host.Outcome.next (if_pos both), (congrArg Ice.nandQueue written :), ?_, ?_, rfl, fun l => congrArg Host.Outcome.next (if_pos both)⟩
  · rw [ring]
    exact Quiet.ringAppend_length ..
  · rw [ring]
    exact ended

/-! ### Sync points (R102) -/

theorem syncPointClause (k : Fin 4) (s : State) (on : s.mstate ≠ .off) (live : s.mstate ≠ .frozen) (held : s.resetHold = none)
    (enabled : tst (vget s.tb.sp .fresh k.val).cfg 31 = true) :
    (pointReached (vget s.tb.sp .fresh k.val).cfg s = false → exec (.syncPointFire k) s = .next s) ∧
    (pointReached (vget s.tb.sp .fresh k.val).cfg s = true → ∃ t, exec (.syncPointFire k) s = .next t ∧ { t with tb := s.tb } = s ∧ { t.tb with sp := s.tb.sp } = s.tb ∧
      t.tb.sp[k] = { s.tb.sp[k] with time := s.tb.tb.ns, pend := true,
                                     miss := if s.tb.sp[k].pend then satInc 0xFF s.tb.sp[k].miss else s.tb.sp[k].miss } ∧
      ∀ j : Fin 4, j ≠ k → t.tb.sp[j] = s.tb.sp[j]) := by
  refine ⟨fun early => congrArg Host.Outcome.next (if_pos (by simp [early])), fun reached =>
    ⟨_, congrArg Host.Outcome.next (if_neg (by simp [on, live, held, enabled, reached])), rfl, rfl, ?_, fun j hj => ?_⟩⟩
  · rw [State.updTb_tb]
    dsimp only
    simp [vmod]
  · have other : k.val ≠ j.val := fun h => hj (Fin.ext h.symm)
    rw [State.updTb_tb]
    dsimp only
    simp [vmod, other]

/-- Settles O57: fault ends, the storing of records, pages and sync points. -/
theorem recordsAreStored : Obligations.RecordsAreStored := ⟨faultEndClause, storeClause, pageClause, syncPointClause⟩

end Sys2Proof.Proofs
end

section
/-!
SUPPORT. Faults of outputs and the output guard (R259 to R262, R267, R268, R270, R357): O55.
-/
namespace Sys2Proof.Proofs
open Sys2Proof.Machine

/-! ### A fault of a quiet source -/

/-- A fault of a quiet source is decided at its final class (R280). -/
theorem raiseOpen_decides {src code cls : Nat} {s : State} (listed : sourceListed src = true) (quiet : quietSource src s = true)
    (final : ∀ c : Fcu, (∀ k, unack c k = unack s.fcu k) → (finalClass c src code false).cls = cls) (specific : Option Half) :
    ∃ v detail cause, raiseOpen src code specific s = decisionEffect raiseNoAgree cls src detail (lockDecided cls src cause v) ∧
      { v with fcu := s.fcu, ice := s.ice, freeCtr := s.freeCtr } = s := by
  have quiet' : quietSource src (drawFree s).2 = true := quiet
  have shown : (finalClass (showPattern src 2 (drawFree s).2).fcu src code false).cls = cls :=
    final _ fun k => unack_showPattern src 2 (drawFree s).2 k
  have frame : { showPattern src 2 (drawFree s).2 with fcu := s.fcu, freeCtr := s.freeCtr } = s := rfl
  have raised := presentPattern_quiet (rails := 2) listed quiet' (by decide) code (BitVec.ofNat 32 ((drawFree s).1.toNat % 2 ^ 32)) specific
  generalize showPattern src 2 (drawFree s).2 = u at *
  rw [show patternBroken 2 = false from rfl, decideBase_eq] at raised
  dsimp only at raised
  rw [shown] at raised
  refine ⟨_, _, _, raised, ?_⟩
  exact (congrArg (fun x : State => { x with fcu := s.fcu, ice := s.ice, freeCtr := s.freeCtr })
    (noteFault_frame src code false false (BitVec.ofNat 32 ((drawFree s).1.toNat % 2 ^ 32)) u (finalClass u.fcu src code false)) :).trans
    (congrArg (fun x : State => { x with ice := s.ice }) frame :)

theorem unack_none {s : State} (none' : noneUnacked s = true) (k : Nat) : unack s.fcu k = false := by
  rw [← Bool.not_eq_true, unack_iff]
  rintro ⟨e, he, set⟩
  have clear := List.all_eq_true.mp none' e he
  rw [beq_iff_eq] at clear
  rw [clear] at set
  exact absurd set (by simp [tst])

/-! ### A group is lost (R259, R261, R262, R270) -/

/-- An output group locked out and stopped, the other as before or lost as well. -/
structure GroupLost (g : Nat) (s t : State) : Prop where
  stands : lockStands 2 g t = true
  keeps : ∀ k i, lockStands k i s = true → lockStands k i t = true
  gen : t.gen g = false
  gens : ∀ h, s.gen h = false → t.gen h = false
  disc : t.disc g = none
  discs : ∀ h, s.disc h = none → t.disc h = none
  outs : t.io.outs = s.io.outs
  mem : t.mem = s.mem
  mstate : t.mstate = s.mstate

/-- The stop of a group that has its lock-out record. -/
theorem stopGroup_lost {g : Nat} (hg : g = 1 ∨ g = 2) {s w : State} (stands : lockStands 2 g w = true)
    (keeps : ∀ k i, lockStands k i s = true → lockStands k i w = true) (io : w.io = s.io) (mem : w.mem = s.mem) (mstate : w.mstate = s.mstate) :
    GroupLost g s (stopGroup g w) := by
  have gen : ∀ h, w.gen h = s.gen h := fun h => by rw [State.gen, io, State.gen]
  have disc : ∀ h, w.disc h = s.disc h := fun h => by rw [State.disc, io, State.disc]
  have outs : w.io.outs = s.io.outs := congrArg Io.outs io
  rcases hg with rfl | rfl
  · refine ⟨stands, keeps, rfl, fun h hh => ?_, rfl, fun h hh => ?_, outs, mem, mstate⟩
    · by_cases first : h = 1
      · rw [first]
        rfl
      · rw [← gen] at hh
        rw [State.gen, if_neg first] at hh ⊢
        exact hh
    · by_cases first : h = 1
      · rw [first]
        rfl
      · rw [← disc] at hh
        rw [State.disc, if_neg first] at hh ⊢
        exact hh
  · refine ⟨stands, keeps, rfl, fun h hh => ?_, rfl, fun h hh => ?_, outs, mem, mstate⟩
    · by_cases first : h = 1
      · rw [← gen, first] at hh
        rw [first]
        exact hh
      · rw [State.gen, if_neg first]
        rfl
    · by_cases first : h = 1
      · rw [← disc, first] at hh
        rw [first]
        exact hh
      · rw [State.disc, if_neg first]
        rfl

/-- A class 3 fault of a group's quiet source, nothing unacknowledged, loses the group. -/
theorem raiseGroup_lost {src g : Nat} (hg : g = 1 ∨ g = 2) (high : 8 ≤ src) (listed : sourceListed src = true) (target : classThreeTarget src = some (.group g))
    {s : State} (quiet : quietSource src s = true) (none' : noneUnacked s = true) (specific : Option Half) : GroupLost g s (raiseOpen src 3 specific s) := by
  have final : ∀ c : Fcu, (∀ k, unack c k = unack s.fcu k) → (finalClass c src 3 false).cls = 3 := fun c same => by
    have below : decide (src < 8) = false := decide_eq_false (by omega)
    simp [finalClass, below, target, same, unack_none none']
  obtain ⟨v, detail, cause, ran, frame⟩ := raiseOpen_decides listed quiet final specific
  have locked : lockedFunction src 3 = some (2, g) := by
    rw [lockedFunction, target]
    rfl
  have stands := lockDecided_stands locked cause v
  have kept := lockDecided_frame 3 src cause v
  have keeps : ∀ k i, lockStands k i v = true → lockStands k i (lockDecided 3 src cause v) = true := fun k i h => by
    unfold lockDecided
    split
    · exact writeLock_keeps _ _ _ _ _ _ _ h
    · exact h
  have fram : v.fram = s.fram := (congrArg State.fram frame :)
  rw [ran, decisionEffect, if_neg (by decide), if_pos rfl, target]
  generalize lockDecided 3 src cause v = w at *
  exact stopGroup_lost hg stands (fun k i h => keeps k i ((lockStands_of_fram_eq fram k i).trans h)) ((congrArg State.io kept :).trans (congrArg State.io frame :))
    ((congrArg State.mem kept :).trans (congrArg State.mem frame :)) ((congrArg State.mstate kept :).trans (congrArg State.mstate frame :))

theorem groupSource {g : Nat} (hg : g = 1 ∨ g = 2) : 8 ≤ 0x1F + g ∧ sourceListed (0x1F + g) = true ∧ classThreeTarget (0x1F + g) = some (.group g) := by
  rcases hg with rfl | rfl <;> exact ⟨by decide, rfl, rfl⟩

section
variable {g : Nat} (hg : g = 1 ∨ g = 2) {s : State}
include hg

theorem wiringFault_lost (quiet : quietSource (0x1F + g) s = true) (none' : noneUnacked s = true) (cause : Half) : GroupLost g s (wiringFault g cause s) := by
  obtain ⟨high, listed, target⟩ := groupSource hg
  exact raiseGroup_lost hg high listed target quiet none' (some cause)

theorem lockGroup_lost (cause : Half) : GroupLost g s (lockGroup g cause s) ∧ (lockGroup g cause s).fcu = s.fcu := by
  have frame := writeLock_frame 2 g cause (0x1F + g) s
  have stands := writeLock_stands (kind := 2) (index := g) (by decide) (by omega) cause (0x1F + g) s
  have keeps := fun k i => writeLock_keeps 2 g cause (0x1F + g) k i s
  unfold lockGroup
  generalize writeLock 2 g cause (0x1F + g) s = w at *
  exact ⟨stopGroup_lost hg stands keeps (congrArg State.io frame :) (congrArg State.mem frame :) (congrArg State.mstate frame :), (congrArg State.fcu frame :)⟩

/-- A wiring fault that reaches the other group loses both. -/
theorem wiringFaultBoth_lost (quiet : quietSource (0x1F + g) s = true) (none' : noneUnacked s = true) (cause other : Half) :
    GroupLost g s (wiringFaultBoth g cause other s) ∧ lockStands 2 1 (wiringFaultBoth g cause other s) = true ∧ lockStands 2 2 (wiringFaultBoth g cause other s) = true ∧
      (wiringFaultBoth g cause other s).io.gen1 = false ∧ (wiringFaultBoth g cause other s).io.gen2 = false := by
  rcases hg with rfl | rfl
  · rw [wiringFaultBoth, if_pos rfl]
    have first := wiringFault_lost (.inl rfl) quiet none' cause
    have second := (lockGroup_lost (.inr rfl) (s := wiringFault 1 cause s) other).1
    generalize wiringFault 1 cause s = u at *
    generalize lockGroup 2 other u = t at *
    have stands := second.keeps 2 1 first.stands
    exact ⟨⟨stands, fun k i h => second.keeps k i (first.keeps k i h), second.gens 1 first.gen, fun h e => second.gens h (first.gens h e),
      second.discs 1 first.disc, fun h e => second.discs h (first.discs h e), second.outs.trans first.outs, second.mem.trans first.mem, second.mstate.trans first.mstate⟩,
      stands, second.stands, second.gens 1 first.gen, second.gen⟩
  · rw [wiringFaultBoth, if_neg (by decide)]
    obtain ⟨first, fcu⟩ := lockGroup_lost (g := 3 - 2) (.inl rfl) (s := s) other
    have quiet' : quietSource (0x1F + 2) (lockGroup (3 - 2) other s) = true := by rw [quietSource, fcuSource_of_fcu_eq fcu]; exact quiet
    have none'' : noneUnacked (lockGroup (3 - 2) other s) = true := by rw [noneUnacked, fcu]; exact none'
    have second := wiringFault_lost (.inr rfl) quiet' none'' cause
    generalize lockGroup (3 - 2) other s = u at *
    generalize wiringFault 2 cause u = t at *
    exact ⟨⟨second.stands, fun k i h => second.keeps k i (first.keeps k i h), second.gen, fun h e => second.gens h (first.gens h e),
      second.disc, fun h e => second.discs h (first.discs h e), second.outs.trans first.outs, second.mem.trans first.mem, second.mstate.trans first.mstate⟩,
      second.keeps 2 1 first.stands, second.stands, second.gens 1 first.gen, second.gen⟩

end

theorem groupOf_cases (k : Nat) : groupOf k = 1 ∨ groupOf k = 2 := by
  rw [groupOf]
  split
  · exact .inl rfl
  · exact .inr rfl

/-! ### Test pulses (R259, R261) -/

theorem settleOutputs_switches (t : State) : (∀ h, (settleOutputs t).gen h = t.gen h) ∧ (∀ h, (settleOutputs t).disc h = t.disc h) ∧
    ∀ k i, lockStands k i (settleOutputs t) = lockStands k i t :=
  settleOutputs_keeps (P := fun u => (∀ h, u.gen h = t.gen h) ∧ (∀ h, u.disc h = t.disc h) ∧ ∀ k i, lockStands k i u = lockStands k i t)
    (fun _ _ _ h => h) ⟨fun _ => rfl, fun _ => rfl, fun _ _ => rfl⟩

theorem energised_pulsing {k : Nat} {s : State} (h : (s.io.out k).pulse = true) : energised k s = false := by
  simp [energised, h]

/-- Which groups are energised does not depend on the discriminations. -/
theorem groupEnergised_discs (h : Nat) (c1 c2 : Option Nat) (s : State) :
    groupEnergised h (s.updIo fun i => { i with disc1 := c1, disc2 := c2 }) = groupEnergised h s := by
  have each : ∀ k, energised k (s.updIo fun i => { i with disc1 := c1, disc2 := c2 }) = energised k s := fun k => rfl
  simp only [groupEnergised, each]

theorem energised_latched {k : Nat} {s : State} (h : (s.io.out k).ovl = true) : energised k s = false := by
  simp [energised, h]

section
variable {s : State} (hr : s.runs = true)
include hr

theorem pulseStartClause (k : Fin 16) (on : energised k.val s = true) (pulses : outPulseEn k.val s = true) (settled : (s.io.out k.val).cmdCyc + 250000 ≤ s.cyc) :
    ∃ t, exec (.testPulseStart k) s = .next t ∧ t = s.updOut k.val (fun o => { o with pulse := true }) ∧ energised k.val t = false := by
  refine ⟨_, congrArg Host.Outcome.next (if_pos (by simp [hr, on, pulses, settled])), rfl, energised_pulsing ?_⟩
  rw [out_updOut_same k.isLt]

theorem pulseEndClause (k : Fin 16) (fell : BitVec 16) (pulsing : (s.io.out k.val).pulse = true) :
    let u := s.updOut k.val fun o => { o with pulse := false }
    (fellOutputs k.val fell u = [] → exec (.testPulseEnd k true fell) s = .next u) ∧
    (∀ j ∈ fellOutputs k.val fell u, noneUnacked s = true → quietSource (0x1F + groupOf k.val) s = true →
      ∀ readOff, ∃ t, exec (.testPulseEnd k readOff fell) s = .next t ∧ t.mstate = s.mstate ∧
        lockStands 2 (groupOf k.val) t = true ∧ t.gen (groupOf k.val) = false ∧
        (groupOf j ≠ groupOf k.val → lockStands 2 1 t = true ∧ lockStands 2 2 t = true ∧
          t.io.gen1 = false ∧ t.io.gen2 = false)) := by
  intro u
  have ran : ∀ readOff, exec (.testPulseEnd k readOff fell) s = .next (pulseOutcome k.val readOff fell u) := fun readOff =>
    congrArg Host.Outcome.next ((if_pos hr).trans (if_neg (by simp [pulsing])))
  refine ⟨fun alone => ?_, fun j hj none' quiet readOff => ?_⟩
  · rw [ran, pulseOutcome, alone]
    rfl
  have none'' : noneUnacked u = true := none'
  have quiet' : quietSource (0x1F + groupOf k.val) u = true := quiet
  have mstate : u.mstate = s.mstate := rfl
  refine ⟨_, ran readOff, ?_⟩
  rw [pulseOutcome]
  clear_value u
  by_cases across : ((fellOutputs k.val fell u).any fun j => groupOf j != groupOf k.val) = true
  · rw [if_pos across]
    obtain ⟨lost, both⟩ := wiringFaultBoth_lost (groupOf_cases k.val) quiet' none'' 0x0104 0x0104
    exact ⟨lost.mstate.trans mstate, lost.stands, lost.gen, fun _ => both⟩
  · have some' : (!(fellOutputs k.val fell u).isEmpty) = true := by
      rw [Bool.not_eq_true', List.isEmpty_eq_false_iff]
      exact List.ne_nil_of_mem hj
    rw [if_neg across, if_pos some']
    have lost := wiringFault_lost (groupOf_cases k.val) quiet' none'' 0x0103
    exact ⟨lost.mstate.trans mstate, lost.stands, lost.gen, fun other => absurd (List.any_eq_true.mpr ⟨j, hj, by simpa using other⟩) across⟩

/-! ### Wiring faults (R262) -/

theorem discriminationClause (g : Fin 2) (k : Nat) (readOn : Bool) (runs' : s.disc (g.val + 1) = some k) (none' : noneUnacked s = true)
    (quiet : quietSource (0x20 + g.val) s = true) :
    ∃ t, exec (.discriminationEnd g readOn) s = .next t ∧ t.disc (g.val + 1) = none ∧
      lockStands 2 (g.val + 1) t = true ∧ t.gen (g.val + 1) = false ∧ t.mem = s.mem ∧ t.mstate = s.mstate ∧
      (readOn = true → groupEnergised (2 - g.val) s = true →
        lockStands 2 1 t = true ∧ lockStands 2 2 t = true ∧ t.io.gen1 = false ∧ t.io.gen2 = false) := by
  obtain ⟨u, hu⟩ : ∃ u, u = s.updIo fun i => if g.val + 1 = 1 then { i with disc1 := none } else { i with disc2 := none } := ⟨_, rfl⟩
  obtain ⟨v, hv⟩ : ∃ v, v = if !readOn then wiringFault (g.val + 1) 0x0101 u
      else if !groupEnergised (3 - (g.val + 1)) u then wiringFault (g.val + 1) 0x0102 u else wiringFaultBoth (g.val + 1) 0x0102 0x0104 u := ⟨_, rfl⟩
  have ran : exec (.discriminationEnd g readOn) s = .next (settleOutputs v) := by
    refine congrArg Host.Outcome.next ((if_pos hr).trans ?_)
    dsimp only
    rw [runs']
    dsimp only
    rw [← hu, hv]
  have none'' : noneUnacked u = true := by
    rw [hu]
    exact none'
  have quiet' : quietSource (0x1F + (g.val + 1)) u = true := by
    rw [show 0x1F + (g.val + 1) = 0x20 + g.val by omega, hu]
    exact quiet
  have energy : groupEnergised (3 - (g.val + 1)) u = groupEnergised (2 - g.val) s := by
    rw [show 3 - (g.val + 1) = 2 - g.val by omega, hu]
    split
    · exact groupEnergised_discs _ none s.io.disc2 s
    · exact groupEnergised_discs _ s.io.disc1 none s
  have frame : u.mem = s.mem ∧ u.mstate = s.mstate := by
    rw [hu]
    exact ⟨rfl, rfl⟩
  have hg : g.val + 1 = 1 ∨ g.val + 1 = 2 := by omega
  have lost : GroupLost (g.val + 1) u v ∧ (readOn = true → groupEnergised (2 - g.val) s = true →
      lockStands 2 1 v = true ∧ lockStands 2 2 v = true ∧ v.io.gen1 = false ∧ v.io.gen2 = false) := by
    rw [hv, energy]
    by_cases off : (!readOn) = true
    · rw [if_pos off]
      exact ⟨wiringFault_lost hg quiet' none'' _, fun on => by rw [on] at off; exact absurd off (by decide)⟩
    · rw [if_neg off]
      by_cases alone : (!groupEnergised (2 - g.val) s) = true
      · rw [if_pos alone]
        exact ⟨wiringFault_lost hg quiet' none'' _, fun _ on => by rw [on] at alone; exact absurd alone (by decide)⟩
      · rw [if_neg alone]
        obtain ⟨lost, both⟩ := wiringFaultBoth_lost hg quiet' none'' 0x0102 0x0104
        exact ⟨lost, fun _ _ => both⟩
  obtain ⟨lost, both⟩ := lost
  obtain ⟨gens, discs, stands⟩ := settleOutputs_switches v
  have settled := settleOutputs_frame v
  generalize settleOutputs v = t at *
  refine ⟨t, ran, (discs _).trans lost.disc, (stands _ _).trans lost.stands, (gens _).trans lost.gen, ((congrArg State.mem settled :).trans lost.mem).trans frame.1,
    ((congrArg State.mstate settled :).trans lost.mstate).trans frame.2, fun on other => ?_⟩
  obtain ⟨first, second, gen1, gen2⟩ := both on other
  exact ⟨(stands _ _).trans first, (stands _ _).trans second, (gens 1).trans gen1, (gens 2).trans gen2⟩

/-! ### Overload, open load, feedback (R260, R270) -/

theorem overloadClause (k : Fin 16) (ma : Nat) (free : (s.io.out k.val).ovl = false) :
    ∃ t, exec (.outputOverload k ma) s = .next t ∧ (t.io.out k.val).ovl = true ∧ energised k.val t = false ∧
      { t with io := s.io, fcu := s.fcu, ice := s.ice, freeCtr := s.freeCtr } = s := by
  obtain ⟨u, hu⟩ : ∃ u, u = s.updOut k.val fun o => { o with ovl := true } := ⟨_, rfl⟩
  have ran : exec (.outputOverload k ma) s = .next (record 0x0803 1 (0x140 + k.val) k.val ma 0 0 (raiseOpen (0x23 + groupOf k.val) 1 none u)) := by
    rw [hu]
    exact congrArg Host.Outcome.next (if_neg (by simp [hr, free]))
  have latched : (u.io.out k.val).ovl = true := by
    rw [hu, out_updOut_same k.isLt]
  have frame : { u with io := s.io } = s := by
    rw [hu]
    rfl
  have source : 8 ≤ 0x23 + groupOf k.val ∧ sourceListed (0x23 + groupOf k.val) = true := by
    rcases groupOf_cases k.val with e | e <;> rw [e] <;> decide
  have raised : { raiseOpen (0x23 + groupOf k.val) 1 none u with fcu := u.fcu, ice := u.ice, freeCtr := u.freeCtr } = u :=
    raiseOpen_low (P := fun v => { v with fcu := u.fcu, ice := u.ice, freeCtr := u.freeCtr } = u) source.1
      (fun _ _ e _ hv => (congrArg (fun x : State => { x with fcu := u.fcu, ice := u.ice, freeCtr := u.freeCtr }) e :).trans hv) source.2 none rfl
  generalize raiseOpen (0x23 + groupOf k.val) 1 none u = v at *
  have noted := record_frame 0x0803 1 (0x140 + k.val) k.val ma 0 0 v
  generalize record 0x0803 1 (0x140 + k.val) k.val ma 0 0 v = t at *
  have io : t.io = u.io := (congrArg State.io noted :).trans (congrArg State.io raised :)
  have latched' : (t.io.out k.val).ovl = true := by
    rw [io]
    exact latched
  refine ⟨t, ran, latched', energised_latched latched', ?_⟩
  calc { t with io := s.io, fcu := s.fcu, ice := s.ice, freeCtr := s.freeCtr }
      = { v with io := s.io, fcu := s.fcu, ice := s.ice, freeCtr := s.freeCtr } := (congrArg (fun x : State => { x with io := s.io, fcu := s.fcu, ice := s.ice, freeCtr := s.freeCtr }) noted :)
    _ = { u with io := s.io, fcu := s.fcu, ice := s.ice, freeCtr := s.freeCtr } := (congrArg (fun x : State => { x with io := s.io, fcu := s.fcu, ice := s.ice, freeCtr := s.freeCtr }) raised :)
    _ = s := (congrArg (fun x : State => { x with fcu := s.fcu, ice := s.ice, freeCtr := s.freeCtr }) frame :)

theorem openLoadClause (k : Fin 16) (watched : tst (ioOut s.io.live k.val) 27 = true) (on : energised k.val s = true) (fresh : (s.io.out k.val).openLd = false) :
    ∃ t, exec (.openLoad k) s = .next t ∧ (t.io.out k.val).openLd = true ∧ { t with io := s.io, ice := s.ice } = s := by
  refine ⟨_, congrArg Host.Outcome.next (if_pos (by simp [hr, watched, on, fresh])), ?_, rfl⟩
  exact congrArg OutSt.openLd (out_updOut_same k.isLt (fun o => { o with openLd := true }) s)

theorem feedbackClause (k : Fin 16) (differs : feedbackDiffers k.val s = true) (none' : noneUnacked s = true) (quiet : quietSource (0x21 + groupOf k.val) s = true) :
    ∃ t, exec (.feedbackFault k) s = .next t ∧ (t.io.out k.val).fbFault = true ∧ lockStands 2 (groupOf k.val) t = true ∧
      t.gen (groupOf k.val) = false ∧ t.mstate = s.mstate ∧ t.mem = s.mem := by
  obtain ⟨u, hu⟩ : ∃ u, u = s.updOut k.val fun o => { o with fbFault := true } := ⟨_, rfl⟩
  have ran : exec (.feedbackFault k) s = .next (raiseOpen (0x21 + groupOf k.val) 3 (some 0x0105) u) := by
    rw [hu]
    exact congrArg Host.Outcome.next (if_pos (by simp [hr, differs]))
  have shown : (u.io.out k.val).fbFault = true := by
    rw [hu, out_updOut_same k.isLt]
  have same : u.fcu = s.fcu ∧ u.mstate = s.mstate ∧ u.mem = s.mem := by
    rw [hu]
    exact ⟨rfl, rfl, rfl⟩
  have source : 8 ≤ 0x21 + groupOf k.val ∧ sourceListed (0x21 + groupOf k.val) = true ∧ classThreeTarget (0x21 + groupOf k.val) = some (.group (groupOf k.val)) := by
    rcases groupOf_cases k.val with e | e <;> rw [e] <;> exact ⟨by decide, rfl, rfl⟩
  have lost := raiseGroup_lost (groupOf_cases k.val) source.1 source.2.1 source.2.2 (s := u) (by rw [quietSource, fcuSource_of_fcu_eq same.1]; exact quiet)
    (by rw [noneUnacked, same.1]; exact none') (some 0x0105)
  refine ⟨_, ran, ?_, lost.stands, lost.gen, lost.mstate.trans same.2.1, lost.mem.trans same.2.2⟩
  rw [Io.out, lost.outs]
  exact shown

end

/-! ### The output guard (R267, R268, R357) -/

theorem recordOrHold_frame (code : Half) (sev src p0 p1 : Nat) (s : State) : { recordOrHold code sev src p0 p1 s with ice := s.ice } = s := by
  unfold recordOrHold
  split
  · exact record_frame ..
  · split <;> rfl

/-- A fault of the guard keeps what the guard shows. -/
theorem guard_raised (s : State) : (raiseOpen 0x0C 4 none s).io.guard = s.io.guard :=
  raiseOpen_keeps (P := fun t => t.io.guard = s.io.guard) (src := 0x0C) (fun _ _ e h => (congrArg (fun x : State => x.io.guard) e :).trans h)
    (fun u h => by
      have facts := ruleFacts_enterSafe u
      simp only [ruleFacts, Prod.mk.injEq] at facts
      exact facts.2.2.2.trans h) (fun t e => absurd e (by simp [classThreeTarget])) rfl 4 none rfl

/-- A tripped guard's fault, its source quiet, leads to SAFE with both groups stopped and the module locked out. -/
theorem guardFault_safe {s : State} (state : s.mstate = .service ∨ s.mstate = .hold) (quiet : quietSource 0x0C s = true) :
    (raiseOpen 0x0C 4 none s).mstate = .safe ∧ (raiseOpen 0x0C 4 none s).io.gen1 = false ∧ (raiseOpen 0x0C 4 none s).io.gen2 = false ∧
      lockStands 1 0 (raiseOpen 0x0C 4 none s) = true := by
  obtain ⟨v, detail, cause, ran, frame⟩ := raiseOpen_decides (src := 0x0C) (code := 4) (cls := 4) rfl quiet (fun c _ => by simp [finalClass]) none
  have stands := lockDecided_stands (src := 0x0C) (cls := 4) rfl cause v
  have mstate : (lockDecided 4 0x0C cause v).mstate = s.mstate := (lockDecided_mstate 4 0x0C cause v).trans (congrArg State.mstate frame :)
  rw [ran, decisionEffect, if_pos rfl]
  generalize lockDecided 4 0x0C cause v = w at *
  have moves : w.mstate ≠ .off ∧ w.mstate ≠ .frozen ∧ w.mstate ≠ .safe := by
    rw [mstate]
    rcases state with e | e <;> rw [e] <;> exact ⟨nofun, nofun, nofun⟩
  obtain ⟨gen1, gen2⟩ := enterSafe_gen w moves.1 moves.2.1 moves.2.2
  exact ⟨enterSafe_mstate w moves.1 moves.2.1, gen1, gen2, (lockStands_of_fram_eq (enterSafe_fram w) 1 0).trans stands⟩

theorem tripGuard_trips (s : State) :
    (tripGuard s).io.guard.tripped = true ∧ (tripGuard s).io.guard.accepted = 0 ∧
      (tripGuard s).io.guard.trips = (if s.io.guard.tripped then s.io.guard.trips else satInc 0xFF s.io.guard.trips) ∧
      (s.io.guard.tripped = true → { tripGuard s with io := s.io } = s) ∧
      (s.io.guard.tripped = false → s.mstate = .dormant → ∃ r, (tripGuard s).ice.held = s.ice.held ++ [r] ∧ r.code = 0x0805) ∧
      (s.io.guard.tripped = false → s.mstate = .service ∨ s.mstate = .hold → quietSource 0x0C s = true →
        (tripGuard s).mstate = .safe ∧ (tripGuard s).io.gen1 = false ∧ (tripGuard s).io.gen2 = false ∧ lockStands 1 0 (tripGuard s) = true) := by
  by_cases was : s.io.guard.tripped = true
  · rw [tripGuard, if_pos was, was]
    exact ⟨was, rfl, rfl, fun _ => rfl, nofun, nofun⟩
  obtain ⟨u, hu⟩ : ∃ u, u = s.updIo fun i => { i with guard := { i.guard with tripped := true, accepted := 0, trips := satInc 0xFF i.guard.trips } } := ⟨_, rfl⟩
  obtain ⟨v, hv⟩ : ∃ v, v = recordOrHold 0x0805 1 0x00C u.mstate.code (min (s.tb.ms - s.io.guard.lastBeatMs) 0xFFFFFFFF) u := ⟨_, rfl⟩
  have ran : tripGuard s = if v.mstate = .service ∨ v.mstate = .hold then raiseOpen 0x0C 4 none v else v := by
    rw [tripGuard, if_neg was, hv, hu]
  have frame : { v with ice := u.ice } = u := by
    rw [hv]
    exact recordOrHold_frame ..
  have guard : u.io.guard = { s.io.guard with tripped := true, accepted := 0, trips := satInc 0xFF s.io.guard.trips } := by
    rw [hu]
    rfl
  have same : u.mstate = s.mstate ∧ u.fcu = s.fcu ∧ u.ice = s.ice ∧ u.runs = s.runs := by
    rw [hu]
    exact ⟨rfl, rfl, rfl, rfl⟩
  have mstate : v.mstate = s.mstate := (congrArg State.mstate frame :).trans same.1
  have guard' : (tripGuard s).io.guard = { s.io.guard with tripped := true, accepted := 0, trips := satInc 0xFF s.io.guard.trips } := by
    rw [ran]
    split
    · exact (guard_raised v).trans ((congrArg (fun x : State => x.io.guard) frame :).trans guard)
    · exact (congrArg (fun x : State => x.io.guard) frame :).trans guard
  refine ⟨congrArg Guard.tripped guard', congrArg Guard.accepted guard', (congrArg Guard.trips guard').trans (if_neg was).symm, fun h => absurd h was, fun _ sleeps => ?_, fun _ state quiet => ?_⟩
  · have asleep : ¬(u.runs = true) := by
      rw [same.2.2.2]
      simp [State.runs, sleeps]
    rw [ran, if_neg (by rw [mstate, sleeps]; simp), hv, recordOrHold, if_neg asleep, if_pos (same.1.trans sleeps), State.updIce_ice, same.2.2.1]
    exact ⟨_, rfl, rfl⟩
  · rw [ran, if_pos (by rw [mstate]; exact state)]
    refine guardFault_safe (by rw [mstate]; exact state) ?_
    have fcu : v.fcu = s.fcu := (congrArg State.fcu frame :).trans same.2.1
    rw [quietSource, fcuSource_of_fcu_eq fcu]
    exact quiet

section
variable {s : State} (on : s.mstate ≠ .off)
include on

theorem beatClause (us : Nat) (late : 500 ≤ us) (soon : us ≤ 2000) : ∃ t, exec (.guardBeat us) s = .next t ∧ t.io.guard.lastBeatMs = s.tb.ms ∧
    t.io.guard.trips = s.io.guard.trips ∧ { t with io := s.io } = s ∧ t.io.outs = s.io.outs ∧
    (s.io.guard.tripped = true → s.io.guard.accepted = 15 → t.io.guard.tripped = false) ∧
    (s.io.guard.tripped = true → s.io.guard.accepted < 15 →
      t.io.guard.tripped = true ∧ t.io.guard.accepted = s.io.guard.accepted + 1) := by
  have ran : exec (.guardBeat us) s = .next (s.updIo fun i => { i with guard := acceptBeat s.tb.ms i.guard }) :=
    congrArg Host.Outcome.next ((if_neg on).trans ((if_neg (by omega)).trans (if_neg (by omega))))
  have armed : ∀ g : Guard, (acceptBeat s.tb.ms g).lastBeatMs = s.tb.ms ∧ (acceptBeat s.tb.ms g).trips = g.trips ∧
      (g.tripped = true → g.accepted = 15 → (acceptBeat s.tb.ms g).tripped = false) ∧
      (g.tripped = true → g.accepted < 15 → (acceptBeat s.tb.ms g).tripped = true ∧ (acceptBeat s.tb.ms g).accepted = g.accepted + 1) := fun g => by
    unfold acceptBeat
    split
    · next tripped =>
      split
      · exact ⟨rfl, rfl, fun _ _ => rfl, fun _ _ => by omega⟩
      · exact ⟨rfl, rfl, fun _ _ => by omega, fun _ _ => ⟨tripped, rfl⟩⟩
    · next armed => exact ⟨rfl, rfl, fun h => absurd h armed, fun h => absurd h armed⟩
  obtain ⟨last, trips, arms, counts⟩ := armed s.io.guard
  exact ⟨_, ran, last, trips, rfl, rfl, arms, counts⟩

theorem lateBeatClause (us : Nat) (late : 2000 < us) : ∃ t, exec (.guardBeat us) s = .next t ∧ t.io.guard = { s.io.guard with accepted := 0 } ∧
    { t with io := s.io } = s :=
  ⟨_, congrArg Host.Outcome.next ((if_neg on).trans ((if_neg (by omega)).trans (if_pos late))), rfl, rfl⟩

theorem exec_trip {i : Instr} (trips : i = .guardHbEqual ∨ i = .guardTimeout ∨ ∃ us, us < 500 ∧ i = .guardBeat us) : exec i s = .next (tripGuard s) := by
  rcases trips with rfl | rfl | ⟨us, fast, rfl⟩
  · exact congrArg Host.Outcome.next (if_neg on)
  · exact congrArg Host.Outcome.next (if_neg on)
  · exact congrArg Host.Outcome.next ((if_neg on).trans (if_pos fast))

end

/-- Settles O55: the faults of outputs one by one, then the beats and trips of the guard. -/
theorem outputsFaultAndGuard : Obligations.OutputsFaultAndGuard :=
  ⟨fun s hr => ⟨pulseStartClause hr, pulseEndClause hr, discriminationClause hr, overloadClause hr,
      fun k latched released off settled => congrArg Host.Outcome.next (if_pos (by simp [hr, latched, released, off, settled])), openLoadClause hr, feedbackClause hr⟩,
    fun s on => ⟨beatClause on, lateBeatClause on, fun i trips => ⟨_, exec_trip on trips, tripGuard_trips s⟩⟩⟩

end Sys2Proof.Proofs
end

section
/-!
SUPPORT. IDENT, STATUS and REG.PEEK (R322 to R326), and what O16 comes down to. STATUS 0x0E and REG.PEEK of the fabric show how far the oldest
chain has come, a free value that stays with the chain; the frame of O16 leaves the fabric as it was.
-/
namespace Sys2Proof.Proofs
open Sys2Proof.Machine

/-! ### The progress of a chain -/

/-- A chain shown where it stood is as it was. -/
theorem chainProgress_still {s : State} (still : Config.freeValue s.freeCtr = 0) :
    { (chainProgress s).2 with freeCtr := s.freeCtr } = s := by
  unfold chainProgress
  cases h : s.fabric.chains with
  | nil => rfl
  | cons c rest =>
    have same : { s.fabric with chains := { c with stage := c.stage } :: rest } = s.fabric := by rw [← h]
    simp only [drawFree, still, BitVec.toNat_ofNat, Nat.zero_mod, Nat.add_zero]
    exact congrArg (fun f : Fabric => { s with fabric := f }) same

/-- A chain shown further on is another one. -/
theorem chainProgress_moves {s : State} {c : Chain} {rest : List Chain} (h : s.fabric.chains = c :: rest) :
    (chainProgress s).2.fabric.chains =
      { c with stage := c.stage + (Config.freeValue s.freeCtr).toNat % max 1 (c.descs.length / 10 - c.stage) } :: rest := by
  rw [chainProgress, h]
  rfl

/-! ### IDENT (R322) -/

section
variable {p : Port} {tag : Half} {s : State}

theorem identClause (hr : ready (.ident p tag) s = true) :
    ∃ t, answers (.ident p tag) (.words (identWords s)) s t ∧ { t with hif := s.hif } = s := by
  have run : handleIdent p tag [] (takeCommand p s) = (.words (identWords s), takeCommand p s) := rfl
  exact ⟨_, answers_queued rfl hr run rfl, rfl⟩

/-! ### STATUS (R323) -/

/-- STATUS serves its block once FIRST and COUNT fit its index. -/
theorem handleStatus_serves {block : Byte} {first count : Word} (listed : block.toNat ≤ 0x0E)
    (table : block = 0x08 → 1 ≤ count.toNat ∧ count.toNat ≤ 340 ∧ first.toNat < ocCount s)
    (queue : block = 0x0A → first = 0 ∧ 1 ≤ count.toNat ∧ count.toNat ≤ 64) (plain : block ≠ 0x08 → block ≠ 0x0A → first = 0 ∧ count = 0) :
    handleStatus p tag (wordsBytes [at32 16 block.toNat, first, count]) s = statusServe block.toNat first.toNat count.toNat s := by
  have field : fld (at32 16 block.toNat) 23 16 = block.toNat := by
    have := block.isLt
    rw [fld_at32]
    omega
  have top : fld (at32 16 block.toNat) 31 24 = 0 := by
    have := block.isLt
    rw [fld_at32]
    omega
  have low : fld (at32 16 block.toNat) 15 0 = 0 := by
    have := block.isLt
    rw [fld_at32]
    omega
  have whole : ∀ w : Word, fld w 31 0 = w.toNat := fun w => by
    have := w.isLt
    simp only [fld, Nat.shiftRight_zero]
    omega
  have isBlock : ∀ k : Nat, k < 256 → (block.toNat = k ↔ block = BitVec.ofNat 8 k) := fun k hk =>
    ⟨fun h => by rw [← h, BitVec.ofNat_toNat, BitVec.setWidth_eq], fun h => by rw [h, BitVec.toNat_ofNat]; omega⟩
  have good : firstBad [at32 16 block.toNat, first, count] ([rsvd 0 31 24, ⟨0, 23, 16, 0, 0x0E⟩, rsvd 0 15 0] ++ indexRules block.toNat) = none := by
    have head : ∀ rs, firstBad [at32 16 block.toNat, first, count] rs = none →
        firstBad [at32 16 block.toNat, first, count] ([rsvd 0 31 24, ⟨0, 23, 16, 0, 0x0E⟩, rsvd 0 15 0] ++ rs) = none := fun rs h => by
      have fields : firstBad [at32 16 block.toNat, first, count] [rsvd 0 31 24, ⟨0, 23, 16, 0, 0x0E⟩, rsvd 0 15 0] = none := by
        simp [firstBad, FieldRule.holds, rsvd, nth, field, top, low, listed]
      rw [firstBad] at fields h ⊢
      rw [List.find?_append, fields, h]
      rfl
    refine head _ ?_
    by_cases eight : block = 0x08
    · obtain ⟨least, most, -⟩ := table eight
      subst eight
      simp [firstBad, indexRules, FieldRule.holds, nth, whole, least, most]
    · by_cases ten : block = 0x0A
      · obtain ⟨zero, least, most⟩ := queue ten
        subst ten zero
        simp [firstBad, indexRules, FieldRule.holds, rsvd, nth, whole, least, most]
      · obtain ⟨rfl, rfl⟩ := plain eight ten
        have rules : indexRules block.toNat = [rsvd 1 31 0, rsvd 2 31 0] := by
          unfold indexRules
          split
          · next h => exact absurd ((isBlock 8 (by decide)).mp h) eight
          · next h => exact absurd ((isBlock 10 (by decide)).mp h) ten
          · rfl
        rw [rules]
        simp [firstBad, FieldRule.holds, rsvd, nth, whole]
  rw [handleStatus, bytesWords_wordsBytes]
  rw [show nth [at32 16 block.toNat, first, count] 0 = at32 16 block.toNat from rfl, show nth [at32 16 block.toNat, first, count] 1 = first from rfl,
    show nth [at32 16 block.toNat, first, count] 2 = count from rfl, field, checked_none good, if_neg]
  rintro ⟨h, past⟩
  exact absurd (table ((isBlock 8 (by decide)).mp h)).2.2 (by omega)

/-- Of the blocks without an index 0x03 clears the sync points, and the last one draws how far the oldest chain has come. -/
theorem blockWords_effect (b : Nat) : (blockWords b s).2 =
    if b = 0x03 then s.updTb fun t => { t with sp := t.sp.map fun p => { p with pend := false } }
    else if b < 0x0E ∧ b ≠ 0x08 ∧ b ≠ 0x0A then s else (chainProgress s).2 := by
  unfold blockWords
  split
  iterate 12 · rfl
  next h0 h1 h2 h3 h4 h5 h6 h7 h9 hb hc hd =>
    have other : b ≠ 0 ∧ b ≠ 1 ∧ b ≠ 2 ∧ b ≠ 3 ∧ b ≠ 4 ∧ b ≠ 5 ∧ b ≠ 6 ∧ b ≠ 7 ∧ b ≠ 9 ∧ b ≠ 11 ∧ b ≠ 12 ∧ b ≠ 13 :=
      ⟨h0, h1, h2, h3, h4, h5, h6, h7, h9, hb, hc, hd⟩
    rw [if_neg h3, if_neg (by omega)]

theorem blockWords_still (b : Nat) (still : Config.freeValue s.freeCtr = 0) :
    { (blockWords b s).2 with tb := s.tb, freeCtr := s.freeCtr } = s ∧ (blockWords b s).2.io = s.io ∧
      (b ≠ 0x03 → (blockWords b s).2.tb = s.tb) := by
  have moved := chainProgress_still still
  rw [blockWords_effect]
  split
  · next sync => exact ⟨rfl, rfl, fun h => absurd sync h⟩
  · split
    · exact ⟨rfl, rfl, fun _ => rfl⟩
    · exact ⟨(congrArg (fun x : State => { x with tb := s.tb }) moved :), (congrArg State.io moved :), fun _ => (congrArg State.tb moved :)⟩

theorem byte_toNat_eq {b : Byte} {k : Nat} (h : k < 256) : b.toNat = k ↔ b = BitVec.ofNat 8 k :=
  ⟨fun e => by rw [← e, BitVec.ofNat_toNat, BitVec.setWidth_eq], fun e => by rw [e, BitVec.toNat_ofNat]; omega⟩

theorem statusClause (still : ∀ n, Config.freeValue n = 0) (block : Byte) (first count : Word) (hr : ready (.status p tag block first count) s = true)
    (listed : block.toNat ≤ 0x0E) (early : s.eff = .boot ∨ s.eff = .selftest → block = 0x00 ∨ block = 0x0A ∨ block = 0x0C)
    (table : block = 0x08 → 1 ≤ count.toNat ∧ count.toNat ≤ 340 ∧ first.toNat < ocCount s)
    (queue : block = 0x0A → first = 0 ∧ 1 ≤ count.toNat ∧ count.toNat ≤ 64) (plain : block ≠ 0x08 → block ≠ 0x0A → first = 0 ∧ count = 0) :
    ∃ t n ws, answers (.status p tag block first count) (statusReply block.toNat n ws) s t ∧
      { t with hif := s.hif, tb := s.tb, io := s.io, freeCtr := s.freeCtr } = s ∧
      (block ≠ 0x08 → block ≠ 0x0A → n = 1 ∧ ws = (blockWords block.toNat (takeCommand p s)).1) ∧
      (block = 0x00 → ws = summaryWords s) ∧
      (∀ b, s.prog.active = some b → block = 0x08 → n = min count.toNat (b.ocs.length - first.toNat) ∧
        ws = (List.range n).flatMap fun i => ocWords (Tbl.getD s.tasks.oc (b.oc (first.toNat + i)).node .fresh)) ∧
      (block ≠ 0x03 → t.tb = s.tb) ∧ (block = 0x03 → t.tb.sp = s.tb.sp.map fun x => { x with pend := false }) ∧
      (block ≠ 0x0A → t.io = s.io) ∧
      (block = 0x0A → n = min count.toNat s.io.cos.length ∧ ws = (s.io.cos.take count.toNat).flatMap CosRec.words ∧
        t.io = { s.io with cos := s.io.cos.drop count.toNat }) := by
  obtain ⟨v, hv⟩ : ∃ v, v = takeCommand p s := ⟨_, rfl⟩
  have frame : { v with hif := s.hif } = s := by
    rw [hv]
    rfl
  have serves := handleStatus_serves (p := p) (tag := tag) (s := v) listed (by rw [hv]; exact table) queue plain
  have awake : ¬((v.eff = .boot ∨ v.eff = .selftest) ∧ block.toNat ≠ 0x00 ∧ block.toNat ≠ 0x0A ∧ block.toNat ≠ 0x0C) := by
    rw [hv]
    rintro ⟨starts, zero, ten, twelve⟩
    rcases early starts with rfl | rfl | rfl
    · exact zero rfl
    · exact ten rfl
    · exact twelve rfl
  have answered : ∀ r u, statusServe block.toNat first.toNat count.toNat v = (r, u) →
      answers (.status p tag block first count) r s (queueResponse p 0x0002 tag r u) := fun r u h =>
    answers_queued (payload := wordsBytes [at32 16 block.toNat, first, count]) rfl hr (by rw [← hv]; exact serves.trans h) rfl
  rw [statusServe, if_neg awake] at answered
  rw [← hv]
  by_cases eight : block = 0x08
  · subst eight
    have done := answered _ _ (if_pos rfl)
    refine ⟨_, _, _, done, (congrArg (fun x : State => { x with tb := s.tb, io := s.io, freeCtr := s.freeCtr }) frame :), fun h => absurd rfl h, nofun, fun b active _ => ?_, fun _ => (congrArg State.tb frame :), nofun, fun _ => (congrArg State.io frame :), nofun⟩
    have active' : v.prog.active = some b := (congrArg (fun x : State => x.prog.active) frame :).trans active
    have tasks : v.tasks = s.tasks := (congrArg State.tasks frame :)
    rw [ocCount, active', tasks]
    exact ⟨rfl, rfl⟩
  rw [if_neg (mt (byte_toNat_eq (by decide)).mp eight)] at answered
  have io : v.io = s.io := (congrArg State.io frame :)
  by_cases ten : block = 0x0A
  · subst ten
    have done := answered _ _ (if_pos rfl)
    refine ⟨_, _, _, done, (congrArg (fun x : State => { x with tb := s.tb, io := s.io, freeCtr := s.freeCtr }) frame :), fun _ h => absurd rfl h, nofun, fun _ _ => nofun,
      fun _ => (congrArg State.tb frame :), nofun, fun h => absurd rfl h, fun _ => ⟨?_, ?_, ?_⟩⟩
    · rw [List.length_take, io]
    · rw [io]
    · rw [queued_view (view := State.io) (blind := fun _ _ => rfl), State.updIo_io, io]
  rw [if_neg (mt (byte_toNat_eq (by decide)).mp ten)] at answered
  obtain ⟨kept, kio, ktb⟩ := blockWords_still (s := v) block.toNat (still _)
  have effect := blockWords_effect (s := v) block.toNat
  have done := answered (statusReply block.toNat 1 (blockWords block.toNat v).1) (blockWords block.toNat v).2 rfl
  have summary : block = 0x00 → (blockWords block.toNat v).1 = summaryWords s := by
    rintro rfl
    rw [hv]
    rfl
  generalize blockWords block.toNat v = x at *
  obtain ⟨ws, u⟩ := x
  refine ⟨_, 1, ws, done, ?_, fun _ _ => ⟨rfl, rfl⟩, summary, fun _ _ h => absurd h eight, fun other => ?_, fun sync => ?_, fun _ => ?_, fun h => absurd h ten⟩
  · have kept' : { u with hif := s.hif, tb := v.tb, freeCtr := v.freeCtr } = s := (congrArg (fun x : State => { x with hif := s.hif }) kept :).trans frame
    exact (congrArg (fun x : State => { x with tb := s.tb, io := s.io, freeCtr := s.freeCtr }) kept' :)
  · rw [queued_view (view := State.tb) (blind := fun _ _ => rfl)]
    exact (ktb (mt (byte_toNat_eq (by decide)).mp other)).trans (congrArg State.tb frame :)
  · rw [queued_view (view := State.tb) (blind := fun _ _ => rfl)]
    subst sync
    have cleared : u = v.updTb fun t => { t with sp := t.sp.map fun p => { p with pend := false } } := effect
    rw [cleared, State.updTb_tb, show v.tb = s.tb from (congrArg State.tb frame :)]
  · rw [queued_view (view := State.io) (blind := fun _ _ => rfl)]
    exact kio.trans io

/-! ### REG.PEEK (R325) -/

theorem peekWord_isSome (rs : List (Nat × Nat × List Word)) (a : Nat) :
    (peekWord rs a).isSome = (rs.map fun r => (r.1, r.2.1)).any fun r => decide (r.1 ≤ a ∧ a < r.1 + r.2) := by
  rw [peekWord, Option.isSome_map, List.isSome_find?, List.any_map]
  rfl

/-- The listed ranges that show all lanes at once: base and bytes. -/
def peekBounds : List (Nat × Nat) :=
  [(0x0000, 0x1000), (0x1000, 0x100), (0x1100, 0x100), (0x2000, 0x100), (0x3000, 0x100), (0x4000, 0x100), (0x5000, 0x200), (0x6000, 0x1000),
    (0x7000, 0x1000), (0x8000, 0x800), (0x8800, 0x800), (0x9000, 0x100)]

/-- Which addresses are listed does not depend on the state. -/
theorem peekWord_bounds (now : Nat) (t : State) (a : Nat) :
    (peekWord (peekRanges now t) a).isSome = peekBounds.any fun r => decide (r.1 ≤ a ∧ a < r.1 + r.2) :=
  peekWord_isSome ..

theorem peekWord_listed (now : Nat) (t : State) (a : Nat) : (peekWord (peekRanges now t) a).isSome = (peekWord (peekRanges 0 s) a).isSome :=
  (peekWord_bounds now t a).trans (peekWord_bounds 0 s a).symm

/-- The range that is read lane by lane is not among them. -/
theorem peekWord_laneRange {a : Nat} (high : 0x10000 ≤ a) : (peekWord (peekRanges 0 s) a).isSome = false := by
  have below : ∀ r ∈ peekBounds, r.1 + r.2 ≤ 0x10000 := by decide
  rw [peekWord_bounds, List.any_eq_false]
  intro r hr
  have := below r hr
  rw [decide_eq_true_eq]
  omega

theorem mapM_isSome {α β : Type} (f : α → Option β) (d : β) (l : List α) (h : ∀ x ∈ l, (f x).isSome = true) : l.mapM f = some (l.map fun x => (f x).getD d) := by
  induction l with
  | nil => rfl
  | cons x xs ih =>
    obtain ⟨y, hy⟩ := Option.isSome_iff_exists.mp (h x List.mem_cons_self)
    rw [List.mapM_cons, hy, ih fun z hz => h z (List.mem_cons_of_mem x hz), List.map_cons, hy]
    rfl

theorem handleRegPeek_serves {addr : Word} {count : Half} (aligned : addr.toNat % 4 = 0) (least : 1 ≤ count.toNat)
    (most : count.toNat ≤ if 0x10000 ≤ addr.toNat ∧ addr.toNat < 0x10100 then 340 else 1020) :
    handleRegPeek p tag (wordsBytes [addr, at32 0 count.toNat]) s = peekServe addr.toNat count.toNat s := by
  have field : fld (at32 0 count.toNat) 15 0 = count.toNat := by
    have := count.isLt
    rw [fld_at32]
    omega
  have top : fld (at32 0 count.toNat) 31 16 = 0 := by
    have := count.isLt
    rw [fld_at32]
    omega
  have good : firstBad [addr, at32 0 count.toNat] [rsvd 1 31 16, ⟨1, 15, 0, 1, if 0x10000 ≤ addr.toNat ∧ addr.toNat < 0x10100 then 340 else 1020⟩] = none := by
    generalize (if 0x10000 ≤ addr.toNat ∧ addr.toNat < 0x10100 then 340 else 1020) = bound at *
    simp [firstBad, FieldRule.holds, rsvd, nth, field, top, least, most]
  rw [handleRegPeek, bytesWords_wordsBytes]
  rw [show nth [addr, at32 0 count.toNat] 0 = addr from rfl, show nth [addr, at32 0 count.toNat] 1 = at32 0 count.toNat from rfl, if_neg (not_not_intro aligned), field]
  exact checked_none good ..

theorem peekClause (still : ∀ n, Config.freeValue n = 0) (addr : Word) (count : Half) (hr : ready (.regPeek p tag addr count) s = true)
    (aligned : addr.toNat % 4 = 0) (least : 1 ≤ count.toNat) (most : count.toNat ≤ 1020)
    (listed : ∀ k, k < count.toNat → (peekWord (peekRanges 0 s) (addr.toNat + 4 * k)).isSome = true) :
    ∃ t ws, answers (.regPeek p tag addr count) (.words (peekHeader addr.toNat count.toNat s ++ ws)) s t ∧
      (∃ now, ws = (List.range count.toNat).map fun k => (peekWord (peekRanges now (takeCommand p s)) (addr.toNat + 4 * k)).getD 0) ∧
      { t with hif := s.hif, freeCtr := s.freeCtr } = s := by
  have common : ¬(0x10000 ≤ addr.toNat ∧ addr.toNat < 0x10100) := fun h => by
    have first := listed 0 (by omega)
    rw [peekWord_laneRange (by omega)] at first
    exact absurd first (by decide)
  obtain ⟨v, hv⟩ : ∃ v, v = takeCommand p s := ⟨_, rfl⟩
  have frame : { v with hif := s.hif } = s := by
    rw [hv]
    rfl
  have moved := chainProgress_still (s := v) (still _)
  have words := mapM_isSome (fun i => peekWord (peekRanges (chainProgress v).1 v) (addr.toNat + 4 * i)) 0 (List.range count.toNat)
    fun k hk => (peekWord_listed _ _ _).trans (listed k (List.mem_range.mp hk))
  have serves : peekServe addr.toNat count.toNat v = (.words (peekHeader addr.toNat count.toNat s ++
      (List.range count.toNat).map fun k => (peekWord (peekRanges (chainProgress v).1 v) (addr.toNat + 4 * k)).getD 0),
      if 0x6000 ≤ addr.toNat + 4 * count.toNat ∧ addr.toNat < 0x8000 then (chainProgress v).2 else v) := by
    rw [peekServe, if_neg common]
    dsimp only
    rw [words]
    dsimp only
    rw [hv]
    rfl
  have run := (handleRegPeek_serves (p := p) (tag := tag) (s := v) aligned least (by rw [if_neg common]; exact most)).trans serves
  rw [hv] at run
  refine ⟨_, _, answers_queued (payload := wordsBytes [addr, at32 0 count.toNat]) rfl hr run rfl, ⟨_, rfl⟩, ?_⟩
  rw [← hv]
  split
  · exact (congrArg (fun x : State => { x with hif := s.hif, freeCtr := s.freeCtr }) moved :).trans (congrArg (fun x : State => { x with freeCtr := s.freeCtr }) frame :)
  · exact (congrArg (fun x : State => { x with freeCtr := s.freeCtr }) frame :)

theorem laneWordsClause (addr : Word) (count : Half) (hr : ready (.regPeek p tag addr count) s = true) (aligned : addr.toNat % 4 = 0)
    (least : 1 ≤ count.toNat) (most : count.toNat ≤ 340) (low : 0x10000 ≤ addr.toNat) (high : addr.toNat + 4 * count.toNat ≤ 0x10100) :
    ∃ t, answers (.regPeek p tag addr count) (.words (peekHeader addr.toNat count.toNat s ++ privateWords addr.toNat count.toNat s)) s t ∧
      { t with hif := s.hif } = s := by
  have lanes : 0x10000 ≤ addr.toNat ∧ addr.toNat < 0x10100 := ⟨low, by omega⟩
  have serves : peekServe addr.toNat count.toNat (takeCommand p s) =
      (.words (peekHeader addr.toNat count.toNat s ++ privateWords addr.toNat count.toNat s), takeCommand p s) := by
    rw [peekServe, if_pos lanes, if_neg (by omega)]
    rfl
  have run := (handleRegPeek_serves (p := p) (tag := tag) (s := takeCommand p s) aligned least (by rw [if_pos lanes]; exact most)).trans serves
  exact ⟨_, answers_queued (payload := wordsBytes [addr, at32 0 count.toNat]) rfl hr run rfl, rfl⟩

end

/-! ### The free value behind O16 -/

/-- A chain in progress at its first descriptor. -/
def waitingChain (descs : List Word) : Chain := { port := .host, tag := 9, descs := descs, data := [], snap := none, stage := 0 }

/-- A module in STARTUP with one chain in progress, the n-th free value being the next. -/
def chainWaits (n : Nat) (descs : List Word) : State :=
  { { State.reset with mstate := .startup } with
    fabric := { State.reset.fabric with chains := [waitingChain descs] }, freeCtr := n }

theorem chainWaits_ready (n : Nat) (descs : List Word) : ready (.status .host 5 0x0E 0 0) (chainWaits n descs) = true := by rfl

/-- Where the frame of STATUS 0x0E holds, the chain is shown where it stood. -/
theorem freeValue_zero (holds : Obligations.IdentStatusPeekAnswer) (n : Nat) : Config.freeValue n = 0 := by
  obtain ⟨m, hm⟩ : ∃ m, m = 2 ^ 64 := ⟨_, rfl⟩
  obtain ⟨descs, length⟩ : ∃ descs : List Word, descs.length / 10 = m := ⟨List.replicate (10 * m) 0, by rw [List.length_replicate]; omega⟩
  obtain ⟨-, status, -⟩ := holds .host 5 (chainWaits n descs)
  obtain ⟨t, k, ws, ⟨ran, -⟩, frame, -⟩ := status 0x0E 0 0 (chainWaits_ready n descs) (by decide) (fun h => absurd h (by rintro (h | h) <;> exact nomatch h))
    nofun nofun fun _ _ => ⟨rfl, rfl⟩
  have serves := handleStatus_serves (p := .host) (tag := 5) (s := takeCommand .host (chainWaits n descs)) (block := 0x0E) (first := 0) (count := 0)
    (by decide) nofun nofun fun _ _ => ⟨rfl, rfl⟩
  have chains : (takeCommand .host (chainWaits n descs)).fabric.chains = [waitingChain descs] := rfl
  have drawn : (takeCommand .host (chainWaits n descs)).freeCtr = n := rfl
  have awake : ¬((takeCommand .host (chainWaits n descs)).eff = .boot ∨ (takeCommand .host (chainWaits n descs)).eff = .selftest) := by
    rintro (h | h) <;> exact nomatch h
  have kept : t.fabric.chains = [waitingChain descs] := (congrArg (fun u : State => u.fabric.chains) frame :)
  have ready := chainWaits_ready n descs
  generalize chainWaits n descs = s at *
  have shown : handleStatus .host 5 (wordsBytes [at32 16 (0x0E : Byte).toNat, 0, 0]) (takeCommand .host s) =
      (statusReply 0x0E 1 (blockWords 0x0E (takeCommand .host s)).1, (chainProgress (takeCommand .host s)).2) := by
    rw [serves, statusServe, if_neg (fun h => awake h.1)]
    rfl
  obtain ⟨ran', -⟩ := answers_queued (p := .host) (op := 0x0002) (tag := 5) (payload := wordsBytes [at32 16 (0x0E : Byte).toNat, 0, 0]) rfl ready shown rfl
  have same := Host.Outcome.next.inj (ran.symm.trans ran')
  have moved := chainProgress_moves chains
  rw [same, queued_view (view := fun u => u.fabric.chains) (blind := fun _ _ => rfl), moved, drawn] at kept
  have stage : (waitingChain descs).stage + (Config.freeValue n).toNat % max 1 ((waitingChain descs).descs.length / 10 - (waitingChain descs).stage) = 0 :=
    congrArg Chain.stage (List.head_eq_of_cons_eq kept)
  have zero : (Config.freeValue n).toNat % max 1 m = 0 := by
    rw [← length]
    simpa [waitingChain] using stage
  have bound := (Config.freeValue n).isLt
  apply BitVec.eq_of_toNat_eq
  rw [Nat.mod_eq_of_lt (by omega)] at zero
  exact zero

/-- What O16 comes down to: its frame holds just where every free value is 0, so that no shown chain moves on. The free values are constants
without a body (log entry 4), and so neither O16 nor its negation has a proof. -/
theorem identStatusPeekAnswer_iff : Obligations.IdentStatusPeekAnswer ↔ ∀ n, Config.freeValue n = 0 :=
  ⟨freeValue_zero, fun still _ _ _ => ⟨identClause, statusClause still, peekClause still, laneWordsClause⟩⟩

end Sys2Proof.Proofs
end
